-- ==== Sys2Proof/Word.lean ====
section
/-!
DEFINITION. The word types of the BV840 (Conventions, 00_scope.md; R189, R192).
What the manual sends or wraps as a word is a bit vector here.
What it only counts, measures or compares exactly (weights, lengths, counts) is a `Nat` elsewhere.
-/

namespace Sys2Proof

/-- One byte of a frame (R181, R192). -/
abbrev Byte := BitVec 8

/-- A tracking number, 32-bit; 0 names no case (R87, R89). -/
abbrev Tracking := BitVec 32

/-- An article code, 32-bit; 0 is the "no read" value of an ARRIVAL (R47, R87). -/
abbrev ArticleCode := BitVec 32

/-- The line time, a 32-bit millisecond count that wraps (R189). -/
abbrev LineTime := BitVec 32

/-- A plan id, 16-bit, nonzero for a held plan (R64). -/
abbrev PlanId := BitVec 16

/-- An order sequence, 0..255, wraps (R128). -/
abbrev OrderSeq := BitVec 8

/-- A build revision, 0..65535, wraps (R16). -/
abbrev Revision := BitVec 16

/-- A station number, 0..7. -/
abbrev StationNo := Fin 8

/-- A hold lane number, 0..3. -/
abbrev LaneNo := Fin 4

/-- A base kind, 0..3. -/
abbrev BaseKind := Fin 4

/-- A packaging kind, 0..7. -/
abbrev PackKind := Fin 8

end Sys2Proof
end

