-- ==== Sys2Proof/Syntax.lean ====
section
/-!
DEFINITION. The commands of the BV840: one constructor per row of spec/opcode_table.json.
A frame row carries the received frame as the envelope of R181 gives it, field by field, less the kind byte,
which the constructor fixes (rows that stand for several kinds carry it).
A timer or deadline row carries the station, lane or tracking number whose timer it is.
The rows of the planning engine carry nothing: R93 says which job is taken.
-/

namespace Sys2Proof

/-- The two link ports (R181): port A faces the scan tunnel and the control computer, port B the partners. -/
inductive Port where
  | a
  | b
  deriving DecidableEq, Repr

/-- A received frame of at least 7 bytes, cut as the envelope of R181 cuts it.
`payload` holds every byte between the length field and the last two bytes, whatever the length field says,
so that a frame of the wrong size is a value of this type too (R182, check 1). -/
structure RxFrame where
  port    : Port
  dst     : Byte
  src     : Byte
  tag     : Byte
  len     : Byte
  payload : List Byte
  check   : BitVec 16
  deriving DecidableEq, Repr

/-- The commands, in the order of the opcode table. -/
inductive Instr where
  /-- POWER_ON_RESET (R190): power is applied or RESET_N is driven low. -/
  | powerOnReset
  /-- RESET_END (R191): RESET_N goes high with power stable; `nodePins` is NODE3..NODE0 as read then. -/
  | resetEnd (nodePins : BitVec 4)
  /-- DESCRIBE, request 10H (R159). -/
  | describe (f : RxFrame)
  /-- READ STATE, request 11H (R160). -/
  | readState (f : RxFrame)
  /-- SET TIME, request 12H (R161). -/
  | setTime (f : RxFrame)
  /-- SET SETTINGS, request 13H (R59). -/
  | setSettings (f : RxFrame)
  /-- LOAD ARTICLES, request 14H (R163). -/
  | loadArticles (f : RxFrame)
  /-- DELETE ARTICLE, request 15H (R50). -/
  | deleteArticle (f : RxFrame)
  /-- LOAD BASE, request 16H (R55). -/
  | loadBase (f : RxFrame)
  /-- LOAD KINDS, request 17H (R57). -/
  | loadKinds (f : RxFrame)
  /-- LOAD LEVELS, request 18H (R178). -/
  | loadLevels (f : RxFrame)
  /-- ADMIT PLAN, request 19H (R66). -/
  | admitPlan (f : RxFrame)
  /-- WITHDRAW PLAN, request 1AH (R84). -/
  | withdrawPlan (f : RxFrame)
  /-- SET STATION, request 1BH (R127). -/
  | setStation (f : RxFrame)
  /-- CLOSE STATION, request 1CH (R140). -/
  | closeStation (f : RxFrame)
  /-- ACKNOWLEDGE FAULT, request 1DH (R147). -/
  | acknowledgeFault (f : RxFrame)
  /-- FLUSH LANE, request 1EH (R121). -/
  | flushLane (f : RxFrame)
  /-- PROBE, request 1FH (R169). -/
  | probe (f : RxFrame)
  /-- READ BUILD, request 20H (R168). -/
  | readBuild (f : RxFrame)
  /-- READ PLAN, request 21H (R85). -/
  | readPlan (f : RxFrame)
  /-- READ LANE, request 22H (R123). -/
  | readLane (f : RxFrame)
  /-- SET GATE, request 23H (R109). -/
  | setGate (f : RxFrame)
  /-- RESTART, request 24H (R162). -/
  | restart (f : RxFrame)
  /-- A request of a reserved kind, 25H to 27H or 29H to 2FH (R152). -/
  | unknownKind (kind : Byte) (f : RxFrame)
  /-- A DATA frame, kind 28H (R163). -/
  | data (f : RxFrame)
  /-- The data-gap wait of the open load expires (R164). -/
  | dataGapExpiry
  /-- The supervision timer expires (R171). -/
  | supervisionExpiry
  /-- An ARRIVAL frame, kind 40H (R87). -/
  | arrival (f : RxFrame)
  /-- A received frame for another node or for every node, as raw bytes of any number (R182, R183). -/
  | passThrough (port : Port) (raw : List Byte)
  /-- ORDER REPLY from a cell, kind 52H (R130). -/
  | orderReply (f : RxFrame)
  /-- READY CHANGE from a cell, kind 53H (R126). -/
  | readyChange (f : RxFrame)
  /-- EXCHANGE START from the transport, kind 70H (R143). -/
  | exchangeStart (f : RxFrame)
  /-- EXCHANGE DONE from the transport, kind 71H (R144). -/
  | exchangeDone (f : RxFrame)
  /-- The take timer of a station expires (R138). -/
  | takeTimerExpiry (station : StationNo)
  /-- The place timer of a station expires (R138). -/
  | placeTimerExpiry (station : StationNo)
  /-- The exchange timer of a station expires (R143). -/
  | exchangeTimerExpiry (station : StationNo)
  /-- LANE ENTERED from the lane controller, kind 62H (R114). -/
  | laneEntered (f : RxFrame)
  /-- LANE RELEASED from the lane controller, kind 63H (R118). -/
  | laneReleased (f : RxFrame)
  /-- LANE FLUSHED from the lane controller, kind 64H (R122). -/
  | laneFlushed (f : RxFrame)
  /-- The release timer of a lane expires (R119). -/
  | releaseTimerExpiry (lane : LaneNo)
  /-- The return deadline of a tracking entry passes (R91). -/
  | returnDeadline (tracking : Tracking)
  /-- The planning engine takes the head of the arrival queue (R93, R95). -/
  | takingAnArrival
  /-- The planning engine takes a replan (R93, R106). -/
  | replanJob
  /-- The planning engine takes a flagged lane (R93, R107). -/
  | laneHeadJob
  /-- The planning engine takes the probe slot (R93, R44). -/
  | probeJob
  /-- The job in progress makes its commit attempt (R102). -/
  | commitAttempt
  /-- A port finishes sending a frame (R188). -/
  | frameSent (port : Port)
  /-- One millisecond passes (R189). -/
  | lineTimeTick
  /-- A frame of a kind the device does not take (R184). -/
  | discardedKindFrame (kind : Byte) (f : RxFrame)
  deriving DecidableEq, Repr

end Sys2Proof
end

