-- ==== Sys2Proof/Decode.lean ====
section
/-!
DEFINITION. The decoder over the rows of spec/opcode_table.json that give bits.  No row gives any: the commands of this
block are frames, expiries and pin events, and spec/opcode_table.json spells none of them as a word.
-/

namespace Sys2Proof

/-- The command that a word spells by the table's bits: none, because no row of the table has bits. -/
def decodeTableWord (_nbits _w : Nat) : Option Instr := none

end Sys2Proof
end

