-- ==== Sys2Proof/Config.lean ====
section
/-!
DEFINITION. What the part fixes once (the capacities of R159 and of the chapters' tables) and the free values:
what the manual leaves open, as constants with no body.
-/

namespace Sys2Proof.Config

/-- Entries of the article table (R47). -/
def articleCapacity : Nat := 4096
/-- Plan records (R64). -/
def planCapacity : Nat := 32
/-- Tracking entries (R89). -/
def trackingCapacity : Nat := 160
/-- Arrivals in the arrival queue (R87). -/
def arrivalCapacity : Nat := 16
/-- Replans in the replan queue (R105). -/
def replanCapacity : Nat := 32
/-- Orders in a station's order queue (R128). -/
def orderDepth : Nat := 4
/-- Entries of a lane list (R112). -/
def laneDepth : Nat := 24
/-- Case records of a build (R4). -/
def buildCapacity : Nat := 96
/-- Reports in the report queue (R174). -/
def reportCapacity : Nat := 32
/-- Frames in a forward queue (R183). -/
def forwardCapacity : Nat := 8
/-- Frames in the port B own-frame queue (R187). -/
def ownCapacity : Nat := 16
/-- Re-runs of one job (R104). -/
def maxReruns : Nat := 3
/-- Bytes of items in one RESPONSE DATA frame (R167). -/
def segmentBytes : Nat := 238
/-- The highest part number (R79). -/
def maxPart : Nat := 15
/-- The device code that DESCRIBE gives (R159). -/
def deviceCode : Nat := 0x0840
/-- The design revision that DESCRIBE gives (R159). -/
def designRevision : Nat := 1

/-- FREE VALUE (log 4). The code that READ STATE gives the kind of the job in progress: R160 asks for the kind, or
none, and section 11.1.1 lists no codes for it. The argument is 0 for no job, 1 arrival, 2 replan, 3 lane head. -/
opaque jobKindCode : Nat → Byte

/-- FREE VALUE (log 5). The remaining count in the REFUSED response of a multi-frame load whose payload has the wrong
length and so carries no count: R165 says n, a number 0..256, and no n was carried. The argument is the payload received. -/
opaque refusedLoadCount : List Byte → Fin 257

/-- FREE VALUE (log 26). Whether the next frame of a multi-frame reply is held back until port A's next turn: R176 says
that the response slot may be empty between two segments and that reports may then go between them, and leaves open
whether they do. The argument is the count of the draws before this one (`State.draws`). -/
opaque replyLate : Nat → Bool

end Sys2Proof.Config
end

