-- ==== Sys2Proof/Machine/State.lean ====
section
/-!
DEFINITION. The state of the BV840, block by block as the manual's block table gives it, and its power-on values.
Every field is plain data.  Records that the manual calls "absent or present together" are one `Option`.
-/

namespace Sys2Proof.Machine

/-! ### Timers (R189) -/

/-- A running timer or a deadline: the line time of its expiry, and whether that expiry has been reached.
An expiry once reached stays reached, wherever a SET TIME then moves the line time (R189). -/
structure Timer where
  expiry  : LineTime
  reached : Bool
  deriving DecidableEq, Repr

/-! ### Tables (chapter 3) -/

/-- An article entry, and the article snapshot of a case (R48, R51). -/
structure Article where
  code       : ArticleCode
  length     : Nat
  width      : Nat
  height     : Nat
  nominal    : Nat
  tolerance  : Nat
  crush      : Nat
  kind       : PackKind
  minSupport : Nat
  rotateOk   : Bool
  topOnly    : Bool
  deckOnly   : Bool
  deriving DecidableEq, Repr

/-- A present entry of the base table (R54); `boundX` and `boundY` are the manual's Bx and By. -/
structure BaseEntry where
  cols        : Nat
  rows        : Nat
  heightLimit : Nat
  closeHeight : Nat
  maxLoad     : Nat
  boundX      : Nat
  boundY      : Nat
  threshold   : Nat
  deriving DecidableEq, Repr

/-- The supervision action (R58, setting 9). -/
inductive SupAction where
  | report
  | stop
  deriving DecidableEq, Repr

/-- The settings record (R58), in index order. -/
structure Settings where
  decisionWindow  : Nat
  takeTimeout     : Nat
  placeTimeout    : Nat
  exchangeTimeout : Nat
  releaseTimeout  : Nat
  returnTimeout   : Nat
  dataGap         : Nat
  supInterval     : Nat
  supAction       : SupAction
  levelTol        : Nat
  dimTol          : Nat
  maxCircuits     : Nat
  controlNode     : Nat
  scannerNode     : Nat
  sorterNode      : Nat
  laneNode        : Nat
  transportNode   : Nat
  cellNode0       : Nat
  cellNode1       : Nat
  cellNode2       : Nat
  cellNode3       : Nat
  deriving DecidableEq, Repr

/-- The table store (R47, R54, R57).  `articles` is kept in rising code order, one entry a code (log 3);
`kinds` holds the 64 entries of the kind matrix, row i and column j at 8i + j. -/
structure Tables where
  articles : List Article
  bases    : Vector (Option BaseEntry) 4
  kinds    : List Bool
  deriving DecidableEq, Repr

/-! ### Builds (chapter 1) -/

/-- The owner of a map cell, or a supporter: the deck or a case index (R4, R6). -/
inductive Owner where
  | deck
  | case (index : Nat)
  deriving DecidableEq, Repr

/-- An entry of a supporter list (R6). -/
structure Supporter where
  owner     : Owner
  share     : Nat
  principal : Bool
  deriving DecidableEq, Repr

/-- The status of a case record (R5). -/
inductive CaseStatus where
  | provisional
  | confirmed
  deriving DecidableEq, Repr

/-- A case record (R5); `turned` is orientation 1. -/
structure CaseRec where
  tracking   : Tracking
  code       : ArticleCode
  line       : Nat
  drop       : Nat
  kind       : PackKind
  topOnly    : Bool
  deckOnly   : Bool
  crush      : Nat
  weight     : Nat
  x          : Nat
  y          : Nat
  turned     : Bool
  a          : Nat
  b          : Nat
  rest       : Nat
  top        : Nat
  carried    : Nat
  supporters : List Supporter
  status     : CaseStatus
  seq        : OrderSeq
  deriving DecidableEq, Repr

/-- The binding fields of a build record, present or absent together (R3, R4, R15). -/
structure Binding where
  plan        : PlanId
  part        : Nat
  baseKind    : BaseKind
  cols        : Nat
  rows        : Nat
  heightLimit : Nat
  deriving DecidableEq, Repr

/-- A build record (R4).  The maps are row-major: cell (x, y) is at y × C + x.
The station field of R4 is the record's position in the store. -/
structure Build where
  binding     : Option Binding
  cases       : List CaseRec
  heightMap   : List Nat
  ownerMap    : List Owner
  totalWeight : Nat
  momentX     : Nat
  momentY     : Nat
  deckLoad    : Nat
  topHeight   : Nat
  revision    : Revision
  deriving DecidableEq, Repr

/-! ### Plans (chapter 4) -/

/-- A plan's state (R69). -/
inductive PlanState where
  | queued
  | building
  | draining
  deriving DecidableEq, Repr

/-- A plan line (R64); its index is its position. -/
structure PlanLine where
  drop     : Nat
  code     : ArticleCode
  required : Nat
  planned  : Nat
  placed   : Nat
  deriving DecidableEq, Repr

/-- A plan record (R64).  The sections are the runs of equal drops among the lines (R65). -/
structure Plan where
  id        : PlanId
  due       : Nat
  baseKind  : BaseKind
  part      : Nat
  admission : BitVec 16
  state     : PlanState
  bound     : Option StationNo
  lines     : List PlanLine
  deriving DecidableEq, Repr

/-- A line record gathered by an open admission (R67). -/
structure LineRec where
  drop     : Nat
  code     : ArticleCode
  required : Nat
  deriving DecidableEq, Repr

/-- The admission record (R66): the header and the lines received so far, in arrival order. -/
structure Admission where
  id       : PlanId
  due      : Nat
  baseKind : BaseKind
  count    : Nat
  lines    : List LineRec
  deriving DecidableEq, Repr

/-- The plan store (R64 to R68).  `plans` is kept in rising plan-id order, one record an id (log 3).
The plan queue of R70 is a view of it (`planQueue`). -/
structure PlanStore where
  plans     : List Plan
  admission : Option Admission
  counter   : BitVec 16
  deriving DecidableEq, Repr

/-! ### Cases (chapter 5) -/

/-- An ARRIVAL as received (R87). -/
structure Arrival where
  tracking : Tracking
  code     : ArticleCode
  length   : Nat
  width    : Nat
  height   : Nat
  weight   : Nat
  scan     : LineTime
  deriving DecidableEq, Repr

/-- A tracking state with its detail (R90). -/
inductive TrackState where
  | circulating (deadline : Timer)
  | toStation (station : StationNo) (seq : OrderSeq)
  | spurHeld (station : StationNo)
  | holdPending (lane : LaneNo)
  | held (lane : LaneNo)
  | releasing (lane : LaneNo)
  | returning (deadline : Timer)
  deriving DecidableEq, Repr

/-- A tracking entry (R89).  `weight` is 0 until an arrival of the case has passed the weight check. -/
structure Track where
  tracking : Tracking
  snap     : Option Article
  weight   : Nat
  circuits : Nat
  state    : TrackState
  deriving DecidableEq, Repr

/-- The case tracker (R87, R89).  `tracks` is kept in rising tracking-number order (log 3). -/
structure Tracker where
  arrivals : List Arrival
  tracks   : List Track
  deriving DecidableEq, Repr

/-- The reject reasons (R108). -/
inductive RejectReason where
  | noRead
  | unknown
  | misweight
  | mismeasure
  | circuits
  | surplus
  | duplicate
  | noPlace
  | discard
  deriving DecidableEq, Repr

/-- The target of a DECISION (R108). -/
inductive DecTarget where
  | station (n : StationNo)
  | lane (k : LaneNo)
  | pass
  | reject (r : RejectReason)
  deriving DecidableEq, Repr

/-! ### The planning engine (chapters 2 and 5) -/

/-- The best candidate of an evaluation (R36); `disturb` is dx + dy. -/
structure Best where
  x          : Nat
  y          : Nat
  turned     : Bool
  a          : Nat
  b          : Nat
  rest       : Nat
  top        : Nat
  q          : Nat
  supporters : List Supporter
  disturb    : Nat
  scan       : Nat
  deriving DecidableEq, Repr

/-- A placement: the station, line and drop that take the case, and the best candidate there (R40).
`revision` is that of the copy the run took (R20). -/
structure Placement where
  station  : StationNo
  line     : Nat
  drop     : Nat
  revision : Revision
  best     : Best
  deriving DecidableEq, Repr

/-- The result of an evaluation (R36); `counts` is feasible, then HEIGHT to TILT in stage order. -/
structure EvalResult where
  station  : StationNo
  revision : Revision
  drop     : Nat
  line     : Option Nat
  total    : Nat
  counts   : List Nat
  crush    : Option Nat
  best     : Option Best
  deriving DecidableEq, Repr

/-- A replan (R105). -/
structure Replan where
  tracking : Tracking
  station  : StationNo
  deriving DecidableEq, Repr

/-- A probe in the probe slot (R44, R169). -/
structure ProbeReq where
  article  : Article
  weight   : Nat
  drop     : Nat
  stations : List StationNo
  deriving DecidableEq, Repr

/-- What a job in progress works on (R93).  A probe job is one step and is never in progress between two. -/
inductive Work where
  | arrival (a : Arrival)
  | replan (r : Replan)
  | laneHead (lane : LaneNo) (head : Tracking)
  deriving DecidableEq, Repr

/-- The decision a run has reached and the job holds until its commit attempt (R94, R100, R106, R107).
`release` carries the station that gave the placement and its revision, absent when the open quantity was 0. -/
inductive Decision where
  | place (p : Placement)
  | lane (k : LaneNo)
  | pass
  | reject (r : RejectReason)
  | release (given : Option (StationNo × Revision))
  deriving DecidableEq, Repr

/-- The job in progress (R94): `exhausted` is what its last run found (R41); `cancelled` is set when the station of a
replan job enters FAULT (R145, step 4). -/
structure Job where
  work      : Work
  decision  : Decision
  exhausted : List StationNo
  reruns    : Nat
  cancelled : Bool
  deriving DecidableEq, Repr

/-- The planning engine (R93, R105, R116, R109).  `waiting` holds the cases that wait for a place in the replan
queue, longest first. -/
structure Engine where
  replans : List Replan
  waiting : List Replan
  flags   : Vector Bool 4
  probe   : Option ProbeReq
  job     : Option Job
  gate    : Bool
  deriving DecidableEq, Repr

/-! ### Lanes (chapter 6) -/

/-- Lane states (R112). -/
inductive LaneState where
  | ready
  | fault
  | flushing
  deriving DecidableEq, Repr

/-- Lane fault causes (R112). -/
inductive LaneCause where
  | none
  | entryMismatch
  | releaseMismatch
  | releaseTimeout
  | caseReturned
  | restart
  deriving DecidableEq, Repr

/-- A lane record (R112). -/
structure Lane where
  state    : LaneState
  cause    : LaneCause
  list     : List Tracking
  inFlight : Option Tracking
  expiry   : Option Timer
  deriving DecidableEq, Repr

/-! ### Stations (chapter 7) -/

/-- Station states (R125). -/
inductive StationState where
  | offline
  | idle
  | building
  | closing
  | awaitExchange
  | exchanging
  | fault
  deriving DecidableEq, Repr

/-- Station fault causes (R125). -/
inductive StationCause where
  | none
  | takeTimeout
  | placeTimeout
  | blocked
  | sequence
  | duplicate
  | notReady
  | exchangeTimeout
  | restart
  deriving DecidableEq, Repr

/-- Close reasons (R125). -/
inductive CloseReason where
  | split
  | request
  | complete
  | discard
  deriving DecidableEq, Repr

/-- Order states (R128). -/
inductive OrderState where
  | issued
  | taken
  | unknown
  deriving DecidableEq, Repr

/-- Order targets (R128). -/
inductive OrderTarget where
  | place (caseIndex : Nat)
  | reject (r : RejectReason)
  deriving DecidableEq, Repr

/-- An order (R128). -/
structure Order where
  seq      : OrderSeq
  tracking : Tracking
  target   : OrderTarget
  state    : OrderState
  deriving DecidableEq, Repr

/-- An entry of a spur list (R129). -/
structure SpurEntry where
  tracking : Tracking
  discard  : Bool
  deriving DecidableEq, Repr

/-- A station record (R125); `withdrawn` lists the sequences of the withdrawn range (R137). -/
structure Station where
  state          : StationState
  ready          : Bool
  baseKind       : BaseKind
  cause          : StationCause
  close          : Option CloseReason
  nextSeq        : OrderSeq
  orders         : List Order
  spur           : List SpurEntry
  withdrawn      : List OrderSeq
  takeExpiry     : Option Timer
  placeExpiry    : Option Timer
  exchangeExpiry : Option Timer
  deriving DecidableEq, Repr

/-! ### Reports (chapter 9) -/

/-- Start causes (R173). -/
inductive StartCause where
  | powerOn
  | restart
  deriving DecidableEq, Repr

/-- A report's kind and payload (R173), one constructor a kind, in kind order. -/
inductive ReportBody where
  | started (cause : StartCause) (node : Byte)
  | supervision (action : SupAction) (interval : Nat) (time : LineTime)
  | stationFault (station : StationNo) (cause : StationCause) (before : StationState)
      (unknown : Option (OrderSeq × Tracking))
  | laneFault (lane : LaneNo) (cause : LaneCause) (count : Nat)
  | caseLost (tracking : Tracking) (code : Option ArticleCode) (station : StationNo)
  | caseMissing (tracking : Tracking) (code : Option ArticleCode)
  | buildClosed (station : StationNo) (plan : Option PlanId) (part : Option Nat) (count weight top : Nat)
      (reason : Option CloseReason)
  | buildDiscarded (station : StationNo) (plan : Option PlanId) (part : Option Nat) (count : Nat)
  | planDone (plan : PlanId) (part : Nat)
  | stationIdle (station : StationNo)
  | casePlaced (tracking : Tracking) (code : ArticleCode) (station : StationNo) (plan : Option PlanId)
      (part : Option Nat) (line caseIndex : Nat)
  | caseRejected (tracking : Tracking) (code : Option ArticleCode) (reason : RejectReason)
  | caseLate (tracking : Tracking) (age : Option Nat)
  | caseHeld (tracking : Tracking) (lane : LaneNo)
  | caseReleased (tracking : Tracking) (lane : LaneNo)
  deriving DecidableEq, Repr

/-- A queued report (R173): its kind and payload, its level, and the line time at which it was queued. -/
structure Report where
  body  : ReportBody
  level : Nat
  time  : LineTime
  deriving DecidableEq, Repr

/-- The report unit (R172, R174, R177). -/
structure ReportUnit where
  levels : List Nat
  queue  : List Report
  lost   : Nat
  deriving DecidableEq, Repr

/-! ### Responses (chapter 8) -/

/-- Completion codes (R153). -/
inductive Completion where
  | done
  | ended
  | refused
  | changed
  deriving DecidableEq, Repr

/-- Reason codes (R154). -/
inductive Reason where
  | none
  | unknownKind
  | badLength
  | badField
  | busy
  | noRoom
  | notFound
  | wrongState
  | dataGap
  | planBound
  deriving DecidableEq, Repr

/-- The supervision timer (R170). -/
inductive SupTimer where
  | stopped
  | running (expiry : Timer)
  | halted
  deriving DecidableEq, Repr

/-- What READ STATE returns of one station (R125, R160). -/
structure StationCopy where
  state  : StationState
  ready  : Bool
  cause  : StationCause
  close  : Option CloseReason
  orders : Nat
  spur   : Nat
  deriving DecidableEq, Repr

/-- What READ STATE returns of one lane (R160). -/
structure LaneCopy where
  state : LaneState
  cause : LaneCause
  count : Nat
  deriving DecidableEq, Repr

/-- The copy of the device state that READ STATE returns (R160).
`executing` is the kind, tag and, for a load, remaining count of the request in execution; `job` is the kind of the
job in progress as the free value `Config.jobKindCode` codes it. -/
structure StateCopy where
  executing : Option (Byte × Byte × Option Nat)
  time      : LineTime
  gate      : Bool
  sup       : SupTimer
  interval  : Nat
  action    : SupAction
  latch     : Bool
  articles  : Nat
  plans     : Nat
  tracks    : Nat
  arrivals  : Nat
  replans   : Nat
  job       : Byte
  stations  : List StationCopy
  lanes     : List LaneCopy
  reports   : Nat
  lost      : Nat
  deriving DecidableEq, Repr

/-- The result fields of a RESPONSE, by the request answered (R153, R157 to R169). -/
inductive ResultFields where
  | empty
  | describe (node : Byte)
  | state (c : StateCopy)
  | time (t : LineTime)
  | settings (mask : List Bool) (stored : Settings)
  | entryCount (n : Nat)
  | levels (mask : List Bool) (stored : List Nat)
  | stationState (s : StationState)
  | flushed (n : Nat)
  | gate (isOpen : Bool)
  | remaining (n : Nat)
  | articlesLoaded (remaining entries : Nat)
  | planAdmitted (remaining : Nat) (plan : PlanId) (admission : BitVec 16)
  | buildRead (station : StationNo) (count : Nat) (revision : Revision)
  | planRead (plan : PlanId) (lines : Nat)
  | laneRead (lane : LaneNo) (count : Nat)
  | probed (entries : Nat) (choice : Bool)
  deriving DecidableEq, Repr

/-- The content of a RESPONSE (R153). -/
structure Response where
  kind       : Byte
  completion : Completion
  reason     : Reason
  field      : Nat
  result     : ResultFields
  deriving DecidableEq, Repr

/-- The status of a station in a probe result (R46). -/
inductive ProbeStatus where
  | evaluated
  | noLine
  | notEvaluated
  deriving DecidableEq, Repr

/-- A station entry of a probe result (R45). -/
structure ProbeEntry where
  station : StationNo
  state   : StationState
  ready   : Bool
  orders  : Nat
  status  : ProbeStatus
  eval    : Option EvalResult
  deriving DecidableEq, Repr

/-- An item of a multi-frame reply (R167, R168, R169; 11.4.3, 11.5). -/
inductive Item where
  | manifestHeader (station : StationNo) (binding : Option Binding) (count total deck mx my top : Nat)
      (revision : Revision)
  | caseRecord (c : CaseRec)
  | planHeader (id : PlanId) (due : Nat) (baseKind : BaseKind) (part : Nat) (admission : BitVec 16)
      (state : PlanState) (bound : Option StationNo)
  | planLine (index : Nat) (l : PlanLine)
  | laneHeader (state : LaneState) (cause : LaneCause) (count : Nat) (inFlight : Option Tracking)
      (expiry : Option LineTime) (flag : Bool)
  | laneEntry (tracking : Tracking) (state : Option TrackState)
  | probeEntry (e : ProbeEntry)
  | probeChoice (c : Option Placement)
  deriving DecidableEq, Repr

/-! ### The link interface and the request unit (chapters 8 and 10) -/

/-- The target of an ORDER frame (R128, 11.2.3). -/
inductive OrderFrameTarget where
  | place (cx cy z : Nat) (turned : Bool) (weight : Nat)
  | reject (r : RejectReason)
  deriving DecidableEq, Repr

/-- The content of a frame the device originates (chapter 11). -/
inductive OwnBody where
  | decision (tracking : Tracking) (target : DecTarget)
  | order (station : StationNo) (seq : OrderSeq) (tracking : Tracking) (target : OrderFrameTarget)
  | withdraw (station : StationNo) (first : OrderSeq) (count : Nat)
  | laneRelease (lane : LaneNo) (tracking : Tracking)
  | laneFlush (lane : LaneNo)
  | exchangeCall (station : StationNo) (plan : Option PlanId) (part : Option Nat) (count weight top : Nat)
  | response (r : Response)
  | responseData (index : Nat) (last : Bool) (items : List Item)
  | report (r : Report) (lost : Nat)
  deriving DecidableEq, Repr

/-- A frame the device originates, addressed (R186).  `final` marks the final RESPONSE of the request in execution,
whose departure returns the request unit to READY (R155). -/
structure OwnFrame where
  dst   : Byte
  src   : Byte
  tag   : Byte
  body  : OwnBody
  final : Bool
  deriving DecidableEq, Repr

/-- A frame in transmission: forwarded byte for byte (R183), or the device's own. -/
inductive TxFrame where
  | forward (bytes : List Byte)
  | own (f : OwnFrame)
  deriving DecidableEq, Repr

/-- The two sides that feed a port (R188). -/
inductive Side where
  | forward
  | own
  deriving DecidableEq, Repr

/-- A port: the frame it is sending, or none when idle, and its last-sent mark (R188). -/
structure PortState where
  sending : Option TxFrame
  mark    : Side
  deriving DecidableEq, Repr

/-- The link interface (chapter 10).  `fwdA` and `fwdB` feed ports A and B; `waitB` holds the port B own frames that
wait in their issuing blocks, in order of issue (R187: the block is told by the frame's kind). -/
structure Link where
  portA   : PortState
  portB   : PortState
  fwdA    : List (List Byte)
  fwdB    : List (List Byte)
  slot    : Option OwnFrame
  ownB    : List OwnFrame
  waitB   : List OwnFrame
  time    : LineTime
  ownNode : Byte
  deriving DecidableEq, Repr

/-- Where the request in execution stands (R155, R163, R167, R169). -/
inductive Phase where
  /-- A load is open; the data-gap wait expires at `gap` (R164). -/
  | loading (gap : Timer)
  /-- A PROBE waits for the planning engine (R169). -/
  | probing
  /-- A multi-frame reply is being sent: the segments left, the index of the next, the final result fields, the
  stations watched and whether any of them has changed state (R167 to R169). -/
  | replying (segments : List (List Item)) (next : Nat) (result : ResultFields) (watch : List StationNo)
      (changed : Bool)
  /-- The final RESPONSE has been placed and has not yet left port A (R155). -/
  | ending
  deriving DecidableEq, Repr

/-- The request in execution (R155); `counts` is a load's record count and remaining count. -/
structure Exec where
  kind   : Byte
  tag    : Byte
  source : Byte
  counts : Option (Nat × Nat)
  phase  : Phase
  deriving DecidableEq, Repr

/-- The request unit (chapter 8): READY is `exec = none`.  `waiting` is the waiting place and `heldFinal` a load's final
RESPONSE that found both places full (R156).  `late` is set while the next frame of the reply in progress is held back until
port A's next turn (R176; log 26). -/
structure ReqUnit where
  exec      : Option Exec
  late      : Bool
  waiting   : Option OwnFrame
  heldFinal : Option OwnFrame
  settings  : Settings
  latch     : Bool
  sup       : SupTimer
  deriving DecidableEq, Repr

/-! ### The device -/

/-- The state of the device.  `inReset` is set while RESET_N is low; the OK pin is its inverse (R190).
`pending` is the queue of commands that wait, first in, first out.  `draws` is the MODEL's own counter of the free values
drawn from `Config.replyLate` (log 26). -/
structure State where
  inReset  : Bool
  link     : Link
  req      : ReqUnit
  tables   : Tables
  plans    : PlanStore
  tracker  : Tracker
  engine   : Engine
  builds   : Vector Build 8
  stations : Vector Station 8
  lanes    : Vector Lane 4
  reports  : ReportUnit
  draws    : Nat
  pending  : List Instr
  deriving DecidableEq, Repr

/-- The device never stops: the manual describes no event after which it does nothing further, so there is no fault. -/
inductive Fault where
  deriving DecidableEq, Repr

/-- Why a command has no outcome. -/
inductive Refusal where
  /-- Raised by `exec` alone, for a command of the opcode table that has no meaning yet (safe).  No arm raises it. -/
  | notModelled (mnemonic : String)
  deriving DecidableEq, Repr

/-! ### Power-on values -/

/-- The default settings (R58, R63). -/
def Settings.default : Settings where
  decisionWindow  := 1500
  takeTimeout     := 60000
  placeTimeout    := 20000
  exchangeTimeout := 180000
  releaseTimeout  := 10000
  returnTimeout   := 300000
  dataGap         := 2000
  supInterval     := 0
  supAction       := .report
  levelTol        := 10
  dimTol          := 20
  maxCircuits     := 3
  controlNode     := 1
  scannerNode     := 2
  sorterNode      := 3
  laneNode        := 4
  transportNode   := 5
  cellNode0       := 8
  cellNode1       := 9
  cellNode2       := 10
  cellNode3       := 11

/-- The default report levels, in kind order (chapter 9; R180). -/
def defaultLevels : List Nat := [7, 7, 6, 6, 5, 5, 4, 4, 4, 3, 3, 3, 2, 0, 0]

/-- An unbound, empty build (R18). -/
def Build.empty : Build where
  binding     := none
  cases       := []
  heightMap   := []
  ownerMap    := []
  totalWeight := 0
  momentX     := 0
  momentY     := 0
  deckLoad    := 0
  topHeight   := 0
  revision    := 0

/-- A station after power-on reset (R151). -/
def Station.powerOn : Station where
  state          := .offline
  ready          := false
  baseKind       := 0
  cause          := .none
  close          := none
  nextSeq        := 0
  orders         := []
  spur           := []
  withdrawn      := []
  takeExpiry     := none
  placeExpiry    := none
  exchangeExpiry := none

/-- A lane after power-on reset (R124). -/
def Lane.powerOn : Lane where
  state    := .ready
  cause    := .none
  list     := []
  inFlight := none
  expiry   := none

/-- The planning engine after power-on reset (R111, R124). -/
def Engine.powerOn : Engine where
  replans := []
  waiting := []
  flags   := #v[false, false, false, false]
  probe   := none
  job     := none
  gate    := false

/-- Every block at its power-on values, with the own node given and no report queued yet (R18, R53, R56, R57, R63, R86,
R111, R124, R151, R155, R180, R188, R189, R191). -/
def State.powerOn (node : Byte) : State where
  inReset  := false
  link     :=
    { portA := ⟨none, .forward⟩, portB := ⟨none, .forward⟩, fwdA := [], fwdB := [], slot := none, ownB := [],
      waitB := [], time := 0, ownNode := node }
  req      :=
    { exec := none, late := false, waiting := none, heldFinal := none, settings := Settings.default, latch := false
      sup := .stopped }
  tables   := { articles := [], bases := #v[none, none, none, none], kinds := List.replicate 64 true }
  plans    := { plans := [], admission := none, counter := 0 }
  tracker  := { arrivals := [], tracks := [] }
  engine   := Engine.powerOn
  builds   := #v[.empty, .empty, .empty, .empty, .empty, .empty, .empty, .empty]
  stations := #v[.powerOn, .powerOn, .powerOn, .powerOn, .powerOn, .powerOn, .powerOn, .powerOn]
  lanes    := #v[.powerOn, .powerOn, .powerOn, .powerOn]
  reports  := { levels := defaultLevels, queue := [], lost := 0 }
  draws    := 0
  pending  := []

/-- The STARTED report of a power-on reset: level 7 by the default levels, line time 0 (R179, R180). -/
def startedReport (node : Byte) : Report :=
  { body := .started .powerOn node, level := 7, time := 0 }

/-- The device at the end of a power-on reset: the power-on values and the STARTED report queued (R180, R191). -/
def State.started (node : Byte) : State :=
  let s := State.powerOn node
  { s with reports := { s.reports with queue := [startedReport node] } }

/-- The machine right after reset, with the node pins read as 0 or 1, which both give node 1 (R190; log 2). -/
def State.reset : State := State.started 1

end Sys2Proof.Machine
end

