-- ==== Sys2Proof/Machine/Build.lean ====
section
/-!
DEFINITION. The build store's operations on one build record (chapter 1): the maps (R7), the distribution of weight (R8),
and bind, add, confirm, truncate and clear (R3, R10, R12, R13, R15).
-/

namespace Sys2Proof.Machine

/-- The columns of a build; 0 for an unbound build, which has no grid (R18). -/
def Build.cols (b : Build) : Nat := match b.binding with | some g => g.cols | none => 0

/-- The rows of a build. -/
def Build.rows (b : Build) : Nat := match b.binding with | some g => g.rows | none => 0

/-- The height limit of a build. -/
def Build.heightLimit (b : Build) : Nat := match b.binding with | some g => g.heightLimit | none => 0

/-- The plan a build names, when it is bound. -/
def Build.planId (b : Build) : Option PlanId := b.binding.map (·.plan)

/-- The part a build names, when it is bound. -/
def Build.part (b : Build) : Option Nat := b.binding.map (·.part)

/-- Whether position `i` of a row-major map of `cols` columns lies in the footprint a × b at (x, y) (R2). -/
def inFootprint (cols x y a b i : Nat) : Bool :=
  decide (x ≤ i % cols ∧ i % cols < x + a ∧ y ≤ i / cols ∧ i / cols < y + b)

/-- A map with the footprint a × b at (x, y) set to `v` and every other cell as it was (R7). -/
def setFootprint {α : Type} (cols x y a b : Nat) (v : α) (m : List α) : List α :=
  m.mapIdx fun i old => if inFootprint cols x y a b i then v else old

/-- The largest value of a height map; 0 for an empty one (R4, R7). -/
def maxHeight (m : List Nat) : Nat := m.foldl max 0

/-! ### Distribution (R8) -/

/-- The floor piece that a supporter gets of a load `p`: floor(p × share / 256) (R8, step 1). -/
def floorPiece (p : Nat) (j : Supporter) : Nat := p * j.share / 256

/-- The pieces of a load `p`: the floors, and the remainder to the principal (R8, steps 1 and 2). -/
def pieces (p : Nat) (sup : List Supporter) : List (Owner × Nat) :=
  let remainder := p - (sup.map (floorPiece p)).sum
  sup.map fun j => (j.owner, floorPiece p j + if j.principal then remainder else 0)

/-- A carried load raised by a piece, saturating at 65535 (R5, R8). -/
def saturate (carried piece : Nat) : Nat := min 65535 (carried + piece)

/-- One piece passed on (R8, steps 3 to 5): 0 goes nowhere, the deck's piece joins the deck load, and a case adds it to
its carried load and hands the whole of it down.  `fuel` bounds the chain; each supporter lies at a lower index than
the case it supports, so the number of cases and one more is enough. -/
def deliver : Nat → List CaseRec × Nat → Owner × Nat → List CaseRec × Nat
  | 0, loads, _ => loads
  | fuel + 1, loads, (owner, piece) =>
    if piece = 0 then loads
    else match owner with
      | .deck => (loads.1, loads.2 + piece)
      | .case i =>
        match loads.1[i]? with
        | none => loads
        | some c =>
          (pieces piece c.supporters).foldl (deliver fuel)
            (loads.1.set i { c with carried := saturate c.carried piece }, loads.2)

/-- A load `p` distributed from a case with supporter list `sup` over the case list and deck load (R8, R30). -/
def distribute (p : Nat) (sup : List Supporter) (cases : List CaseRec) (deck : Nat) : List CaseRec × Nat :=
  (pieces p sup).foldl (deliver (cases.length + 1)) (cases, deck)

/-! ### Adding a record -/

/-- A record put at the end of the case list with carried load 0, and the maps, loads and totals that follow from it
(R10, steps 1 to 4; R13, step 4).  The revision is not touched. -/
def pushCase (bd : Build) (c : CaseRec) : Build :=
  let heights := setFootprint bd.cols c.x c.y c.a c.b c.top bd.heightMap
  let loads := distribute c.weight c.supporters (bd.cases ++ [{ c with carried := 0 }]) bd.deckLoad
  { bd with
    cases       := loads.1
    heightMap   := heights
    ownerMap    := setFootprint bd.cols c.x c.y c.a c.b (Owner.case bd.cases.length) bd.ownerMap
    totalWeight := bd.totalWeight + c.weight
    momentX     := bd.momentX + c.weight * (2 * c.x + c.a)
    momentY     := bd.momentY + c.weight * (2 * c.y + c.b)
    deckLoad    := loads.2
    topHeight   := maxHeight heights }

/-- Whether the build store takes an add that carries revision `rev` (R10). -/
def Build.takesAdd (bd : Build) (rev : Revision) (t : Tracking) : Bool :=
  bd.binding.isSome && bd.revision == rev && decide (bd.cases.length < Config.buildCapacity)
    && !(bd.cases.any fun c => c.tracking == t)

/-- The add of a case record: PROVISIONAL, and the revision incremented (R10, R16). -/
def Build.add (bd : Build) (c : CaseRec) : Build :=
  let p := pushCase bd { c with status := .provisional }
  { p with revision := p.revision + 1 }

/-! ### The other operations -/

/-- The build with no case on it: maps at 0 and DECK, totals 0; binding and revision as they were (R13, steps 1 to 3). -/
def Build.bare (bd : Build) : Build :=
  { bd with
    cases := [], heightMap := bd.heightMap.map fun _ => 0, ownerMap := bd.ownerMap.map fun _ => Owner.deck
    totalWeight := 0, momentX := 0, momentY := 0, deckLoad := 0, topHeight := 0 }

/-- The rebuild from a list of records, replayed in index order (R13, step 4). -/
def Build.rebuild (bd : Build) (cs : List CaseRec) : Build := cs.foldl pushCase bd.bare

/-- The truncation from index `k` (R13); at or beyond the end of the list it changes nothing (R14). -/
def Build.truncate (bd : Build) (k : Nat) : Build :=
  if k < bd.cases.length then
    let r := bd.rebuild (bd.cases.take k)
    { r with revision := bd.revision + 1 }
  else bd

/-- The confirm of a case index and tracking number (R12). -/
def Build.confirm (bd : Build) (i : Nat) (t : Tracking) : Build :=
  match bd.cases[i]? with
  | some c =>
    if c.tracking = t ∧ c.status = .provisional then
      { bd with cases := bd.cases.set i { c with status := .confirmed } }
    else bd
  | none => bd

/-- The clear (R15): emptied, unbound, and the revision incremented. -/
def Build.clear (bd : Build) : Build := { Build.empty with revision := bd.revision + 1 }

/-- Whether the build store takes a binding, but for the base entry (R3). -/
def Build.free (bd : Build) : Bool := bd.binding.isNone && bd.cases.isEmpty

/-- The binding to a plan part on a base entry (R3): every cell at height 0 and owner DECK, revision unchanged. -/
def Build.bind (bd : Build) (plan : PlanId) (part : Nat) (kind : BaseKind) (e : BaseEntry) : Build :=
  { bd with
    binding   := some { plan := plan, part := part, baseKind := kind, cols := e.cols, rows := e.rows,
                        heightLimit := e.heightLimit }
    heightMap := List.replicate (e.cols * e.rows) 0
    ownerMap  := List.replicate (e.cols * e.rows) Owner.deck }

end Sys2Proof.Machine
end

