-- ==== Sys2Proof/Machine/Evaluation.lean ====
section
/-!
DEFINITION. Placement evaluation (chapter 2), stages A to J: every candidate of one case on one build at one drop.
All inputs are copies (R20); an evaluation changes nothing.
-/

namespace Sys2Proof.Machine

/-- The inputs of an evaluation (R19): `mayRest i j` says whether kind i may rest on kind j. -/
structure EvalInput where
  article  : Article
  weight   : Nat
  build    : Build
  base     : BaseEntry
  mayRest  : PackKind → PackKind → Bool
  levelTol : Nat
  drop     : Nat

/-- A candidate (R24): anchor, orientation, footprint and scan index. -/
structure Candidate where
  x      : Nat
  y      : Nat
  turned : Bool
  a      : Nat
  b      : Nat
  scan   : Nat
  deriving DecidableEq, Repr

/-- The ten reasons, in stage order (chapter 2, note 2). -/
inductive FailReason where
  | height
  | deckOnly
  | support
  | spread
  | topOnly
  | kind
  | drop
  | crush
  | overload
  | tilt
  deriving DecidableEq, Repr

/-- The outcome of a candidate (R34); CRUSH names the lowest case index over its limit (R31). -/
inductive Verdict where
  | feasible (b : Best)
  | failed (r : FailReason) (crushCase : Option Nat)
  deriving DecidableEq, Repr

/-! ### Stages A and B (R21 to R24) -/

/-- Cells that a dimension covers: ceil(n / 50) (R21). -/
def cellsOf (n : Nat) : Nat := (n + 49) / 50

/-- The anchors of one orientation, row by row, or none when the footprint does not fit (R22, R24). -/
def anchors (cols rows a b : Nat) (turned : Bool) : List (Nat × Nat × Bool × Nat × Nat) :=
  if a ≤ cols ∧ b ≤ rows then
    (List.range (rows - b + 1)).flatMap fun y => (List.range (cols - a + 1)).map fun x => (x, y, turned, a, b)
  else []

/-- The candidates of an article on a build, in scan order (R22 to R24). -/
def candidates (art : Article) (bd : Build) : List Candidate :=
  if Config.buildCapacity ≤ bd.cases.length then []
  else
    let a0 := cellsOf art.length
    let b0 := cellsOf art.width
    let straight := anchors bd.cols bd.rows a0 b0 false
    let turned := if art.rotateOk && a0 != b0 then anchors bd.cols bd.rows b0 a0 true else []
    (straight ++ turned).mapIdx fun i (x, y, t, a, b) => { x := x, y := y, turned := t, a := a, b := b, scan := i }

/-! ### Stages C to F (R25 to R28) -/

/-- The map positions of a footprint, row by row (R2, R27). -/
def footprint (cols : Nat) (c : Candidate) : List Nat :=
  (List.range c.b).flatMap fun j => (List.range c.a).map fun i => (c.y + j) * cols + (c.x + i)

/-- The rest of a candidate: the largest height over its footprint (R25). -/
def restOf (bd : Build) (cells : List Nat) : Nat := maxHeight (cells.map fun i => bd.heightMap.getD i 0)

/-- The support cells: those at least rest − T high (R26; the natural subtraction makes every cell one when
rest ≤ T). -/
def supportCells (bd : Build) (cells : List Nat) (rest tol : Nat) : List Nat :=
  cells.filter fun i => decide (rest - tol ≤ bd.heightMap.getD i 0)

/-- The support ratio q = floor(256 × S / F) (R26). -/
def supportRatio (s f : Nat) : Nat := 256 * s / f

/-- One more cell counted to its owner, in order of first appearance (R27). -/
def tallyOne (l : List (Owner × Nat)) (o : Owner) : List (Owner × Nat) :=
  if l.any fun e => e.1 == o then l.map fun e => if e.1 = o then (e.1, e.2 + 1) else e
  else l ++ [(o, 1)]

/-- The supporters of a candidate with their cell counts (R27). -/
def tally (owners : List Owner) : List (Owner × Nat) := owners.foldl tallyOne []

/-- The tests of one case supporter (R28). -/
def compatCase (inp : EvalInput) (c : CaseRec) : Option FailReason :=
  if c.topOnly then some .topOnly
  else if !inp.mayRest inp.article.kind c.kind then some .kind
  else if c.drop < inp.drop then some .drop
  else none

/-- Stage F: the first failing test over the supporters in order; the deck passes (R28). -/
def compat (inp : EvalInput) : List (Owner × Nat) → Option FailReason
  | [] => none
  | (.deck, _) :: rest => compat inp rest
  | (.case i, _) :: rest =>
    match inp.build.cases[i]? with
    | none => compat inp rest
    | some c =>
      match compatCase inp c with
      | some r => some r
      | none => compat inp rest

/-! ### Stage G (R29) -/

/-- The position of the principal: the first supporter of the largest count. -/
def principalAt (l : List (Owner × Nat)) : Nat := l.findIdx fun e => e.2 == maxHeight (l.map (·.2))

/-- The shares of all supporters of stage E: the floors, and the remainder to the principal (R29). -/
def sharesAll (l : List (Owner × Nat)) (s : Nat) : List Supporter :=
  let floors := l.map fun e => 256 * e.2 / s
  let remainder := 256 - floors.sum
  l.mapIdx fun i e =>
    let p := i == principalAt l
    { owner := e.1, share := 256 * e.2 / s + (if p then remainder else 0), principal := p }

/-- The stored supporter list: a share of 0 that is not the principal's is left out (R6, R29). -/
def storedShares (l : List (Owner × Nat)) (s : Nat) : List Supporter :=
  (sharesAll l s).filter fun j => j.share != 0 || j.principal

/-! ### Stages H and I (R30 to R33) -/

/-- The trial distribution of the candidate's weight over copies of the carried loads and deck load (R30). -/
def trial (inp : EvalInput) (sup : List Supporter) : List CaseRec × Nat :=
  distribute inp.weight sup inp.build.cases inp.build.deckLoad

/-- The lowest case index whose carried load exceeds its crush limit (R31). -/
def firstCrushed (cs : List CaseRec) : Option Nat := cs.findIdx? fun c => decide (c.crush < c.carried)

/-- The distance |m − n|. -/
def dist (m n : Nat) : Nat := if m ≤ n then n - m else m - n

/-- Total weight with the candidate added (R32). -/
def newWeight (inp : EvalInput) : Nat := inp.build.totalWeight + inp.weight

/-- dx of R33. -/
def tiltX (inp : EvalInput) (c : Candidate) : Nat :=
  dist (inp.build.momentX + inp.weight * (2 * c.x + c.a)) (inp.build.cols * newWeight inp)

/-- dy of R33. -/
def tiltY (inp : EvalInput) (c : Candidate) : Nat :=
  dist (inp.build.momentY + inp.weight * (2 * c.y + c.b)) (inp.build.rows * newWeight inp)

/-- Whether the candidate fails TILT (R33). -/
def tilts (inp : EvalInput) (c : Candidate) : Bool :=
  decide (inp.base.threshold ≤ newWeight inp)
    && (decide (inp.base.boundX * newWeight inp < tiltX inp c) || decide (inp.base.boundY * newWeight inp < tiltY inp c))

/-- The stages C to I applied to one candidate, in order; the first reason met is the outcome (R34). -/
def judge (inp : EvalInput) (c : Candidate) : Verdict :=
  let cells := footprint inp.build.cols c
  let rest := restOf inp.build cells
  let top := rest + inp.article.height
  if inp.build.heightLimit < top then .failed .height none
  else if inp.article.deckOnly && rest != 0 then .failed .deckOnly none
  else
    let sup := supportCells inp.build cells rest inp.levelTol
    let q := supportRatio sup.length (c.a * c.b)
    if q < inp.article.minSupport then .failed .support none
    else
      let owners := tally (sup.map fun i => inp.build.ownerMap.getD i .deck)
      if 8 < owners.length then .failed .spread none
      else match compat inp owners with
        | some r => .failed r none
        | none =>
          let shares := storedShares owners sup.length
          match firstCrushed (trial inp shares).1 with
          | some i => .failed .crush (some i)
          | none =>
            if inp.base.maxLoad < newWeight inp then .failed .overload none
            else if tilts inp c then .failed .tilt none
            else .feasible
              { x := c.x, y := c.y, turned := c.turned, a := c.a, b := c.b, rest := rest, top := top, q := q,
                supporters := shares, disturb := tiltX inp c + tiltY inp c, scan := c.scan }

/-! ### Stage J and the result (R34 to R36) -/

/-- Whether the key of `p` is less than the key of `q`: rest, 256 − q, dx + dy, scan index, term by term (R35). -/
def keyLt (p q : Best) : Bool :=
  if p.rest ≠ q.rest then decide (p.rest < q.rest)
  else if p.q ≠ q.q then decide (256 - p.q < 256 - q.q)
  else if p.disturb ≠ q.disturb then decide (p.disturb < q.disturb)
  else decide (p.scan < q.scan)

/-- The better of the best so far and a verdict. -/
def better (acc : Option Best) : Verdict → Option Best
  | .failed _ _ => acc
  | .feasible b =>
    match acc with
    | none => some b
    | some p => if keyLt b p then some b else some p

/-- The number of verdicts that are the given failure. -/
def countFailed (vs : List Verdict) (r : FailReason) : Nat :=
  vs.countP fun v => match v with | .failed r' _ => r' == r | .feasible _ => false

/-- The number of feasible verdicts. -/
def countFeasible (vs : List Verdict) : Nat :=
  vs.countP fun v => match v with | .feasible _ => true | .failed _ _ => false

/-- The eleven outcome counts: feasible, then HEIGHT to TILT in stage order (R34; 11.1.1). -/
def outcomeCounts (vs : List Verdict) : List Nat :=
  countFeasible vs ::
    [FailReason.height, .deckOnly, .support, .spread, .topOnly, .kind, .drop, .crush, .overload, .tilt].map
      (countFailed vs)

/-- The case index of the first candidate that failed CRUSH, in scan order (R36). -/
def firstCrushCase (vs : List Verdict) : Option Nat :=
  vs.findSome? fun v => match v with | .failed .crush (some i) => some i | _ => none

/-- The verdicts of all candidates, in scan order. -/
def verdicts (inp : EvalInput) : List Verdict := (candidates inp.article inp.build).map (judge inp)

/-- The evaluation (R19, R36). -/
def evaluate (inp : EvalInput) (station : StationNo) (line : Option Nat) : EvalResult :=
  let vs := verdicts inp
  { station := station, revision := inp.build.revision, drop := inp.drop, line := line, total := vs.length,
    counts := outcomeCounts vs, crush := firstCrushCase vs, best := vs.foldl better none }

/-- Whether an evaluation had a HEIGHT or an OVERLOAD failure (R41). -/
def EvalResult.topped (r : EvalResult) : Bool := 0 < r.counts.getD 1 0 || 0 < r.counts.getD 9 0

/-- The case record of a placement (R36, R5): placement fields from the result, the rest from the case. -/
def caseRecordOf (art : Article) (t : Tracking) (weight : Nat) (p : Placement) (seq : OrderSeq) : CaseRec :=
  { tracking := t, code := art.code, line := p.line, drop := p.drop, kind := art.kind, topOnly := art.topOnly,
    deckOnly := art.deckOnly, crush := art.crush, weight := weight, x := p.best.x, y := p.best.y,
    turned := p.best.turned, a := p.best.a, b := p.best.b, rest := p.best.rest, top := p.best.top, carried := 0,
    supporters := p.best.supporters, status := .provisional, seq := seq }

end Sys2Proof.Machine
end

