-- ==== Sys2Proof/Machine/Flags.lean ====
section
/-!
DEFINITION. The flags of the block: the re-evaluation flags of the hold lanes (R116), and the comparisons modulo 2^32
that tell when a timer, a deadline or an age has passed (R88, R189), with the marks of expiries reached.
-/

namespace Sys2Proof.Machine

/-- Whether a timer's expiry is reached: it was before, or its comparison holds at line time `t` (R189). -/
def passed (t : LineTime) (e : Timer) : Bool := e.reached || decide ((t - e.expiry).toNat < 2 ^ 31)

/-- The age of a stamp at line time `t`; 2^31 or more counts as 0 (R88, R189). -/
def ageAt (t stamp : LineTime) : Nat :=
  let d := (t - stamp).toNat
  if 2 ^ 31 ≤ d then 0 else d

/-- A timer that starts at line time `t` with a duration in milliseconds (R189). -/
def after (t : LineTime) (ms : Nat) : Timer := { expiry := t + BitVec.ofNat 32 ms, reached := false }

/-! ### Expiries reached (R189) -/

/-- A timer at line time `t`: its mark set when the expiry is reached. -/
def Timer.reach (t : LineTime) (e : Timer) : Timer := { e with reached := passed t e }

/-- A tracking state's deadline at line time `t`. -/
def TrackState.reach (t : LineTime) : TrackState → TrackState
  | .circulating d => .circulating (d.reach t)
  | .returning d => .returning (d.reach t)
  | .toStation i q => .toStation i q
  | .spurHeld i => .spurHeld i
  | .holdPending k => .holdPending k
  | .held k => .held k
  | .releasing k => .releasing k

/-- A tracking entry's deadline at line time `t`. -/
def Track.reach (t : LineTime) (e : Track) : Track := { e with state := e.state.reach t }

/-- A station's three timers at line time `t`. -/
def Station.reach (t : LineTime) (st : Station) : Station :=
  { st with
    takeExpiry := st.takeExpiry.map (Timer.reach t)
    placeExpiry := st.placeExpiry.map (Timer.reach t)
    exchangeExpiry := st.exchangeExpiry.map (Timer.reach t) }

/-- A lane's release timer at line time `t`. -/
def Lane.reach (t : LineTime) (l : Lane) : Lane := { l with expiry := l.expiry.map (Timer.reach t) }

/-- The supervision timer at line time `t`. -/
def SupTimer.reach (t : LineTime) : SupTimer → SupTimer
  | .running e => .running (e.reach t)
  | .stopped => .stopped
  | .halted => .halted

/-- The data-gap wait of the request in execution at line time `t`. -/
def Exec.reach (t : LineTime) (e : Exec) : Exec :=
  match e.phase with
  | .loading gap => { e with phase := .loading (gap.reach t) }
  | .probing | .replying .. | .ending => e

/-- Every running timer and deadline at line time `t`: the mark of each whose expiry is reached set (R189; log 9). -/
def State.reachAt (s : State) (t : LineTime) : State :=
  { s with
    req := { s.req with exec := s.req.exec.map (Exec.reach t), sup := s.req.sup.reach t }
    tracker := { s.tracker with tracks := s.tracker.tracks.map (Track.reach t) }
    stations := s.stations.map (Station.reach t)
    lanes := s.lanes.map (Lane.reach t) }

/-- The line time moved to `t`, by a tick or by SET TIME: the expiries it passes are reached in that event (R189). -/
def State.moveTime (s : State) (t : LineTime) : State :=
  let s := s.reachAt t
  { s with link := { s.link with time := t } }

/-! ### Lane flags (R116) -/

/-- A lane's re-evaluation flag (R116). -/
def State.flag (s : State) (k : LaneNo) : Bool := s.engine.flags[k]

/-- A lane's re-evaluation flag set or cleared. -/
def State.setFlag (s : State) (k : LaneNo) (v : Bool) : State :=
  { s with engine := { s.engine with flags := s.engine.flags.set k v } }

/-- The lanes that a build change, a binding or a station entering BUILDING flags (R116): READY with a case listed. -/
def Lane.flaggable (l : Lane) : Bool := l.state = .ready && !l.list.isEmpty

/-- The lanes in number order. -/
def allLanes : List LaneNo := [0, 1, 2, 3]

/-- The stations in number order. -/
def allStations : List StationNo := [0, 1, 2, 3, 4, 5, 6, 7]

/-- A build change, a binding or a station entering BUILDING sets the flag of every READY lane that lists a case
(R116). -/
def raiseFlags (s : State) : State :=
  allLanes.foldl (fun s k => if s.lanes[k].flaggable then s.setFlag k true else s) s

/-- Every flag cleared (R124). -/
def clearFlags (s : State) : State :=
  { s with engine := { s.engine with flags := #v[false, false, false, false] } }

end Sys2Proof.Machine
end

