-- ==== Sys2Proof/Machine/Operands.lean ====
section
/-!
DEFINITION. Reading a command's operands: the envelope and its check (R181, R182), the byte order of fields (R192),
and the field checks of requests, records and partner frames (R152, R193).
A field check answers the lowest field index that fails, or none.
-/

namespace Sys2Proof.Machine

/-! ### Fields (R192: most significant byte first; offsets from 0) -/

/-- The one-byte field at offset `i`. -/
def u8At (p : List Byte) (i : Nat) : Nat := (p.getD i 0).toNat

/-- The two-byte field at offset `i`. -/
def u16At (p : List Byte) (i : Nat) : Nat := u8At p i * 256 + u8At p (i + 1)

/-- The four-byte field at offset `i`. -/
def u32At (p : List Byte) (i : Nat) : Nat := u16At p i * 65536 + u16At p (i + 2)

/-! ### The envelope (R181, R182) -/

/-- One bit of the CRC with polynomial 1021H, most significant bit first (R182). -/
def crcBit (c : BitVec 16) : BitVec 16 := if c.msb then (c <<< 1) ^^^ 0x1021#16 else c <<< 1

/-- One byte of the CRC (R182). -/
def crcByte (c : BitVec 16) (b : Byte) : BitVec 16 :=
  crcBit (crcBit (crcBit (crcBit (crcBit (crcBit (crcBit (crcBit (c ^^^ (b.setWidth 16 <<< 8)))))))))

/-- The CRC of R182: initial value FFFFH, no reflection, no final inversion. -/
def crc16 (bytes : List Byte) : BitVec 16 := bytes.foldl crcByte 0xFFFF#16

/-- The bytes of a frame that its check covers: destination through payload (R181). -/
def frameHead (dst src kind tag len : Byte) (payload : List Byte) : List Byte :=
  dst :: src :: kind :: tag :: len :: payload

/-- The check field as two bytes, most significant first (R182). -/
def checkBytes (c : BitVec 16) : List Byte := [(c >>> 8).setWidth 8, c.setWidth 8]

/-- A received frame as it stood on the line; a forwarded frame is sent so, its check included (R183). -/
def rxBytes (kind : Byte) (f : RxFrame) : List Byte :=
  frameHead f.dst f.src kind f.tag f.len f.payload ++ checkBytes f.check

/-- The checks of R182, in order: size, CRC, destination. -/
def frameOk (kind : Byte) (f : RxFrame) : Bool :=
  (f.len.toNat ≤ 240 && f.payload.length == f.len.toNat)
    && f.check == crc16 (frameHead f.dst f.src kind f.tag f.len f.payload)
    && f.dst.toNat ≤ 127

/-- Whether a frame is addressed to every node (R183). -/
def isBroadcast (f : RxFrame) : Bool := f.dst.toNat == 127

/-- Raw bytes cut into kind and envelope; none when they are fewer than 7 (R182, check 1). -/
def cutFrame (p : Port) : List Byte → Option (Byte × RxFrame)
  | dst :: src :: kind :: tag :: len :: rest =>
    if rest.length < 2 then none
    else
      let n := rest.length - 2
      some (kind,
        { port := p, dst := dst, src := src, tag := tag, len := len, payload := rest.take n,
          check := ((rest.getD n 0).setWidth 16 <<< 8) ||| (rest.getD (n + 1) 0).setWidth 16 })
  | _ => none

/-! ### Range checks -/

/-- The first field index whose check failed, in index order. -/
def firstBad : List (Nat × Bool) → Option Nat
  | [] => none
  | (i, ok) :: rest => if ok then firstBad rest else some i

/-- No field to check. -/
def noFields (_ : List Byte) : Option Nat := none

/-- DELETE ARTICLE: code 0 fails field 1 (R157). -/
def badArticleCode (p : List Byte) : Option Nat := firstBad [(1, u32At p 0 != 0)]

/-- LOAD BASE: the ranges of R54; an absent entry's fields 3 to 10 are not checked. -/
def badBase (p : List Byte) : Option Nat :=
  let always := [(1, decide (u8At p 0 ≤ 3)), (2, decide (u8At p 1 ≤ 1))]
  if u8At p 1 == 0 then firstBad always
  else
    firstBad (always ++
      [(3, decide (4 ≤ u8At p 2 ∧ u8At p 2 ≤ 24)), (4, decide (4 ≤ u8At p 3 ∧ u8At p 3 ≤ 20)),
       (5, decide (200 ≤ u16At p 4 ∧ u16At p 4 ≤ 2600)), (6, decide (u16At p 6 ≤ u16At p 4)),
       (7, decide (1 ≤ u32At p 8 ∧ u32At p 8 ≤ 6291360)), (8, decide (u8At p 12 ≤ 48)),
       (9, decide (u8At p 13 ≤ 48)), (10, decide (u32At p 14 ≤ 6291360))])

/-- The base entry that a LOAD BASE carries (11.4.2). -/
def baseOf (p : List Byte) : BaseEntry :=
  { cols := u8At p 2, rows := u8At p 3, heightLimit := u16At p 4, closeHeight := u16At p 6, maxLoad := u32At p 8,
    boundX := u8At p 12, boundY := u8At p 13, threshold := u32At p 14 }

/-- LOAD KINDS: each of the 64 entries is 0 or 1, indices 1..64 (R57). -/
def badKinds (p : List Byte) : Option Nat :=
  firstBad ((List.range 64).map fun i => (i + 1, decide (u8At p i ≤ 1)))

/-- WITHDRAW PLAN and READ PLAN: id 0 fails field 1 (R158, R168). -/
def badPlanId (p : List Byte) : Option Nat := firstBad [(1, u16At p 0 != 0)]

/-- SET STATION (R158). -/
def badSetStation (p : List Byte) : Option Nat :=
  firstBad [(1, decide (u8At p 0 ≤ 7)), (2, decide (u8At p 1 ≤ 1)), (3, decide (u8At p 2 ≤ 3))]

/-- CLOSE STATION and READ BUILD: a station, 0..7 (R158, R168). -/
def badStation (p : List Byte) : Option Nat := firstBad [(1, decide (u8At p 0 ≤ 7))]

/-- ACKNOWLEDGE FAULT (R158). -/
def badAcknowledge (p : List Byte) : Option Nat :=
  firstBad [(1, decide (u8At p 0 ≤ 7)), (2, decide (u8At p 1 ≤ 1)), (3, decide (u8At p 2 ≤ 2))]

/-- FLUSH LANE and READ LANE: a lane, 0..3 (R158, R168). -/
def badLane (p : List Byte) : Option Nat := firstBad [(1, decide (u8At p 0 ≤ 3))]

/-- PROBE (R169): code not 0, drop 0..15, at least one station marked. -/
def badProbe (p : List Byte) : Option Nat :=
  firstBad [(1, u32At p 0 != 0), (3, decide (u8At p 6 ≤ 15)), (4, u8At p 7 != 0)]

/-- SET GATE (R158). -/
def badGate (p : List Byte) : Option Nat := firstBad [(1, decide (u8At p 0 ≤ 1))]

/-- The stations of a station set: station s in bit s (R192), in station-number order. -/
def stationSet (b : Nat) : List StationNo :=
  [0, 1, 2, 3, 4, 5, 6, 7].filter fun i : StationNo => b.testBit i.val

/-! ### Records of loads -/

/-- Bytes of an article record and of a plan line record (R193). -/
def articleRecordBytes : Nat := 19
def lineRecordBytes : Nat := 6

/-- The field ranges of an article record (R48). -/
def badArticle (p : List Byte) : Option Nat :=
  firstBad
    [(1, u32At p 0 != 0), (2, decide (1 ≤ u16At p 4 ∧ u16At p 4 ≤ 2000)),
     (3, decide (1 ≤ u16At p 6 ∧ u16At p 6 ≤ 2000)), (4, decide (1 ≤ u16At p 8 ∧ u16At p 8 ≤ 2000)),
     (5, decide (1 ≤ u16At p 10)), (6, decide (u8At p 12 ≤ 50)), (8, decide (u8At p 15 ≤ 7)),
     (9, decide (u16At p 16 ≤ 256)), (10, decide (u8At p 18 ≤ 7))]

/-- The article that a record carries (11.4.1); flags ROTATE_OK, TOP_ONLY, DECK_ONLY in bits 0, 1, 2 (R192). -/
def articleOf (p : List Byte) : Article :=
  { code := BitVec.ofNat 32 (u32At p 0), length := u16At p 4, width := u16At p 6, height := u16At p 8,
    nominal := u16At p 10, tolerance := u8At p 12, crush := u16At p 13, kind := Fin.ofNat 8 (u8At p 15),
    minSupport := u16At p 16, rotateOk := (u8At p 18).testBit 0, topOnly := (u8At p 18).testBit 1,
    deckOnly := (u8At p 18).testBit 2 }

/-- The distinct drops among the lines gathered so far. -/
def dropsOf (ls : List LineRec) : List Nat := (ls.map (·.drop)).eraseDups

/-- The checks of a plan line record against the admission record (R67). -/
def badLine (ls : List LineRec) (p : List Byte) : Option Nat :=
  let d := u8At p 0
  let code : ArticleCode := BitVec.ofNat 32 (u32At p 1)
  firstBad
    [(1, decide (1 ≤ d ∧ d ≤ 15) && ((dropsOf ls).contains d || decide ((dropsOf ls).length < 8))),
     (2, code != 0 && !(ls.any fun l => l.drop == d && l.code == code)),
     (3, decide (1 ≤ u8At p 5))]

/-- The line that a record carries (11.4.3). -/
def lineOf (p : List Byte) : LineRec :=
  { drop := u8At p 0, code := BitVec.ofNat 32 (u32At p 1), required := u8At p 5 }

/-- A payload cut into records of `n` bytes; `fuel` bounds their number. -/
def cutRecords (n : Nat) : Nat → List Byte → List (List Byte)
  | 0, _ => []
  | fuel + 1, p => if p.isEmpty then [] else p.take n :: cutRecords n fuel (p.drop n)

/-- A record count of 0 stands for 256 (R163). -/
def countOf (b : Nat) : Nat := if b = 0 then 256 else b

/-! ### Settings (R58, R59) -/

/-- The 21 values that a SET SETTINGS carries, in index order (chapter 11: 4 bytes each). -/
def carriedSettings (p : List Byte) : List Nat := (List.range 21).map fun i => u32At p (4 * i)

/-- The range of a setting with a plain range lo..hi, by index (R58); node settings are 1..126. -/
def settingRange : List (Nat × Nat) :=
  [(100, 10000), (1000, 600000), (1000, 120000), (10000, 900000), (1000, 60000), (10000, 1800000), (100, 10000),
   (0, 600000), (0, 1), (0, 30), (0, 100), (1, 15), (1, 126), (1, 126), (1, 126), (1, 126), (1, 126), (1, 126),
   (1, 126), (1, 126), (1, 126)]

/-- A value brought into its range (R59). -/
def clampTo (r : Nat × Nat) (v : Nat) : Nat := if v < r.1 then r.1 else if r.2 < v then r.2 else v

/-- The value stored for the setting at position `i` (index i + 1) when `v` is carried (R59): the plain clamp, an
interval of 1..999 taken to 1000, and REPORT stored as STOP while the latch is set (R62). -/
def storedSetting (latch : Bool) (i v : Nat) : Nat :=
  if i = 7 then (if 1 ≤ v ∧ v ≤ 999 then 1000 else clampTo (0, 600000) v)
  else if i = 8 then (if latch then 1 else clampTo (0, 1) v)
  else clampTo (settingRange.getD i (0, 0)) v

/-- The 21 values stored. -/
def storedSettings (latch : Bool) (vs : List Nat) : List Nat := vs.mapIdx (storedSetting latch)

/-- The clamp mask: a mark where the value stored differs from the value carried (R59, R178). -/
def clampMask (carried stored : List Nat) : List Bool := List.zipWith (fun c v => c != v) carried stored

/-- The settings record that 21 values in index order make; the action is 0 REPORT, 1 STOP (R58, note 3). -/
def Settings.ofValues (v : List Nat) : Settings :=
  let g := fun i => v.getD i 0
  { decisionWindow := g 0, takeTimeout := g 1, placeTimeout := g 2, exchangeTimeout := g 3, releaseTimeout := g 4,
    returnTimeout := g 5, dataGap := g 6, supInterval := g 7, supAction := if g 8 = 0 then .report else .stop,
    levelTol := g 9, dimTol := g 10, maxCircuits := g 11, controlNode := g 12, scannerNode := g 13,
    sorterNode := g 14, laneNode := g 15, transportNode := g 16, cellNode0 := g 17, cellNode1 := g 18,
    cellNode2 := g 19, cellNode3 := g 20 }

/-- The 21 values of a settings record, in index order. -/
def Settings.values (s : Settings) : List Nat :=
  [s.decisionWindow, s.takeTimeout, s.placeTimeout, s.exchangeTimeout, s.releaseTimeout, s.returnTimeout, s.dataGap,
   s.supInterval, if s.supAction = .report then 0 else 1, s.levelTol, s.dimTol, s.maxCircuits, s.controlNode,
   s.scannerNode, s.sorterNode, s.laneNode, s.transportNode, s.cellNode0, s.cellNode1, s.cellNode2, s.cellNode3]

/-- The node of the cell that serves a station: cell c serves stations 2c and 2c + 1 (R58, note 2). -/
def Settings.cellNodeOf (s : Settings) (i : StationNo) : Nat :=
  match i.val / 2 with
  | 0 => s.cellNode0
  | 1 => s.cellNode1
  | 2 => s.cellNode2
  | _ => s.cellNode3

/-! ### Partner frames (R185, R193) -/

/-- The station a cell frame names, when it is one (R185). -/
def stationAt (p : List Byte) : Option StationNo :=
  match p with
  | b :: _ => if h : b.toNat < 8 then some ⟨b.toNat, h⟩ else none
  | [] => none

/-- The lane a lane frame names, when it is one (R123). -/
def laneAt (p : List Byte) : Option LaneNo :=
  match p with
  | b :: _ => if h : b.toNat < 4 then some ⟨b.toNat, h⟩ else none
  | [] => none

/-- The source and length checks of a partner frame (R185): source first, then the one length of the kind.
A cell frame is checked against the node of the cell that serves the station it names. -/
def sourceOk (st : Settings) (kind : Byte) (f : RxFrame) : Bool :=
  match kind.toNat with
  | 0x40 => f.src.toNat == st.scannerNode && f.payload.length == 20
  | 0x52 => (match stationAt f.payload with
      | some i => f.src.toNat == st.cellNodeOf i
      | none => false) && f.payload.length == 4
  | 0x53 => (match stationAt f.payload with
      | some i => f.src.toNat == st.cellNodeOf i
      | none => false) && f.payload.length == 2
  | 0x62 => f.src.toNat == st.laneNode && f.payload.length == 5
  | 0x63 => f.src.toNat == st.laneNode && f.payload.length == 5
  | 0x64 => f.src.toNat == st.laneNode && f.payload.length == 1
  | 0x70 => f.src.toNat == st.transportNode && f.payload.length == 1
  | 0x71 => f.src.toNat == st.transportNode && f.payload.length == 1
  | _ => true

/-- The outcome of an ORDER REPLY (R130). -/
inductive ReplyOutcome where
  | taken
  | done
  | dropped
  | noCase
  | blocked
  deriving DecidableEq, Repr

/-- The outcome that the outcome and failure bytes give; none for a code outside its set (R193, 11.2.4). -/
def replyOutcome (outcome failure : Nat) : Option ReplyOutcome :=
  match outcome, failure with
  | 0, 0 => some .taken
  | 1, 0 => some .done
  | 2, 1 => some .dropped
  | 2, 2 => some .noCase
  | 2, 3 => some .blocked
  | _, _ => none

/-- The ARRIVAL that a payload carries (11.2.1). -/
def arrivalOf (p : List Byte) : Arrival :=
  { tracking := BitVec.ofNat 32 (u32At p 0), code := BitVec.ofNat 32 (u32At p 4), length := u16At p 8,
    width := u16At p 10, height := u16At p 12, weight := u16At p 14, scan := BitVec.ofNat 32 (u32At p 16) }

end Sys2Proof.Machine
end

