-- ==== Sys2Proof/Machine/Layout.lean ====
section
/-!
DEFINITION. The bytes of the frames the device sends (R181, R182, R192; chapter 11): enumeration codes, absence, the
layouts of the central frames and records, and the packing of reply items into segments (R167).
Where chapter 11 gives a content but no byte layout, the layout here is a DESIGN CHOICE (log 6).
-/

namespace Sys2Proof.Machine

/-! ### Fields -/

/-- A one-byte field. -/
def u8 (n : Nat) : List Byte := [BitVec.ofNat 8 n]

/-- A two-byte field, most significant byte first. -/
def u16 (n : Nat) : List Byte := u8 (n / 256) ++ u8 n

/-- A four-byte field, most significant byte first. -/
def u32 (n : Nat) : List Byte := u16 (n / 65536) ++ u16 n

/-- A mark or flag as one byte. -/
def ofBool (b : Bool) : Nat := if b then 1 else 0

/-- A field whose present values exclude 0: absent as 0 (R192). -/
def orZero (v : Option Nat) : Nat := v.getD 0

/-- A clamp mask: the mark of index i in bit i − 1 (R192). -/
def maskValue (marks : List Bool) : Nat := marks.foldr (fun m acc => ofBool m + 2 * acc) 0

/-! ### Enumeration codes (11.1.1, R108, R153, R154) -/

def StationState.code : StationState → Nat
  | .offline => 0 | .idle => 1 | .building => 2 | .closing => 3 | .awaitExchange => 4 | .exchanging => 5 | .fault => 6

def StationCause.code : StationCause → Nat
  | .none => 0 | .takeTimeout => 1 | .placeTimeout => 2 | .blocked => 3 | .sequence => 4 | .duplicate => 5
  | .notReady => 6 | .exchangeTimeout => 7 | .restart => 8

def CloseReason.code : CloseReason → Nat
  | .split => 1 | .request => 2 | .complete => 3 | .discard => 4

/-- A close reason or its absence. -/
def closeCode (r : Option CloseReason) : Nat := orZero (r.map CloseReason.code)

def LaneState.code : LaneState → Nat
  | .ready => 0 | .fault => 1 | .flushing => 2

def LaneCause.code : LaneCause → Nat
  | .none => 0 | .entryMismatch => 1 | .releaseMismatch => 2 | .releaseTimeout => 3 | .caseReturned => 4 | .restart => 5

def TrackState.code : TrackState → Nat
  | .circulating _ => 0 | .toStation _ _ => 1 | .spurHeld _ => 2 | .holdPending _ => 3 | .held _ => 4
  | .releasing _ => 5 | .returning _ => 6

def PlanState.code : PlanState → Nat
  | .queued => 0 | .building => 1 | .draining => 2

def CaseStatus.code : CaseStatus → Nat
  | .provisional => 0 | .confirmed => 1

def SupTimer.code : SupTimer → Nat
  | .stopped => 0 | .running _ => 1 | .halted => 2

def SupAction.code : SupAction → Nat
  | .report => 0 | .stop => 1

def StartCause.code : StartCause → Nat
  | .powerOn => 0 | .restart => 1

def ProbeStatus.code : ProbeStatus → Nat
  | .evaluated => 0 | .noLine => 1 | .notEvaluated => 2

def RejectReason.code : RejectReason → Nat
  | .noRead => 1 | .unknown => 2 | .misweight => 3 | .mismeasure => 4 | .circuits => 5 | .surplus => 6
  | .duplicate => 7 | .noPlace => 8 | .discard => 9

def Completion.code : Completion → Nat
  | .done => 0 | .ended => 1 | .refused => 2 | .changed => 3

def Reason.code : Reason → Nat
  | .none => 0 | .unknownKind => 1 | .badLength => 2 | .badField => 3 | .busy => 4 | .noRoom => 5 | .notFound => 6
  | .wrongState => 7 | .dataGap => 8 | .planBound => 9

/-- A supporter's owner: a case index, or FFH for DECK (11.5). -/
def Owner.code : Owner → Nat
  | .deck => 0xFF | .case i => i

/-- The flags byte of a case record (R192): TOP_ONLY in bit 1, DECK_ONLY in bit 2.
ROTATE_OK is no field of the case record (R5), and its bit is 0. -/
def CaseRec.flagsByte (c : CaseRec) : Nat := 2 * ofBool c.topOnly + 4 * ofBool c.deckOnly

/-! ### Records and items (11.4.3, 11.5) -/

/-- A supporter entry of the manifest: 4 bytes. -/
def Supporter.bytes (j : Supporter) : List Byte := u8 j.owner.code ++ u16 j.share ++ u8 (ofBool j.principal)

/-- A case record of the manifest: 30 bytes and 4 for each supporter. -/
def CaseRec.bytes (c : CaseRec) : List Byte :=
  u32 c.tracking.toNat ++ u32 c.code.toNat ++ u8 c.line ++ u8 c.drop ++ u8 c.kind.val ++ u8 c.flagsByte ++ u16 c.crush
    ++ u16 c.weight ++ u8 c.x ++ u8 c.y ++ u8 (ofBool c.turned) ++ u8 c.a ++ u8 c.b ++ u16 c.rest ++ u16 c.top
    ++ u16 c.carried ++ u8 c.status.code ++ u8 c.seq.toNat ++ u8 c.supporters.length
    ++ c.supporters.flatMap Supporter.bytes

/-- The best candidate of an evaluation, in the order of R36 (layout: log 6). -/
def Best.bytes (b : Best) : List Byte :=
  u8 b.x ++ u8 b.y ++ u8 (ofBool b.turned) ++ u8 b.a ++ u8 b.b ++ u16 b.rest ++ u16 b.top ++ u16 b.q
    ++ u8 b.supporters.length ++ b.supporters.flatMap Supporter.bytes ++ u32 b.disturb ++ u16 b.scan

/-- A best candidate or its absence: each field of an absent one is coded as R192 codes it, 0 where its present values
exclude 0 and all ones where they do not, with no supporter entries. -/
def bestBytes : Option Best → List Byte
  | none =>
    u8 0xFF ++ u8 0xFF ++ u8 0xFF ++ u8 0 ++ u8 0 ++ u16 0xFFFF ++ u16 0 ++ u16 0xFFFF ++ u8 0 ++ u32 0xFFFFFFFF
      ++ u16 0xFFFF
  | some b => b.bytes

/-- An evaluation result, in the order of R36 (layout: log 6). -/
def EvalResult.bytes (r : EvalResult) : List Byte :=
  u8 r.station.val ++ u16 r.revision.toNat ++ u8 r.drop ++ u8 (r.line.getD 0xFF) ++ u16 r.total
    ++ r.counts.flatMap u16 ++ u8 (r.crush.getD 0xFF) ++ bestBytes r.best

/-- The bytes of a reply item. -/
def Item.bytes : Item → List Byte
  | .manifestHeader st g n total deck mx my top rev =>
    u8 st.val ++ u16 (orZero (g.map (·.plan.toNat))) ++ u8 (orZero (g.map (·.part)))
      ++ u8 ((g.map (·.baseKind.val)).getD 0xFF) ++ u8 (orZero (g.map (·.cols))) ++ u8 (orZero (g.map (·.rows)))
      ++ u16 (orZero (g.map (·.heightLimit))) ++ u8 n ++ u32 total ++ u32 deck ++ u32 mx ++ u32 my ++ u16 top
      ++ u16 rev.toNat
  | .caseRecord c => c.bytes
  | .planHeader id due kind part adm st bound =>
    u16 id.toNat ++ u16 due ++ u8 kind.val ++ u8 part ++ u16 adm.toNat ++ u8 st.code
      ++ u8 ((bound.map (·.val)).getD 0xFF)
  | .planLine i l => u8 l.drop ++ u32 l.code.toNat ++ u8 l.required ++ u8 l.planned ++ u8 l.placed ++ u8 i
  | .laneHeader st cause n fl e flag =>
    u8 st.code ++ u8 cause.code ++ u16 n ++ u32 (orZero (fl.map (·.toNat))) ++ u32 ((e.map (·.toNat)).getD 0xFFFFFFFF)
      ++ u8 (ofBool flag)
  | .laneEntry t st => u32 t.toNat ++ u8 ((st.map TrackState.code).getD 0xFF)
  | .probeEntry e =>
    u8 e.state.code ++ u8 (ofBool e.ready) ++ u16 e.orders ++ u8 e.status.code
      ++ (match e.eval with | none => [] | some r => r.bytes)
  | .probeChoice c =>
    match c with
    | none => u8 0xFF ++ u8 0xFF ++ bestBytes none
    | some p => u8 p.station.val ++ u8 p.line ++ bestBytes (some p.best)

/-- The items packed into segments, whole and in order, as many as fit in 238 bytes (R167).
`acc` is the segment being filled, reversed, and `used` its bytes. -/
def packFrom (acc : List Item) (used : Nat) : List Item → List (List Item)
  | [] => [acc.reverse]
  | i :: rest =>
    if acc.isEmpty || used + i.bytes.length ≤ Config.segmentBytes then
      packFrom (i :: acc) (used + i.bytes.length) rest
    else acc.reverse :: packFrom [i] i.bytes.length rest

/-- The segments of a reply's content (R167); there is at least one. -/
def packItems (items : List Item) : List (List Item) := packFrom [] 0 items

/-! ### Responses and reports (11.3) -/

/-- What READ STATE returns of a station (layout: log 6). -/
def StationCopy.bytes (c : StationCopy) : List Byte :=
  u8 c.state.code ++ u8 (ofBool c.ready) ++ u8 c.cause.code ++ u8 (closeCode c.close) ++ u16 c.orders ++ u16 c.spur

/-- What READ STATE returns of a lane (layout: log 6). -/
def LaneCopy.bytes (c : LaneCopy) : List Byte := u8 c.state.code ++ u8 c.cause.code ++ u16 c.count

/-- The READ STATE copy, in the order of R160 (layout: log 6). -/
def StateCopy.bytes (c : StateCopy) : List Byte :=
  (match c.executing with
    | none => u8 0 ++ u8 0 ++ u8 0xFF ++ u16 0xFFFF
    | some (k, t, r) => u8 1 ++ [k] ++ [t] ++ u16 (r.getD 0xFFFF))
    ++ u32 c.time.toNat ++ u8 (ofBool c.gate) ++ u8 c.sup.code ++ u32 c.interval ++ u8 c.action.code
    ++ u8 (ofBool c.latch) ++ u16 c.articles ++ u16 c.plans ++ u16 c.tracks ++ u16 c.arrivals ++ u16 c.replans
    ++ [c.job] ++ c.stations.flatMap StationCopy.bytes ++ c.lanes.flatMap LaneCopy.bytes ++ u16 c.reports ++ u8 c.lost

/-- The result fields of a RESPONSE, in the order of their rules (11.3.1).  That READ PLAN gives its number of lines in 2 bytes,
and PROBE its mark of a choice in 1 byte, is the model's choice (log 6). -/
def ResultFields.bytes : ResultFields → List Byte
  | .empty => []
  | .describe node =>
    u16 Config.deviceCode ++ u8 Config.designRevision ++ [node] ++ u16 Config.articleCapacity ++ u16 Config.planCapacity
      ++ u16 Config.trackingCapacity ++ u8 8 ++ u8 4 ++ u8 4 ++ u8 Config.orderDepth ++ u8 Config.laneDepth
      ++ u16 Config.buildCapacity ++ u16 Config.reportCapacity
  | .state c => c.bytes
  | .time t => u32 t.toNat
  | .settings mask st => u8 (maskValue mask / 65536) ++ u16 (maskValue mask) ++ st.values.flatMap u32
  | .entryCount n => u16 n
  | .levels mask ls => u16 (maskValue mask) ++ ls.flatMap u8
  | .stationState s => u8 s.code
  | .flushed n => u16 n
  | .gate g => u8 (ofBool g)
  | .remaining n => u16 n
  | .articlesLoaded r n => u16 r ++ u16 n
  | .planAdmitted r id adm => u16 r ++ u16 id.toNat ++ u16 adm.toNat
  | .buildRead st n rev => u8 st.val ++ u16 n ++ u16 rev.toNat
  | .planRead id n => u16 id.toNat ++ u16 n
  | .laneRead k n => u8 k.val ++ u16 n
  | .probed n c => u16 n ++ u8 (ofBool c)

/-- The kind code of a report, 1..15 (chapter 9). -/
def ReportBody.kindCode : ReportBody → Nat
  | .started .. => 1 | .supervision .. => 2 | .stationFault .. => 3 | .laneFault .. => 4 | .caseLost .. => 5
  | .caseMissing .. => 6 | .buildClosed .. => 7 | .buildDiscarded .. => 8 | .planDone .. => 9 | .stationIdle .. => 10
  | .casePlaced .. => 11 | .caseRejected .. => 12 | .caseLate .. => 13 | .caseHeld .. => 14 | .caseReleased .. => 15

/-- An article code or its absence (R192). -/
def codeOrZero (c : Option ArticleCode) : Nat := orZero (c.map (·.toNat))

/-- A plan id or its absence (R192). -/
def planOrZero (p : Option PlanId) : Nat := orZero (p.map (·.toNat))

/-- The payload of a report's kind (R173, 11.3.2).  DESIGN CHOICE (log 6): the list of widths in 11.3.2 names
neither the supervision action of SUPERVISION, which chapter 11 carries elsewhere only as a 4-byte setting, nor the own node
of STARTED; the model sends each in 1 byte. -/
def ReportBody.bytes : ReportBody → List Byte
  | .started c n => u8 c.code ++ [n]
  | .supervision a i t => u8 a.code ++ u32 i ++ u32 t.toNat
  | .stationFault st c b u =>
    u8 st.val ++ u8 c.code ++ u8 b.code ++ u8 ((u.map (·.1.toNat)).getD 0xFF) ++ u32 (orZero (u.map (·.2.toNat)))
  | .laneFault k c n => u8 k.val ++ u8 c.code ++ u16 n
  | .caseLost t c st => u32 t.toNat ++ u32 (codeOrZero c) ++ u8 st.val
  | .caseMissing t c => u32 t.toNat ++ u32 (codeOrZero c)
  | .buildClosed st p part n w top r =>
    u8 st.val ++ u16 (planOrZero p) ++ u8 (orZero part) ++ u8 n ++ u32 w ++ u16 top ++ u8 (closeCode r)
  | .buildDiscarded st p part n => u8 st.val ++ u16 (planOrZero p) ++ u8 (orZero part) ++ u16 n
  | .planDone p part => u16 p.toNat ++ u8 part
  | .stationIdle st => u8 st.val
  | .casePlaced t c st p part line i =>
    u32 t.toNat ++ u32 c.toNat ++ u8 st.val ++ u16 (planOrZero p) ++ u8 (orZero part) ++ u8 line ++ u8 i
  | .caseRejected t c r => u32 t.toNat ++ u32 (codeOrZero c) ++ u8 r.code
  | .caseLate t age => u32 t.toNat ++ u32 (age.getD 0xFFFFFFFF)
  | .caseHeld t k => u32 t.toNat ++ u8 k.val
  | .caseReleased t k => u32 t.toNat ++ u8 k.val

/-! ### Own frames -/

/-- The kind byte of an own frame (chapter 11). -/
def OwnBody.kind : OwnBody → Byte
  | .decision .. => 0x41 | .order .. => 0x50 | .withdraw .. => 0x51 | .laneRelease .. => 0x60 | .laneFlush .. => 0x61
  | .exchangeCall .. => 0x72 | .response .. => 0x30 | .responseData .. => 0x31 | .report .. => 0x38

/-- The payload of an own frame (11.2, 11.3). -/
def OwnBody.payload : OwnBody → List Byte
  | .decision t d =>
    u32 t.toNat ++ (match d with
      | .station n => u8 0 ++ u8 n.val ++ u8 0
      | .lane k => u8 1 ++ u8 k.val ++ u8 0
      | .pass => u8 2 ++ u8 0 ++ u8 0
      | .reject r => u8 3 ++ u8 0 ++ u8 r.code)
  | .order st q t d =>
    u8 st.val ++ [q] ++ u32 t.toNat ++ (match d with
      | .place cx cy z o w => u8 0 ++ u8 0 ++ u16 cx ++ u16 cy ++ u16 z ++ u8 (ofBool o) ++ u16 w
      | .reject r => u8 1 ++ u8 r.code ++ u16 0 ++ u16 0 ++ u16 0 ++ u8 0 ++ u16 0)
  | .withdraw st q n => u8 st.val ++ [q] ++ u8 n
  | .laneRelease k t => u8 k.val ++ u32 t.toNat
  | .laneFlush k => u8 k.val
  | .exchangeCall st p part n w top => u8 st.val ++ u16 (planOrZero p) ++ u8 (orZero part) ++ u8 n ++ u32 w ++ u16 top
  | .response r => [r.kind] ++ u8 r.completion.code ++ u8 r.reason.code ++ u8 r.field ++ r.result.bytes
  | .responseData i last items => u8 i ++ u8 (ofBool last) ++ items.flatMap Item.bytes
  | .report r lost => u8 r.body.kindCode ++ u8 r.level ++ u8 lost ++ u32 r.time.toNat ++ r.body.bytes

/-- An own frame as it stands on the line: the envelope of R181 with the check of R182 (R186). -/
def OwnFrame.bytes (f : OwnFrame) : List Byte :=
  let p := f.body.payload
  let head := frameHead f.dst f.src f.body.kind f.tag (BitVec.ofNat 8 p.length) p
  head ++ checkBytes (crc16 head)

/-- The bytes that a port puts on the line for a frame (R183, R186). -/
def TxFrame.bytes : TxFrame → List Byte
  | .forward b => b
  | .own f => f.bytes

/-- Whether a frame is a DECISION (R187). -/
def OwnFrame.isDecision (f : OwnFrame) : Bool :=
  match f.body with
  | .decision .. => true
  | _ => false

end Sys2Proof.Machine
end

