-- ==== Sys2Proof/Machine/Ops.lean ====
section
/-!
DEFINITION. The operations over the blocks' state that the meanings share: maps kept in key order, the records of one
station, lane, build or case, reports (R172 to R175), frames the device originates (R186, R187), responses (R153, R156)
and the supervision timer (R170).
Every operation is total: where a rule names a record that is not held, the operation changes nothing.
-/

namespace Sys2Proof.Machine

/-! ### Maps in key order (log 3) -/

/-- An entry stored in its place, replacing the entry of its key. -/
def putKey {α : Type} (key : α → Nat) (x : α) : List α → List α
  | [] => [x]
  | y :: ys =>
    if key x < key y then x :: y :: ys
    else if key x = key y then x :: ys
    else y :: putKey key x ys

/-- The first entry that meets `p` changed by `g`. -/
def changeFirst {α : Type} (p : α → Bool) (g : α → α) : List α → List α
  | [] => []
  | y :: ys => if p y then g y :: ys else y :: changeFirst p g ys

/-! ### One record of a store -/

/-- Station record `i` changed by `g`. -/
def State.onStation (s : State) (i : StationNo) (g : Station → Station) : State :=
  { s with stations := s.stations.set i (g s.stations[i]) }

/-- Lane record `k` changed by `g`. -/
def State.onLane (s : State) (k : LaneNo) (g : Lane → Lane) : State :=
  { s with lanes := s.lanes.set k (g s.lanes[k]) }

/-- Build record `i` changed by `g`. -/
def State.onBuild (s : State) (i : StationNo) (g : Build → Build) : State :=
  { s with builds := s.builds.set i (g s.builds[i]) }

/-- The watch that a multi-frame reply keeps on station states: a transition of a watched station is noted
(R168, R169). -/
def Exec.note (i : StationNo) (e : Exec) : Exec :=
  match e.phase with
  | .replying segments next result watch changed =>
    { e with phase := .replying segments next result watch (changed || watch.contains i) }
  | _ => e

/-- A station's transition to another state (R125), seen by the reply that watches it. -/
def State.enterState (s : State) (i : StationNo) (next : StationState) : State :=
  if s.stations[i].state = next then s
  else
    let s := s.onStation i fun st => { st with state := next }
    { s with req := { s.req with exec := s.req.exec.map (Exec.note i) } }

/-! ### The tracking table (R89 to R92) -/

/-- The key of a tracking entry. -/
def Track.key (t : Track) : Nat := t.tracking.toNat

/-- The tracking entry of a number. -/
def State.track (s : State) (t : Tracking) : Option Track := s.tracker.tracks.find? fun e => e.tracking == t

/-- The tracking entry of a number changed by `g`, which keeps its key; nothing when there is none. -/
def State.onTrack (s : State) (t : Tracking) (g : Track → Track) : State :=
  { s with tracker := { s.tracker with tracks := changeFirst (fun e => e.tracking == t) g s.tracker.tracks } }

/-- An entry's state replaced, its detail with it (R90). -/
def State.setTrack (s : State) (t : Tracking) (st : TrackState) : State :=
  s.onTrack t fun e => { e with state := st }

/-- A new entry stored (R89). -/
def State.addTrack (s : State) (e : Track) : State :=
  { s with tracker := { s.tracker with tracks := putKey Track.key e s.tracker.tracks } }

/-- An entry removed (R92). -/
def State.dropTrack (s : State) (t : Tracking) : State :=
  { s with tracker := { s.tracker with tracks := s.tracker.tracks.filter fun e => e.tracking != t } }

/-- The deadline that an entry gets on entering CIRCULATING or RETURNING now (R91). -/
def State.returnDeadline (s : State) : Timer := after s.link.time s.req.settings.returnTimeout

/-- The circuit count one higher, saturating at 16 (R91). -/
def State.bump (s : State) (t : Tracking) : State :=
  s.onTrack t fun e => { e with circuits := min 16 (e.circuits + 1) }

/-- An entry put into CIRCULATING with a new return deadline (R91). -/
def State.circulate (s : State) (t : Tracking) : State := s.setTrack t (.circulating s.returnDeadline)

/-- The article code of a case's snapshot, when it has one. -/
def State.snapCode (s : State) (t : Tracking) : Option ArticleCode := (s.track t).bind fun e => e.snap.map (·.code)

/-! ### Reports (R172 to R175, R177) -/

/-- The level of a report's kind (R172). -/
def State.levelOf (s : State) (b : ReportBody) : Nat := s.reports.levels.getD (b.kindCode - 1) 0

/-- The lowest level among queued reports. -/
def lowestLevel (q : List Report) : Nat := q.foldl (fun m r => min m r.level) 7

/-- The queue without its oldest report of level `v`. -/
def dropOldest (v : Nat) : List Report → List Report
  | [] => []
  | r :: rest => if r.level = v then rest else r :: dropOldest v rest

/-- The lost count one higher, saturating at 255 (R177). -/
def lostMore (n : Nat) : Nat := min 255 (n + 1)

/-- A report of level 1..7 reaching the queue: it joins the tail, or R175 applies at 32 reports. -/
def ReportUnit.take (u : ReportUnit) (r : Report) : ReportUnit :=
  if u.queue.length < Config.reportCapacity then { u with queue := u.queue ++ [r] }
  else if lowestLevel u.queue < r.level then
    { u with queue := dropOldest (lowestLevel u.queue) u.queue ++ [r], lost := lostMore u.lost }
  else { u with lost := lostMore u.lost }

/-- A report handed to the report unit (R172, R174): its level is read now, and a level of 0 keeps it out. -/
def report (b : ReportBody) (s : State) : State :=
  if s.levelOf b = 0 then s
  else { s with reports := s.reports.take { body := b, level := s.levelOf b, time := s.link.time } }

/-! ### Frames of port B (R186, R187) -/

/-- A node number as an address byte. -/
def node (n : Nat) : Byte := BitVec.ofNat 8 n

/-- A DECISION placed directly behind the last DECISION of the queue, or at the head (R187). -/
def insertDecision (f : OwnFrame) : List OwnFrame → List OwnFrame
  | [] => [f]
  | x :: rest => if (x :: rest).any OwnFrame.isDecision then x :: insertDecision f rest else f :: x :: rest

/-- A frame joining the port B own-frame queue (R187). -/
def joinOwn (f : OwnFrame) (q : List OwnFrame) : List OwnFrame :=
  if f.isDecision then insertDecision f q else q ++ [f]

/-- A frame issued: it joins the queue at once when a place is free and no frame waits, and waits otherwise (R187). -/
def Link.issue (l : Link) (f : OwnFrame) : Link :=
  if l.waitB.isEmpty && decide (l.ownB.length < Config.ownCapacity) then { l with ownB := joinOwn f l.ownB }
  else { l with waitB := l.waitB ++ [f] }

/-- A port B frame issued to a partner node, with the device's own node as source and tag 0 (R186). -/
def issueB (dst : Nat) (b : OwnBody) (s : State) : State :=
  { s with link := s.link.issue { dst := node dst, src := s.link.ownNode, tag := 0, body := b, final := false } }

/-- A DECISION to the sorter (R108). -/
def sendDecision (t : Tracking) (d : DecTarget) (s : State) : State :=
  issueB s.req.settings.sorterNode (.decision t d) s

/-! ### Responses (R153, R156) -/

/-- Whether the response slot and the waiting place both hold a frame (R156). -/
def State.placesFull (s : State) : Bool := s.link.slot.isSome && s.req.waiting.isSome

/-- A RESPONSE placed in the slot, or in the waiting place, or held in the request unit when both are taken (R156). -/
def placeResponse (f : OwnFrame) (s : State) : State :=
  if s.link.slot.isNone then { s with link := { s.link with slot := some f } }
  else if s.req.waiting.isNone then { s with req := { s.req with waiting := some f } }
  else { s with req := { s.req with heldFinal := some f } }

/-- The RESPONSE that answers a request frame (R153): to its source, with its tag. -/
def responseTo (own : Byte) (f : RxFrame) (r : Response) : OwnFrame :=
  { dst := f.src, src := own, tag := f.tag, body := .response r, final := false }

/-- A request answered; a broadcast request sends no response (R152). -/
def answer (f : RxFrame) (r : Response) (s : State) : State :=
  if isBroadcast f then s else placeResponse (responseTo s.link.ownNode f r) s

/-- A request answered DONE with its result fields. -/
def answerDone (kind : Byte) (f : RxFrame) (result : ResultFields) (s : State) : State :=
  answer f { kind := kind, completion := .done, reason := .none, field := 0, result := result } s

/-- The result fields of a REFUSED response: none, but for the remaining count of a multi-frame load (R153, R165).
A payload of the wrong length carries no count: it is a free value of 0..256 (log 5). -/
def refusedFields (kind : Byte) (p : List Byte) : ResultFields :=
  if kind = 0x14 then
    .remaining (if p.length = 1 then countOf (u8At p 0) else (Config.refusedLoadCount p).val)
  else if kind = 0x19 then
    .remaining (if p.length = 6 then countOf (u8At p 5) else (Config.refusedLoadCount p).val)
  else .empty

/-- A request answered REFUSED (R152, R154). -/
def refuse (kind : Byte) (reason : Reason) (field : Nat) (f : RxFrame) (s : State) : State :=
  answer f { kind := kind, completion := .refused, reason := reason, field := field,
             result := refusedFields kind f.payload } s

/-! ### The supervision timer (R170) -/

/-- The supervision timer set. -/
def State.setSup (s : State) (t : SupTimer) : State := { s with req := { s.req with sup := t } }

/-- The timer set running with the stored interval, or stopped by an interval of 0. -/
def armSupervision (s : State) : State :=
  s.setSup (if s.req.settings.supInterval = 0 then .stopped
            else .running (after s.link.time s.req.settings.supInterval))

/-- A valid frame, not a taken SET SETTINGS (R170, row 1). -/
def supervise (src : Byte) (s : State) : State :=
  if src.toNat = s.req.settings.controlNode ∧ s.req.sup ≠ .halted then armSupervision s else s

/-- A taken SET SETTINGS (R170, rows 2 and 3); `control` is the control node in force before it. -/
def superviseSettings (control : Nat) (src : Byte) (s : State) : State :=
  if src.toNat = control then armSupervision s
  else if s.req.settings.supInterval = 0 then s.setSup .stopped else s

end Sys2Proof.Machine
end

