-- ==== Sys2Proof/Machine/Lanes.lean ====
section
/-!
DEFINITION. The lane unit's operations (chapter 6): hold entry (R113, R114), the return of a listed case (R115), release
(R117 to R119), lane faults (R120), flush (R121, R122) and what RESTART does to a lane (R124).
-/

namespace Sys2Proof.Machine

/-- Whether a lane has room (R112). -/
def Lane.hasRoom (l : Lane) : Bool := decide (l.list.length < Config.laneDepth)

/-- Whether a tracking state is that of a confirmed lane entry (R112): HELD or RELEASING. -/
def TrackState.isConfirmed : TrackState → Bool
  | .held _ | .releasing _ => true
  | .circulating _ | .toStation _ _ | .spurHeld _ | .holdPending _ | .returning _ => false

/-- Whether a listed case is confirmed (R112). -/
def State.confirmed (s : State) (t : Tracking) : Bool :=
  match s.track t with
  | some e => e.state.isConfirmed
  | none => false

/-- The oldest unconfirmed entry of a lane (R112). -/
def State.oldestUnconfirmed (s : State) (k : LaneNo) : Option Tracking :=
  s.lanes[k].list.find? fun t => !s.confirmed t

/-- A READY lane entering FAULT (R120): the cause recorded, the flag cleared, LANE_FAULT queued with the count as it now
stands.  A lane that is not READY stays as it is. -/
def laneFault (k : LaneNo) (cause : LaneCause) (s : State) : State :=
  if s.lanes[k].state = .ready then
    let s := (s.onLane k fun l => { l with state := .fault, cause := cause }).setFlag k false
    report (.laneFault k cause s.lanes[k].list.length) s
  else s

/-- A lane that is READY and lists a case is flagged (R115, R116, R118). -/
def flagIfListed (k : LaneNo) (s : State) : State :=
  if s.lanes[k].flaggable then s.setFlag k true else s

/-- A hold entry: the case at the tail of the list, its entry HOLD_PENDING (R113). -/
def holdEntry (k : LaneNo) (t : Tracking) (s : State) : State :=
  (s.onLane k fun l => { l with list := l.list ++ [t] }).setTrack t (.holdPending k)

/-- LANE ENTERED (R114). -/
def laneEntered (k : LaneNo) (t : Tracking) (s : State) : State :=
  match s.lanes[k].state with
  | .flushing => s
  | .ready | .fault =>
    if s.oldestUnconfirmed k = some t then
      let s := s.setTrack t (.held k)
      if s.lanes[k].list.head? = some t then flagIfListed k s else s
    else laneFault k .entryMismatch s

/-- A listed case that has come back past the scan tunnel (R115); `st` is its tracking state then. -/
def laneReturn (k : LaneNo) (t : Tracking) (st : TrackState) (s : State) : State :=
  let wasHead := s.lanes[k].list.head? == some t
  let s := s.onLane k fun l => { l with list := l.list.filter fun u => u != t }
  match st with
  | .holdPending _ => if wasHead then flagIfListed k s else s
  | .releasing _ => laneFault k .caseReturned (s.onLane k fun l => { l with inFlight := none, expiry := none })
  | _ => laneFault k .caseReturned s

/-- LANE RELEASE of the head (R117). -/
def releaseHead (k : LaneNo) (t : Tracking) (s : State) : State :=
  let s := issueB s.req.settings.laneNode (.laneRelease k t) s
  let e := after s.link.time s.req.settings.releaseTimeout
  (s.onLane k fun l => { l with inFlight := some t, expiry := some e }).setTrack t (.releasing k)

/-- The head leaving the lane on LANE RELEASED (R118): RETURNING with circuits + 1, CASE_RELEASED, and the flag. -/
def headLeaves (k : LaneNo) (t : Tracking) (s : State) : State :=
  let s := s.onLane k fun l => { l with list := l.list.tail, inFlight := none, expiry := none }
  let s := (s.bump t).setTrack t (.returning s.returnDeadline)
  flagIfListed k (report (.caseReleased t k) s)

/-- LANE RELEASED (R118). -/
def laneReleased (k : LaneNo) (t : Tracking) (s : State) : State :=
  match s.lanes[k].state with
  | .flushing => s
  | .ready | .fault =>
    if s.lanes[k].inFlight = some t ∧ s.lanes[k].list.head? = some t then headLeaves k t s
    else laneFault k .releaseMismatch s

/-- LANE FLUSHED (R122). -/
def laneFlushed (k : LaneNo) (s : State) : State :=
  if s.lanes[k].state = .flushing then s.onLane k fun l => { l with state := .ready } else s

/-- A flush that is carried out (R121). -/
def flush (k : LaneNo) (s : State) : State :=
  let cases := s.lanes[k].list
  let s := issueB s.req.settings.laneNode (.laneFlush k) s
  let s := cases.foldl (fun s t => s.setTrack t (.returning s.returnDeadline)) s
  (s.onLane k fun l =>
    { l with list := [], inFlight := none, expiry := none, cause := .none, state := .flushing }).setFlag k false

/-- What RESTART does to one lane (R124). -/
def Lane.restarted (l : Lane) : Lane :=
  if l.state = .ready ∧ l.list = [] ∧ l.inFlight = none then { l with expiry := none }
  else { state := .fault, cause := .restart, list := [], inFlight := none, expiry := none }

/-- RESTART at the lane unit (R124), every flag cleared. -/
def restartLanes (s : State) : State := clearFlags { s with lanes := s.lanes.map Lane.restarted }

end Sys2Proof.Machine
end

