-- ==== Sys2Proof/Machine/Plans.lean ====
section
/-!
DEFINITION. The plan store's operations (chapter 4): the plan queue (R70), binding (R71, R72), line accounting (R73 to R76),
open and held quantities (R77, R78), part close, reopening and completion (R79 to R81), and the plan that an admission
makes (R65, R67).
-/

namespace Sys2Proof.Machine

/-! ### Lines and plans -/

/-- Whether a line is open (R77). -/
def PlanLine.isOpen (l : PlanLine) : Bool := decide (l.planned < l.required)

/-- Whether a plan has an open line (R71). -/
def Plan.hasOpen (p : Plan) : Bool := p.lines.any PlanLine.isOpen

/-- Whether every line of a plan has D = R (R81). -/
def Plan.complete (p : Plan) : Bool := p.lines.all fun l => l.placed == l.required

/-- The key of a plan. -/
def Plan.key (p : Plan) : Nat := p.id.toNat

/-- A held plan. -/
def State.plan (s : State) (id : PlanId) : Option Plan := s.plans.plans.find? fun p => p.id == id

/-- The plan that a build names, when it is held. -/
def State.planNamed (s : State) (i : StationNo) : Option Plan := s.builds[i].planId.bind s.plan

/-- The held plan of an id changed by `g`, which keeps its id. -/
def State.onPlan (s : State) (id : PlanId) (g : Plan → Plan) : State :=
  { s with plans := { s.plans with plans := changeFirst (fun p => p.id == id) g s.plans.plans } }

/-- A plan removed. -/
def State.dropPlan (s : State) (id : PlanId) : State :=
  { s with plans := { s.plans with plans := s.plans.plans.filter fun p => p.id != id } }

/-- Line `j` of a plan changed by `g`. -/
def Plan.onLine (p : Plan) (j : Nat) (g : PlanLine → PlanLine) : Plan := { p with lines := p.lines.modify j g }

/-- The plan that is BUILDING at a station (R69). -/
def State.planAt (s : State) (i : StationNo) : Option Plan :=
  s.plans.plans.find? fun p => p.state == .building && p.bound == some i

/-! ### The plan queue (R70) -/

/-- Whether `p` comes before `q` in the plan queue: due, then admission number. -/
def planBefore (p q : Plan) : Bool :=
  decide (p.due < q.due) || (p.due == q.due && decide (p.admission.toNat < q.admission.toNat))

/-- A plan put at its place; behind plans that it does not come before (log 16). -/
def queuePlan (p : Plan) : List Plan → List Plan
  | [] => [p]
  | q :: rest => if planBefore p q then p :: q :: rest else q :: queuePlan p rest

/-- The plan queue: the QUEUED plans in order. -/
def planQueue (ps : List Plan) : List Plan := (ps.filter fun p => p.state == .queued).foldl (fun q p => queuePlan p q) []

/-! ### Binding (R71, R72) -/

/-- A plan bound to a station: the build store's binding (R3), the plan BUILDING there, the station BUILDING, and the
lane flags raised (R116). -/
def bindPlan (i : StationNo) (p : Plan) (e : BaseEntry) (s : State) : State :=
  let s := s.onBuild i fun b => b.bind p.id p.part s.stations[i].baseKind e
  let s := s.onPlan p.id fun q => { q with state := .building, bound := some i }
  raiseFlags (s.enterState i .building)

/-- The first plan in queue order that a station can take (R71). -/
def planFor (s : State) (i : StationNo) : Option Plan :=
  (planQueue s.plans.plans).find? fun p => p.baseKind == s.stations[i].baseKind && p.hasOpen

/-- One station's turn in a binding attempt: IDLE and ready, it takes the first suitable plan unless the build store
refuses the binding (R3, R71, R72). -/
def offerPlan (s : State) (i : StationNo) : State :=
  if s.stations[i].state = .idle ∧ s.stations[i].ready = true ∧ s.builds[i].free = true then
    match planFor s i, s.tables.bases[s.stations[i].baseKind] with
    | some p, some e => bindPlan i p e s
    | _, _ => s
  else s

/-- A binding attempt (R71): the stations in number order. -/
def bindingAttempt (s : State) : State := allStations.foldl offerPlan s

/-! ### Line accounting (R73 to R76) -/

/-- Whether the plan store takes P + 1 on line `j` of plan `id` (R73). -/
def State.takesPlanned (s : State) (id : PlanId) (j : Nat) : Bool :=
  match (s.plan id).bind fun p => p.lines[j]? with
  | some l => l.isOpen
  | none => false

/-- P + 1 (R73); the asker has tested `takesPlanned`. -/
def planMore (id : PlanId) (j : Nat) (s : State) : State :=
  if s.takesPlanned id j then
    s.onPlan id fun p => p.onLine j fun l => { l with planned := l.planned + 1 }
  else s

/-- A part number one higher, at most 15 (R79, R80). -/
def nextPart (n : Nat) : Nat := min Config.maxPart (n + 1)

/-- A DRAINING plan that has taken a P − 1 returns to the plan queue as the next part (R80). -/
def Plan.reopened (p : Plan) : Plan :=
  if p.state = .draining then { p with state := .queued, part := nextPart p.part } else p

/-- A plan whose line `j` is changed by a P − 1, with the binding attempt that reopening makes (R74, R76, R80). -/
def lessPlan (id : PlanId) (p : Plan) (j : Nat) (g : PlanLine → PlanLine) (s : State) : State :=
  let s := s.onPlan id fun q => (q.onLine j g).reopened
  if p.state = .draining then bindingAttempt s else s

/-- P − 1 (R74): dropped when the plan is not held or the line stands at P = D. -/
def planLess (id : Option PlanId) (j : Nat) (s : State) : State :=
  match id.bind s.plan with
  | none => s
  | some p =>
    match p.lines[j]? with
    | none => s
    | some l =>
      if l.placed < l.planned then lessPlan p.id p j (fun l => { l with planned := l.planned - 1 }) s else s

/-- D − 1 and P − 1 of a confirmed case removed by a discard (R76): dropped whole when D = 0. -/
def revertPlaced (id : Option PlanId) (j : Nat) (s : State) : State :=
  match id.bind s.plan with
  | none => s
  | some p =>
    match p.lines[j]? with
    | none => s
    | some l =>
      if 0 < l.placed then
        lessPlan p.id p j (fun l => { l with planned := l.planned - 1, placed := l.placed - 1 }) s
      else s

/-- The completion of a plan (R81): PLAN_DONE queued and the record removed. -/
def completePlan (p : Plan) (s : State) : State := (report (.planDone p.id p.part) s).dropPlan p.id

/-- D + 1 with the completion test (R75, R81).  The second part is the station that gets a completion notice. -/
def placeMore (id : Option PlanId) (j : Nat) (s : State) : State × Option StationNo :=
  match id.bind s.plan with
  | none => (s, none)
  | some p =>
    match p.lines[j]? with
    | none => (s, none)
    | some l =>
      if l.placed < l.planned then
        let p' := p.onLine j fun l => { l with placed := l.placed + 1 }
        let s := s.onPlan p.id fun q => q.onLine j fun l => { l with placed := l.placed + 1 }
        if p'.complete then (completePlan p' s, if p.state = .building then p.bound else none) else (s, none)
      else (s, none)

/-! ### Open and held quantities (R77, R78) -/

/-- The open quantity of an article in one plan. -/
def Plan.openFor (p : Plan) (code : ArticleCode) : Nat :=
  (p.lines.map fun l => if l.code = code then l.required - l.planned else 0).sum

/-- The open quantity of an article over every held plan (R77). -/
def State.openQuantity (s : State) (code : ArticleCode) : Nat := (s.plans.plans.map fun p => p.openFor code).sum

/-- Whether a tracking state counts as held (R78). -/
def TrackState.isHeld : TrackState → Bool
  | .holdPending _ | .held _ | .releasing _ | .returning _ => true
  | .circulating _ | .toStation _ _ | .spurHeld _ => false

/-- The held quantity of an article, not counting the case `but` (R78, R100). -/
def State.heldQuantity (s : State) (code : ArticleCode) (but : Tracking) : Nat :=
  s.tracker.tracks.countP fun e =>
    e.tracking != but && e.state.isHeld && (match e.snap with | some a => a.code == code | none => false)

/-! ### Part close (R79) -/

/-- The plan that leaves BUILDING: QUEUED as the next part with an open line, DRAINING without. -/
def Plan.closed (p : Plan) : Plan :=
  if p.hasOpen then { p with state := .queued, part := nextPart p.part, bound := none }
  else { p with state := .draining, bound := none }

/-- The part of the plan BUILDING at a station closed, with the binding attempt that a requeued plan makes (R79). -/
def closePart (i : StationNo) (s : State) : State :=
  match s.planAt i with
  | none => s
  | some p =>
    let s := s.onPlan p.id Plan.closed
    if p.hasOpen then bindingAttempt s else s

/-! ### Admission (R65 to R68) -/

/-- The header checks of ADMIT PLAN that name a field, in index order (R66). -/
def State.badHeader (s : State) (p : List Byte) : Option Nat :=
  let id : PlanId := BitVec.ofNat 16 (u16At p 0)
  firstBad
    [(1, id != 0 && (s.plan id).isNone && s.builds.toList.all fun b => b.planId != some id),
     (3, decide (u8At p 4 ≤ 3)),
     (4, decide (1 ≤ u8At p 5 ∧ u8At p 5 ≤ 48))]

/-- A line record put behind the lines of its own drop and of higher drops (R65). -/
def insertLine (l : LineRec) : List LineRec → List LineRec
  | [] => [l]
  | m :: rest => if m.drop < l.drop then l :: m :: rest else m :: insertLine l rest

/-- The stored order of the lines: drops descending, arrival order within a drop (R65). -/
def orderLines (ls : List LineRec) : List LineRec := ls.foldl (fun acc l => insertLine l acc) []

/-- The plan that an admission record makes (R67, steps 1 to 4). -/
def planOf (a : Admission) (number : BitVec 16) : Plan :=
  { id := a.id, due := a.due, baseKind := a.baseKind, part := 1, admission := number, state := .queued, bound := none,
    lines := (orderLines a.lines).map fun l =>
      { drop := l.drop, code := l.code, required := l.required, planned := 0, placed := 0 } }

/-- The plan made from the admission record, queued, the counter incremented, and the binding attempt (R67, R68). -/
def makePlan (a : Admission) (s : State) : State :=
  bindingAttempt
    { s with plans :=
      { plans := putKey Plan.key (planOf a s.plans.counter) s.plans.plans, admission := none,
        counter := s.plans.counter + 1 } }

end Sys2Proof.Machine
end

