-- ==== Sys2Proof/Machine/Stations.lean ====
section
/-!
DEFINITION. The station unit's operations (chapter 7): orders (R128, R150), withdrawal (R137), the failure cascade
(R133), FAULT (R145), the ends of orders (R132, R134, R146), closing and the exchange call (R139, R141, R142), replans
asked for and removed (R105, R145) and what RESTART does to a station (R151).
-/

namespace Sys2Proof.Machine

/-! ### Replans (R105) -/

/-- The waiting cases that have waited longest join the replan queue while it has room. -/
def refillReplans (s : State) : State :=
  let room := Config.replanCapacity - s.engine.replans.length
  { s with engine := { s.engine with
    replans := s.engine.replans ++ s.engine.waiting.take room, waiting := s.engine.waiting.drop room } }

/-- A replan asked for: queued, or its case waits (R105). -/
def askReplan (i : StationNo) (t : Tracking) (s : State) : State :=
  if s.engine.replans.length < Config.replanCapacity then
    { s with engine := { s.engine with replans := s.engine.replans ++ [{ tracking := t, station := i }] } }
  else { s with engine := { s.engine with waiting := s.engine.waiting ++ [{ tracking := t, station := i }] } }

/-- The replans and waiting cases that `keep` refuses are removed, and places freed are filled (R98, R105). -/
def keepReplans (keep : Replan → Bool) (s : State) : State :=
  refillReplans { s with engine := { s.engine with
    replans := s.engine.replans.filter keep, waiting := s.engine.waiting.filter keep } }

/-- Whether a job is the replan job of a station. -/
def Work.replansAt (i : StationNo) : Work → Bool
  | .replan r => r.station == i
  | .arrival _ | .laneHead _ _ => false

/-- A station entering FAULT: its replans leave the queue, its waiting cases stop waiting, and its replan job in
progress is to end with no order (R145, step 4). -/
def cancelReplans (i : StationNo) (s : State) : State :=
  let s := keepReplans (fun r => r.station != i) s
  { s with engine := { s.engine with
    job := s.engine.job.map fun j => if j.work.replansAt i then { j with cancelled := true } else j } }

/-! ### Orders (R128) -/

/-- The case index of a PLACE order. -/
def Order.caseIndex (o : Order) : Option Nat :=
  match o.target with
  | .place k => some k
  | .reject _ => none

/-- Whether an order is a REJECT order with reason DISCARD. -/
def Order.discards (o : Order) : Bool := o.target == .reject .discard

/-- The cell node that serves a station, from the settings record. -/
def State.cellNode (s : State) (i : StationNo) : Nat := s.req.settings.cellNodeOf i

/-- The take timer's expiry when it starts now (R138). -/
def State.takeExpiry (s : State) : Timer := after s.link.time s.req.settings.takeTimeout

/-- A station record with a new ISSUED order at the tail of its queue (R128): the next sequence is taken, the withdrawn
range cleared if it holds that sequence (R137), the take timer started if the queue was empty (R138). -/
def Station.issue (st : Station) (t : Tracking) (target : OrderTarget) (takeExpiry : Timer) : Station :=
  { st with
    orders := st.orders ++ [{ seq := st.nextSeq, tracking := t, target := target, state := .issued }]
    nextSeq := st.nextSeq + 1
    withdrawn := if st.withdrawn.contains st.nextSeq then [] else st.withdrawn
    takeExpiry := if st.orders.isEmpty then some takeExpiry else st.takeExpiry }

/-- An order issued to the cell: the queue, the ORDER frame, and the case's entry TO_STATION (R128, R102). -/
def issueOrder (i : StationNo) (t : Tracking) (target : OrderTarget) (frame : OrderFrameTarget) (s : State) : State :=
  let q := s.stations[i].nextSeq
  let s := s.onStation i fun st => st.issue t target s.takeExpiry
  let s := issueB (s.cellNode i) (.order i q t frame) s
  s.setTrack t (.toStation i q)

/-- The PLACE target of an ORDER frame, from the case record (R128). -/
def placeFrame (c : CaseRec) : OrderFrameTarget :=
  .place (50 * c.x + 25 * c.a) (50 * c.y + 25 * c.b) c.rest c.turned c.weight

/-- A case leaving a spur list (R129). -/
def leaveSpur (i : StationNo) (t : Tracking) (s : State) : State :=
  s.onStation i fun st => { st with spur := st.spur.filter fun e => e.tracking != t }

/-- A REJECT order for a case of the station's spur (R106, R150). -/
def rejectOrder (i : StationNo) (t : Tracking) (r : RejectReason) (s : State) : State :=
  issueOrder i t (.reject r) (.reject r) (leaveSpur i t s)

/-- A REJECT order with reason DISCARD for the first discard-marked case of the spur list, when the station is CLOSING
and its queue has room (R150). -/
def issueDiscard (i : StationNo) (s : State) : State :=
  if s.stations[i].state = .closing ∧ s.stations[i].orders.length < Config.orderDepth then
    match s.stations[i].spur.find? SpurEntry.discard with
    | some e => rejectOrder i e.tracking .discard s
    | none => s
  else s

/-- As many of these orders as the queue has room for (R150); it has room for four at most. -/
def issueDiscards (i : StationNo) (s : State) : State :=
  issueDiscard i (issueDiscard i (issueDiscard i (issueDiscard i s)))

/-! ### Withdrawal (R137) -/

/-- The runs of consecutive sequences, in order: first sequence and count. -/
def runsFrom (first : OrderSeq) (count : Nat) : List OrderSeq → List (OrderSeq × Nat)
  | [] => [(first, count)]
  | q :: rest =>
    if q = first + BitVec.ofNat 8 count then runsFrom first (count + 1) rest
    else (first, count) :: runsFrom q 1 rest

/-- The runs of a list of sequences. -/
def seqRuns : List OrderSeq → List (OrderSeq × Nat)
  | [] => []
  | q :: rest => runsFrom q 1 rest

/-- WITHDRAW frames for the named sequences, one for each run, and the withdrawn range set to them (R137). -/
def withdraw (i : StationNo) (seqs : List OrderSeq) (s : State) : State :=
  if seqs.isEmpty then s
  else
    let s := (seqRuns seqs).foldl (fun s r => issueB (s.cellNode i) (.withdraw i r.1 r.2) s) s
    s.onStation i fun st => { st with withdrawn := seqs }

/-! ### Cutting a build back -/

/-- A truncation of a station's build from index `k` (R13), with the lane flags when it removes a case (R116). -/
def truncateBuild (i : StationNo) (k : Nat) (s : State) : State :=
  if k < s.builds[i].cases.length then raiseFlags (s.onBuild i fun b => b.truncate k) else s

/-- The cases of the PLACE orders `os` leave the build, which is truncated from the first of them, and P − 1 is taken
for each on the line its case record names (R133, steps 2 and 3; R145; R146; R151). -/
def unplace (i : StationNo) (os : List Order) (s : State) : State :=
  let b := s.builds[i]
  let indices := os.filterMap Order.caseIndex
  match indices with
  | [] => s
  | k :: _ =>
    let lines := indices.filterMap fun j => b.cases[j]?.map (·.line)
    lines.foldl (fun s j => planLess b.planId j s) (truncateBuild i k s)

/-- The cases of withdrawn orders on the spur: SPUR_HELD, at the tail of the spur list in issue order, the discard mark
set for a REJECT order with reason DISCARD (R129, R133, R145). -/
def toSpur (i : StationNo) (os : List Order) (s : State) : State :=
  let s := s.onStation i fun st =>
    { st with spur := st.spur ++ os.map fun o => { tracking := o.tracking, discard := o.discards } }
  os.foldl (fun s o => s.setTrack o.tracking (.spurHeld i)) s

/-! ### Closing and exchange (R139, R141, R142) -/

/-- EXCHANGE CALL to the transport (R142). -/
def exchangeCall (i : StationNo) (s : State) : State :=
  let b := s.builds[i]
  issueB s.req.settings.transportNode
    (.exchangeCall i b.planId b.part b.cases.length b.totalWeight b.topHeight) s

/-- Entry into AWAIT_EXCHANGE: EXCHANGE CALL and BUILD_CLOSED (R142). -/
def awaitExchange (i : StationNo) (s : State) : State :=
  let b := s.builds[i]
  let s := exchangeCall i (s.enterState i .awaitExchange)
  report (.buildClosed i b.planId b.part b.cases.length b.totalWeight b.topHeight s.stations[i].close) s

/-- The closing test (R139). -/
def closingTest (i : StationNo) (s : State) : State :=
  if s.stations[i].state = .closing ∧ s.stations[i].orders = [] ∧ s.stations[i].spur = [] then awaitExchange i s
  else s

/-- A station entering CLOSING with its reason, and the closing test (R139). -/
def enterClosing (i : StationNo) (r : CloseReason) (s : State) : State :=
  closingTest i ((s.onStation i fun st => { st with close := some r }).enterState i .closing)

/-- A completion notice (R141). -/
def completionNotice (i : StationNo) (s : State) : State :=
  match s.stations[i].state with
  | .building =>
    let s := s.onStation i fun st => { st with close := some .complete }
    if s.stations[i].orders = [] ∧ s.stations[i].spur = [] then awaitExchange i s else s.enterState i .closing
  | .fault => s.onStation i fun st => { st with close := some .complete }
  | _ => s

/-- The completion notice that a D + 1 may cause. -/
def notice (n : Option StationNo) (s : State) : State :=
  match n with
  | some i => completionNotice i s
  | none => s

/-! ### FAULT (R145) -/

/-- The oldest order when a fault finds it TAKEN: it becomes UNKNOWN (R145, step 2). -/
def Order.unknownIfTaken (o : Order) : Order := if o.state = .taken then { o with state := .unknown } else o

/-- The sequence and tracking number of the UNKNOWN order of a queue. -/
def unknownOf (os : List Order) : Option (OrderSeq × Tracking) :=
  (os.find? fun o => o.state == .unknown).map fun o => (o.seq, o.tracking)

/-- Entry into FAULT from BUILDING or CLOSING (R145, steps 1 to 6). -/
def faultWorking (i : StationNo) (cause : StationCause) (s : State) : State :=
  let before := s.stations[i].state
  let orders := s.stations[i].orders.map Order.unknownIfTaken
  let issued := orders.filter fun o => o.state == .issued
  let kept := orders.filter fun o => o.state != .issued
  let s := s.onStation i fun st => { st with takeExpiry := none, placeExpiry := none, orders := kept }
  let s := withdraw i (issued.map Order.seq) s
  let s := toSpur i issued (unplace i issued s)
  let s := cancelReplans i s
  let s := (s.onStation i fun st => { st with cause := cause }).enterState i .fault
  report (.stationFault i cause before (unknownOf kept)) s

/-- Entry into FAULT from EXCHANGING (R145). -/
def faultExchange (i : StationNo) (s : State) : State :=
  let s := (s.onStation i fun st => { st with exchangeExpiry := none, cause := .exchangeTimeout }).enterState i .fault
  report (.stationFault i .exchangeTimeout .exchanging none) s

/-- A fault event of a cause that strikes in BUILDING or CLOSING; elsewhere it does nothing (R145). -/
def stationFault (i : StationNo) (cause : StationCause) (s : State) : State :=
  if s.stations[i].state = .building ∨ s.stations[i].state = .closing then faultWorking i cause s else s

/-! ### The failure cascade (R133) -/

/-- The failed order and every later order leave the queue, which keeps the older ones; the timers stop when none is
left; the build and the counts are cut back; WITHDRAW names the sequences `named` (R133, steps 1 to 4). -/
def cutOrders (i : StationNo) (kept leaving : List Order) (named : List OrderSeq) (s : State) : State :=
  let s := s.onStation i fun st =>
    { st with
      orders := kept
      takeExpiry := if kept.isEmpty then none else st.takeExpiry
      placeExpiry := if kept.isEmpty then none else st.placeExpiry }
  withdraw i named (unplace i leaving s)

/-- The cascade of the outcomes of R134 and of R136: the later cases return to the spur, replans are asked for the
unmarked ones in that order, and the marked ones get REJECT orders (R133, steps 5 and 6).  Where marked cases wait on the
spur from before, step 6 gives an order to each that joined and R150 to the first of the list; the model follows R150, up
to the room of the queue, so a case that joined may wait (DESIGN CHOICE, log 27; unsafe). -/
def cascade (i : StationNo) (kept : List Order) (failed : Order) (later : List Order) (named : List OrderSeq)
    (s : State) : State :=
  let s := toSpur i later (cutOrders i kept (failed :: later) named s)
  let s := (later.filter fun o => !o.discards).foldl (fun s o => askReplan i o.tracking s) s
  issueDiscards i s

/-! ### The ends of orders -/

/-- The new oldest order's take timer starts (R132, R138). -/
def startTake (i : StationNo) (s : State) : State :=
  s.onStation i fun st =>
    { st with takeExpiry := match st.orders with
        | o :: _ => if o.state = .issued then some s.takeExpiry else none
        | [] => none }

/-- A case set down (R132, PLACE): confirmed, counted as placed, its entry removed, CASE_PLACED queued.  The second part
is the station that gets a completion notice. -/
def casePlaced (i : StationNo) (o : Order) (k : Nat) (s : State) : State × Option StationNo :=
  let b := s.builds[i]
  match b.cases[k]? with
  | none => (s.dropTrack o.tracking, none)
  | some c =>
    let s := s.onBuild i fun b => b.confirm k o.tracking
    let r := placeMore b.planId c.line s
    (report (.casePlaced o.tracking c.code i b.planId b.part c.line k) (r.1.dropTrack o.tracking), r.2)

/-- A case put into the reject chute (R132, REJECT). -/
def caseChuted (o : Order) (r : RejectReason) (s : State) : State :=
  let code := s.snapCode o.tracking
  report (.caseRejected o.tracking code r) (s.dropTrack o.tracking)

/-- The effect of DONE on the case, by the order's target (R132, R146). -/
def doneCase (i : StationNo) (o : Order) (s : State) : State × Option StationNo :=
  match o.target with
  | .place k => casePlaced i o k s
  | .reject r => (caseChuted o r s, none)

/-- The case of a failed order is lost (R134): entry removed, CASE_LOST queued. -/
def caseLost (i : StationNo) (o : Order) (s : State) : State :=
  let code := s.snapCode o.tracking
  report (.caseLost o.tracking code i) (s.dropTrack o.tracking)

/-- The case of a failed order is on the loop (R134): CIRCULATING, circuits + 1, a new return deadline. -/
def caseMissed (t : Tracking) (s : State) : State := (s.bump t).circulate t

/-- The order `o` leaves the head of the queue (R132, R146). -/
def popOrder (i : StationNo) (s : State) : State := s.onStation i fun st => { st with orders := st.orders.tail }

/-- TAKEN of the oldest order (R131). -/
def orderTaken (i : StationNo) (s : State) : State :=
  let e := after s.link.time s.req.settings.placeTimeout
  s.onStation i fun st =>
    { st with
      orders := st.orders.modifyHead fun o => { o with state := .taken }
      takeExpiry := none, placeExpiry := some e }

/-- DONE of the oldest order (R132), with the notice after it (R141). -/
def orderDone (i : StationNo) (o : Order) (s : State) : State :=
  let s := (popOrder i s).onStation i fun st => { st with placeExpiry := none }
  let r := doneCase i o s
  notice r.2 (closingTest i (issueDiscards i (startTake i r.1)))

/-- FAILED DROPPED of the oldest order (R134).  The case is settled before the closing test, so CASE_LOST is queued before
BUILD_CLOSED (DESIGN CHOICE, log 24; unsafe). -/
def orderDropped (i : StationNo) (o : Order) (s : State) : State :=
  let later := s.stations[i].orders.tail
  closingTest i (caseLost i o (cascade i [] o later (later.map Order.seq) s))

/-- FAILED NO_CASE of the oldest order (R134); the closing test comes last, as in `orderDropped` (log 24). -/
def orderNoCase (i : StationNo) (o : Order) (s : State) : State :=
  let later := s.stations[i].orders.tail
  closingTest i (caseMissed o.tracking (cascade i [] o later (later.map Order.seq) s))

/-- FAILED BLOCKED of the oldest order (R135): the case returns to the spur ahead of the later ones, no replan is asked
for and no REJECT order issued, and the station enters FAULT. -/
def orderBlocked (i : StationNo) (o : Order) (s : State) : State :=
  let later := s.stations[i].orders.tail
  let s := cutOrders i [] (o :: later) (later.map Order.seq) s
  stationFault i .blocked (toSpur i (o :: later) s)

/-- A reply in BUILDING or CLOSING (R130, step 4). -/
def replyWorking (i : StationNo) (q : OrderSeq) (out : ReplyOutcome) (s : State) : State :=
  match s.stations[i].orders with
  | [] => stationFault i .sequence s
  | o :: _ =>
    if o.seq = q then
      match o.state, out with
      | .issued, .taken => orderTaken i s
      | .issued, .noCase => orderNoCase i o s
      | .taken, .done => orderDone i o s
      | .taken, .dropped => orderDropped i o s
      | .taken, .blocked => orderBlocked i o s
      | _, _ => stationFault i .sequence s
    else stationFault i .sequence s

/-- The order `o` taken out of the queue by its sequence (R146). -/
def endOrder (i : StationNo) (o : Order) (s : State) : State :=
  s.onStation i fun st => { st with orders := st.orders.filter fun p => p.seq != o.seq }

/-- The case at the head of the spur list (R146, FAILED BLOCKED). -/
def headSpur (i : StationNo) (o : Order) (s : State) : State :=
  (s.onStation i fun st => { st with spur := { tracking := o.tracking, discard := o.discards } :: st.spur }).setTrack
    o.tracking (.spurHeld i)

/-- A reply in FAULT (R146): it resolves the UNKNOWN order it names, and any other is discarded. -/
def replyFault (i : StationNo) (q : OrderSeq) (out : ReplyOutcome) (s : State) : State :=
  match s.stations[i].orders.find? fun o => o.state == .unknown && o.seq == q with
  | none => s
  | some o =>
    match out with
    | .taken => s
    | .done => let r := doneCase i o (endOrder i o s); notice r.2 r.1
    | .dropped => caseLost i o (unplace i [o] (endOrder i o s))
    | .noCase => caseMissed o.tracking (unplace i [o] (endOrder i o s))
    | .blocked => headSpur i o (unplace i [o] (endOrder i o s))

/-- An ORDER REPLY that has passed its checks (R130). -/
def orderReply (i : StationNo) (q : OrderSeq) (out : ReplyOutcome) (s : State) : State :=
  if s.stations[i].withdrawn.contains q then s
  else match s.stations[i].state with
    | .fault => replyFault i q out s
    | .building | .closing => replyWorking i q out s
    | .offline | .idle | .awaitExchange | .exchanging => s

/-! ### Acknowledge (R147 to R149) -/

/-- The UNKNOWN order resolved by a disposition: 1 PLACED, any other REMOVED (R148, step 1). -/
def resolveUnknown (i : StationNo) (disposition : Nat) (s : State) : State :=
  match s.stations[i].orders.find? fun o => o.state == .unknown with
  | none => s
  | some o =>
    if disposition = 1 then let r := doneCase i o (endOrder i o s); notice r.2 r.1
    else caseMissed o.tracking (unplace i [o] (endOrder i o s))

/-- An acknowledge with keep (R148). -/
def keepBuild (i : StationNo) (disposition : Nat) (s : State) : State :=
  let s := resolveUnknown i disposition s
  let s := s.onStation i fun st => { st with cause := .none }
  let s := if s.stations[i].close = none then raiseFlags (s.enterState i .building) else s.enterState i .closing
  let unmarked := s.stations[i].spur.filter fun e => !e.discard
  let s := unmarked.foldl (fun s e => askReplan i e.tracking s) s
  closingTest i (issueDiscards i s)

/-- One case of a discarded build reverted (R76, R149). -/
def revertCase (id : Option PlanId) (s : State) (c : CaseRec) : State :=
  match c.status with
  | .confirmed => revertPlaced id c.line s
  | .provisional => planLess id c.line s

/-- An acknowledge with discard (R149). -/
def discardBuild (i : StationNo) (disposition : Nat) (s : State) : State :=
  let s := resolveUnknown i disposition s
  let b := s.builds[i]
  let s := b.cases.foldl (revertCase b.planId) (truncateBuild i 0 s)
  let s := report (.buildDiscarded i b.planId b.part b.cases.length) s
  let s := closePart i s
  let s := s.onStation i fun st =>
    { st with spur := st.spur.map fun e => { e with discard := true }, cause := .none, close := some .discard }
  closingTest i (issueDiscards i (s.enterState i .closing))

/-! ### Split (R82) -/

/-- The part at an exhausted station split, when the station is BUILDING and a plan is BUILDING there. -/
def split (s : State) (i : StationNo) : State :=
  if s.stations[i].state = .building ∧ (s.planAt i).isSome then enterClosing i .split (closePart i s) else s

/-! ### RESTART (R151) -/

/-- What RESTART does to one station. -/
def restartStation (s : State) (i : StationNo) : State :=
  let orders := s.stations[i].orders
  let s := s.onStation i fun st => { st with spur := [], takeExpiry := none, placeExpiry := none, orders := [] }
  if orders.isEmpty then
    match s.stations[i].state with
    | .closing => closingTest i s
    | .exchanging =>
      let e := after s.link.time s.req.settings.exchangeTimeout
      s.onStation i fun st => { st with exchangeExpiry := some e }
    | .building | .fault | .offline | .idle | .awaitExchange => s
  else
    let s := unplace i orders (withdraw i (orders.map Order.seq) s)
    (s.onStation i fun st => { st with cause := .restart }).enterState i .fault

end Sys2Proof.Machine
end

