-- ==== Sys2Proof/Machine/Planning.lean ====
section
/-!
DEFINITION. The planning engine's runs: the choice across stations and lines (R37 to R41), replan evaluations (R42),
lane-head evaluations (R43), probes (R44 to R46), and the hold-or-pass choice (R100, R101).
A run reads the state as it stands at its step: those are its copies (R20; log 11).  Nothing here changes the state.
-/

namespace Sys2Proof.Machine

/-! ### Lines -/

/-- A line put behind the lines of its own drop and of higher drops. -/
def insertOpen (x : Nat × PlanLine) : List (Nat × PlanLine) → List (Nat × PlanLine)
  | [] => [x]
  | y :: rest => if y.2.drop < x.2.drop then x :: y :: rest else y :: insertOpen x rest

/-- The open lines for an article in a plan with their indices, highest drop first (R39). -/
def Plan.openLines (p : Plan) (code : ArticleCode) : List (Nat × PlanLine) :=
  ((p.lines.mapIdx fun j l => (j, l)).filter fun x => x.2.isOpen && x.2.code == code).foldl
    (fun acc x => insertOpen x acc) []

/-! ### Evaluations of one station -/

/-- The kind matrix entry of row `i` and column `j` (R57). -/
def Tables.mayRest (t : Tables) (i j : PackKind) : Bool := t.kinds.getD (8 * i.val + j.val) false

/-- The base entry that a run reads for a station: that of its build's base kind (R20). -/
def State.baseOfBuild (s : State) (i : StationNo) : Option BaseEntry :=
  s.builds[i].binding.bind fun g => s.tables.bases[g.baseKind]

/-- The inputs of an evaluation at station `i` (R19, R20). -/
def evalInput (s : State) (i : StationNo) (e : BaseEntry) (art : Article) (w drop : Nat) : EvalInput :=
  { article := art, weight := w, build := s.builds[i], base := e, mayRest := s.tables.mayRest,
    levelTol := s.req.settings.levelTol, drop := drop }

/-- The evaluation of one open line at station `i`. -/
def evalLine (s : State) (i : StationNo) (e : BaseEntry) (art : Article) (w : Nat) (x : Nat × PlanLine) : EvalResult :=
  evaluate (evalInput s i e art w x.2.drop) i (some x.1)

/-- The lines tried in order, up to the first with a feasible candidate (R39). -/
def tryLines (ev : Nat × PlanLine → EvalResult) : List (Nat × PlanLine) → List EvalResult
  | [] => []
  | x :: rest => if (ev x).best.isSome then [ev x] else ev x :: tryLines ev rest

/-- The evaluations made at station `i` for an article, or none when nothing is evaluated there: no held plan, or no
base entry (log 20). -/
def evalStation (s : State) (i : StationNo) (art : Article) (w : Nat) : Option (List EvalResult) :=
  match s.planNamed i, s.baseOfBuild i with
  | some p, some e => some (tryLines (evalLine s i e art w) (p.openLines art.code))
  | _, _ => none

/-- The placement that a result gives: its line, drop and best candidate (R40). -/
def EvalResult.placement (r : EvalResult) : Option Placement :=
  match r.line, r.best with
  | some j, some b => some { station := r.station, line := j, drop := r.drop, revision := r.revision, best := b }
  | _, _ => none

/-- The placement among the results at a station: the first line with a feasible candidate (R39). -/
def placementIn (rs : List EvalResult) : Option Placement := rs.findSome? EvalResult.placement

/-! ### The station-choice run (R37 to R41) -/

/-- Whether a station is a candidate for an article (R37). -/
def isCandidate (s : State) (code : ArticleCode) (i : StationNo) : Bool :=
  s.stations[i].state == .building && s.stations[i].ready
    && decide (s.stations[i].orders.length < Config.orderDepth)
    && (match s.planNamed i with
        | some p => p.lines.any fun l => l.isOpen && l.code == code
        | none => false)

/-- The due of the plan that a station's build names. -/
def State.dueAt (s : State) (i : StationNo) : Nat :=
  match s.planNamed i with
  | some p => p.due
  | none => 0

/-- A station put behind the stations of its own due and of lower dues. -/
def insertStation (s : State) (i : StationNo) : List StationNo → List StationNo
  | [] => [i]
  | j :: rest => if s.dueAt i < s.dueAt j then i :: j :: rest else j :: insertStation s i rest

/-- Stations ordered by due, then by number (R38). -/
def byDue (s : State) (is : List StationNo) : List StationNo := is.foldl (fun acc i => insertStation s i acc) []

/-- Whether an evaluated station that yielded no placement is exhausted (R41). -/
def isExhausted (s : State) (i : StationNo) (rs : List EvalResult) : Bool :=
  rs.any EvalResult.topped && (match s.baseOfBuild i with
    | some e => decide (e.closeHeight ≤ s.builds[i].topHeight)
    | none => false)

/-- The stations evaluated in order, up to the first that yields a placement; the second part holds the stations found
exhausted (R38 to R41). -/
def chooseFrom (s : State) (art : Article) (w : Nat) : List StationNo → Option Placement × List StationNo
  | [] => (none, [])
  | i :: rest =>
    match evalStation s i art w with
    | none => chooseFrom s art w rest
    | some rs =>
      match placementIn rs with
      | some p => (some p, [])
      | none =>
        let r := chooseFrom s art w rest
        (r.1, if isExhausted s i rs then i :: r.2 else r.2)

/-- A station-choice run among the stations `is` (R37 to R41). -/
def chooseAmong (s : State) (art : Article) (w : Nat) (is : List StationNo) : Option Placement × List StationNo :=
  chooseFrom s art w (byDue s (is.filter (isCandidate s art.code)))

/-- The station-choice run of an arrival or a lane head. -/
def stationChoice (s : State) (art : Article) (w : Nat) : Option Placement × List StationNo :=
  chooseAmong s art w allStations

/-! ### Hold or pass (R100, R101) -/

/-- A lane that a hold decision may choose, compared by its count (R101). -/
def betterLane (s : State) (acc : Option LaneNo) (k : LaneNo) : Option LaneNo :=
  if s.lanes[k].state = .ready ∧ s.lanes[k].hasRoom = true then
    match acc with
    | none => some k
    | some j => if s.lanes[k].list.length < s.lanes[j].list.length then some k else some j
  else acc

/-- The lane of a hold decision: READY with room, the fewest cases, the lowest number (R101). -/
def holdLane (s : State) : Option LaneNo := allLanes.foldl (betterLane s) none

/-- The hold-or-pass choice (R100). -/
def holdOrPass (s : State) (code : ArticleCode) (t : Tracking) : Decision :=
  if s.heldQuantity code t < s.openQuantity code then
    match holdLane s with
    | some k => .lane k
    | none => .pass
  else .reject .surplus

/-- The run of an arrival: its decision and the stations found exhausted (R100). -/
def decideArrival (s : State) (t : Tracking) (art : Article) (w : Nat) : Decision × List StationNo :=
  let r := stationChoice s art w
  match r.1 with
  | some p => (.place p, r.2)
  | none => (holdOrPass s art.code t, r.2)

/-! ### Replans and lane heads (R42, R43) -/

/-- A replan evaluation at one station (R42). -/
def decideReplan (s : State) (i : StationNo) (art : Article) (w : Nat) : Option Placement :=
  (evalStation s i art w).bind placementIn

/-- What a lane-head run gives (R107): release, with the station that gave the placement and its revision, or keep. -/
def decideHead (s : State) (art : Article) (w : Nat) : Option Decision × List StationNo :=
  let r := stationChoice s art w
  match r.1 with
  | some p => (some (.release (some (p.station, p.revision))), r.2)
  | none => (if s.openQuantity art.code = 0 then some (.release none) else none, r.2)

/-! ### Probes (R44 to R46) -/

/-- The weight that a probe uses: 0 means the nominal weight (R44). -/
def ProbeReq.load (p : ProbeReq) : Nat := if p.weight = 0 then p.article.nominal else p.weight

/-- The evaluation that a probe reports for a station, or its status (R45, R46).
For drop 0 it is the last line tried, which is the first with a feasible candidate when there is one. -/
def probeStation (s : State) (p : ProbeReq) (i : StationNo) : ProbeStatus × Option EvalResult :=
  match s.baseOfBuild i with
  | none => (.notEvaluated, none)
  | some e =>
    if p.drop = 0 then
      match s.planNamed i with
      | none => (.noLine, none)
      | some plan =>
        match (tryLines (evalLine s i e p.article p.load) (plan.openLines p.article.code)).getLast? with
        | none => (.noLine, none)
        | some r => (.evaluated, some r)
    else (.evaluated, some (evaluate (evalInput s i e p.article p.load p.drop) i none))

/-- A station's entry in the probe result (R45). -/
def probeEntry (s : State) (p : ProbeReq) (i : StationNo) : ProbeEntry :=
  let r := probeStation s p i
  { station := i, state := s.stations[i].state, ready := s.stations[i].ready, orders := s.stations[i].orders.length,
    status := r.1, eval := r.2 }

/-- The choice of a probe: for drop 0, what a station-choice run among its stations would take (R45). -/
def probeChoice (s : State) (p : ProbeReq) : Option Placement :=
  if p.drop = 0 then (chooseAmong s p.article p.load p.stations).1 else none

/-- The segments of a probe's reply: one entry each, and for drop 0 a last one with the choice (R169). -/
def probeSegments (s : State) (p : ProbeReq) : List (List Item) :=
  (p.stations.map fun i => [.probeEntry (probeEntry s p i)])
    ++ (if p.drop = 0 then [[.probeChoice (probeChoice s p)]] else [])

end Sys2Proof.Machine
end

