-- ==== Sys2Proof/Machine/Jobs.lean ====
section
/-!
DEFINITION. The planning engine's jobs (chapter 5): which source is taken (R93), the handling of an arrival (R95 to R99,
R110), the commit attempt (R102 to R104), and the jobs of replans, lane heads and probes (R106, R107, R117, R169).
-/

namespace Sys2Proof.Machine

/-! ### Job ends (R94) -/

/-- The job in progress replaced. -/
def State.setJob (s : State) (j : Option Job) : State := { s with engine := { s.engine with job := j } }

/-- The exhausted stations of the last run handed over in station-number order (R82, R94). -/
def handOver (exhausted : List StationNo) (s : State) : State :=
  (allStations.filter fun i => exhausted.contains i).foldl split s

/-- A job's end (R94). -/
def endJob (exhausted : List StationNo) (s : State) : State := handOver exhausted (s.setJob none)

/-! ### Rejections and late cases (R96, R97) -/

/-- Whether an arrival is late now (R88). -/
def State.isLate (s : State) (a : Arrival) : Bool :=
  decide (s.req.settings.decisionWindow < ageAt s.link.time a.scan)

/-- A tracked late case (R96). -/
def lateCase (a : Arrival) (s : State) : State :=
  report (.caseLate a.tracking (some (ageAt s.link.time a.scan))) (s.bump a.tracking)

/-- A case rejected by a DECISION (R97, R100, R103): the frame, the entry removed, CASE_REJECTED. -/
def rejectArrival (a : Arrival) (r : RejectReason) (s : State) : State :=
  report (.caseRejected a.tracking (some a.code) r) ((sendDecision a.tracking (.reject r) s).dropTrack a.tracking)

/-- A case passed (R100): the DECISION, and circuits + 1. -/
def passArrival (a : Arrival) (s : State) : State := (sendDecision a.tracking .pass s).bump a.tracking

/-! ### Acceptance checks (R97) -/

/-- Check 3: whether a measured weight lies outside the tolerance. -/
def misweight (art : Article) (w : Nat) : Bool := decide (art.tolerance * art.nominal < dist w art.nominal * 100)

/-- Check 4: whether a measured dimension lies outside the tolerance. -/
def mismeasure (art : Article) (a : Arrival) (tol : Nat) : Bool :=
  decide (tol < dist a.height art.height) || decide (tol < max a.length a.width - max art.length art.width)
    || decide (tol < min a.length a.width - min art.length art.width)

/-- The acceptance checks, in order (R97): the reason of the first that fails, or the snapshot. -/
def acceptance (s : State) (a : Arrival) : Except RejectReason Article :=
  if a.code = 0 then .error .noRead
  else
    match s.tables.articles.find? fun e => e.code == a.code with
    | none => .error .unknown
    | some art =>
      if misweight art a.weight then .error .misweight
      else if mismeasure art a s.req.settings.dimTol then .error .mismeasure
      else if s.req.settings.maxCircuits < ((s.track a.tracking).map (·.circuits)).getD 0 then .error .circuits
      else if s.openQuantity art.code = 0 then .error .surplus
      else .ok art

/-- The snapshot and the measured weight stored in the entry (R51, R97). -/
def setSnapshot (t : Tracking) (art : Article) (w : Nat) (s : State) : State :=
  s.onTrack t fun e => { e with snap := some art, weight := w }

/-- Lateness, checks and planning (R95, steps 4 to 6), from an entry in CIRCULATING. -/
def planArrival (a : Arrival) (s : State) : State :=
  if s.isLate a then lateCase a s
  else
    match acceptance s a with
    | .error r => rejectArrival a r s
    | .ok art =>
      let s := setSnapshot a.tracking art a.weight s
      let d := decideArrival s a.tracking art a.weight
      s.setJob (some { work := .arrival a, decision := d.1, exhausted := d.2, reruns := 0, cancelled := false })

/-! ### Re-arrivals (R98, R99, R115, R136) -/

/-- The NO_CASE of an ISSUED order, which need not be the oldest (R136): the WITHDRAW names it too. -/
def missedOrder (i : StationNo) (o : Order) (s : State) : State :=
  let orders := s.stations[i].orders
  let kept := orders.takeWhile fun p => p.tracking != o.tracking
  let later := (orders.dropWhile fun p => p.tracking != o.tracking).tail
  closingTest i (caseMissed o.tracking (cascade i kept o later (o.seq :: later.map Order.seq) s))

/-- A SPUR_HELD case that has come back (R98): it leaves the spur list, its replan and its waiting end, and the closing
test is made (R139). -/
def spurReturn (i : StationNo) (t : Tracking) (s : State) : State :=
  closingTest i ((keepReplans (fun r => r.tracking != t) (leaveSpur i t s)).circulate t)

/-- The order that carries a TO_STATION case. -/
def State.orderOf (s : State) (i : StationNo) (t : Tracking) : Option Order :=
  s.stations[i].orders.find? fun o => o.tracking == t

/-- Whether a re-arrival in tracking state `st` is a duplicate (R99): its order is TAKEN or UNKNOWN. -/
def State.isDuplicate (s : State) (t : Tracking) : TrackState → Bool
  | .toStation i _ =>
    match s.orderOf i t with
    | some o => o.state != .issued
    | none => false
  | .circulating _ | .spurHeld _ | .holdPending _ | .held _ | .releasing _ | .returning _ => false

/-- The station of a duplicate put into FAULT (R99); one already in FAULT keeps its cause. -/
def duplicateFault (st : TrackState) (s : State) : State :=
  match st with
  | .toStation i _ => stationFault i .duplicate s
  | .circulating _ | .spurHeld _ | .holdPending _ | .held _ | .releasing _ | .returning _ => s

/-- The handling of a re-arrival that is no duplicate (R98): the entry ends in CIRCULATING with a new deadline. -/
def rearrive (t : Tracking) (st : TrackState) (s : State) : State :=
  match st with
  | .circulating _ | .returning _ => s.circulate t
  | .toStation i _ =>
    match s.orderOf i t with
    | some o => missedOrder i o s
    | none => s.circulate t
  | .spurHeld i => spurReturn i t s
  | .holdPending k | .held k | .releasing k => (laneReturn k t st s).circulate t

/-- An arrival taken with the gate closed (R110). -/
def gateClosedArrival (a : Arrival) (s : State) : State :=
  match s.track a.tracking with
  | none => s
  | some e => if s.isDuplicate a.tracking e.state then duplicateFault e.state s else rearrive a.tracking e.state s

/-- A first arrival that finds the table full: untracked, with CASE_LATE when it is late (R95, step 2; R96). -/
def untracked (a : Arrival) (s : State) : State :=
  if s.isLate a then report (.caseLate a.tracking none) s else s

/-- The entry of a first arrival (R95, step 2). -/
def newTrack (t : Tracking) (deadline : Timer) : Track :=
  { tracking := t, snap := none, weight := 0, circuits := 0, state := .circulating deadline }

/-- The handling of an arrival (R95). -/
def handleArrival (a : Arrival) (s : State) : State :=
  if !s.engine.gate then gateClosedArrival a s
  else
    match s.track a.tracking with
    | none =>
      if Config.trackingCapacity ≤ s.tracker.tracks.length then untracked a s
      else planArrival a (s.addTrack (newTrack a.tracking s.returnDeadline))
    | some e =>
      if s.isDuplicate a.tracking e.state then
        let s := sendDecision a.tracking (.reject .duplicate) s
        duplicateFault e.state (report (.caseRejected a.tracking (some a.code) .duplicate) s)
      else planArrival a (rearrive a.tracking e.state s)

/-! ### Which source is taken (R93) -/

/-- A replan that may be taken: its station has fewer than 4 orders queued. -/
def State.mayReplan (s : State) (r : Replan) : Bool := decide (s.stations[r.station].orders.length < Config.orderDepth)

/-- The replan that would be taken: the oldest such. -/
def State.nextReplan (s : State) : Option Replan := s.engine.replans.find? s.mayReplan

/-- A lane that waits for a lane-head job. -/
def State.laneWaits (s : State) (k : LaneNo) : Bool :=
  s.engine.gate && s.lanes[k].state == .ready && !s.lanes[k].list.isEmpty && s.lanes[k].inFlight.isNone && s.flag k

/-- The lane that would be taken: the lowest-numbered. -/
def State.nextLane (s : State) : Option LaneNo := allLanes.find? s.laneWaits

/-- Whether the engine would take an arrival. -/
def State.takesArrival (s : State) : Bool := s.engine.job.isNone && s.nextReplan.isNone

/-- Whether the engine would take a lane head. -/
def State.takesLane (s : State) : Bool := s.takesArrival && s.tracker.arrivals.isEmpty

/-- Whether the engine would take the probe slot. -/
def State.takesProbe (s : State) : Bool := s.takesLane && s.nextLane.isNone

/-! ### Taking a job -/

/-- TAKING_AN_ARRIVAL (R93, R95): no effect when the engine does not take the arrival queue (log 10). -/
def takeArrival (s : State) : State :=
  match s.tracker.arrivals with
  | [] => s
  | a :: rest =>
    if s.takesArrival then handleArrival a { s with tracker := { s.tracker with arrivals := rest } } else s

/-- Whether a station is in BUILDING or CLOSING. -/
def Station.works (st : Station) : Bool := st.state == .building || st.state == .closing

/-- Whether a case is SPUR_HELD at a station. -/
def State.onSpur (s : State) (i : StationNo) (t : Tracking) : Bool :=
  match s.track t with
  | some e => e.state == .spurHeld i
  | none => false

/-- The REJECT order with reason NO_PLACE of a replan (R106); room is assured there and tested here (log 12). -/
def rejectReplan (r : Replan) (s : State) : State :=
  if s.stations[r.station].orders.length < Config.orderDepth then rejectOrder r.station r.tracking .noPlace s else s

/-- The run of a replan job: a placement makes the job's next commit attempt, no place gives the REJECT order and ends
the job (R106). -/
def runReplan (r : Replan) (reruns : Nat) (s : State) : State :=
  let found := ((s.track r.tracking).bind fun e => e.snap.map fun art => (art, e.weight)).bind fun x =>
    decideReplan s r.station x.1 x.2
  match found with
  | some p =>
    s.setJob (some { work := .replan r, decision := .place p, exhausted := [], reruns := reruns, cancelled := false })
  | none => rejectReplan r (s.setJob none)

/-- The replan `r` taken out of the queue; a waiting case joins it (R105). -/
def takeOutReplan (r : Replan) (s : State) : State :=
  refillReplans { s with engine := { s.engine with replans := s.engine.replans.erase r } }

/-- REPLAN_JOB (R93, R106): no effect when the engine takes no replan (log 10). -/
def takeReplan (s : State) : State :=
  match s.nextReplan with
  | none => s
  | some r =>
    if s.engine.job.isSome then s
    else
      let s := takeOutReplan r s
      if s.onSpur r.station r.tracking && s.stations[r.station].works then runReplan r 0 s else s

/-- The run of a lane-head job (R107): a release makes the job's commit attempt, a keep ends the job. -/
def runHead (k : LaneNo) (t : Tracking) (art : Article) (w reruns : Nat) (s : State) : State :=
  let d := decideHead s art w
  match d.1 with
  | some c =>
    s.setJob (some { work := .laneHead k t, decision := c, exhausted := d.2, reruns := reruns, cancelled := false })
  | none => endJob d.2 s

/-- Whether a case is HELD in a lane. -/
def State.isHeldIn (s : State) (k : LaneNo) (t : Tracking) : Bool :=
  match s.track t with
  | some e => e.state == .held k
  | none => false

/-- The case of a lane head with its snapshot and weight, when it is HELD (R117). -/
def State.headCase (s : State) (k : LaneNo) : Option (Tracking × Article × Nat) :=
  s.lanes[k].list.head?.bind fun t =>
    if s.isHeldIn k t then (s.track t).bind fun e => e.snap.map fun art => (t, art, e.weight) else none

/-- LANE_HEAD_JOB (R93, R107, R117): the flag is cleared; a head that is not HELD ends the job at once. -/
def takeLane (s : State) : State :=
  match s.nextLane with
  | none => s
  | some k =>
    if s.takesLane then
      let s := s.setFlag k false
      match s.headCase k with
      | some (t, art, w) => runHead k t art w 0 s
      | none => s
    else s

/-- PROBE_JOB (R93, R169): the result is handed to the request unit, whose reply begins, and the slot is empty. -/
def takeProbe (s : State) : State :=
  match s.engine.probe with
  | none => s
  | some p =>
    if s.takesProbe then
      let phase := Phase.replying (probeSegments s p) 0
        (.probed p.stations.length (probeChoice s p).isSome) p.stations false
      { s with
        engine := { s.engine with probe := none }
        req := { s.req with exec := s.req.exec.map fun e => { e with phase := phase } } }
    else s

/-! ### The commit attempt (R102 to R104) -/

/-- The checks of a station decision that arrivals and replans share (R102): revision, build, queue and line. -/
def placeChecks (s : State) (t : Tracking) (p : Placement) : Bool :=
  let b := s.builds[p.station]
  b.takesAdd p.revision t && decide (s.stations[p.station].orders.length < Config.orderDepth)
    && (match b.planId with
        | some id => s.takesPlanned id p.line
        | none => false)

/-- A case record added to a station's build (R10), with the lane flags (R116). -/
def addCase (i : StationNo) (c : CaseRec) (s : State) : State := raiseFlags (s.onBuild i fun b => b.add c)

/-- The changes of a committed station decision (R102, changes 1 to 5).  `send` issues the DECISION of an arrival. -/
def commitPlace (t : Tracking) (art : Article) (w : Nat) (p : Placement) (send : State → State) (s : State) : State :=
  let i := p.station
  let k := s.builds[i].cases.length
  let c := caseRecordOf art t w p s.stations[i].nextSeq
  let id := s.builds[i].planId
  let s := addCase i c s
  let s := match id with
    | some id => planMore id p.line s
    | none => s
  issueOrder i t (.place k) (placeFrame c) (send s)

/-- The commit of a lane decision (R101, R113). -/
def commitLane (k : LaneNo) (t : Tracking) (s : State) : State :=
  report (.caseHeld t k) (sendDecision t (.lane k) (holdEntry k t s))

/-- A job re-run at its failed commit attempt, up to three times, or the fallback (R104). -/
def rerun (j : Job) (again : Nat → State → State) (fallback : State → State) (s : State) : State :=
  if j.reruns < Config.maxReruns then again (j.reruns + 1) s else endJob j.exhausted (fallback s)

/-- The new run of an arrival's job. -/
def rerunArrival (a : Arrival) (art : Article) (w reruns : Nat) (s : State) : State :=
  let d := decideArrival s a.tracking art w
  s.setJob (some { work := .arrival a, decision := d.1, exhausted := d.2, reruns := reruns, cancelled := false })

/-- The checks and the commit of an arrival's decision whose tests have passed (R102). -/
def commitDecision (j : Job) (a : Arrival) (art : Article) (w : Nat) (s : State) : State :=
  match j.decision with
  | .pass => endJob j.exhausted (passArrival a s)
  | .reject r => endJob j.exhausted (rejectArrival a r s)
  | .place p =>
    if s.stations[p.station].state = .building ∧ placeChecks s a.tracking p = true then
      endJob j.exhausted
        (commitPlace a.tracking art w p (sendDecision a.tracking (.station p.station)) s)
    else rerun j (rerunArrival a art w) (passArrival a) s
  | .lane k =>
    if s.lanes[k].state = .ready ∧ s.lanes[k].hasRoom = true then endJob j.exhausted (commitLane k a.tracking s)
    else rerun j (rerunArrival a art w) (passArrival a) s
  | .release _ => endJob j.exhausted s

/-- Whether a decision is subject to the circuits test (R103). -/
def Decision.countsCircuits : Decision → Bool
  | .place _ | .lane _ => true
  | .pass | .reject _ | .release _ => false

/-- The commit attempt of an arrival's job: the tests of R103, then the commit. -/
def commitArrival (j : Job) (a : Arrival) (s : State) : State :=
  if !s.engine.gate then
    endJob j.exhausted (if (s.track a.tracking).isSome then s.circulate a.tracking else s)
  else
    match s.track a.tracking with
    | none => endJob j.exhausted s
    | some e =>
      if s.isLate a then endJob j.exhausted (lateCase a s)
      else if j.decision.countsCircuits && decide (s.req.settings.maxCircuits < e.circuits) then
        endJob j.exhausted (rejectArrival a .circuits s)
      else
        match e.snap with
        | some art => commitDecision j a art e.weight s
        | none => endJob j.exhausted s

/-- The commit attempt of a replan job (R102, R106). -/
def commitReplan (j : Job) (r : Replan) (s : State) : State :=
  if j.cancelled || !s.onSpur r.station r.tracking || !s.stations[r.station].works then s.setJob none
  else
    match j.decision, (s.track r.tracking).bind fun e => e.snap.map fun art => (art, e.weight) with
    | .place p, some (art, w) =>
      if placeChecks s r.tracking p then
        leaveSpur r.station r.tracking (commitPlace r.tracking art w p id s) |>.setJob none
      else rerun j (runReplan r) (rejectReplan r) s
    | _, _ => s.setJob none

/-- Whether the revision that a release rests on still stands (R107). -/
def State.revisionStands (s : State) : Option (StationNo × Revision) → Bool
  | none => true
  | some (i, rev) => s.builds[i].revision == rev

/-- A lane-head job that ends with no release: the lane's flag is set again when it is READY (R107, R116). -/
def noRelease (k : LaneNo) (s : State) : State := if s.lanes[k].state = .ready then s.setFlag k true else s

/-- The commit attempt of a lane-head job (R107, R117). -/
def commitHead (j : Job) (k : LaneNo) (t : Tracking) (s : State) : State :=
  let same := decide (s.lanes[k].state = .ready) && s.lanes[k].list.head? == some t
  match j.decision with
  | .release given =>
    if s.engine.gate && same && s.lanes[k].inFlight.isNone && s.isHeldIn k t && s.revisionStands given then
      endJob j.exhausted (releaseHead k t s)
    else if s.engine.gate && same then
      rerun j (fun n s =>
        match s.headCase k with
        | some (u, art, w) => runHead k u art w n s
        | none => endJob j.exhausted (noRelease k s)) (noRelease k) s
    else endJob j.exhausted (noRelease k s)
  | .place _ | .lane _ | .pass | .reject _ => endJob j.exhausted s

/-- COMMIT_ATTEMPT (R102): no effect when no job is in progress (log 10). -/
def commitAttempt (s : State) : State :=
  match s.engine.job with
  | none => s
  | some j =>
    match j.work with
    | .arrival a => commitArrival j a s
    | .replan r => commitReplan j r s
    | .laneHead k t => commitHead j k t s

end Sys2Proof.Machine
end

