-- ==== Sys2Proof/Machine/Link.lean ====
section
/-!
DEFINITION. The link interface (chapter 10) and the port A path of the request unit (R156, R167): what moves into the
response slot, the choice of a side by each port (R176, R187, R188), pass-through (R183), and how a command that is not a
reset is carried out: `live` (log 8).
-/

namespace Sys2Proof.Machine

/-! ### The response slot (R156, R167) -/

/-- The frames of slot, waiting place and request unit moved up, in their order (R156). -/
def moveUp (s : State) : State :=
  match s.link.slot, s.req.waiting with
  | none, none =>
    { s with link := { s.link with slot := s.req.heldFinal }, req := { s.req with heldFinal := none } }
  | none, some w =>
    { s with
      link := { s.link with slot := some w }
      req := { s.req with waiting := s.req.heldFinal, heldFinal := none } }
  | some _, none => { s with req := { s.req with waiting := s.req.heldFinal, heldFinal := none } }
  | some _, some _ => s

/-- A frame of the request in execution, to its source with its tag (R153, R167). -/
def Exec.frame (own : Byte) (e : Exec) (b : OwnBody) (final : Bool) : OwnFrame :=
  { dst := e.source, src := own, tag := e.tag, body := b, final := final }

/-- The next frame of a multi-frame reply (R167, R168): a segment, or the final RESPONSE after the last one. -/
def produceReply (s : State) : State :=
  match s.req.exec with
  | none => s
  | some e =>
    match e.phase with
    | .replying (seg :: rest) next result watch changed =>
      { s with
        link := { s.link with slot := some (e.frame s.link.ownNode (.responseData next rest.isEmpty seg) false) }
        req := { s.req with exec := some { e with phase := .replying rest (next + 1) result watch changed } } }
    | .replying [] _ result _ changed =>
      let r : Response :=
        { kind := e.kind, completion := if changed then .changed else .done, reason := .none, field := 0,
          result := result }
      { s with
        link := { s.link with slot := some (e.frame s.link.ownNode (.response r) true) }
        req := { s.req with exec := some { e with phase := .ending } } }
    | .loading _ | .probing | .ending => s

/-- The slot filled from the request unit: frames move up, and a reply produces its next frame when the slot and the
waiting place are empty (R156, R167), unless that frame is held back (R176). -/
def fillSlot (s : State) : State :=
  let s := moveUp s
  if s.link.slot.isNone && s.req.waiting.isNone && !s.req.late then produceReply s else s

/-! ### The choice of a side (R188) -/

/-- The side that an idle port sends from (R188). -/
def chooseSide (forwardWaits ownWaits : Bool) (mark : Side) : Option Side :=
  match forwardWaits, ownWaits with
  | true, false => some .forward
  | false, true => some .own
  | true, true => some (if mark = .forward then .own else .forward)
  | false, false => none

/-- Whether `p` goes before `q` whatever their age (R176): the higher level, then the first kind. -/
def reportBefore (p q : Report) : Bool :=
  decide (q.level < p.level) || (p.level == q.level && decide (p.body.kindCode < q.body.kindCode))

/-- The report chosen from the queue, and the queue without it (R176): among equals the oldest. -/
def chooseReport : List Report → Option (Report × List Report)
  | [] => none
  | r :: rest =>
    match chooseReport rest with
    | none => some (r, [])
    | some (b, others) => if reportBefore b r then some (b, r :: others) else some (r, rest)

/-- A report leaving the queue for port A (R176, R177): its header completed, the lost count set to 0. -/
def sendReport (s : State) : State :=
  match chooseReport s.reports.queue with
  | none => s
  | some (r, rest) =>
    let f : OwnFrame :=
      { dst := node s.req.settings.controlNode, src := s.link.ownNode, tag := 0, body := .report r s.reports.lost,
        final := false }
    { s with
      link := { s.link with portA := { sending := some (.own f), mark := .own } }
      reports := { s.reports with queue := rest, lost := 0 } }

/-- The own side of port A taking its turn (R176, R188): the slot's frame, or else a report. -/
def sendOwnA (s : State) : State :=
  match s.link.slot with
  | some f => { s with link := { s.link with portA := { sending := some (.own f), mark := .own }, slot := none } }
  | none => sendReport s

/-- The forward side of port A taking its turn. -/
def sendForwardA (s : State) : State :=
  match s.link.fwdA with
  | [] => s
  | b :: rest =>
    { s with link := { s.link with portA := { sending := some (.forward b), mark := .forward }, fwdA := rest } }

/-- Port A, when idle, starting to send (R188). -/
def startA (s : State) : State :=
  if s.link.portA.sending.isSome then s
  else
    match chooseSide (!s.link.fwdA.isEmpty) (s.link.slot.isSome || !s.reports.queue.isEmpty) s.link.portA.mark with
    | some .forward => sendForwardA s
    | some .own => sendOwnA s
    | none => s

/-- The waiting frame that joins when a place frees: a DECISION first, then the one issued first (R187). -/
def takeWaiting : List OwnFrame → Option (OwnFrame × List OwnFrame)
  | [] => none
  | f :: rest =>
    if f.isDecision || !rest.any OwnFrame.isDecision then some (f, rest)
    else
      match takeWaiting rest with
      | some (g, others) => some (g, f :: others)
      | none => some (f, rest)

/-- A free place of the port B own-frame queue filled from the waiting frames (R187). -/
def Link.refill (l : Link) : Link :=
  if l.ownB.length < Config.ownCapacity then
    match takeWaiting l.waitB with
    | some (f, rest) => { l with ownB := joinOwn f l.ownB, waitB := rest }
    | none => l
  else l

/-- The own side of port B taking its turn: the head of its queue leaves, and one waiting frame joins (R187). -/
def Link.sendOwnB (l : Link) : Link :=
  match l.ownB with
  | [] => l
  | f :: rest => Link.refill { l with portB := { sending := some (.own f), mark := .own }, ownB := rest }

/-- The forward side of port B taking its turn. -/
def Link.sendForwardB (l : Link) : Link :=
  match l.fwdB with
  | [] => l
  | b :: rest => { l with portB := { sending := some (.forward b), mark := .forward }, fwdB := rest }

/-- Port B, when idle, starting to send (R188). -/
def Link.startB (l : Link) : Link :=
  if l.portB.sending.isSome then l
  else
    match chooseSide (!l.fwdB.isEmpty) (!l.ownB.isEmpty) l.portB.mark with
    | some .forward => l.sendForwardB
    | some .own => l.sendOwnB
    | none => l

/-- Port B starting to send. -/
def startB (s : State) : State := { s with link := s.link.startB }

/-- Whether a multi-frame reply is in progress, so that the request unit has a frame of it to produce (R167). -/
def replying : Option Exec → Bool
  | some e => match e.phase with
    | .replying .. => true
    | .loading _ | .probing | .ending => false
  | none => false

/-- A turn that port A has taken: with a reply in progress, whether its next frame is held back until port A's next turn, so
that a report may go between two frames of the reply, is a free value (R176; log 26). -/
def drawLate (s : State) : State :=
  if replying s.req.exec then
    { s with req := { s.req with late := Config.replyLate s.draws }, draws := s.draws + 1 }
  else s

/-- Port A's turn, when it is idle: what waits for it is sent, and with nothing waiting the frame held back is produced and
sent (R156, R176, R188). -/
def turnA (s : State) : State :=
  if s.link.portA.sending.isSome then s
  else
    let t := startA s
    if t.link.portA.sending.isSome then drawLate t
    else
      let u := startA (fillSlot { s with req := { s.req with late := false } })
      if u.link.portA.sending.isSome then drawLate u else u

/-- The ports served after an event: the slot filled, each idle port taking its turn, the emptied slot filled again. -/
def settle (s : State) : State := startB (fillSlot (turnA (fillSlot s)))

/-! ### Pass-through (R183) -/

/-- A frame joining the forward queue of the other port, or dropped when it holds 8 (R183). -/
def forward (kind : Byte) (f : RxFrame) (s : State) : State :=
  match f.port with
  | .a =>
    if s.link.fwdB.length < Config.forwardCapacity then
      { s with link := { s.link with fwdB := s.link.fwdB ++ [rxBytes kind f] } }
    else s
  | .b =>
    if s.link.fwdA.length < Config.forwardCapacity then
      { s with link := { s.link with fwdA := s.link.fwdA ++ [rxBytes kind f] } }
    else s

/-- A received frame (R182, R183): discarded by its checks, consumed by `consume`, forwarded, or both. -/
def receive (kind : Byte) (f : RxFrame) (consume : State → State) (s : State) : State :=
  if !frameOk kind f then s
  else if isBroadcast f then consume (forward kind f s)
  else if f.dst = s.link.ownNode then consume s
  else forward kind f s

/-! ### Carrying out a command -/

/-- A command other than the reset events: no effect during a reset (R190); else its effect between two services of the
ports, the first of which matters only right after State.reset (log 8). -/
def live (effect : State → State) (s : State) : Host.Outcome State Fault Refusal :=
  .next (if s.inReset then s else settle (effect (settle s)))

/-- The end of a transmission (R188): the port is idle; when the frame was the final RESPONSE of the request in
execution, the request unit returns to READY (R155). -/
def frameSentA (s : State) : State :=
  match s.link.portA.sending with
  | none => s
  | some tx =>
    let s := { s with link := { s.link with portA := { s.link.portA with sending := none } } }
    match tx with
    | .own f => if f.final then { s with req := { s.req with exec := none } } else s
    | .forward _ => s

/-- The same at port B, which sends no responses. -/
def frameSentB (s : State) : State :=
  { s with link := { s.link with portB := { s.link.portB with sending := none } } }

end Sys2Proof.Machine
end

