-- ==== Sys2Proof/Machine/Requests.lean ====
section
/-!
DEFINITION. The requests (chapter 8) but for the multi-frame loads: the checks that every request meets (R152), what each
does and how it is answered (R157 to R162, R168, R169).
-/

namespace Sys2Proof.Machine

/-! ### Taking a request (R152) -/

/-- Checks 2 to 4 of R152: the reason and field index of the first that fails. -/
def requestFails (kind : Byte) (len : Nat) (bad : List Byte → Option Nat) (f : RxFrame) (s : State) :
    Option (Reason × Nat) :=
  if s.req.exec.isSome && kind != 0x11 then some (.busy, 0)
  else if f.payload.length ≠ len then some (.badLength, 0)
  else (bad f.payload).map fun i => (.badField, i)

/-- A request met by the request unit: discarded when both places hold a frame (R156), refused by its first failing
check, or taken by `act`. -/
def takeRequest (kind : Byte) (len : Nat) (bad : List Byte → Option Nat) (act : RxFrame → State → State) (f : RxFrame)
    (s : State) : State :=
  if s.placesFull then s
  else
    match requestFails kind len bad f s with
    | some (r, i) => refuse kind r i f s
    | none => act f s

/-- A request frame consumed by the device (R152, R170, R184): it feeds the supervision timer whatever its outcome, and a
broadcast one does nothing more. -/
def request (kind : Byte) (len : Nat) (bad : List Byte → Option Nat) (act : RxFrame → State → State) (f : RxFrame)
    (s : State) : State :=
  let s := supervise f.src s
  if isBroadcast f then s else takeRequest kind len bad act f s

/-- The station that a checked request names. -/
def stationOf (p : List Byte) : StationNo := Fin.ofNat 8 (u8At p 0)

/-- The lane that a checked request names. -/
def laneOf (p : List Byte) : LaneNo := Fin.ofNat 4 (u8At p 0)

/-- The plan id that a checked request names. -/
def planIdOf (p : List Byte) : PlanId := BitVec.ofNat 16 (u16At p 0)

/-! ### DESCRIBE (R159) -/

/-- The description of the part. -/
def describe (f : RxFrame) (s : State) : State := answerDone 0x10 f (.describe s.link.ownNode) s

/-! ### READ STATE (R160) -/

/-- The kind of the job in progress as the free value codes it (log 4). -/
def jobCode (s : State) : Byte :=
  Config.jobKindCode (match s.engine.job with
    | none => 0
    | some j => match j.work with
      | .arrival _ => 1
      | .replan _ => 2
      | .laneHead _ _ => 3)

/-- What READ STATE returns of a station (R125). -/
def Station.copy (st : Station) : StationCopy :=
  { state := st.state, ready := st.ready, cause := st.cause, close := st.close, orders := st.orders.length,
    spur := st.spur.length }

/-- What READ STATE returns of a lane (R160). -/
def Lane.copy (l : Lane) : LaneCopy := { state := l.state, cause := l.cause, count := l.list.length }

/-- The copy that READ STATE returns (R160). -/
def stateCopy (s : State) : StateCopy :=
  { executing := s.req.exec.map fun e => (e.kind, e.tag, e.counts.map (·.2))
    time := s.link.time, gate := s.engine.gate, sup := s.req.sup, interval := s.req.settings.supInterval,
    action := s.req.settings.supAction, latch := s.req.latch, articles := s.tables.articles.length,
    plans := s.plans.plans.length, tracks := s.tracker.tracks.length, arrivals := s.tracker.arrivals.length,
    replans := s.engine.replans.length, job := jobCode s, stations := s.stations.toList.map Station.copy,
    lanes := s.lanes.toList.map Lane.copy, reports := s.reports.queue.length, lost := s.reports.lost }

/-- The answer to READ STATE. -/
def readState (f : RxFrame) (s : State) : State := answerDone 0x11 f (.state (stateCopy s)) s

/-! ### SET TIME (R161) -/

/-- The line time set to the value carried; the expiries passed at it are reached (R189). -/
def setTime (f : RxFrame) (s : State) : State :=
  let t : LineTime := BitVec.ofNat 32 (u32At f.payload 0)
  answerDone 0x12 f (.time t) (s.moveTime t)

/-- A SET TIME frame, directed or broadcast: the timer is fed after the line time is set, and the expiry that this replaces
is gone whether or not it had been reached (R161). -/
def handleSetTime (f : RxFrame) (s : State) : State := supervise f.src (takeRequest 0x12 4 noFields setTime f s)

/-! ### SET SETTINGS (R59 to R62) -/

/-- The settings stored by a SET SETTINGS (R59, R62), and the latch that storing STOP sets. -/
def storeSettings (f : RxFrame) (s : State) : State :=
  let st := Settings.ofValues (storedSettings s.req.latch (carriedSettings f.payload))
  { s with req := { s.req with settings := st, latch := s.req.latch || st.supAction == .stop } }

/-- SET SETTINGS taken (R59, R170): stored, the supervision timer moved, answered with mask and record. -/
def setSettings (f : RxFrame) (s : State) : State :=
  let control := s.req.settings.controlNode
  let carried := carriedSettings f.payload
  let mask := clampMask carried (storedSettings s.req.latch carried)
  let s := superviseSettings control f.src (storeSettings f s)
  answerDone 0x13 f (.settings mask s.req.settings) s

/-- A SET SETTINGS frame: taken, it moves the timer by its own rows of R170; otherwise it acts as any request. -/
def handleSetSettings (f : RxFrame) (s : State) : State :=
  if !isBroadcast f && !s.placesFull && (requestFails 0x13 84 noFields f s).isNone then setSettings f s
  else request 0x13 84 noFields (fun _ s => s) f s

/-! ### Tables (R50, R55, R57, R178) -/

/-- The key of an article. -/
def Article.key (a : Article) : Nat := a.code.toNat

/-- DELETE ARTICLE (R50). -/
def deleteArticle (f : RxFrame) (s : State) : State :=
  let code : ArticleCode := BitVec.ofNat 32 (u32At f.payload 0)
  if s.tables.articles.any fun e => e.code == code then
    let kept := s.tables.articles.filter fun e => e.code != code
    answerDone 0x15 f (.entryCount kept.length) { s with tables := { s.tables with articles := kept } }
  else refuse 0x15 .notFound 0 f s

/-- The station states in which a kind's entry may not be made present, or absent (R55). -/
def blocksBase (present : Bool) (st : StationState) : Bool :=
  if present then st == .building || st == .closing || st == .fault else st != .offline

/-- LOAD BASE (R54, R55). -/
def loadBase (f : RxFrame) (s : State) : State :=
  let kind : BaseKind := Fin.ofNat 4 (u8At f.payload 0)
  let present := u8At f.payload 1 == 1
  if s.stations.toList.any fun st => st.baseKind == kind && blocksBase present st.state then
    refuse 0x16 .wrongState 0 f s
  else
    let entry := if present then some (baseOf f.payload) else none
    answerDone 0x16 f .empty { s with tables := { s.tables with bases := s.tables.bases.set kind entry } }

/-- LOAD KINDS (R57). -/
def loadKinds (f : RxFrame) (s : State) : State :=
  let kinds := (List.range 64).map fun i => u8At f.payload i == 1
  answerDone 0x17 f .empty { s with tables := { s.tables with kinds := kinds } }

/-- The levels that a LOAD LEVELS carries, in kind order. -/
def carriedLevels (p : List Byte) : List Nat := (List.range 15).map fun i => u8At p i

/-- LOAD LEVELS (R178): a level above 7 is stored as 7. -/
def loadLevels (f : RxFrame) (s : State) : State :=
  let carried := carriedLevels f.payload
  let stored := carried.map (min 7)
  answerDone 0x18 f (.levels (clampMask carried stored) stored)
    { s with reports := { s.reports with levels := stored } }

/-! ### Plans, stations, lanes and the gate (R158) -/

/-- WITHDRAW PLAN (R84). -/
def withdrawPlan (f : RxFrame) (s : State) : State :=
  match s.plan (planIdOf f.payload) with
  | none => refuse 0x1A .notFound 0 f s
  | some p =>
    if p.state = .queued then answerDone 0x1A f .empty (s.dropPlan p.id) else refuse 0x1A .planBound 0 f s

/-- SET STATION online from OFFLINE (R127): the base kind stored, IDLE, and a binding attempt when ready. -/
def bringOnline (i : StationNo) (kind : BaseKind) (s : State) : State :=
  let s := (s.onStation i fun st => { st with baseKind := kind }).enterState i .idle
  if s.stations[i].ready then bindingAttempt s else s

/-- The DONE answer of a request whose result is the station's state after it. -/
def answerStation (kind : Byte) (f : RxFrame) (i : StationNo) (s : State) : State :=
  answerDone kind f (.stationState s.stations[i].state) s

/-- SET STATION (R127). -/
def setStation (f : RxFrame) (s : State) : State :=
  let i := stationOf f.payload
  let online := u8At f.payload 1 == 1
  let kind : BaseKind := Fin.ofNat 4 (u8At f.payload 2)
  match s.stations[i].state with
  | .offline =>
    if online then
      if s.tables.bases[kind].isSome then answerStation 0x1B f i (bringOnline i kind s)
      else refuse 0x1B .notFound 0 f s
    else answerStation 0x1B f i (s.onStation i fun st => { st with baseKind := kind })
  | .idle =>
    if online then
      if s.stations[i].baseKind = kind then answerStation 0x1B f i s else refuse 0x1B .wrongState 0 f s
    else answerStation 0x1B f i (s.enterState i .offline)
  | .building | .closing | .awaitExchange | .exchanging | .fault => refuse 0x1B .wrongState 0 f s

/-- CLOSE STATION (R140). -/
def closeStation (f : RxFrame) (s : State) : State :=
  let i := stationOf f.payload
  if s.stations[i].state = .building then
    answerDone 0x1C f .empty (enterClosing i .request (closePart i s))
  else refuse 0x1C .wrongState 0 f s

/-- The return from FAULT with cause EXCHANGE_TIMEOUT (R147): EXCHANGE CALL alone. -/
def recallExchange (i : StationNo) (s : State) : State :=
  exchangeCall i ((s.onStation i fun st => { st with cause := .none }).enterState i .awaitExchange)

/-- ACKNOWLEDGE FAULT (R147). -/
def acknowledgeFault (f : RxFrame) (s : State) : State :=
  let i := stationOf f.payload
  let st := s.stations[i]
  let disposition := u8At f.payload 2
  if st.state ≠ .fault then refuse 0x1D .wrongState 0 f s
  else if st.cause = .exchangeTimeout then answerStation 0x1D f i (recallExchange i s)
  else if !st.ready then refuse 0x1D .wrongState 0 f s
  else if (st.orders.any fun o => o.state == .unknown) && disposition == 0 then refuse 0x1D .badField 3 f s
  else if u8At f.payload 1 = 0 then answerStation 0x1D f i (keepBuild i disposition s)
  else answerStation 0x1D f i (discardBuild i disposition s)

/-- FLUSH LANE (R121). -/
def flushLane (f : RxFrame) (s : State) : State :=
  let k := laneOf f.payload
  if s.lanes[k].state = .flushing then refuse 0x1E .wrongState 0 f s
  else answerDone 0x1E f (.flushed s.lanes[k].list.length) (flush k s)

/-- The intake gate set (R109). -/
def State.setGate (s : State) (isOpen : Bool) : State := { s with engine := { s.engine with gate := isOpen } }

/-- SET GATE (R109). -/
def setGate (f : RxFrame) (s : State) : State :=
  let isOpen := u8At f.payload 0 == 1
  answerDone 0x23 f (.gate isOpen) (s.setGate isOpen)

/-! ### Requests that execute over time (R155, R168, R169) -/

/-- The request in execution begun (R155). -/
def beginExec (kind : Byte) (f : RxFrame) (counts : Option (Nat × Nat)) (phase : Phase) (s : State) : State :=
  { s with req := { s.req with
    exec := some { kind := kind, tag := f.tag, source := f.src, counts := counts, phase := phase } } }

/-- A multi-frame reply begun from its content (R167). -/
def beginReply (kind : Byte) (f : RxFrame) (items : List Item) (result : ResultFields) (watch : List StationNo)
    (s : State) : State :=
  beginExec kind f none (.replying (packItems items) 0 result watch false) s

/-- The manifest of a build (R17). -/
def manifest (i : StationNo) (b : Build) : List Item :=
  .manifestHeader i b.binding b.cases.length b.totalWeight b.deckLoad b.momentX b.momentY b.topHeight b.revision
    :: b.cases.map .caseRecord

/-- READ BUILD (R168). -/
def readBuild (f : RxFrame) (s : State) : State :=
  let i := stationOf f.payload
  let b := s.builds[i]
  beginReply 0x20 f (manifest i b) (.buildRead i b.cases.length b.revision) [i] s

/-- The content of a READ PLAN reply (R85, 11.4.3). -/
def planItems (p : Plan) : List Item :=
  .planHeader p.id p.due p.baseKind p.part p.admission p.state p.bound :: p.lines.mapIdx fun j l => .planLine j l

/-- READ PLAN (R85, R168). -/
def readPlan (f : RxFrame) (s : State) : State :=
  match s.plan (planIdOf f.payload) with
  | none => refuse 0x21 .notFound 0 f s
  | some p => beginReply 0x21 f (planItems p) (.planRead p.id p.lines.length) [] s

/-- The content of a READ LANE reply (R123). -/
def laneItems (s : State) (k : LaneNo) : List Item :=
  let l := s.lanes[k]
  .laneHeader l.state l.cause l.list.length l.inFlight (l.expiry.map (·.expiry)) (s.flag k)
    :: l.list.map fun t => .laneEntry t ((s.track t).map (·.state))

/-- READ LANE (R123, R168). -/
def readLane (f : RxFrame) (s : State) : State :=
  let k := laneOf f.payload
  beginReply 0x22 f (laneItems s k) (.laneRead k s.lanes[k].list.length) [] s

/-- PROBE (R169): the article copy and the parameters into the probe slot. -/
def probe (f : RxFrame) (s : State) : State :=
  let code : ArticleCode := BitVec.ofNat 32 (u32At f.payload 0)
  match s.tables.articles.find? fun e => e.code == code with
  | none => refuse 0x1F .notFound 0 f s
  | some art =>
    let p : ProbeReq :=
      { article := art, weight := u16At f.payload 4, drop := u8At f.payload 6,
        stations := stationSet (u8At f.payload 7) }
    beginExec 0x1F f none .probing { s with engine := { s.engine with probe := some p } }

/-! ### RESTART (R162) -/

/-- The report unit at a RESTART (R179): emptied, the lost count 0, STARTED queued. -/
def restartReports (s : State) : State :=
  report (.started .restart s.link.ownNode) { s with reports := { s.reports with queue := [], lost := 0 } }

/-- The case tracker and the planning engine at a RESTART (R111). -/
def restartTracking (s : State) : State :=
  { s with
    tracker := { arrivals := [], tracks := [] }
    engine := { s.engine with replans := [], waiting := [], job := none, gate := false } }

/-- RESTART (R162): the response first, then each block by its own rule, then the binding attempt (R86).  That the stations
act in station-number order, which decides the DRAINING plan that reopens and is offered first, is the model's choice
(log 25). -/
def restart (f : RxFrame) (s : State) : State :=
  let s := answerDone 0x24 f .empty s
  let s := restartReports s
  let s := { s with req := { s.req with latch := false } }
  let s := allStations.foldl restartStation s
  let s := restartLanes (restartTracking s)
  bindingAttempt (armSupervision s)

/-! ### Reserved kinds (R152, check 1) -/

/-- A request of a reserved kind consumed by the device. -/
def handleReserved (kind : Byte) (f : RxFrame) (s : State) : State :=
  let s := supervise f.src s
  if isBroadcast f || s.placesFull then s else refuse kind .unknownKind 0 f s

/-! ### The handlers by kind, and the commands -/

/-- A consumed DESCRIBE frame. -/
def handleDescribe (f : RxFrame) : State → State := request 0x10 0 noFields describe f

/-- DESCRIBE (R159). -/
def execDescribe (f : RxFrame) (s : State) : Host.Outcome State Fault Refusal :=
  live (receive 0x10 f (handleDescribe f)) s

/-- A consumed READ STATE frame. -/
def handleReadState (f : RxFrame) : State → State := request 0x11 0 noFields readState f

/-- READ_STATE (R160). -/
def execReadState (f : RxFrame) (s : State) : Host.Outcome State Fault Refusal :=
  live (receive 0x11 f (handleReadState f)) s

/-- SET_TIME (R161). -/
def execSetTime (f : RxFrame) (s : State) : Host.Outcome State Fault Refusal :=
  live (receive 0x12 f (handleSetTime f)) s

/-- SET_SETTINGS (R59). -/
def execSetSettings (f : RxFrame) (s : State) : Host.Outcome State Fault Refusal :=
  live (receive 0x13 f (handleSetSettings f)) s

/-- A consumed DELETE ARTICLE frame. -/
def handleDeleteArticle (f : RxFrame) : State → State := request 0x15 4 badArticleCode deleteArticle f

/-- DELETE_ARTICLE (R50). -/
def execDeleteArticle (f : RxFrame) (s : State) : Host.Outcome State Fault Refusal :=
  live (receive 0x15 f (handleDeleteArticle f)) s

/-- A consumed LOAD BASE frame. -/
def handleLoadBase (f : RxFrame) : State → State := request 0x16 18 badBase loadBase f

/-- LOAD_BASE (R55). -/
def execLoadBase (f : RxFrame) (s : State) : Host.Outcome State Fault Refusal :=
  live (receive 0x16 f (handleLoadBase f)) s

/-- A consumed LOAD KINDS frame. -/
def handleLoadKinds (f : RxFrame) : State → State := request 0x17 64 badKinds loadKinds f

/-- LOAD_KINDS (R57). -/
def execLoadKinds (f : RxFrame) (s : State) : Host.Outcome State Fault Refusal :=
  live (receive 0x17 f (handleLoadKinds f)) s

/-- A consumed LOAD LEVELS frame. -/
def handleLoadLevels (f : RxFrame) : State → State := request 0x18 15 noFields loadLevels f

/-- LOAD_LEVELS (R178). -/
def execLoadLevels (f : RxFrame) (s : State) : Host.Outcome State Fault Refusal :=
  live (receive 0x18 f (handleLoadLevels f)) s

/-- A consumed WITHDRAW PLAN frame. -/
def handleWithdrawPlan (f : RxFrame) : State → State := request 0x1A 2 badPlanId withdrawPlan f

/-- WITHDRAW_PLAN (R84). -/
def execWithdrawPlan (f : RxFrame) (s : State) : Host.Outcome State Fault Refusal :=
  live (receive 0x1A f (handleWithdrawPlan f)) s

/-- A consumed SET STATION frame. -/
def handleSetStation (f : RxFrame) : State → State := request 0x1B 3 badSetStation setStation f

/-- SET_STATION (R127). -/
def execSetStation (f : RxFrame) (s : State) : Host.Outcome State Fault Refusal :=
  live (receive 0x1B f (handleSetStation f)) s

/-- A consumed CLOSE STATION frame. -/
def handleCloseStation (f : RxFrame) : State → State := request 0x1C 1 badStation closeStation f

/-- CLOSE_STATION (R140). -/
def execCloseStation (f : RxFrame) (s : State) : Host.Outcome State Fault Refusal :=
  live (receive 0x1C f (handleCloseStation f)) s

/-- A consumed ACKNOWLEDGE FAULT frame. -/
def handleAcknowledgeFault (f : RxFrame) : State → State := request 0x1D 3 badAcknowledge acknowledgeFault f

/-- ACKNOWLEDGE_FAULT (R147). -/
def execAcknowledgeFault (f : RxFrame) (s : State) : Host.Outcome State Fault Refusal :=
  live (receive 0x1D f (handleAcknowledgeFault f)) s

/-- A consumed FLUSH LANE frame. -/
def handleFlushLane (f : RxFrame) : State → State := request 0x1E 1 badLane flushLane f

/-- FLUSH_LANE (R121). -/
def execFlushLane (f : RxFrame) (s : State) : Host.Outcome State Fault Refusal :=
  live (receive 0x1E f (handleFlushLane f)) s

/-- A consumed PROBE frame. -/
def handleProbe (f : RxFrame) : State → State := request 0x1F 8 badProbe probe f

/-- PROBE (R169). -/
def execProbe (f : RxFrame) (s : State) : Host.Outcome State Fault Refusal :=
  live (receive 0x1F f (handleProbe f)) s

/-- A consumed READ BUILD frame. -/
def handleReadBuild (f : RxFrame) : State → State := request 0x20 1 badStation readBuild f

/-- READ_BUILD (R168). -/
def execReadBuild (f : RxFrame) (s : State) : Host.Outcome State Fault Refusal :=
  live (receive 0x20 f (handleReadBuild f)) s

/-- A consumed READ PLAN frame. -/
def handleReadPlan (f : RxFrame) : State → State := request 0x21 2 badPlanId readPlan f

/-- READ_PLAN (R85). -/
def execReadPlan (f : RxFrame) (s : State) : Host.Outcome State Fault Refusal :=
  live (receive 0x21 f (handleReadPlan f)) s

/-- A consumed READ LANE frame. -/
def handleReadLane (f : RxFrame) : State → State := request 0x22 1 badLane readLane f

/-- READ_LANE (R123). -/
def execReadLane (f : RxFrame) (s : State) : Host.Outcome State Fault Refusal :=
  live (receive 0x22 f (handleReadLane f)) s

/-- A consumed SET GATE frame. -/
def handleSetGate (f : RxFrame) : State → State := request 0x23 1 badGate setGate f

/-- SET_GATE (R109). -/
def execSetGate (f : RxFrame) (s : State) : Host.Outcome State Fault Refusal :=
  live (receive 0x23 f (handleSetGate f)) s

/-- A consumed RESTART frame. -/
def handleRestart (f : RxFrame) : State → State := request 0x24 0 noFields restart f

/-- RESTART (R162). -/
def execRestart (f : RxFrame) (s : State) : Host.Outcome State Fault Refusal :=
  live (receive 0x24 f (handleRestart f)) s

end Sys2Proof.Machine
end

