-- ==== Sys2Proof/Machine/Loads.lean ====
section
/-!
DEFINITION. The multi-frame loads (R163 to R166): LOAD ARTICLES and ADMIT PLAN, the DATA frames that carry their records,
and the data-gap wait.
-/

namespace Sys2Proof.Machine

/-! ### Opening a load -/

/-- The expiry of a data-gap wait that starts now (R164). -/
def State.gapExpiry (s : State) : Timer := after s.link.time s.req.settings.dataGap

/-- A load of `n` records opened (R163). -/
def openLoad (kind : Byte) (f : RxFrame) (n : Nat) (s : State) : State :=
  beginExec kind f (some (n, n)) (.loading s.gapExpiry) s

/-- LOAD ARTICLES taken (R163). -/
def loadArticles (f : RxFrame) (s : State) : State := openLoad 0x14 f (countOf (u8At f.payload 0)) s

/-- A consumed LOAD ARTICLES frame. -/
def handleLoadArticles (f : RxFrame) : State → State := request 0x14 1 noFields loadArticles f

/-- The admission record that a header opens (R66). -/
def admissionOf (p : List Byte) : Admission :=
  { id := BitVec.ofNat 16 (u16At p 0), due := u16At p 2, baseKind := Fin.ofNat 4 (u8At p 4), count := u8At p 5,
    lines := [] }

/-- ADMIT PLAN with a header whose fields pass (R66): NO_ROOM at 32 plans, or the admission record opened. -/
def admitPlan (f : RxFrame) (s : State) : State :=
  if Config.planCapacity ≤ s.plans.plans.length then refuse 0x19 .noRoom 0 f s
  else
    openLoad 0x19 f (u8At f.payload 5)
      { s with plans := { s.plans with admission := some (admissionOf f.payload) } }

/-- A consumed ADMIT PLAN frame; its field checks read the plan store (R66). -/
def handleAdmitPlan (f : RxFrame) (s : State) : State := request 0x19 6 s.badHeader admitPlan f s

/-! ### The end of a load (R165) -/

/-- The final RESPONSE of a load placed, and the request waiting for it to leave (R155, R156). -/
def finishLoad (e : Exec) (c : Completion) (r : Reason) (field : Nat) (result : ResultFields) (s : State) : State :=
  let frame := e.frame s.link.ownNode
    (.response { kind := e.kind, completion := c, reason := r, field := field, result := result }) true
  placeResponse frame { s with req := { s.req with exec := some { e with phase := .ending } } }

/-- The remaining count of a load. -/
def Exec.remaining (e : Exec) : Nat :=
  match e.counts with
  | some (_, r) => r
  | none => 0

/-- The result fields of a load that ended with `e.remaining` records not stored (R165). -/
def loadResult (e : Exec) (s : State) : ResultFields :=
  if e.kind = 0x14 then .articlesLoaded e.remaining s.tables.articles.length else .remaining e.remaining

/-- A load that ends before its last record (R165): an admission record goes with its lines (R67). -/
def endLoad (e : Exec) (r : Reason) (field : Nat) (s : State) : State :=
  let s := if e.kind = 0x19 then { s with plans := { s.plans with admission := none } } else s
  finishLoad e .ended r field (loadResult e s) s

/-! ### Records (R49, R67, R163) -/

/-- What became of a record: the load goes on, or it has ended. -/
inductive RecordEnd where
  | more (e : Exec)
  | ended
  deriving DecidableEq, Repr

/-- A request in execution with one record fewer to come. -/
def Exec.less (e : Exec) : Exec := { e with counts := e.counts.map fun c => (c.1, c.2 - 1) }

/-- One article record (R48, R49). -/
def takeArticle (e : Exec) (p : List Byte) (s : State) : State × RecordEnd :=
  match badArticle p with
  | some i => (endLoad e .badField i s, .ended)
  | none =>
    let art := articleOf p
    if (s.tables.articles.any fun a => a.code == art.code) || decide (s.tables.articles.length < Config.articleCapacity)
    then
      let s := { s with tables := { s.tables with articles := putKey Article.key art s.tables.articles } }
      if e.less.remaining = 0 then
        (finishLoad e.less .done .none 0 (loadResult e.less s) s, .ended)
      else (s, .more e.less)
    else (endLoad e .noRoom 0 s, .ended)

/-- One plan line record (R67). -/
def takeLine (e : Exec) (p : List Byte) (s : State) : State × RecordEnd :=
  match s.plans.admission with
  | none => (endLoad e .badField 1 s, .ended)
  | some a =>
    match badLine a.lines p with
    | some i => (endLoad e .badField i s, .ended)
    | none =>
      let a := { a with lines := a.lines ++ [lineOf p] }
      if e.less.remaining = 0 then
        (finishLoad e.less .done .none 0 (.planAdmitted 0 a.id s.plans.counter) (makePlan a s), .ended)
      else ({ s with plans := { s.plans with admission := some a } }, .more e.less)

/-- One record of a load, by the load's kind. -/
def takeRecord (e : Exec) (p : List Byte) (s : State) : State × RecordEnd :=
  if e.kind = 0x14 then takeArticle e p s else takeLine e p s

/-- The records of a DATA frame taken one by one, up to the end of the load (R163).  When the load goes on, a new gap
wait starts (R164). -/
def takeRecords (e : Exec) : List (List Byte) → State → State
  | [], s => { s with req := { s.req with exec := some { e with phase := .loading s.gapExpiry } } }
  | p :: rest, s =>
    match takeRecord e p s with
    | (s, .ended) => s
    | (s, .more e) => takeRecords e rest s

/-- The record length of a load. -/
def Exec.recordBytes (e : Exec) : Nat := if e.kind = 0x14 then articleRecordBytes else lineRecordBytes

/-- A DATA frame taken into the open load `e` (R163, R193). -/
def takeData (e : Exec) (p : List Byte) (s : State) : State :=
  if p.isEmpty || p.length % e.recordBytes != 0 then endLoad e .badLength 0 s
  else takeRecords e (cutRecords e.recordBytes p.length p) s

/-- Whether a DATA frame belongs to the load in execution (R163, R166). -/
def Exec.takesData (e : Exec) (f : RxFrame) : Bool :=
  match e.phase with
  | .loading _ => e.tag == f.tag && e.source == f.src
  | .probing | .replying .. | .ending => false

/-- A consumed DATA frame (R163, R166): a broadcast one and a stray one feed the supervision timer and do no more. -/
def handleData (f : RxFrame) (s : State) : State :=
  let s := supervise f.src s
  match s.req.exec with
  | none => s
  | some e => if !isBroadcast f && e.takesData f then takeData e f.payload s else s

/-- The data-gap wait's expiry (R164), when a load is open and it has passed. -/
def gapExpired (s : State) : State :=
  match s.req.exec with
  | none => s
  | some e =>
    match e.phase with
    | .loading gap => if passed s.link.time gap then endLoad e .dataGap 0 s else s
    | .probing | .replying .. | .ending => s

/-! ### The commands -/

/-- LOAD_ARTICLES (R163). -/
def execLoadArticles (f : RxFrame) (s : State) : Host.Outcome State Fault Refusal :=
  live (receive 0x14 f (handleLoadArticles f)) s

/-- ADMIT_PLAN (R66). -/
def execAdmitPlan (f : RxFrame) (s : State) : Host.Outcome State Fault Refusal :=
  live (receive 0x19 f (handleAdmitPlan f)) s

/-- DATA (R163). -/
def execData (f : RxFrame) (s : State) : Host.Outcome State Fault Refusal := live (receive 0x28 f (handleData f)) s

/-- DATA_GAP_EXPIRY (R164). -/
def execDataGapExpiry (s : State) : Host.Outcome State Fault Refusal := live gapExpired s

end Sys2Proof.Machine
end

