-- ==== Sys2Proof/WellFormed.lean ====
section
/-!
DEFINITION. When a command is one that its row of the opcode table can stand for.
The rows that name one frame kind, one timer or one job need no check: their operands are typed.
The two rows that stand for several kinds carry the kind byte, and it must be one of theirs.
The meanings do not assume these checks: a frame row always acts by the rules for the kind it carries.
-/

namespace Sys2Proof

/-- The reserved request kinds, 25H to 27H and 29H to 2FH (chapter 8, note 1; R184, note 2). -/
def isReservedKind (k : Byte) : Bool :=
  (0x25 ≤ k.toNat && k.toNat ≤ 0x27) || (0x29 ≤ k.toNat && k.toNat ≤ 0x2F)

/-- The kinds the device takes from the line: 10H..2FH (DATA among them), ARRIVAL, the cell, lane and transport
frames (R184, rows 1 to 6). -/
def isTakenKind (k : Byte) : Bool :=
  (0x10 ≤ k.toNat && k.toNat ≤ 0x2F) || k.toNat = 0x40 || k.toNat = 0x52 || k.toNat = 0x53
    || k.toNat = 0x62 || k.toNat = 0x63 || k.toNat = 0x64 || k.toNat = 0x70 || k.toNat = 0x71

/-- A command is well formed when the kind byte it carries is one of its row's. -/
def Instr.wf : Instr → Bool
  | .unknownKind k _        => isReservedKind k
  | .discardedKindFrame k _ => !isTakenKind k
  | .describe _ | .readState _ | .setTime _ | .setSettings _ | .loadArticles _ | .deleteArticle _ |
    .loadBase _ | .loadKinds _ | .loadLevels _ | .admitPlan _ | .withdrawPlan _ | .setStation _ |
    .closeStation _ | .acknowledgeFault _ | .flushLane _ | .probe _ | .readBuild _ | .readPlan _ |
    .readLane _ | .setGate _ | .restart _ | .data _ | .arrival _ | .orderReply _ | .readyChange _ |
    .exchangeStart _ | .exchangeDone _ | .takeTimerExpiry _ | .placeTimerExpiry _ | .exchangeTimerExpiry _ |
    .laneEntered _ | .laneReleased _ | .laneFlushed _ | .releaseTimerExpiry _ | .returnDeadline _ |
    .frameSent _ | .resetEnd _ | .powerOnReset | .dataGapExpiry | .supervisionExpiry | .takingAnArrival |
    .replanJob | .laneHeadJob | .probeJob | .commitAttempt | .lineTimeTick | .passThrough _ _ => true

end Sys2Proof
end

