-- ==== Sys2Proof/Machine/Partners.lean ====
section
/-!
DEFINITION. The partner frames (R184, R185, R193): ARRIVAL (R87), the cell frames (R126, R130), the transport frames
(R143, R144) and the lane frames (R114, R118, R122); frames of other kinds and pass-through (R183, R184).
-/

namespace Sys2Proof.Machine

/-! ### Taking a partner frame -/

/-- A partner frame consumed by the device (R184, R185, R170): one that fails its source or length check does nothing at
all; any other feeds the supervision timer, and a directed one is taken. -/
def partner (kind : Byte) (act : List Byte → State → State) (f : RxFrame) (s : State) : State :=
  if !sourceOk s.req.settings kind f then s
  else
    let s := supervise f.src s
    if isBroadcast f then s else act f.payload s

/-! ### ARRIVAL (R87) -/

/-- An ARRIVAL taken: at the tail of the arrival queue, unless it is full or the tracking number is 0. -/
def arrival (p : List Byte) (s : State) : State :=
  let a := arrivalOf p
  if a.tracking = 0 ∨ Config.arrivalCapacity ≤ s.tracker.arrivals.length then s
  else { s with tracker := { s.tracker with arrivals := s.tracker.arrivals ++ [a] } }

/-- A consumed ARRIVAL frame. -/
def handleArrivalFrame (f : RxFrame) : State → State := partner 0x40 arrival f

/-! ### Cell frames (R126, R130) -/

/-- An ORDER REPLY taken (R130); one that names no station or no outcome is discarded (R193). -/
def takeReply (p : List Byte) (s : State) : State :=
  match stationAt p, replyOutcome (u8At p 2) (u8At p 3) with
  | some i, some out => orderReply i (p.getD 1 0) out s
  | _, _ => s

/-- A consumed ORDER REPLY frame. -/
def handleOrderReply (f : RxFrame) : State → State := partner 0x52 takeReply f

/-- The ready flag of a station rising (R126); the binding attempt is IDLE's. -/
def readyRises (i : StationNo) (s : State) : State :=
  let s := s.onStation i fun st => { st with ready := true }
  if s.stations[i].state = .idle then bindingAttempt s else s

/-- The ready flag of a station falling (R126); the fault is that of BUILDING and CLOSING. -/
def readyFalls (i : StationNo) (s : State) : State :=
  stationFault i .notReady (s.onStation i fun st => { st with ready := false })

/-- A READY CHANGE taken (R126): a repeated value changes nothing, a value above 1 is discarded (R193). -/
def takeReady (p : List Byte) (s : State) : State :=
  match stationAt p with
  | none => s
  | some i =>
    if u8At p 1 = 1 ∧ s.stations[i].ready = false then readyRises i s
    else if u8At p 1 = 0 ∧ s.stations[i].ready = true then readyFalls i s
    else s

/-- A consumed READY CHANGE frame. -/
def handleReadyChange (f : RxFrame) : State → State := partner 0x53 takeReady f

/-! ### Transport frames (R143, R144) -/

/-- EXCHANGE START for a station (R143). -/
def exchangeStarts (i : StationNo) (s : State) : State :=
  if s.stations[i].state = .awaitExchange then
    let e := after s.link.time s.req.settings.exchangeTimeout
    (s.onStation i fun st => { st with exchangeExpiry := some e }).enterState i .exchanging
  else s

/-- The end of an exchange (R144). -/
def exchangeEnds (i : StationNo) (s : State) : State :=
  let s := s.onStation i fun st => { st with exchangeExpiry := none, close := none, cause := .none }
  let s := (s.onBuild i Build.clear).enterState i .idle
  let s := report (.stationIdle i) s
  if s.stations[i].ready then bindingAttempt s else s

/-- EXCHANGE DONE for a station (R144): taken in EXCHANGING and in FAULT with cause EXCHANGE_TIMEOUT. -/
def exchangeDone (i : StationNo) (s : State) : State :=
  if s.stations[i].state = .exchanging
      ∨ (s.stations[i].state = .fault ∧ s.stations[i].cause = .exchangeTimeout) then exchangeEnds i s
  else s

/-- A transport frame taken; a station above 7 is discarded (R143, R144). -/
def takeTransport (act : StationNo → State → State) (p : List Byte) (s : State) : State :=
  match stationAt p with
  | some i => act i s
  | none => s

/-- A consumed EXCHANGE START frame. -/
def handleExchangeStart (f : RxFrame) : State → State := partner 0x70 (takeTransport exchangeStarts) f

/-- A consumed EXCHANGE DONE frame. -/
def handleExchangeDone (f : RxFrame) : State → State := partner 0x71 (takeTransport exchangeDone) f

/-! ### Lane frames (R114, R118, R122, R123) -/

/-- A lane frame taken, with the tracking number at offset 1; a lane above 3 is discarded (R123). -/
def takeLaneFrame (act : LaneNo → Tracking → State → State) (p : List Byte) (s : State) : State :=
  match laneAt p with
  | some k => act k (BitVec.ofNat 32 (u32At p 1)) s
  | none => s

/-- A consumed LANE ENTERED frame. -/
def handleLaneEntered (f : RxFrame) : State → State := partner 0x62 (takeLaneFrame laneEntered) f

/-- A consumed LANE RELEASED frame. -/
def handleLaneReleased (f : RxFrame) : State → State := partner 0x63 (takeLaneFrame laneReleased) f

/-- A consumed LANE FLUSHED frame. -/
def handleLaneFlushed (f : RxFrame) : State → State := partner 0x64 (takeLaneFrame fun k _ => laneFlushed k) f

/-! ### Other kinds, and the dispatch by kind (R184) -/

/-- A consumed frame of a kind the device does not take: it feeds the supervision timer alone (R170, R184). -/
def handleDiscarded (f : RxFrame) : State → State := supervise f.src

/-- A consumed frame by its kind (R184). -/
def consumeByKind (kind : Byte) (f : RxFrame) : State → State :=
  match kind.toNat with
  | 0x10 => handleDescribe f
  | 0x11 => handleReadState f
  | 0x12 => handleSetTime f
  | 0x13 => handleSetSettings f
  | 0x14 => handleLoadArticles f
  | 0x15 => handleDeleteArticle f
  | 0x16 => handleLoadBase f
  | 0x17 => handleLoadKinds f
  | 0x18 => handleLoadLevels f
  | 0x19 => handleAdmitPlan f
  | 0x1A => handleWithdrawPlan f
  | 0x1B => handleSetStation f
  | 0x1C => handleCloseStation f
  | 0x1D => handleAcknowledgeFault f
  | 0x1E => handleFlushLane f
  | 0x1F => handleProbe f
  | 0x20 => handleReadBuild f
  | 0x21 => handleReadPlan f
  | 0x22 => handleReadLane f
  | 0x23 => handleSetGate f
  | 0x24 => handleRestart f
  | 0x28 => handleData f
  | 0x40 => handleArrivalFrame f
  | 0x52 => handleOrderReply f
  | 0x53 => handleReadyChange f
  | 0x62 => handleLaneEntered f
  | 0x63 => handleLaneReleased f
  | 0x64 => handleLaneFlushed f
  | 0x70 => handleExchangeStart f
  | 0x71 => handleExchangeDone f
  | _ => if isReservedKind kind then handleReserved kind f else handleDiscarded f

/-- Raw bytes received on a port (R182, R183, R184). -/
def receiveRaw (p : Port) (raw : List Byte) (s : State) : State :=
  match cutFrame p raw with
  | none => s
  | some (kind, f) => receive kind f (consumeByKind kind f) s

/-! ### The commands -/

/-- UNKNOWN_KIND (R152). -/
def execUnknownKind (kind : Byte) (f : RxFrame) (s : State) : Host.Outcome State Fault Refusal :=
  live (receive kind f (consumeByKind kind f)) s

/-- ARRIVAL (R87). -/
def execArrival (f : RxFrame) (s : State) : Host.Outcome State Fault Refusal :=
  live (receive 0x40 f (handleArrivalFrame f)) s

/-- PASS_THROUGH (R183): the bytes may also be addressed to the device, which then consumes them by their kind. -/
def execPassThrough (p : Port) (raw : List Byte) (s : State) : Host.Outcome State Fault Refusal :=
  live (receiveRaw p raw) s

/-- ORDER_REPLY (R130). -/
def execOrderReply (f : RxFrame) (s : State) : Host.Outcome State Fault Refusal :=
  live (receive 0x52 f (handleOrderReply f)) s

/-- READY_CHANGE (R126). -/
def execReadyChange (f : RxFrame) (s : State) : Host.Outcome State Fault Refusal :=
  live (receive 0x53 f (handleReadyChange f)) s

/-- EXCHANGE_START (R143). -/
def execExchangeStart (f : RxFrame) (s : State) : Host.Outcome State Fault Refusal :=
  live (receive 0x70 f (handleExchangeStart f)) s

/-- EXCHANGE_DONE (R144). -/
def execExchangeDone (f : RxFrame) (s : State) : Host.Outcome State Fault Refusal :=
  live (receive 0x71 f (handleExchangeDone f)) s

/-- LANE_ENTERED (R114). -/
def execLaneEntered (f : RxFrame) (s : State) : Host.Outcome State Fault Refusal :=
  live (receive 0x62 f (handleLaneEntered f)) s

/-- LANE_RELEASED (R118). -/
def execLaneReleased (f : RxFrame) (s : State) : Host.Outcome State Fault Refusal :=
  live (receive 0x63 f (handleLaneReleased f)) s

/-- LANE_FLUSHED (R122). -/
def execLaneFlushed (f : RxFrame) (s : State) : Host.Outcome State Fault Refusal :=
  live (receive 0x64 f (handleLaneFlushed f)) s

/-- DISCARDED_KIND_FRAME (R184). -/
def execDiscardedKindFrame (kind : Byte) (f : RxFrame) (s : State) : Host.Outcome State Fault Refusal :=
  live (receive kind f (consumeByKind kind f)) s

end Sys2Proof.Machine
end

