-- ==== Sys2Proof/Machine/Timing.lean ====
section
/-!
DEFINITION. Resets (R190, R191), the line time (R189), the timers and deadlines (R91, R119, R138, R143, R171), the ends of
transmissions (R188) and the job steps of the planning engine as commands.
A timer's command has no effect unless the timer runs and its expiry is reached (log 9).
-/

namespace Sys2Proof.Machine

/-! ### Resets (R190, R191) -/

/-- The own node that the node pins give: 0 is taken as node 1 (R190). -/
def nodeOf (pins : BitVec 4) : Byte := if pins = 0 then 1 else pins.setWidth 8

/-- POWER_ON_RESET (R190): every block goes to its power-on values at once and the reset lasts until RESET_END (log 14).
The own node is read at its end. -/
def execPowerOnReset (s : State) : Host.Outcome State Fault Refusal :=
  .next { State.powerOn s.link.ownNode with inReset := true, draws := s.draws, pending := s.pending }

/-- RESET_END (R190, R191): the node pins are read, STARTED is queued and the ports start; no effect when no reset lasts
(log 14). -/
def execResetEnd (pins : BitVec 4) (s : State) : Host.Outcome State Fault Refusal :=
  .next (if s.inReset then settle { State.started (nodeOf pins) with draws := s.draws, pending := s.pending } else s)

/-! ### The line time (R189) -/

/-- One millisecond: the line time rises by 1 and wraps. -/
def tick (s : State) : State := s.moveTime (s.link.time + 1)

/-- LINE_TIME_TICK (R189). -/
def execLineTimeTick (s : State) : Host.Outcome State Fault Refusal := live tick s

/-! ### Timers of the blocks -/

/-- Whether a timer runs and its expiry is reached (R189). -/
def State.expired (s : State) (e : Option Timer) : Bool :=
  match e with
  | some e => passed s.link.time e
  | none => false

/-- A take timer's expiry (R138). -/
def takeTimer (i : StationNo) (s : State) : State :=
  if s.expired s.stations[i].takeExpiry then stationFault i .takeTimeout s else s

/-- A place timer's expiry (R138). -/
def placeTimer (i : StationNo) (s : State) : State :=
  if s.expired s.stations[i].placeExpiry then stationFault i .placeTimeout s else s

/-- An exchange timer's expiry (R143). -/
def exchangeTimer (i : StationNo) (s : State) : State :=
  if s.expired s.stations[i].exchangeExpiry && s.stations[i].state == .exchanging then faultExchange i s else s

/-- A release timer's expiry (R119): it stops, and a READY lane enters FAULT. -/
def releaseTimer (k : LaneNo) (s : State) : State :=
  if s.expired s.lanes[k].expiry then
    laneFault k .releaseTimeout (s.onLane k fun l => { l with expiry := none })
  else s

/-- The return deadline of a tracking state (R90). -/
def TrackState.deadline : TrackState → Option Timer
  | .circulating d | .returning d => some d
  | .toStation _ _ | .spurHeld _ | .holdPending _ | .held _ | .releasing _ => none

/-- The passing of an entry's return deadline (R91): the entry removed, CASE_MISSING queued. -/
def deadlinePasses (t : Tracking) (s : State) : State :=
  match s.track t with
  | none => s
  | some e =>
    if s.expired e.state.deadline then report (.caseMissing t (e.snap.map (·.code))) (s.dropTrack t) else s

/-- The supervision timer's expiry (R171). -/
def supervisionExpires (s : State) : State :=
  match s.req.sup with
  | .running e =>
    if passed s.link.time e then
      let s := report (.supervision s.req.settings.supAction s.req.settings.supInterval s.link.time) s
      match s.req.settings.supAction with
      | .report => s.setSup (.running (after s.link.time s.req.settings.supInterval))
      | .stop => (s.setGate false).setSup .halted
    else s
  | .stopped | .halted => s

/-! ### The commands -/

/-- TAKE_TIMER_EXPIRY (R138). -/
def execTakeTimerExpiry (i : StationNo) (s : State) : Host.Outcome State Fault Refusal := live (takeTimer i) s

/-- PLACE_TIMER_EXPIRY (R138). -/
def execPlaceTimerExpiry (i : StationNo) (s : State) : Host.Outcome State Fault Refusal := live (placeTimer i) s

/-- EXCHANGE_TIMER_EXPIRY (R143). -/
def execExchangeTimerExpiry (i : StationNo) (s : State) : Host.Outcome State Fault Refusal := live (exchangeTimer i) s

/-- RELEASE_TIMER_EXPIRY (R119). -/
def execReleaseTimerExpiry (k : LaneNo) (s : State) : Host.Outcome State Fault Refusal := live (releaseTimer k) s

/-- RETURN_DEADLINE (R91). -/
def execReturnDeadline (t : Tracking) (s : State) : Host.Outcome State Fault Refusal := live (deadlinePasses t) s

/-- SUPERVISION_EXPIRY (R171). -/
def execSupervisionExpiry (s : State) : Host.Outcome State Fault Refusal := live supervisionExpires s

/-- TAKING_AN_ARRIVAL (R93, R95). -/
def execTakingAnArrival (s : State) : Host.Outcome State Fault Refusal := live takeArrival s

/-- REPLAN_JOB (R93, R106). -/
def execReplanJob (s : State) : Host.Outcome State Fault Refusal := live takeReplan s

/-- LANE_HEAD_JOB (R93, R107, R117). -/
def execLaneHeadJob (s : State) : Host.Outcome State Fault Refusal := live takeLane s

/-- PROBE_JOB (R93, R169). -/
def execProbeJob (s : State) : Host.Outcome State Fault Refusal := live takeProbe s

/-- COMMIT_ATTEMPT (R102). -/
def execCommitAttempt (s : State) : Host.Outcome State Fault Refusal := live commitAttempt s

/-- The end of a transmission at a port. -/
def frameSent (p : Port) (s : State) : State :=
  match p with
  | .a => frameSentA s
  | .b => frameSentB s

/-- FRAME_SENT (R188). -/
def execFrameSent (p : Port) (s : State) : Host.Outcome State Fault Refusal := live (frameSent p) s

end Sys2Proof.Machine
end

