-- ==== Sys2Proof/Machine/Dispatch.lean ====
section
/-!
DEFINITION. The meaning of every command on everything but the queue: one arm per constructor, each one call.
-/

namespace Sys2Proof.Machine

/-- The effect of a command. -/
def exec (i : Instr) (s : State) : Host.Outcome State Fault Refusal :=
  match i with
  | .powerOnReset => Sys2Proof.Machine.execPowerOnReset s
  | .resetEnd pins => Sys2Proof.Machine.execResetEnd pins s
  | .describe f => Sys2Proof.Machine.execDescribe f s
  | .readState f => Sys2Proof.Machine.execReadState f s
  | .setTime f => Sys2Proof.Machine.execSetTime f s
  | .setSettings f => Sys2Proof.Machine.execSetSettings f s
  | .loadArticles f => Sys2Proof.Machine.execLoadArticles f s
  | .deleteArticle f => Sys2Proof.Machine.execDeleteArticle f s
  | .loadBase f => Sys2Proof.Machine.execLoadBase f s
  | .loadKinds f => Sys2Proof.Machine.execLoadKinds f s
  | .loadLevels f => Sys2Proof.Machine.execLoadLevels f s
  | .admitPlan f => Sys2Proof.Machine.execAdmitPlan f s
  | .withdrawPlan f => Sys2Proof.Machine.execWithdrawPlan f s
  | .setStation f => Sys2Proof.Machine.execSetStation f s
  | .closeStation f => Sys2Proof.Machine.execCloseStation f s
  | .acknowledgeFault f => Sys2Proof.Machine.execAcknowledgeFault f s
  | .flushLane f => Sys2Proof.Machine.execFlushLane f s
  | .probe f => Sys2Proof.Machine.execProbe f s
  | .readBuild f => Sys2Proof.Machine.execReadBuild f s
  | .readPlan f => Sys2Proof.Machine.execReadPlan f s
  | .readLane f => Sys2Proof.Machine.execReadLane f s
  | .setGate f => Sys2Proof.Machine.execSetGate f s
  | .restart f => Sys2Proof.Machine.execRestart f s
  | .unknownKind kind f => Sys2Proof.Machine.execUnknownKind kind f s
  | .data f => Sys2Proof.Machine.execData f s
  | .dataGapExpiry => Sys2Proof.Machine.execDataGapExpiry s
  | .supervisionExpiry => Sys2Proof.Machine.execSupervisionExpiry s
  | .arrival f => Sys2Proof.Machine.execArrival f s
  | .passThrough p raw => Sys2Proof.Machine.execPassThrough p raw s
  | .orderReply f => Sys2Proof.Machine.execOrderReply f s
  | .readyChange f => Sys2Proof.Machine.execReadyChange f s
  | .exchangeStart f => Sys2Proof.Machine.execExchangeStart f s
  | .exchangeDone f => Sys2Proof.Machine.execExchangeDone f s
  | .takeTimerExpiry n => Sys2Proof.Machine.execTakeTimerExpiry n s
  | .placeTimerExpiry n => Sys2Proof.Machine.execPlaceTimerExpiry n s
  | .exchangeTimerExpiry n => Sys2Proof.Machine.execExchangeTimerExpiry n s
  | .laneEntered f => Sys2Proof.Machine.execLaneEntered f s
  | .laneReleased f => Sys2Proof.Machine.execLaneReleased f s
  | .laneFlushed f => Sys2Proof.Machine.execLaneFlushed f s
  | .releaseTimerExpiry k => Sys2Proof.Machine.execReleaseTimerExpiry k s
  | .returnDeadline t => Sys2Proof.Machine.execReturnDeadline t s
  | .takingAnArrival => Sys2Proof.Machine.execTakingAnArrival s
  | .replanJob => Sys2Proof.Machine.execReplanJob s
  | .laneHeadJob => Sys2Proof.Machine.execLaneHeadJob s
  | .probeJob => Sys2Proof.Machine.execProbeJob s
  | .commitAttempt => Sys2Proof.Machine.execCommitAttempt s
  | .frameSent p => Sys2Proof.Machine.execFrameSent p s
  | .lineTimeTick => Sys2Proof.Machine.execLineTimeTick s
  | .discardedKindFrame kind f => Sys2Proof.Machine.execDiscardedKindFrame kind f s

end Sys2Proof.Machine
end

