-- ==== Sys2Proof/Machine/Step.lean ====
section
/-!
DEFINITION. One step: the command at the front of the queue carried out on the state with the queue's rest.
On an empty queue the block idles (log 1).
-/

namespace Sys2Proof.Machine

/-- A state with its queue of waiting commands replaced. -/
def State.withPending (s : State) (q : List Instr) : State := { s with pending := q }

/-- One step. -/
def step (s : State) : Host.Outcome State Fault Refusal :=
  match s.pending with
  | [] => .next s
  | c :: rest => exec c (s.withPending rest)

/-- The state with the command that a word spells put at the front of its queue; unchanged where the word spells none,
which is every word (Decode.lean). -/
def State.withFetchWord (s : State) (nbits w : Nat) : State :=
  match decodeTableWord nbits w with
  | some c => s.withPending (c :: s.pending)
  | none => s

end Sys2Proof.Machine
end

