-- ==== Sys2Proof/Safety.lean ====
section
/-!
DEFINITION. What the statements speak of: the parts of the device and what keeps them, frames put on a port, reports
queued, orders that leave a queue, the frames a command carries, the situations in which a command is taken, and the
invariants of the model.
-/

namespace Sys2Proof.Machine

/-! ### Parts of the device -/

/-- The parts of the device that a frame rule names.
`portA` is port A with its forward queue, the response slot, the waiting place and the RESPONSE held behind them;
`portB` is port B with its forward queue, its own-frame queue and the frames that wait to join it;
`exec` is the request in execution, with what holds its reply back and the count of the draws of that (log 26);
`replans` is the replan queue with the cases that wait for it; `reports` is the report queue with the lost count. -/
inductive Part where
  | time
  | ownNode
  | portA
  | portB
  | exec
  | settings
  | latch
  | sup
  | articles
  | bases
  | kinds
  | plans
  | admission
  | counter
  | arrivals
  | tracks
  | replans
  | flags
  | probe
  | job
  | gate
  | builds
  | stations
  | lanes
  | levels
  | reports
  deriving DecidableEq, Repr

/-- A part that is the same in two states. -/
def Part.Same (s t : State) : Part → Prop
  | .time      => t.link.time = s.link.time
  | .ownNode   => t.link.ownNode = s.link.ownNode
  | .portA     => t.link.portA = s.link.portA ∧ t.link.fwdA = s.link.fwdA ∧ t.link.slot = s.link.slot
                    ∧ t.req.waiting = s.req.waiting ∧ t.req.heldFinal = s.req.heldFinal
  | .portB     => t.link.portB = s.link.portB ∧ t.link.fwdB = s.link.fwdB ∧ t.link.ownB = s.link.ownB
                    ∧ t.link.waitB = s.link.waitB
  | .exec      => t.req.exec = s.req.exec ∧ t.req.late = s.req.late ∧ t.draws = s.draws
  | .settings  => t.req.settings = s.req.settings
  | .latch     => t.req.latch = s.req.latch
  | .sup       => t.req.sup = s.req.sup
  | .articles  => t.tables.articles = s.tables.articles
  | .bases     => t.tables.bases = s.tables.bases
  | .kinds     => t.tables.kinds = s.tables.kinds
  | .plans     => t.plans.plans = s.plans.plans
  | .admission => t.plans.admission = s.plans.admission
  | .counter   => t.plans.counter = s.plans.counter
  | .arrivals  => t.tracker.arrivals = s.tracker.arrivals
  | .tracks    => t.tracker.tracks = s.tracker.tracks
  | .replans   => t.engine.replans = s.engine.replans ∧ t.engine.waiting = s.engine.waiting
  | .flags     => t.engine.flags = s.engine.flags
  | .probe     => t.engine.probe = s.engine.probe
  | .job       => t.engine.job = s.engine.job
  | .gate      => t.engine.gate = s.engine.gate
  | .builds    => t.builds = s.builds
  | .stations  => t.stations = s.stations
  | .lanes     => t.lanes = s.lanes
  | .levels    => t.reports.levels = s.reports.levels
  | .reports   => t.reports.queue = s.reports.queue ∧ t.reports.lost = s.reports.lost

/-- Every part but the named ones is the same, and so are the reset pin and the queue of commands. -/
def KeepsAllBut (changed : List Part) (s t : State) : Prop :=
  t.inReset = s.inReset ∧ t.pending = s.pending ∧ ∀ p : Part, p ∉ changed → p.Same s t

/-- Every station record but that of `i` is the same. -/
def OtherStations (i : StationNo) (s t : State) : Prop := ∀ j : StationNo, j ≠ i → t.stations[j] = s.stations[j]

/-- Every build record but that of `i` is the same. -/
def OtherBuilds (i : StationNo) (s t : State) : Prop := ∀ j : StationNo, j ≠ i → t.builds[j] = s.builds[j]

/-- Every lane record but that of `k` is the same. -/
def OtherLanes (k : LaneNo) (s t : State) : Prop := ∀ j : LaneNo, j ≠ k → t.lanes[j] = s.lanes[j]

/-! ### The ports (R156, R187, R188) -/

/-- Every idle port has been served: nothing that could move up or be sent is left where it is (R156, R167, R188).
Every command that is carried out leaves the device so (log 8). -/
def Settled (s : State) : Prop := settle s = s

/-- An own frame put on the way out of port A (R156, R188): sent at once by an idle port, else in the response slot,
else in the waiting place. -/
def PutOnA (fr : OwnFrame) (s t : State) : Prop :=
  t.link.fwdA = s.link.fwdA ∧ t.req.heldFinal = s.req.heldFinal ∧
  if s.link.portA.sending = none then
    t.link.portA = { sending := some (.own fr), mark := .own } ∧ t.link.slot = s.link.slot
      ∧ t.req.waiting = s.req.waiting
  else
    t.link.portA = s.link.portA ∧
    if s.link.slot = none then t.link.slot = some fr ∧ t.req.waiting = s.req.waiting
    else t.link.slot = s.link.slot ∧ t.req.waiting = some fr

/-- An own frame put on the way out of port B (R187, R188): sent at once by an idle port; else it joins the own-frame
queue when that has a place and no frame waits for one; else it waits. -/
def PutOnB (fr : OwnFrame) (s t : State) : Prop :=
  t.link.fwdB = s.link.fwdB ∧
  if s.link.portB.sending = none then
    t.link.portB = { sending := some (.own fr), mark := .own } ∧ t.link.ownB = s.link.ownB ∧ t.link.waitB = s.link.waitB
  else
    t.link.portB = s.link.portB ∧
    if s.link.waitB = [] ∧ s.link.ownB.length < Config.ownCapacity then
      t.link.ownB = joinOwn fr s.link.ownB ∧ t.link.waitB = s.link.waitB
    else t.link.ownB = s.link.ownB ∧ t.link.waitB = s.link.waitB ++ [fr]

/-- An own frame of port B from the device itself (R186). -/
def ownFrameB (s : State) (dst : Nat) (b : OwnBody) : OwnFrame :=
  { dst := BitVec.ofNat 8 dst, src := s.link.ownNode, tag := 0, body := b, final := false }

/-- A frame that port B sends, or that waits for it: the own side of port B. -/
def OnB (fr : OwnFrame) (t : State) : Prop :=
  t.link.portB.sending = some (.own fr) ∨ fr ∈ t.link.ownB ∨ fr ∈ t.link.waitB

/-- The own frames of port B: the one in transmission, those queued and those that wait to join. -/
def outB (s : State) : List OwnFrame :=
  (match s.link.portB.sending with
    | some (.own f) => [f]
    | some (.forward _) | none => [])
    ++ s.link.ownB ++ s.link.waitB

/-- Exactly these own frames have joined port B, each to its node with the device's own node as source (R186, R187). -/
def JoinedB (frames : List (Nat × OwnBody)) (s t : State) : Prop :=
  (outB t).Perm (outB s ++ frames.map fun x => ownFrameB s x.1 x.2)

/-- Raw bytes put on the way out of the port other than `p` (R183, R188): sent at once when it is idle, else at the
tail of its forward queue, else dropped. -/
def Forwarded (p : Port) (bytes : List Byte) (s t : State) : Prop :=
  match p with
  | .a =>
    Part.Same s t .portA ∧ t.link.ownB = s.link.ownB ∧ t.link.waitB = s.link.waitB ∧
    if s.link.portB.sending = none then
      t.link.portB = { sending := some (.forward bytes), mark := .forward } ∧ t.link.fwdB = s.link.fwdB
    else
      t.link.portB = s.link.portB ∧
      t.link.fwdB = if s.link.fwdB.length < Config.forwardCapacity then s.link.fwdB ++ [bytes] else s.link.fwdB
  | .b =>
    Part.Same s t .portB ∧ t.link.slot = s.link.slot ∧ t.req.waiting = s.req.waiting
      ∧ t.req.heldFinal = s.req.heldFinal ∧
    if s.link.portA.sending = none then
      t.link.portA = { sending := some (.forward bytes), mark := .forward } ∧ t.link.fwdA = s.link.fwdA
    else
      t.link.portA = s.link.portA ∧
      t.link.fwdA = if s.link.fwdA.length < Config.forwardCapacity then s.link.fwdA ++ [bytes] else s.link.fwdA

/-! ### Reports (R172 to R177) -/

/-- A report as the report unit makes it now. -/
def reportNow (s : State) (b : ReportBody) : Report :=
  { body := b, level := s.reports.levels.getD (b.kindCode - 1) 0, time := s.link.time }

/-- One report queued by a command that answers nothing on port A (R172, R174, R176): not at all at level 0; sent at
once by an idle port A; else taken by the queue. -/
def Reported (b : ReportBody) (s t : State) : Prop :=
  let r := reportNow s b
  t.link.fwdA = s.link.fwdA ∧ t.link.slot = s.link.slot ∧ t.req.waiting = s.req.waiting
    ∧ t.req.heldFinal = s.req.heldFinal ∧
  if r.level = 0 then
    t.link.portA = s.link.portA ∧ t.reports = s.reports
  else if s.link.portA.sending = none then
    t.link.portA =
        { sending := some (.own
            { dst := BitVec.ofNat 8 s.req.settings.controlNode, src := s.link.ownNode, tag := 0,
              body := .report r s.reports.lost, final := false })
          mark := .own }
      ∧ t.reports = { s.reports with lost := 0 }
  else t.link.portA = s.link.portA ∧ t.reports = s.reports.take r

/-- The report unit after these reports, each at its level, none at level 0. -/
def taking (s : State) (bs : List ReportBody) : ReportUnit :=
  bs.foldl (fun u b => if (reportNow s b).level = 0 then u else u.take (reportNow s b)) s.reports

/-- Reports queued by a command that answers nothing on port A (R174, R176): taken by the queue, from which an idle port A
then sends the one that R176 chooses. -/
def ReportedAll (bs : List ReportBody) (s t : State) : Prop :=
  let u := taking s bs
  t.link.fwdA = s.link.fwdA ∧ t.link.slot = s.link.slot ∧ t.req.waiting = s.req.waiting
    ∧ t.req.heldFinal = s.req.heldFinal ∧
  if s.link.portA.sending ≠ none ∨ u.queue = [] then t.link.portA = s.link.portA ∧ t.reports = u
  else ∃ before r later, u.queue = before ++ r :: later
    ∧ (∀ q ∈ before, reportBefore r q = true) ∧ (∀ q ∈ later, reportBefore q r = false)
    ∧ t.link.portA =
        { sending := some (.own
            { dst := BitVec.ofNat 8 s.req.settings.controlNode, src := s.link.ownNode, tag := 0,
              body := .report r u.lost, final := false })
          mark := .own }
    ∧ t.reports = { u with queue := before ++ later, lost := 0 }

/-- A list of reports queued while port A is not free for them: each at its level, none at level 0. -/
def ReportsTaken (bs : List ReportBody) (s t : State) : Prop :=
  t.reports = taking s bs

/-! ### The supervision timer (R170) -/

/-- The supervision timer as a valid frame from `src` leaves it (R170, row 1). -/
def fedTimer (src : Byte) (s : State) : SupTimer :=
  if src.toNat = s.req.settings.controlNode ∧ s.req.sup ≠ .halted then
    if s.req.settings.supInterval = 0 then .stopped else .running (after s.link.time s.req.settings.supInterval)
  else s.req.sup

/-! ### Frames that commands carry -/

/-- The kind and envelope that a frame command carries; none for raw bytes too short to be cut, and for commands that
carry no frame. -/
def frameOf : Instr → Option (Byte × RxFrame)
  | .describe f => some (0x10, f)
  | .readState f => some (0x11, f)
  | .setTime f => some (0x12, f)
  | .setSettings f => some (0x13, f)
  | .loadArticles f => some (0x14, f)
  | .deleteArticle f => some (0x15, f)
  | .loadBase f => some (0x16, f)
  | .loadKinds f => some (0x17, f)
  | .loadLevels f => some (0x18, f)
  | .admitPlan f => some (0x19, f)
  | .withdrawPlan f => some (0x1A, f)
  | .setStation f => some (0x1B, f)
  | .closeStation f => some (0x1C, f)
  | .acknowledgeFault f => some (0x1D, f)
  | .flushLane f => some (0x1E, f)
  | .probe f => some (0x1F, f)
  | .readBuild f => some (0x20, f)
  | .readPlan f => some (0x21, f)
  | .readLane f => some (0x22, f)
  | .setGate f => some (0x23, f)
  | .restart f => some (0x24, f)
  | .unknownKind k f => some (k, f)
  | .data f => some (0x28, f)
  | .arrival f => some (0x40, f)
  | .passThrough p raw => cutFrame p raw
  | .orderReply f => some (0x52, f)
  | .readyChange f => some (0x53, f)
  | .exchangeStart f => some (0x70, f)
  | .exchangeDone f => some (0x71, f)
  | .laneEntered f => some (0x62, f)
  | .laneReleased f => some (0x63, f)
  | .laneFlushed f => some (0x64, f)
  | .discardedKindFrame k f => some (k, f)
  | .powerOnReset | .resetEnd _ | .dataGapExpiry | .supervisionExpiry | .takeTimerExpiry _ | .placeTimerExpiry _
  | .exchangeTimerExpiry _ | .releaseTimerExpiry _ | .returnDeadline _ | .takingAnArrival | .replanJob | .laneHeadJob
  | .probeJob | .commitAttempt | .frameSent _ | .lineTimeTick => none

/-- A request row: its kind, the one length of its payload (R193) and its field check (R152). -/
structure RequestRow where
  kind  : Byte
  bytes : Nat
  check : List Byte → Option Nat
  frame : RxFrame

/-- The request that a command carries. -/
def requestRow (s : State) : Instr → Option RequestRow
  | .describe f => some ⟨0x10, 0, noFields, f⟩
  | .readState f => some ⟨0x11, 0, noFields, f⟩
  | .setTime f => some ⟨0x12, 4, noFields, f⟩
  | .setSettings f => some ⟨0x13, 84, noFields, f⟩
  | .loadArticles f => some ⟨0x14, 1, noFields, f⟩
  | .deleteArticle f => some ⟨0x15, 4, badArticleCode, f⟩
  | .loadBase f => some ⟨0x16, 18, badBase, f⟩
  | .loadKinds f => some ⟨0x17, 64, badKinds, f⟩
  | .loadLevels f => some ⟨0x18, 15, noFields, f⟩
  | .admitPlan f => some ⟨0x19, 6, s.badHeader, f⟩
  | .withdrawPlan f => some ⟨0x1A, 2, badPlanId, f⟩
  | .setStation f => some ⟨0x1B, 3, badSetStation, f⟩
  | .closeStation f => some ⟨0x1C, 1, badStation, f⟩
  | .acknowledgeFault f => some ⟨0x1D, 3, badAcknowledge, f⟩
  | .flushLane f => some ⟨0x1E, 1, badLane, f⟩
  | .probe f => some ⟨0x1F, 8, badProbe, f⟩
  | .readBuild f => some ⟨0x20, 1, badStation, f⟩
  | .readPlan f => some ⟨0x21, 2, badPlanId, f⟩
  | .readLane f => some ⟨0x22, 1, badLane, f⟩
  | .setGate f => some ⟨0x23, 1, badGate, f⟩
  | .restart f => some ⟨0x24, 0, noFields, f⟩
  | _ => none

/-! ### The situations in which a frame is taken -/

/-- The device runs and its ports have been served. -/
structure Running (s : State) : Prop where
  noReset : s.inReset = false
  served  : Settled s

/-- A frame that passes its checks and is addressed to the device alone (R182, R183). -/
structure Directed (kind : Byte) (f : RxFrame) (s : State) : Prop extends Running s where
  ok     : frameOk kind f = true
  own    : f.dst = s.link.ownNode
  single : isBroadcast f = false

/-- A request of the right length that finds a place for its RESPONSE and no request in execution (R152, R156). -/
structure TakenAt (kind : Byte) (bytes : Nat) (f : RxFrame) (s : State) : Prop extends Directed kind f s where
  ready : s.req.exec = none
  room  : s.placesFull = false
  size  : f.payload.length = bytes

/-- A partner frame addressed to the device that passes its source and length checks (R185). -/
structure FromPartner (kind : Byte) (f : RxFrame) (s : State) : Prop extends Directed kind f s where
  source : sourceOk s.req.settings kind f = true

/-- The RESPONSE to a request frame (R153). -/
def responseFrame (s : State) (f : RxFrame) (r : Response) : OwnFrame :=
  { dst := f.src, src := s.link.ownNode, tag := f.tag, body := .response r, final := false }

/-- A request answered DONE with its result fields, the supervision timer fed. -/
def AnsweredDone (kind : Byte) (f : RxFrame) (result : ResultFields) (s t : State) : Prop :=
  PutOnA (responseFrame s f { kind := kind, completion := .done, reason := .none, field := 0, result := result }) s t
    ∧ t.req.sup = fedTimer f.src s

/-- A request answered REFUSED with its reason and field index, the supervision timer fed. -/
def AnsweredRefused (kind : Byte) (f : RxFrame) (reason : Reason) (field : Nat) (s t : State) : Prop :=
  PutOnA (responseFrame s f
      { kind := kind, completion := .refused, reason := reason, field := field,
        result := refusedFields kind f.payload }) s t
    ∧ t.req.sup = fedTimer f.src s

/-! ### The reset values (R190, R191) -/

/-- Every block at the power-on values that the chapters give (R18, R53, R56, R57, R63, R86, R111, R124, R151, R155,
R180, R191), the report queue and the ports left out. -/
structure PowerOnValues (s : State) : Prop where
  builds    : ∀ i : StationNo, s.builds[i].binding = none ∧ s.builds[i].cases = [] ∧ s.builds[i].totalWeight = 0
                ∧ s.builds[i].momentX = 0 ∧ s.builds[i].momentY = 0 ∧ s.builds[i].deckLoad = 0
                ∧ s.builds[i].topHeight = 0 ∧ s.builds[i].revision = 0
  articles  : s.tables.articles = []
  bases     : ∀ k : BaseKind, s.tables.bases[k] = none
  kinds     : ∀ i j : PackKind, s.tables.mayRest i j = true
  settings  : s.req.settings = Settings.default ∧ s.req.latch = false
  plans     : s.plans.plans = [] ∧ s.plans.admission = none ∧ s.plans.counter = 0
  tracker   : s.tracker.arrivals = [] ∧ s.tracker.tracks = []
  engine    : s.engine.replans = [] ∧ s.engine.waiting = [] ∧ s.engine.job = none ∧ s.engine.probe = none
                ∧ (∀ k : LaneNo, s.flag k = false) ∧ s.engine.gate = false
  lanes     : ∀ k : LaneNo, s.lanes[k].state = .ready ∧ s.lanes[k].cause = .none ∧ s.lanes[k].list = []
                ∧ s.lanes[k].inFlight = none ∧ s.lanes[k].expiry = none
  stations  : ∀ i : StationNo, s.stations[i] = Station.powerOn
  request   : s.req.exec = none ∧ s.req.late = false ∧ s.req.waiting = none ∧ s.req.heldFinal = none ∧ s.req.sup = .stopped
  levels    : s.reports.levels = defaultLevels
  queues    : s.link.fwdA = [] ∧ s.link.fwdB = [] ∧ s.link.ownB = [] ∧ s.link.waitB = [] ∧ s.link.slot = none
  time      : s.link.time = 0

/-! ### Replies in several frames (R167) -/

/-- The frames that a reply in progress has still to send, in order, as matters stand now. -/
def replyFrames (own : Byte) (e : Exec) : List OwnFrame :=
  match e.phase with
  | .replying segments next result _ changed =>
    segments.mapIdx (fun i seg =>
      { dst := e.source, src := own, tag := e.tag,
        body := .responseData (next + i) (i + 1 == segments.length) seg, final := false })
      ++ [{ dst := e.source, src := own, tag := e.tag, final := true
            body := .response
              { kind := e.kind, completion := if changed then .changed else .done, reason := .none, field := 0,
                result := result } }]
  | .loading _ | .probing | .ending => []

/-- The frames that the reply in progress has still to send. -/
def replyLeft (s : State) : List OwnFrame :=
  match s.req.exec with
  | some e => replyFrames s.link.ownNode e
  | none => []

/-- The own frame that port A sends. -/
def sentOwnA (s : State) : List OwnFrame :=
  match s.link.portA.sending with
  | some (.own f) => [f]
  | some (.forward _) | none => []

/-- The own frames on their way out of port A, in order: the one in transmission, the slot, the waiting place, the held
RESPONSE, and the frames of the reply in progress. -/
def outA (s : State) : List OwnFrame :=
  sentOwnA s ++ s.link.slot.toList ++ s.req.waiting.toList ++ s.req.heldFinal.toList ++ replyLeft s

/-- The reply that `e` begins, its frames behind what was on its way out of port A.  While it has frames left to send it
watches the stations `watch` from now on (R168, R169), and once its final RESPONSE has been placed it only waits for that to
leave. -/
def ReplyBegun (e : Exec) (watch : List StationNo) (s t : State) : Prop :=
  outA t = outA s ++ replyFrames s.link.ownNode e
    ∧ ∃ phase, t.req.exec = some { e with phase := phase }
      ∧ (replyLeft t ≠ [] → ∃ segments next result, phase = .replying segments next result watch false)
      ∧ (replyLeft t = [] → phase = .ending)

/-- The final RESPONSE of a load placed (R156): as any frame that goes out of port A, and held in the request unit when the
slot and the waiting place both hold one. -/
def FinalPlaced (fr : OwnFrame) (s t : State) : Prop :=
  if s.placesFull = true then
    t.link.portA = s.link.portA ∧ t.link.fwdA = s.link.fwdA ∧ t.link.slot = s.link.slot
      ∧ t.req.waiting = s.req.waiting ∧ t.req.heldFinal = some fr
  else PutOnA fr s t

/-! ### Faults of lanes, and the parts that a fault may change (R120, R145) -/

/-- The parts that a station's entry into FAULT may change. -/
def faultParts : List Part :=
  [.portA, .portB, .exec, .plans, .tracks, .replans, .flags, .job, .builds, .stations, .reports]

/-- A READY lane that has entered FAULT (R120): the cause recorded, the flag cleared, LANE_FAULT queued with the count as
it then stands. -/
def LaneFaulted (k : LaneNo) (cause : LaneCause) (s t : State) : Prop :=
  t.lanes[k].state = .fault ∧ t.lanes[k].cause = cause ∧ t.flag k = false
    ∧ Reported (.laneFault k cause t.lanes[k].list.length) s t

/-! ### Invariants -/

/-- A list in rising order of a key, each key once (log 3). -/
def RisingKeys {α : Type} (key : α → Nat) (l : List α) : Prop := l.Pairwise fun x y => key x < key y

/-- R64: placed ≤ planned ≤ required ≤ 255. -/
def LineOk (l : PlanLine) : Prop := l.placed ≤ l.planned ∧ l.planned ≤ l.required ∧ l.required ≤ 255

/-- R64: the counts of every line of every held plan, and the plans in rising id order, each id once. -/
def CountsOk (s : State) : Prop :=
  (∀ p ∈ s.plans.plans, ∀ l ∈ p.lines, LineOk l)
    ∧ (∀ a, s.plans.admission = some a → ∀ l ∈ a.lines, l.required ≤ 255)
    ∧ RisingKeys Plan.key s.plans.plans

/-- R47, R57: the articles in rising code order within the table's capacity, and the 64 entries of the kind matrix. -/
def TablesOk (s : State) : Prop :=
  RisingKeys Article.key s.tables.articles ∧ s.tables.articles.length ≤ Config.articleCapacity
    ∧ s.tables.kinds.length = 64

/-- R174, R177, R178: the report unit. -/
def ReportsOk (s : State) : Prop :=
  s.reports.levels.length = 15 ∧ (∀ v ∈ s.reports.levels, v ≤ 7)
    ∧ s.reports.queue.length ≤ Config.reportCapacity
    ∧ (∀ r ∈ s.reports.queue, 1 ≤ r.level ∧ r.level ≤ 7)
    ∧ s.reports.lost ≤ 255

/-- R183, R187: the link interface.  DECISIONs stand ahead of every other frame, and frames wait only behind a full
queue. -/
def LinkOk (s : State) : Prop :=
  s.link.fwdA.length ≤ Config.forwardCapacity ∧ s.link.fwdB.length ≤ Config.forwardCapacity
    ∧ s.link.ownB.length ≤ Config.ownCapacity
    ∧ s.link.ownB.Pairwise (fun x y => y.isDecision = true → x.isDecision = true)
    ∧ (s.link.waitB ≠ [] → s.link.ownB.length = Config.ownCapacity)

/-- R87, R89, R91: the case tracker. -/
def TrackerOk (s : State) : Prop :=
  s.tracker.arrivals.length ≤ Config.arrivalCapacity
    ∧ s.tracker.tracks.length ≤ Config.trackingCapacity
    ∧ RisingKeys Track.key s.tracker.tracks
    ∧ ∀ e ∈ s.tracker.tracks, e.circuits ≤ 16

/-- R104, R105: the planning engine. -/
def EngineOk (s : State) : Prop :=
  s.engine.replans.length ≤ Config.replanCapacity
    ∧ ∀ j, s.engine.job = some j → j.reruns ≤ Config.maxReruns

/-- R128: a station's order queue holds at most four orders, and only the oldest may be TAKEN or UNKNOWN. -/
def StationsOk (s : State) : Prop :=
  ∀ i : StationNo, s.stations[i].orders.length ≤ Config.orderDepth
    ∧ ∀ o ∈ s.stations[i].orders.tail, o.state = .issued

/-- R112: a lane list holds at most 24 cases. -/
def LanesOk (s : State) : Prop := ∀ k : LaneNo, s.lanes[k].list.length ≤ Config.laneDepth

/-- R4: a build holds at most 96 cases. -/
def BuildsOk (s : State) : Prop := ∀ i : StationNo, s.builds[i].cases.length ≤ Config.buildCapacity

/-- R58, R59, R62: every setting in its range, the STOP latch set only beside the action STOP, and the supervision
timer RUNNING only with an interval. -/
def SettingsOk (s : State) : Prop :=
  (∀ i : Fin 21, i.val ≠ 7 →
      (settingRange.getD i (0, 0)).1 ≤ s.req.settings.values.getD i 0
        ∧ s.req.settings.values.getD i 0 ≤ (settingRange.getD i (0, 0)).2)
    ∧ (s.req.settings.supInterval = 0 ∨ (1000 ≤ s.req.settings.supInterval ∧ s.req.settings.supInterval ≤ 600000))
    ∧ (s.req.latch = true → s.req.settings.supAction = .stop)
    ∧ (∀ e, s.req.sup = .running e → s.req.settings.supInterval ≠ 0)

/-- R64, R66: at most 32 plans are held, and while the load of an admission is open there is room for its plan; the only
other load is that of articles. -/
def PlanRoomOk (s : State) : Prop :=
  s.plans.plans.length ≤ Config.planCapacity
    ∧ ∀ e gap, s.req.exec = some e → e.phase = .loading gap →
        e.kind = 0x14 ∨ e.kind = 0x19 ∧ s.plans.plans.length < Config.planCapacity

/-- The capacities of the part (R159), each where its chapter gives it. -/
def CapacitiesOk (s : State) : Prop :=
  TablesOk s ∧ TrackerOk s ∧ EngineOk s ∧ StationsOk s ∧ LanesOk s ∧ BuildsOk s ∧ PlanRoomOk s

/-- The cases that the lane lists, the order queues and the spur lists name. -/
def placesOf (s : State) : List Tracking :=
  s.lanes.toList.flatMap (·.list) ++ s.stations.toList.flatMap (fun st => st.orders.map (·.tracking))
    ++ s.stations.toList.flatMap (fun st => st.spur.map (·.tracking))

/-- R90, R112, R128, R129: a tracking number stands at most once across all lane lists, order queues and spur lists, and
each case named there is tracked in the state of that place; the case of an arrival's job, while it is tracked, is
CIRCULATING. -/
def CasesOk (s : State) : Prop :=
  RisingKeys Track.key s.tracker.tracks ∧ (placesOf s).Nodup
    ∧ (∀ k : LaneNo, ∀ u ∈ s.lanes[k].list, ∃ e, s.track u = some e
        ∧ (e.state = .holdPending k ∨ e.state = .held k ∨ e.state = .releasing k))
    ∧ (∀ i : StationNo, ∀ o ∈ s.stations[i].orders, ∃ e, s.track o.tracking = some e ∧ e.state = .toStation i o.seq)
    ∧ (∀ i : StationNo, ∀ x ∈ s.stations[i].spur, ∃ e, s.track x.tracking = some e ∧ e.state = .spurHeld i)
    ∧ ∀ j a e, s.engine.job = some j → j.work = .arrival a → s.track a.tracking = some e → ∃ d, e.state = .circulating d

/-- R69, R128, R139, R141: a BUILDING plan is bound to one station, whose build names the plan and its part and which is in
BUILDING, or in FAULT with no close reason; no other plan is bound, and a DRAINING one has no open line; a station that is
OFFLINE, IDLE or BUILDING has no close reason; only a station in BUILDING, CLOSING or FAULT has orders, and none after an
exchange timeout; and a replan's job holds a placement at the replan's own station (R42). -/
def BindingsOk (s : State) : Prop :=
  RisingKeys Plan.key s.plans.plans
    ∧ (∀ p ∈ s.plans.plans, p.state = .building → ∃ i : StationNo, p.bound = some i
        ∧ s.builds[i].planId = some p.id ∧ s.builds[i].part = some p.part
        ∧ (s.stations[i].state = .building
            ∨ s.stations[i].state = .fault ∧ s.stations[i].cause ≠ .exchangeTimeout ∧ s.stations[i].close = none))
    ∧ (∀ p ∈ s.plans.plans, p.state ≠ .building → p.bound = none)
    ∧ (∀ p ∈ s.plans.plans, p.state = .draining → ∀ l ∈ p.lines, l.required ≤ l.planned)
    ∧ (∀ i : StationNo, s.stations[i].state = .offline ∨ s.stations[i].state = .idle ∨ s.stations[i].state = .building →
        s.stations[i].close = none)
    ∧ (∀ i : StationNo, s.stations[i].orders ≠ [] →
        s.stations[i].state = .building ∨ s.stations[i].state = .closing
          ∨ s.stations[i].state = .fault ∧ s.stations[i].cause ≠ .exchangeTimeout)
    ∧ ∀ j r p, s.engine.job = some j → j.work = .replan r → j.decision = .place p → p.station = r.station

/-! ### Orders that leave a queue (R133, R137, R150) -/

/-- The record of station `i` with an order issued now for case `u` (R128): at the tail of its queue with the next sequence,
which the withdrawn range no longer stops when it lies in it (R137); into an empty queue with the take timer started (R138). -/
def issuedTo (s : State) (i : StationNo) (u : Tracking) (target : OrderTarget) : Station :=
  let st := s.stations[i]
  { st with
    orders := st.orders ++ [{ seq := st.nextSeq, tracking := u, target := target, state := .issued }]
    nextSeq := st.nextSeq + 1
    withdrawn := if st.nextSeq ∈ st.withdrawn then [] else st.withdrawn
    takeExpiry := if st.orders = [] then some (after s.link.time s.req.settings.takeTimeout) else st.takeExpiry }

/-- The record of station `i` as a RESTART leaves it before the binding attempt at its end (R151). -/
def restarted (s : State) (i : StationNo) : Station :=
  let st := s.stations[i]
  let bare : Station := { st with orders := [], spur := [], takeExpiry := none, placeExpiry := none }
  if st.orders ≠ [] then { bare with state := .fault, cause := .restart, withdrawn := st.orders.map (·.seq) }
  else if st.state = .closing then { bare with state := .awaitExchange }
  else if st.state = .exchanging then
    { bare with exchangeExpiry := some (after s.link.time s.req.settings.exchangeTimeout) }
  else bare

/-- The WITHDRAW frames that name these sequences of station `i` (R137). -/
def withdrawFrames (s : State) (i : StationNo) (seqs : List OrderSeq) : List (Nat × OwnBody) :=
  (seqRuns seqs).map fun r => (s.req.settings.cellNodeOf i, .withdraw i r.1 r.2)

/-- How many of the orders `os` of station `i` are PLACE orders of a case planned on line `j` of plan `id`. -/
def leavingOn (s : State) (i : StationNo) (os : List Order) (id : PlanId) (j : Nat) : Nat :=
  if s.builds[i].planId = some id then
    (os.filterMap fun o => o.caseIndex.bind fun k => s.builds[i].cases[k]?.map (·.line)).count j
  else 0

/-- The lines `ls` with each planned count less by `n` of its index, but not below the placed count (R74). -/
def lessBy (n : Nat → Nat) (ls : List PlanLine) : List PlanLine :=
  ls.mapIdx fun j l => { l with planned := max l.placed (l.planned - n j) }

/-- The build of station `i` cut back to before the first PLACE order of `os` (R133, R145). -/
def cutBuild (s : State) (i : StationNo) (os : List Order) : Build :=
  match (os.filterMap Order.caseIndex).head? with
  | some k => s.builds[i].truncate k
  | none => s.builds[i]

/-- The flag of every READY lane that lists a case is set, and no other flag changes (R116). -/
def FlagsRaised (s t : State) : Prop :=
  ∀ k : LaneNo, t.flag k = true ↔ s.flag k = true ∨ s.lanes[k].state = .ready ∧ s.lanes[k].list ≠ []

/-- The lane flags after the orders `os` have left station `i` (R116): raised when the truncation at the first PLACE order of
them removes a case; as they were when there is no such order. -/
def CutFlags (i : StationNo) (os : List Order) (s t : State) : Prop :=
  (∀ n, (os.filterMap Order.caseIndex).head? = some n → n < s.builds[i].cases.length → FlagsRaised s t)
    ∧ (os.filterMap Order.caseIndex = [] → t.engine.flags = s.engine.flags)

/-- The other stations: each keeps its record, or is an IDLE one at which a plan that a P − 1 or a part close has put back
into the plan queue is BUILDING now (R71, R80); the build of one that is not IDLE stays. -/
def OthersMayBind (i : StationNo) (s t : State) : Prop :=
  ∀ j : StationNo, j ≠ i →
    (t.stations[j] = s.stations[j]
      ∨ s.stations[j].state = .idle ∧ t.stations[j] = { s.stations[j] with state := .building })
    ∧ (s.stations[j].state ≠ .idle → t.builds[j] = s.builds[j])

/-- What it leaves of build and counts that the orders `os` leave station `i` (R133, R145, R146): the build cut back, and
P − 1 for each PLACE order of them. -/
def Unplaced (i : StationNo) (os : List Order) (s t : State) : Prop :=
  t.builds[i] = cutBuild s i os
    ∧ (CountsOk s → ∀ id p, s.plan id = some p → ∃ q, t.plan id = some q
        ∧ q.lines = lessBy (leavingOn s i os id) p.lines)
    ∧ OthersMayBind i s t

/-- The spur entries of withdrawn orders, in issue order (R129, R133). -/
def spurOf (os : List Order) : List SpurEntry := os.map fun o => { tracking := o.tracking, discard := o.discards }

/-- The discard-marked cases of a spur list that get REJECT orders while a queue of `n` orders has room (R150). -/
def chuted (n : Nat) (spur : List SpurEntry) : List SpurEntry := (spur.filter (·.discard)).take (4 - n)

/-- The REJECT orders with reason DISCARD that station `i` of `s` issues for these cases (R128, R150). -/
def chuteOrders (s : State) (i : StationNo) (es : List SpurEntry) : List Order :=
  es.mapIdx fun n e =>
    { seq := s.stations[i].nextSeq + BitVec.ofNat 8 n, tracking := e.tracking, target := .reject .discard,
      state := .issued }

/-- The ORDER frames of REJECT orders. -/
def chuteFrames (s : State) (i : StationNo) (os : List Order) : List (Nat × OwnBody) :=
  os.map fun o => (s.req.settings.cellNodeOf i, .order i o.seq o.tracking (.reject .discard))

/-- EXCHANGE CALL of station `i` for its build `b` (R142). -/
def callFrame (s : State) (i : StationNo) (b : Build) : Nat × OwnBody :=
  (s.req.settings.transportNode, .exchangeCall i b.planId b.part b.cases.length b.totalWeight b.topHeight)

/-- BUILD_CLOSED of station `i` for its build `b` (R142). -/
def closedReport (i : StationNo) (b : Build) (r : Option CloseReason) : ReportBody :=
  .buildClosed i b.planId b.part b.cases.length b.totalWeight b.topHeight r

/-- A station in CLOSING, with this cause and close reason, whose queue has come to `kept` and whose spur list to `spur`,
with build `b`: the discard-marked cases get their REJECT orders, and with nothing left the station awaits its exchange
(R139, R150).  `frames` and `reports` are what the event sends and queues before that; `queues` says how the reports show. -/
def ClosesWith (cause : StationCause) (close : Option CloseReason) (queues : List ReportBody → State → State → Prop)
    (i : StationNo) (kept : List Order) (spur : List SpurEntry) (b : Build) (frames : List (Nat × OwnBody))
    (reports : List ReportBody) (s t : State) : Prop :=
  let es := chuted kept.length spur
  let new := chuteOrders s i es
  let st := t.stations[i]
  st.ready = s.stations[i].ready ∧ st.baseKind = s.stations[i].baseKind ∧ st.cause = cause ∧ st.close = close
    ∧ st.orders = kept ++ new ∧ st.spur = spur.filter (fun e => !es.contains e)
    ∧ st.nextSeq = s.stations[i].nextSeq + BitVec.ofNat 8 es.length
    ∧ (∀ n e, es[n]? = some e → (t.track e.tracking).map (·.state) =
        some (.toStation i (s.stations[i].nextSeq + BitVec.ofNat 8 n)))
    ∧ if kept ++ new = [] ∧ spur = [] then
        st.state = .awaitExchange ∧ JoinedB (frames ++ [callFrame s i b]) s t
          ∧ queues (reports ++ [closedReport i b st.close]) s t
      else
        st.state = .closing ∧ JoinedB (frames ++ chuteFrames s i new) s t ∧ queues reports s t

/-- The same of a station that was in CLOSING before and keeps its cause and close reason. -/
def ClosingGoesOn (queues : List ReportBody → State → State → Prop) (i : StationNo) (kept : List Order)
    (spur : List SpurEntry) (b : Build) (frames : List (Nat × OwnBody)) (reports : List ReportBody)
    (s t : State) : Prop :=
  ClosesWith s.stations[i].cause s.stations[i].close queues i kept spur b frames reports s t

/-- A replan of station `i` asked for each of these cases, in that order (R105); one that finds the replan queue full
waits. -/
def ReplansAsked (i : StationNo) (cases : List Tracking) (s t : State) : Prop :=
  let asked : List Replan := cases.map fun u => { tracking := u, station := i }
  let room := Config.replanCapacity - s.engine.replans.length
  t.engine.replans = s.engine.replans ++ asked.take room ∧ t.engine.waiting = s.engine.waiting ++ asked.drop room

/-- The replan `r` taken out of the replan queue, the others in their order; the cases that have waited longest join its tail
as far as it has room (R93, R105). -/
def ReplanTaken (r : Replan) (s t : State) : Prop :=
  let left := s.engine.replans.erase r
  let room := Config.replanCapacity - left.length
  t.engine.replans = left ++ s.engine.waiting.take room ∧ t.engine.waiting = s.engine.waiting.drop room

/-- The failure cascade of the order `failed` with the `later` orders behind it (R133): the build cut back, P − 1 for each
PLACE order that leaves, the lane flags of the truncation, the later cases SPUR_HELD, and a replan asked for each that is
not discard-marked. -/
def Cascaded (i : StationNo) (failed : Order) (later : List Order) (s t : State) : Prop :=
  Unplaced i (failed :: later) s t ∧ CutFlags i (failed :: later) s t
    ∧ ReplansAsked i ((later.filter fun o => !o.discards).map (·.tracking)) s t
    ∧ (CasesOk s → ∀ o ∈ later, o.discards = false → (t.track o.tracking).map (·.state) = some (.spurHeld i))

/-! ### Faults of stations and their acknowledgement (R145, R147 to R149) -/

/-- The orders of station `i` that a fault withdraws: the ISSUED ones (R145). -/
def issuedAt (s : State) (i : StationNo) : List Order := s.stations[i].orders.filter fun o => o.state == .issued

/-- A station in BUILDING or CLOSING that has entered FAULT (R145): both timers stopped; the ISSUED orders withdrawn,
their sequences the withdrawn range and their cases SPUR_HELD at the tail of the spur list; a TAKEN order left as UNKNOWN;
the build cut back and the counts lessened for the orders withdrawn; no replan of the station left, and its replan job
cancelled; the cause recorded. -/
def StationFaulted (i : StationNo) (cause : StationCause) (s t : State) : Prop :=
  let before := s.stations[i]
  let after := t.stations[i]
  let issued := issuedAt s i
  after.state = .fault ∧ after.cause = cause ∧ after.close = before.close
    ∧ after.takeExpiry = none ∧ after.placeExpiry = none
    ∧ after.nextSeq = before.nextSeq ∧ after.baseKind = before.baseKind
    ∧ after.orders = (before.orders.filter fun o => o.state != .issued).map Order.unknownIfTaken
    ∧ after.spur = before.spur ++ spurOf issued
    ∧ after.withdrawn = (if issued = [] then before.withdrawn else issued.map (·.seq))
    ∧ Unplaced i issued s t ∧ CutFlags i issued s t
    ∧ (CasesOk s → ∀ o ∈ issued, (t.track o.tracking).map (·.state) = some (.spurHeld i))
    ∧ t.engine.replans ++ t.engine.waiting = (s.engine.replans ++ s.engine.waiting).filter (fun r => r.station != i)
    ∧ (∀ r ∈ t.engine.replans ++ t.engine.waiting, r.station ≠ i)
    ∧ t.engine.job = s.engine.job.map (fun j =>
        match j.work with
        | .replan r => if r.station = i then { j with cancelled := true } else j
        | .arrival _ | .laneHead _ _ => j)

/-- The same, with the WITHDRAW frames of the orders withdrawn and STATION_FAULT queued. -/
def FaultEntered (i : StationNo) (cause : StationCause) (s t : State) : Prop :=
  StationFaulted i cause s t ∧ JoinedB (withdrawFrames s i ((issuedAt s i).map (·.seq))) s t
    ∧ Reported (.stationFault i cause s.stations[i].state (unknownOf t.stations[i].orders)) s t

/-- The record of a station that has taken a completion notice (R141). -/
def noticed (s : State) (j : StationNo) : Station :=
  match s.stations[j].state with
  | .building =>
    { s.stations[j] with
      close := some .complete
      state := if s.stations[j].orders = [] ∧ s.stations[j].spur = [] then .awaitExchange else .closing }
  | .fault => { s.stations[j] with close := some .complete }
  | _ => s.stations[j]

/-- What a disposition makes of the UNKNOWN order of a station in FAULT (R148): the orders left, the build, the close reason,
the lines of each held plan (none of a plan that is removed as complete), the other station that takes the completion
notice, the frames and the reports. -/
structure Resolution where
  orders  : List Order
  build   : Build
  close   : Option CloseReason
  plan    : Plan → Option (List PlanLine)
  notice  : Option StationNo
  frames  : List (Nat × OwnBody)
  reports : List ReportBody

/-- The plan of a placed case of build `b` on line `j`, and its lines with the D + 1 that the plan store takes (R75). -/
def countedPlan (s : State) (b : Build) (j : Nat) : Option (Plan × List PlanLine) :=
  (b.planId.bind s.plan).bind fun p => p.lines[j]?.bind fun l =>
    if l.placed < l.planned then some (p, p.lines.set j { l with placed := l.placed + 1 }) else none

/-- The resolution of the UNKNOWN order of station `i` (R146, R148): with PLACED (1) as DONE resolves it, with REMOVED as
NO_CASE does; with no such order nothing changes. -/
def resolution (s : State) (i : StationNo) (disposition : Nat) : Resolution :=
  let st := s.stations[i]
  let b := s.builds[i]
  let same : Resolution :=
    { orders := st.orders, build := b, close := st.close, plan := fun p => some p.lines, notice := none, frames := []
      reports := [] }
  match st.orders.find? fun o => o.state == .unknown with
  | none => same
  | some o =>
    let ended := { same with orders := st.orders.filter fun x => x.seq != o.seq }
    if disposition ≠ 1 then
      { ended with build := cutBuild s i [o], plan := fun p => some (lessBy (leavingOn s i [o] p.id) p.lines) }
    else
      match o.target with
      | .reject r =>
        { ended with
          reports := [.caseRejected o.tracking ((s.track o.tracking).bind fun e => e.snap.map (·.code)) r] }
      | .place k =>
        match b.cases[k]? with
        | none => ended
        | some c =>
          let placed : ReportBody := .casePlaced o.tracking c.code i b.planId b.part c.line k
          let confirmed := { ended with
            build := { b with cases := b.cases.set k { c with status := .confirmed } }, reports := [placed] }
          match countedPlan s b c.line with
          | none => confirmed
          | some (p, lines) =>
            if ∀ m ∈ lines, m.placed = m.required then
              let told := if p.state = .building then p.bound else none
              let other := if told = some i then none else told
              let calls := other.toList.filter fun j =>
                decide (s.stations[j].state = .building ∧ s.stations[j].orders = [] ∧ s.stations[j].spur = [])
              { confirmed with
                close := if told = some i then some .complete else st.close
                plan := fun q => if q.id = p.id then none else some q.lines
                notice := other
                frames := calls.map fun j => callFrame s j s.builds[j]
                reports := [.planDone p.id p.part, placed]
                  ++ calls.map fun j => closedReport j s.builds[j] (some .complete) }
            else { confirmed with plan := fun q => some (if q.id = p.id then lines else q.lines) }

/-- The other stations after an acknowledge: the one that has taken the completion notice, and those at which a plan may
have been bound. -/
def OthersAfter (i : StationNo) (notice : Option StationNo) (s t : State) : Prop :=
  ∀ j : StationNo, j ≠ i →
    (notice = some j → t.stations[j] = noticed s j)
    ∧ (notice ≠ some j → t.stations[j] = s.stations[j]
        ∨ s.stations[j].state = .idle ∧ t.stations[j] = { s.stations[j] with state := .building })
    ∧ (s.stations[j].state ≠ .idle → t.builds[j] = s.builds[j])

/-- A build kept after its UNKNOWN order is resolved (R148): a replan asked for each unmarked case of the spur; the station
back to BUILDING, with the lane flags (R116), or with a close reason to CLOSING. -/
def KeepGoesOn (i : StationNo) (r : Resolution) (s t : State) : Prop :=
  let st := s.stations[i]
  t.builds[i] = r.build
    ∧ (∀ p : Plan, s.plan p.id = some p → (t.plan p.id).map (·.lines) = r.plan p)
    ∧ ReplansAsked i ((st.spur.filter fun e => !e.discard).map (·.tracking)) s t
    ∧ (r.close = none →
        t.stations[i] = { st with orders := r.orders, cause := .none, close := none, state := .building }
        ∧ FlagsRaised s t ∧ JoinedB r.frames s t ∧ ReportsTaken r.reports s t)
    ∧ (r.close ≠ none → ClosesWith .none r.close ReportsTaken i r.orders st.spur r.build r.frames r.reports s t)

/-- The lines `ls` with the counts of these cases taken back: D and P less 1 for each confirmed case, P for each
provisional one, neither below 0 nor P below D (R76, R149). -/
def takenBack (cases : List CaseRec) (ls : List PlanLine) : List PlanLine :=
  ls.mapIdx fun j l =>
    let onLine := fun st : CaseStatus => cases.countP fun c => c.line == j && c.status == st
    { l with
      placed := l.placed - onLine .confirmed
      planned := (l.placed - onLine .confirmed) + (l.planned - l.placed - onLine .provisional) }

/-- The plan `p` that was BUILDING at station `i`, after its part there has been closed, as `q` (R79). -/
def PartClosed (i : StationNo) (p q : Plan) : Prop :=
  if (∃ l ∈ q.lines, l.planned < l.required) then
    q.part = min 15 (p.part + 1)
      ∧ (q.state = .queued ∧ q.bound = none ∨ q.state = .building ∧ ∃ j : StationNo, j ≠ i ∧ q.bound = some j)
  else q.part = p.part ∧ q.state = .draining ∧ q.bound = none

/-- A build discarded after its UNKNOWN order is resolved (R149): every case off the build and its counts taken back,
BUILD_DISCARDED with the number removed, the part closed, every case of the spur marked, and the station in CLOSING with
reason DISCARD. -/
def DiscardGoesOn (i : StationNo) (r : Resolution) (s t : State) : Prop :=
  let b := r.build
  t.builds[i] = b.truncate 0 ∧ (b.cases ≠ [] → FlagsRaised s t)
    ∧ (∀ p : Plan, s.plan p.id = some p → match r.plan p with
        | none => t.plan p.id = none
        | some ls => ∃ q, t.plan p.id = some q
            ∧ q.lines = (if s.builds[i].planId = some p.id then takenBack b.cases ls else ls)
            ∧ (p.state = .building → p.bound = some i → PartClosed i p q))
    ∧ t.engine.replans = s.engine.replans ∧ t.engine.waiting = s.engine.waiting
    ∧ ClosesWith .none (some .discard) ReportsTaken i r.orders
        (s.stations[i].spur.map fun e => { e with discard := true }) (b.truncate 0) r.frames
        (r.reports ++ [.buildDiscarded i b.planId b.part b.cases.length]) s t

/-! ### Arrivals and jobs (R95 to R97, R100, R104) -/

/-- A tracked arrival that is on the loop, handled on (R95, steps 4 to 6), from `m` with its entry `e`: late, it sends no
DECISION and counts a circuit; failing an acceptance check, it is rejected; else it keeps its snapshot and its job holds
what the run has decided. -/
def GoesOn (a : Arrival) (e : Track) (m t : State) : Prop :=
  let u := a.tracking
  let age := ageAt m.link.time a.scan
  if m.req.settings.decisionWindow < age then
    KeepsAllBut [.portA, .portB, .tracks, .reports] m t ∧ JoinedB [] m t
      ∧ ReportedAll [.caseLate u (some age)] m t
      ∧ t.track u = some { e with circuits := min 16 (e.circuits + 1) }
  else match acceptance m a with
    | .error r =>
      KeepsAllBut [.portA, .portB, .tracks, .reports] m t
        ∧ JoinedB [(m.req.settings.sorterNode, .decision u (.reject r))] m t
        ∧ ReportedAll [.caseRejected u (some a.code) r] m t ∧ t.track u = none
    | .ok art =>
      KeepsAllBut [.portA, .portB, .tracks, .job, .reports] m t ∧ JoinedB [] m t ∧ ReportedAll [] m t
        ∧ t.track u = some { e with snap := some art, weight := a.weight }
        ∧ t.engine.job = some
            { work := .arrival a, decision := (decideArrival m u art a.weight).1
              exhausted := (decideArrival m u art a.weight).2, reruns := 0, cancelled := false }

/-- The checks that a station decision for the case `u` shares with a replan's, failed (R102): the build has moved on, is
full or holds the case, the order queue is full, or the line is not held and open. -/
def PlaceBlocked (s : State) (u : Tracking) (p : Placement) : Prop :=
  let b := s.builds[p.station]
  b.revision ≠ p.revision ∨ 96 ≤ b.cases.length ∨ (∃ c ∈ b.cases, c.tracking = u)
    ∨ 4 ≤ s.stations[p.station].orders.length
    ∨ ∀ id plan l, b.planId = some id → s.plan id = some plan → plan.lines[p.line]? = some l → l.required ≤ l.planned

/-- A REJECT order with reason NO_PLACE for a case of the spur of station `i` (R106), where the queue has room. -/
def RejectedNoPlace (i : StationNo) (u : Tracking) (e : Track) (s t : State) : Prop :=
  let q := s.stations[i].nextSeq
  OtherStations i s t
    ∧ t.stations[i] =
        { issuedTo s i u (.reject .noPlace) with spur := s.stations[i].spur.filter fun x => x.tracking != u }
    ∧ t.track u = some { e with state := .toStation i q }
    ∧ JoinedB [(s.req.settings.cellNodeOf i, .order i q u (.reject .noPlace))] s t

/-- The exhausted stations handed over at a job's end (R82, R94): each that is BUILDING and has a plan BUILDING there has
closed its part with reason SPLIT. -/
def HandedOver (exhausted : List StationNo) (s t : State) : Prop :=
  ∀ i ∈ exhausted, ∀ p, s.stations[i].state = .building → s.planAt i = some p →
    t.stations[i].close = some .split
      ∧ (t.stations[i].state = .closing ∨ t.stations[i].state = .awaitExchange)
      ∧ ∀ q, t.plan p.id = some q → q.bound ≠ some i

/-! ### Sound builds (R6, R7, R9, R13) -/

/-- R6: a supporter list for a case of drop `drop` that stands behind the cases `below`. -/
def SupportersOk (below : List CaseRec) (drop : Nat) (sup : List Supporter) : Prop :=
  sup.length ≤ 8 ∧ (sup.map (·.owner)).Nodup ∧ (∀ j ∈ sup, 1 ≤ j.share) ∧ (sup.map (·.share)).sum = 256
    ∧ sup.countP (·.principal) = 1
    ∧ ∀ j ∈ sup, ∀ m, j.owner = .case m → ∃ y, below[m]? = some y ∧ drop ≤ y.drop ∧ y.topOnly = false

/-- The height that an owner-map entry stands for: 0 for the deck, else the top of the case (R7). -/
def heightOf (cases : List CaseRec) : Owner → Option Nat
  | .deck => some 0
  | .case m => cases[m]?.map (·.top)

/-- A build as the rules leave it: its records replayed give it back (R13); an unbound build is empty (R18); the maps have
the size of the grid, each height is that of its owner and within the height limit, and the top height is the largest
(R7); every supporter list is as R6 says; the deck load is the total weight, the total weight is the sum of the weights,
and no case carries more than its crush limit (R9). -/
structure BuildSound (b : Build) : Prop where
  replayed   : b.rebuild b.cases = b
  unbound    : b.binding = none → b.cases = []
  sizes      : b.heightMap.length = b.cols * b.rows ∧ b.ownerMap.length = b.cols * b.rows
  heights    : ∀ (n : Nat) (o : Owner), b.ownerMap[n]? = some o →
                 ∃ h, heightOf b.cases o = some h ∧ b.heightMap[n]? = some h ∧ h ≤ b.heightLimit
  tops       : ∀ c ∈ b.cases, c.top ≤ b.heightLimit
  top        : b.topHeight = maxHeight b.heightMap
  supporters : ∀ (i : Nat) (c : CaseRec), b.cases[i]? = some c → SupportersOk (b.cases.take i) c.drop c.supporters
  loads      : b.deckLoad = b.totalWeight ∧ b.totalWeight = (b.cases.map (·.weight)).sum
  crush      : ∀ c ∈ b.cases, c.carried ≤ c.crush

/-- Every build is sound. -/
def BuildsSound (s : State) : Prop := ∀ i : StationNo, BuildSound s.builds[i]

/-- R48, R51: every article of the table and every snapshot has a length and a width of at least 1 mm. -/
def ArticlesOk (s : State) : Prop :=
  (∀ a ∈ s.tables.articles, 1 ≤ a.length ∧ 1 ≤ a.width)
    ∧ ∀ e ∈ s.tracker.tracks, ∀ a, e.snap = some a → 1 ≤ a.length ∧ 1 ≤ a.width

/-- The case that a job of an arrival or a replan works on. -/
def Work.subject : Work → Option Tracking
  | .arrival a => some a.tracking
  | .replan r => some r.tracking
  | .laneHead _ _ => none

/-- A placement fits a build for a case of weight `w`: the build is bound, the supporters are as R6 says, the top is within
the height limit and the case would take no case beyond its crush limit (R25 to R31). -/
structure Fits (b : Build) (w : Nat) (p : Placement) : Prop where
  bound      : b.binding ≠ none
  supporters : SupportersOk b.cases p.drop p.best.supporters
  top        : p.best.top ≤ b.heightLimit
  crush      : ∀ c ∈ (distribute w p.best.supporters b.cases b.deckLoad).1, c.carried ≤ c.crush

/-- R10, R20: a placement that waits for its commit fits its station's build while that has the revision of the run. -/
def PlacementsFit (s : State) : Prop :=
  ∀ j p u e, s.engine.job = some j → j.decision = .place p → j.work.subject = some u → s.track u = some e →
    s.builds[p.station].revision = p.revision → Fits s.builds[p.station] e.weight p

/-- No build that has changed has come back to the revision of a waiting placement.  The revision has 16 bits and wraps
(R16): it comes back after 65536 changes of one build while one job waits, and the check of R10 cannot tell them apart. -/
def RevisionsMoveOn (s t : State) : Prop :=
  ∀ j p, s.engine.job = some j → j.decision = .place p →
    t.builds[p.station].revision ≠ s.builds[p.station].revision → t.builds[p.station].revision ≠ p.revision

end Sys2Proof.Machine
end

