-- ==== Sys2Proof/Certificates/Slice0/Obligations.lean ====
section
/-!
DEFINITION. The statements for the provers, file by file of the manual: the machine, the link, requests, tables, plans,
stations, lanes, cases, builds and evaluation, and the invariants of every step.
-/

open Sys2Proof Sys2Proof.Machine

/-! ### The machine -/

/-- A step carries out the command at the front of the queue on the state with the queue's rest. -/
def Obligations.StepRunsFrontCommand : Prop :=
  ∀ (c : Instr) (rest : List Instr) (s : State), s.pending = c :: rest → step s = exec c { s with pending := rest }

/-- The model's choices (logs 1 and 14): a step on an empty queue idles, and a RESET_END with no reset lasting does
nothing. -/
def Obligations.IdleStepsChangeNothing : Prop :=
  (∀ s : State, s.pending = [] → step s = .next s)
    ∧ ∀ (pins : BitVec 4) (s : State), s.inReset = false → exec (.resetEnd pins) s = .next s

/-- Every command answers a next state in every state, with the queue of waiting commands as it was. -/
def Obligations.EveryCommandAnswersNext : Prop :=
  ∀ (c : Instr) (s : State), ∃ t, exec c s = .next t ∧ t.pending = s.pending

/-- What reset leaves: the power-on values, STARTED queued at line time 0, and no command waiting. -/
def Obligations.ResetLeavesPowerOnValues : Prop :=
  PowerOnValues State.reset
    ∧ State.reset.inReset = false
    ∧ State.reset.link.portA = { sending := none, mark := .forward }
    ∧ State.reset.link.portB = { sending := none, mark := .forward }
    ∧ State.reset.reports.queue =
        [{ body := .started .powerOn State.reset.link.ownNode, level := 7, time := 0 }]
    ∧ State.reset.reports.lost = 0
    ∧ State.reset.pending = []

/-- POWER_ON_RESET completes: every block at its power-on values, nothing in transmission, no report, and the reset
lasting (that the values are taken at once is the model's choice, log 14).  RESET_END completes: the node pins read,
pins 0 taken as node 1, every block at its power-on values, and STARTED sent to the default control node by the idle
port A. -/
def Obligations.ResetEventsComplete : Prop :=
  (∀ s : State, ∃ t, exec .powerOnReset s = .next t ∧ t.inReset = true ∧ PowerOnValues t
    ∧ t.link.portA.sending = none ∧ t.link.portB.sending = none ∧ t.reports.queue = [] ∧ t.pending = s.pending)
  ∧ ∀ (pins : BitVec 4) (s : State), s.inReset = true →
    ∃ t, exec (.resetEnd pins) s = .next t ∧ t.inReset = false ∧ PowerOnValues t
      ∧ t.link.ownNode = (if pins = 0 then 1 else pins.setWidth 8)
      ∧ t.link.portA =
          { sending := some (.own
              { dst := 1, src := t.link.ownNode, tag := 0, final := false
                body := .report { body := .started .powerOn t.link.ownNode, level := 7, time := 0 } 0 })
            mark := .own }
      ∧ t.link.portB = { sending := none, mark := .forward }
      ∧ t.reports.queue = [] ∧ t.reports.lost = 0 ∧ t.pending = s.pending

/-- While the reset lasts, no command but the reset events does anything. -/
def Obligations.NothingHappensInReset : Prop :=
  ∀ (c : Instr) (s : State), s.inReset = true → c ≠ .powerOnReset → (∀ pins, c ≠ .resetEnd pins) →
    exec c s = .next s

/-! ### The line link (chapter 10) -/

/-- A frame that fails a check of R182 changes nothing, and the checks are those of R182. -/
def Obligations.BadFrameIsDiscarded : Prop :=
  (∀ (c : Instr) (k : Byte) (f : RxFrame) (s : State), Running s → frameOf c = some (k, f) → frameOk k f = false →
      exec c s = .next s)
    ∧ (∀ (p : Port) (raw : List Byte) (s : State), Running s → raw.length < 7 →
        exec (.passThrough p raw) s = .next s)
    ∧ ∀ (k : Byte) (f : RxFrame), frameOk k f = true ↔
        f.len.toNat ≤ 240 ∧ f.payload.length = f.len.toNat
          ∧ f.check = crc16 ([f.dst, f.src, k, f.tag, f.len] ++ f.payload) ∧ f.dst.toNat ≤ 127

/-- A frame for another node is forwarded to the other port byte for byte, or dropped when 8 wait there, and changes
nothing else.  A broadcast frame other than SET TIME is forwarded too, and causes nothing in the device but that it may
feed the supervision timer. -/
def Obligations.ForwardedFrames : Prop :=
  (∀ (c : Instr) (k : Byte) (f : RxFrame) (s : State), Running s → frameOf c = some (k, f) → frameOk k f = true →
    f.dst ≠ s.link.ownNode → isBroadcast f = false →
    ∃ t, exec c s = .next t ∧ Forwarded f.port (rxBytes k f) s t ∧ KeepsAllBut [.portA, .portB] s t)
  ∧ ∀ (c : Instr) (k : Byte) (f : RxFrame) (s : State), Running s → frameOf c = some (k, f) → frameOk k f = true →
    isBroadcast f = true → k ≠ 0x12 →
    ∃ t, exec c s = .next t ∧ Forwarded f.port (rxBytes k f) s t ∧ KeepsAllBut [.portA, .portB, .sup] s t
      ∧ (t.req.sup = s.req.sup ∨ t.req.sup = fedTimer f.src s)

/-- Frames are cut and joined without loss: raw bytes are cut into a kind and an envelope exactly when that envelope is
those bytes.  A frame the device sends passes the checks of R182 where it is received, and carries the addresses, tag,
kind and payload it was given. -/
def Obligations.FrameBytesRoundTrip : Prop :=
  (∀ (p : Port) (raw : List Byte) (k : Byte) (f : RxFrame),
    cutFrame p raw = some (k, f) ↔ f.port = p ∧ rxBytes k f = raw)
  ∧ ∀ (p : Port) (g : OwnFrame), g.body.payload.length ≤ 240 → g.dst.toNat ≤ 127 →
    ∃ f, cutFrame p g.bytes = some (g.body.kind, f) ∧ frameOk g.body.kind f = true
      ∧ f.dst = g.dst ∧ f.src = g.src ∧ f.tag = g.tag ∧ f.payload = g.body.payload

/-- A frame command is the arrival of that frame's bytes on its port: the rows by kind and the raw row agree. -/
def Obligations.FrameCommandIsItsBytes : Prop :=
  ∀ (c : Instr) (k : Byte) (f : RxFrame) (s : State), frameOf c = some (k, f) →
    exec c s = exec (.passThrough f.port (rxBytes k f)) s

/-- A consumed frame of a kind that the device does not take is discarded: it feeds the supervision timer and changes
nothing else.  A partner frame from a wrong node, or of a wrong length, changes nothing at all.  That a discarded frame of
the first sort feeds the timer, and that a cell frame which names a station above 7 counts as one from a wrong node and so
feeds nothing, is the model's reading (log 13). -/
def Obligations.DiscardedFramesChangeNothing : Prop :=
  (∀ (k : Byte) (f : RxFrame) (s : State), isTakenKind k = false → Directed k f s →
    ∃ t, exec (.discardedKindFrame k f) s = .next t ∧ t.req.sup = fedTimer f.src s ∧ KeepsAllBut [.sup] s t)
    ∧ ∀ (c : Instr) (k : Byte) (f : RxFrame) (s : State), Directed k f s → frameOf c = some (k, f) →
      sourceOk s.req.settings k f = false → exec c s = .next s

/-- The placing of frames on port B: a DECISION directly behind the last DECISION or at the head, any other at the
tail; a frame joins at once when a place is free and none waits, and waits otherwise; and the waiting frame that joins
when a place frees is the first DECISION, or the first frame when no DECISION waits. -/
def Obligations.DecisionsGoAhead : Prop :=
  (∀ (f : OwnFrame) (q : List OwnFrame), q.Pairwise (fun x y => y.isDecision = true → x.isDecision = true) →
      joinOwn f q = if f.isDecision then q.takeWhile OwnFrame.isDecision ++ f :: q.dropWhile OwnFrame.isDecision
                    else q ++ [f])
    ∧ (∀ (l : Link) (f : OwnFrame), l.issue f =
        if l.waitB = [] ∧ l.ownB.length < 16 then { l with ownB := joinOwn f l.ownB }
        else { l with waitB := l.waitB ++ [f] })
    ∧ ∀ (q : List OwnFrame) (f : OwnFrame) (rest : List OwnFrame), takeWaiting q = some (f, rest) →
        ∃ before later, q = before ++ f :: later ∧ rest = before ++ later
          ∧ (∀ x ∈ before, x.isDecision = false)
          ∧ (f.isDecision = false → before = [] ∧ ∀ x ∈ later, x.isDecision = false)

/-- After every command the idle ports have been served, and a served device is one in which no idle port has a frame
to send, the frames of a reply among them, and no frame can move up; while the slot is empty, a reply in progress is held
back (log 26). -/
def Obligations.IdlePortsAreServed : Prop :=
  (∀ (c : Instr) (s t : State), Settled s → exec c s = .next t → Settled t)
    ∧ (∀ (c : Instr) (s t : State), s.inReset = false → (∀ pins, c ≠ .resetEnd pins) → exec c s = .next t → Settled t)
    ∧ ∀ s : State, Settled s →
        (s.link.portA.sending = none → s.link.fwdA = [] ∧ s.link.slot = none ∧ s.reports.queue = [])
        ∧ (s.link.portB.sending = none → s.link.fwdB = [] ∧ s.link.ownB = [])
        ∧ (s.link.slot = none → s.req.waiting = none)
        ∧ (s.link.portA.sending = none → replyLeft s = [])
        ∧ (s.link.slot = none → replyLeft s ≠ [] → s.req.late = true)

/-- FRAME_SENT completes: the port chooses its side by the last-sent mark; port A sends the slot before any report, of
the reports the one R176 chooses, and a final RESPONSE that has left returns the request unit to READY; the frame of the
waiting place moves into the slot, and the RESPONSE held behind it into the waiting place; the own frames of port A go in
their order, those of a reply among them; the next frame of a reply that is held back stays behind what port A sends from
its forward queue or its reports, and goes out when nothing else waits (R176; whether it is held back is a free value,
log 26); port B sends the head of its own-frame queue, and of the frames that wait one takes the place that frees, chosen and placed
as DecisionsGoAhead says; at an idle port nothing happens (log 9). -/
def Obligations.FrameSentCompletes : Prop :=
  (∀ (s : State) (tx : TxFrame), Running s → s.link.portA.sending = some tx →
    ∃ t, exec (.frameSent .a) s = .next t ∧ KeepsAllBut [.portA, .exec, .reports] s t
      ∧ (∀ f, tx = .own f → f.final = true → t.req.exec = none)
      ∧ (∀ b rest, s.link.fwdA = b :: rest →
          (s.link.portA.mark = .own ∨ (s.link.slot = none ∧ s.reports.queue = [])) →
          t.link.portA = { sending := some (.forward b), mark := .forward } ∧ t.link.fwdA = rest)
      ∧ (∀ f, s.link.slot = some f → (s.link.fwdA = [] ∨ s.link.portA.mark = .forward) →
          t.link.portA = { sending := some (.own f), mark := .own } ∧ t.link.fwdA = s.link.fwdA)
      ∧ (∀ f w, s.link.slot = some f → s.req.waiting = some w → (s.link.fwdA = [] ∨ s.link.portA.mark = .forward) →
          t.link.slot = some w ∧ t.req.waiting = s.req.heldFinal ∧ t.req.heldFinal = none)
      ∧ (s.link.slot ≠ none → (∀ f, tx = .own f → f.final = false) →
          outA t = match tx with
            | .own _ => (outA s).tail
            | .forward _ => outA s)
      ∧ (s.link.slot = none → s.reports.queue ≠ [] → (s.link.fwdA = [] ∨ s.link.portA.mark = .forward) →
          ∃ before r later, s.reports.queue = before ++ r :: later
            ∧ (∀ q ∈ before, reportBefore r q = true) ∧ (∀ q ∈ later, reportBefore q r = false)
            ∧ t.link.portA =
                { sending := some (.own
                    { dst := BitVec.ofNat 8 s.req.settings.controlNode, src := s.link.ownNode, tag := 0
                      body := .report r s.reports.lost, final := false })
                  mark := .own }
            ∧ t.reports = { s.reports with queue := before ++ later, lost := 0 })
      ∧ (s.link.slot = none → s.link.fwdA ≠ [] ∨ s.reports.queue ≠ [] → (∀ f, tx = .own f → f.final = false) →
          outA t = sentOwnA t ++ replyLeft s)
      ∧ (∀ g more, s.link.fwdA = [] → s.link.slot = none → s.reports.queue = [] →
          (∀ f, tx = .own f → f.final = false) → replyLeft s = g :: more →
          t.link.portA = { sending := some (.own g), mark := .own } ∧ outA t = g :: more)
      ∧ (s.link.fwdA = [] → s.link.slot = none → s.reports.queue = [] → replyLeft s = [] →
          t.link.portA = { sending := none, mark := s.link.portA.mark }))
    ∧ (∀ s : State, Running s → s.link.portA.sending = none → exec (.frameSent .a) s = .next s)
    ∧ (∀ s : State, Running s → s.link.portB.sending = none → exec (.frameSent .b) s = .next s)
    ∧ ∀ s : State, Running s → s.link.portB.sending ≠ none →
    ∃ t, exec (.frameSent .b) s = .next t ∧ KeepsAllBut [.portB] s t
      ∧ (∀ b rest, s.link.fwdB = b :: rest →
          (s.link.portB.mark = .own ∨ s.link.ownB = []) →
          t.link.portB = { sending := some (.forward b), mark := .forward } ∧ t.link.fwdB = rest
            ∧ t.link.ownB = s.link.ownB ∧ t.link.waitB = s.link.waitB)
      ∧ (∀ f rest, s.link.ownB = f :: rest →
          (s.link.fwdB = [] ∨ s.link.portB.mark = .forward) →
          t.link.portB = { sending := some (.own f), mark := .own } ∧ t.link.fwdB = s.link.fwdB
            ∧ (s.link.waitB = [] → t.link.ownB = rest ∧ t.link.waitB = [])
            ∧ (s.link.waitB ≠ [] → rest.length < 16 → ∃ g others, takeWaiting s.link.waitB = some (g, others)
                ∧ t.link.ownB = joinOwn g rest ∧ t.link.waitB = others))
      ∧ (s.link.fwdB = [] → s.link.ownB = [] →
          t.link.portB = { sending := none, mark := s.link.portB.mark })

/-- LINE_TIME_TICK completes: the line time rises by 1 and wraps, every timer and deadline whose expiry passes is marked as
reached, and nothing else changes.  What the marking does: a mark stays, and a timer not yet marked is marked exactly when
(t - e) mod 2^32 is less than 2^31 at the new line time t; no expiry changes (log 9). -/
def Obligations.LineTimeTickCompletes : Prop :=
  (∀ s : State, Running s → ∃ t, exec .lineTimeTick s = .next t ∧ t.link.time = s.link.time + 1
    ∧ KeepsAllBut [.time] (s.reachAt (s.link.time + 1)) t)
  ∧ ∀ (s : State) (v : LineTime),
    let mark := fun e : Timer =>
      ({ expiry := e.expiry, reached := e.reached || decide ((v - e.expiry).toNat < 2 ^ 31) } : Timer)
    let r := s.reachAt v
    KeepsAllBut [.exec, .sup, .tracks, .stations, .lanes] s r
    ∧ (∀ i : StationNo, r.stations[i] =
        { s.stations[i] with
          takeExpiry := s.stations[i].takeExpiry.map mark
          placeExpiry := s.stations[i].placeExpiry.map mark
          exchangeExpiry := s.stations[i].exchangeExpiry.map mark })
    ∧ (∀ k : LaneNo, r.lanes[k] = { s.lanes[k] with expiry := s.lanes[k].expiry.map mark })
    ∧ (∀ u : Tracking, r.track u = (s.track u).map fun e =>
        { e with
          state := match e.state with
            | .circulating d => .circulating (mark d)
            | .returning d => .returning (mark d)
            | st => st })
    ∧ (∀ e, s.req.sup = .running e → r.req.sup = .running (mark e))
    ∧ ((∀ e, s.req.sup ≠ .running e) → r.req.sup = s.req.sup)
    ∧ (∀ e gap, s.req.exec = some e → e.phase = .loading gap →
        r.req.exec = some { e with phase := .loading (mark gap) })
    ∧ ((∀ e gap, s.req.exec = some e → e.phase ≠ .loading gap) → r.req.exec = s.req.exec)

/-! ### Requests (chapter 8) -/

/-- A request that finds the slot and the waiting place taken is discarded with no response and no effect of its own; that
its frame feeds the supervision timer all the same is the model's reading of R170 (log 13). -/
def Obligations.RequestWithoutPlaceIsDiscarded : Prop :=
  (∀ (c : Instr) (row : RequestRow) (s : State), requestRow s c = some row → Directed row.kind row.frame s →
      s.placesFull = true →
      ∃ t, exec c s = .next t ∧ t.req.sup = fedTimer row.frame.src s ∧ KeepsAllBut [.sup] s t)
    ∧ ∀ (k : Byte) (f : RxFrame) (s : State), isReservedKind k = true → Directed k f s → s.placesFull = true →
      ∃ t, exec (.unknownKind k f) s = .next t ∧ t.req.sup = fedTimer f.src s ∧ KeepsAllBut [.sup] s t

/-- The checks of R152 in their order: UNKNOWN_KIND for a reserved kind, in READY and in EXECUTING; BUSY in EXECUTING but
for READ STATE, then BAD_LENGTH, then BAD_FIELD with the index that the field check gives; a refused request changes
nothing but its response and the supervision timer.  The field checks of every request and record name the lowest failing
index.  The result fields of a refused request are none, but for the remaining count of a refused load: the count that its
payload carries, with 0 for 256 (R163), or for a payload that carries none a free value of 0..256 (log 5). -/
def Obligations.FirstFailingCheckRefuses : Prop :=
  (∀ (k : Byte) (f : RxFrame) (s : State), isReservedKind k = true → Directed k f s → s.placesFull = false →
    ∃ t, exec (.unknownKind k f) s = .next t ∧ AnsweredRefused k f .unknownKind 0 s t ∧ KeepsAllBut [.portA, .sup] s t)
  ∧ (∀ (c : Instr) (row : RequestRow) (s : State), requestRow s c = some row → Directed row.kind row.frame s →
    s.placesFull = false →
    (s.req.exec.isSome = true → row.kind ≠ 0x11 →
      ∃ t, exec c s = .next t ∧ AnsweredRefused row.kind row.frame .busy 0 s t ∧ KeepsAllBut [.portA, .sup] s t)
    ∧ (s.req.exec = none ∨ row.kind = 0x11 → row.frame.payload.length ≠ row.bytes →
      ∃ t, exec c s = .next t ∧ AnsweredRefused row.kind row.frame .badLength 0 s t ∧ KeepsAllBut [.portA, .sup] s t)
    ∧ (∀ i, s.req.exec = none ∨ row.kind = 0x11 → row.frame.payload.length = row.bytes →
      row.check row.frame.payload = some i →
      ∃ t, exec c s = .next t ∧ AnsweredRefused row.kind row.frame .badField i s t ∧ KeepsAllBut [.portA, .sup] s t))
  ∧ (∀ (s : State) (p : List Byte),
    let id : PlanId := BitVec.ofNat 16 (u16At p 0)
    s.badHeader p =
      (if id = 0 ∨ s.plan id ≠ none ∨ ∃ i : StationNo, s.builds[i].planId = some id then some 1
       else if 3 < u8At p 4 then some 3
       else if u8At p 5 = 0 ∨ 48 < u8At p 5 then some 4
       else none))
  ∧ (∀ (ls : List LineRec) (p : List Byte),
    let d := u8At p 0
    let code : ArticleCode := BitVec.ofNat 32 (u32At p 1)
    badLine ls p =
      (if d = 0 ∨ 15 < d ∨ d ∉ ls.map (·.drop) ∧ 8 ≤ (ls.map (·.drop)).toFinset.card then some 1
       else if code = 0 ∨ ∃ l ∈ ls, l.drop = d ∧ l.code = code then some 2
       else if u8At p 5 = 0 then some 3
       else none))
  ∧ (∀ p : List Byte, (badKinds p = none ↔ ∀ i, i < 64 → u8At p i ≤ 1)
    ∧ ∀ i, i < 64 → 1 < u8At p i → (∀ j, j < i → u8At p j ≤ 1) → badKinds p = some (i + 1))
  ∧ (∀ (k : Byte) (p : List Byte),
    let count := fun n : Nat => if n = 0 then 256 else n
    (k ≠ 0x14 → k ≠ 0x19 → refusedFields k p = .empty)
    ∧ (p.length = 1 → refusedFields 0x14 p = .remaining (count (u8At p 0)))
    ∧ (p.length = 6 → refusedFields 0x19 p = .remaining (count (u8At p 5)))
    ∧ (k = 0x14 ∨ k = 0x19 → ∃ n, n ≤ 256 ∧ refusedFields k p = .remaining n))
  ∧ ∀ p : List Byte,
    badBase p =
      (if 3 < u8At p 0 then some 1 else if 1 < u8At p 1 then some 2 else if u8At p 1 = 0 then none
       else if u8At p 2 < 4 ∨ 24 < u8At p 2 then some 3 else if u8At p 3 < 4 ∨ 20 < u8At p 3 then some 4
       else if u16At p 4 < 200 ∨ 2600 < u16At p 4 then some 5 else if u16At p 4 < u16At p 6 then some 6
       else if u32At p 8 = 0 ∨ 6291360 < u32At p 8 then some 7 else if 48 < u8At p 12 then some 8
       else if 48 < u8At p 13 then some 9 else if 6291360 < u32At p 14 then some 10 else none)
    ∧ badArticle p =
      (if u32At p 0 = 0 then some 1 else if u16At p 4 = 0 ∨ 2000 < u16At p 4 then some 2
       else if u16At p 6 = 0 ∨ 2000 < u16At p 6 then some 3 else if u16At p 8 = 0 ∨ 2000 < u16At p 8 then some 4
       else if u16At p 10 = 0 then some 5 else if 50 < u8At p 12 then some 6 else if 7 < u8At p 15 then some 8
       else if 256 < u16At p 16 then some 9 else if 7 < u8At p 18 then some 10 else none)
    ∧ badStation p = (if u8At p 0 ≤ 7 then none else some 1)
    ∧ badLane p = (if u8At p 0 ≤ 3 then none else some 1)
    ∧ badGate p = (if u8At p 0 ≤ 1 then none else some 1)
    ∧ badPlanId p = (if u16At p 0 = 0 then some 1 else none)
    ∧ badArticleCode p = (if u32At p 0 = 0 then some 1 else none)
    ∧ badSetStation p =
        (if 7 < u8At p 0 then some 1 else if 1 < u8At p 1 then some 2 else if 3 < u8At p 2 then some 3 else none)
    ∧ badAcknowledge p =
        (if 7 < u8At p 0 then some 1 else if 1 < u8At p 1 then some 2 else if 2 < u8At p 2 then some 3 else none)
    ∧ badProbe p =
        (if u32At p 0 = 0 then some 1 else if 15 < u8At p 6 then some 3 else if u8At p 7 = 0 then some 4 else none)

/-- DESCRIBE completes, with the description of the part. -/
def Obligations.DescribeCompletes : Prop :=
  (∀ (f : RxFrame) (s : State), TakenAt 0x10 0 f s →
    ∃ t, exec (.describe f) s = .next t ∧ AnsweredDone 0x10 f (.describe s.link.ownNode) s t
      ∧ KeepsAllBut [.portA, .sup] s t)
    ∧ Config.deviceCode = 0x0840 ∧ Config.designRevision = 1 ∧ Config.articleCapacity = 4096
    ∧ Config.planCapacity = 32 ∧ Config.trackingCapacity = 160 ∧ Config.orderDepth = 4 ∧ Config.laneDepth = 24
    ∧ Config.buildCapacity = 96 ∧ Config.reportCapacity = 32

/-- READ STATE completes in READY and in EXECUTING alike, with a copy of the device state; the supervision timer it
shows is that after the feeding by its own frame (log 13), and the code of the job's kind is a free value (log 4). -/
def Obligations.ReadStateCompletes : Prop :=
  ∀ (f : RxFrame) (s : State), Directed 0x11 f s → s.placesFull = false → f.payload.length = 0 →
    ∃ (t : State) (c : StateCopy),
      exec (.readState f) s = .next t ∧ AnsweredDone 0x11 f (.state c) s t ∧ KeepsAllBut [.portA, .sup] s t
      ∧ c.executing = s.req.exec.map (fun e => (e.kind, e.tag, e.counts.map (·.2)))
      ∧ c.time = s.link.time ∧ c.gate = s.engine.gate ∧ c.sup = fedTimer f.src s
      ∧ c.interval = s.req.settings.supInterval ∧ c.action = s.req.settings.supAction ∧ c.latch = s.req.latch
      ∧ c.articles = s.tables.articles.length ∧ c.plans = s.plans.plans.length ∧ c.tracks = s.tracker.tracks.length
      ∧ c.arrivals = s.tracker.arrivals.length ∧ c.replans = s.engine.replans.length
      ∧ c.stations = s.stations.toList.map (fun st =>
          { state := st.state, ready := st.ready, cause := st.cause, close := st.close, orders := st.orders.length,
            spur := st.spur.length })
      ∧ c.lanes = s.lanes.toList.map (fun l => { state := l.state, cause := l.cause, count := l.list.length })
      ∧ c.reports = s.reports.queue.length ∧ c.lost = s.reports.lost

/-- SET TIME completes: directed, it sets the line time, marks every timer and deadline whose expiry the new value passes
as reached, feeds the supervision timer from the line time as set, and is answered with it; broadcast, it does the same in
READY with no response, and nothing but the feeding in EXECUTING or with a wrong length (R152: refused, no effect).  A
broadcast one that finds both places for a RESPONSE full is discarded with no effect of its own (R156); that its frame feeds
the supervision timer all the same is the model's reading of R170 (log 13).  That a reached expiry is marked here and its
block acts in the timer's own command is the model's reading of R189 (log 9). -/
def Obligations.SetTimeCompletes : Prop :=
  (∀ (f : RxFrame) (s : State), TakenAt 0x12 4 f s →
    let v : LineTime := BitVec.ofNat 32 (u32At f.payload 0)
    ∃ t, exec (.setTime f) s = .next t ∧ t.link.time = v
      ∧ PutOnA (responseFrame s f
          { kind := 0x12, completion := .done, reason := .none, field := 0, result := .time v }) s t
      ∧ t.req.sup = fedTimer f.src { s.reachAt v with link := { s.link with time := v } }
      ∧ KeepsAllBut [.portA, .sup, .time] (s.reachAt v) t)
    ∧ (∀ (f : RxFrame) (s : State), Running s → frameOk 0x12 f = true → isBroadcast f = true →
      s.placesFull = false → f.payload.length = 4 → s.req.exec = none →
      let v : LineTime := BitVec.ofNat 32 (u32At f.payload 0)
      ∃ t, exec (.setTime f) s = .next t ∧ t.link.time = v ∧ Forwarded f.port (rxBytes 0x12 f) s t
        ∧ t.req.sup = fedTimer f.src { s.reachAt v with link := { s.link with time := v } }
        ∧ KeepsAllBut [.portA, .portB, .sup, .time] (s.reachAt v) t)
    ∧ ∀ (f : RxFrame) (s : State), Running s → frameOk 0x12 f = true → isBroadcast f = true →
      s.placesFull = true ∨ f.payload.length ≠ 4 ∨ s.req.exec ≠ none →
      ∃ t, exec (.setTime f) s = .next t ∧ Forwarded f.port (rxBytes 0x12 f) s t
        ∧ t.req.sup = fedTimer f.src s ∧ KeepsAllBut [.portA, .portB, .sup] s t

/-- RESTART completes: its RESPONSE first; the report queue emptied, STARTED queued first and the lost count 0; the queues,
the table, the job and the lane flags are gone, the gate closed, the latch cleared; every station without orders and spur,
one that had orders in FAULT with cause RESTART, its sequences withdrawn, its build cut back and its counts taken back; a
station in CLOSING with nothing on order awaits its exchange and one in EXCHANGING starts its timer again; every lane by
its rule; tables, settings, line time and counter kept.  The report queue holds STARTED and the BUILD_CLOSED of the
stations that await their exchange, in number order, those of level 0 left out, and nothing older.  What it ends with is the
binding attempt of the state that the blocks have left: there an IDLE station is BUILDING only through a DRAINING plan that
one of the stations has reopened.  Which DRAINING plan reopens and is offered first rests on the order of the stations, and so
does the order of the reports and of the frames (log 25, the model's choice). -/
def Obligations.RestartCompletes : Prop :=
  ∀ (f : RxFrame) (s : State), TakenAt 0x24 0 f s →
    let calls := fun i : StationNo => s.stations[i].state = .closing ∧ s.stations[i].orders = []
    ∃ t, exec (.restart f) s = .next t
      ∧ PutOnA (responseFrame s f
          { kind := 0x24, completion := .done, reason := .none, field := 0, result := .empty }) s t
      ∧ KeepsAllBut [.portA, .portB, .sup, .latch, .plans, .arrivals, .tracks, .replans, .flags, .job, .gate, .builds,
          .stations, .lanes, .reports] s t
      ∧ (s.reports.levels.getD 0 0 ≠ 0 → t.reports.queue.head? = some
          { body := .started .restart s.link.ownNode, level := s.reports.levels.getD 0 0, time := s.link.time })
      ∧ t.reports.queue =
          ((ReportBody.started .restart s.link.ownNode
              :: (([0, 1, 2, 3, 4, 5, 6, 7] : List StationNo).filter fun i => calls i).map fun i =>
                closedReport i s.builds[i] s.stations[i].close).map (reportNow s)).filter (fun r => r.level != 0)
      ∧ t.reports.lost = 0
      ∧ t.req.latch = false
      ∧ t.req.sup = (if s.req.settings.supInterval = 0 then .stopped
                     else .running (after s.link.time s.req.settings.supInterval))
      ∧ t.tracker.arrivals = [] ∧ t.tracker.tracks = [] ∧ t.engine.replans = [] ∧ t.engine.waiting = []
      ∧ t.engine.job = none ∧ t.engine.gate = false ∧ (∀ k : LaneNo, t.flag k = false)
      ∧ (∀ i : StationNo, t.stations[i].orders = [] ∧ t.stations[i].spur = [] ∧ t.stations[i].takeExpiry = none
          ∧ t.stations[i].placeExpiry = none
          ∧ (s.stations[i].orders ≠ [] → t.stations[i].state = .fault ∧ t.stations[i].cause = .restart
              ∧ t.stations[i].withdrawn = s.stations[i].orders.map (·.seq))
          ∧ (s.stations[i].orders ≠ [] → s.stations[i].state ≠ .idle →
              t.builds[i] = cutBuild s i s.stations[i].orders)
          ∧ (calls i → t.stations[i].state = .awaitExchange ∧ t.builds[i] = s.builds[i]
              ∧ ((reportNow s (closedReport i s.builds[i] s.stations[i].close)).level ≠ 0 →
                  reportNow s (closedReport i s.builds[i] s.stations[i].close) ∈ t.reports.queue))
          ∧ t.stations[i].exchangeExpiry =
              (if s.stations[i].state = .exchanging ∧ s.stations[i].orders = [] then
                 some (after s.link.time s.req.settings.exchangeTimeout)
               else s.stations[i].exchangeExpiry)
          ∧ (s.stations[i].orders = [] → ¬ calls i → t.stations[i].state = s.stations[i].state
              ∨ s.stations[i].state = .idle ∧ t.stations[i].state = .building))
      ∧ JoinedB ([0, 1, 2, 3, 4, 5, 6, 7].flatMap fun i : StationNo =>
          if s.stations[i].orders ≠ [] then withdrawFrames s i (s.stations[i].orders.map (·.seq))
          else if calls i then [callFrame s i s.builds[i]] else []) s t
      ∧ (CountsOk s → BindingsOk s → ∀ id p, s.plan id = some p → ∃ q, t.plan id = some q
          ∧ q.lines = lessBy (fun j => (([0, 1, 2, 3, 4, 5, 6, 7] : List StationNo).map fun i =>
              leavingOn s i s.stations[i].orders id j).sum) p.lines)
      ∧ (∀ k : LaneNo, t.lanes[k].list = [] ∧ t.lanes[k].inFlight = none ∧ t.lanes[k].expiry = none
          ∧ (if s.lanes[k].state = .ready ∧ s.lanes[k].list = [] ∧ s.lanes[k].inFlight = none then
               t.lanes[k].state = .ready
             else t.lanes[k].state = .fault ∧ t.lanes[k].cause = .restart))
      ∧ ∃ m : State, KeepsAllBut [.portA, .portB] (bindingAttempt m) t
          ∧ (∀ i : StationNo,
              (m.stations[i] = restarted s i
                ∨ s.stations[i].state = .idle ∧ m.stations[i] = { restarted s i with state := .building })
              ∧ (s.stations[i].state ≠ .idle → m.builds[i] = cutBuild s i s.stations[i].orders))
          ∧ ((∀ p ∈ s.plans.plans, p.state ≠ .draining) →
              ∀ i : StationNo, m.stations[i] = restarted s i ∧ m.builds[i] = cutBuild s i s.stations[i].orders)

/-- SUPERVISION_EXPIRY completes when the running timer's expiry is reached: SUPERVISION is queued, and under REPORT the
timer restarts, under STOP the gate closes and the timer is HALTED; otherwise the command does nothing (log 9).  That the
report's line time is that of this event is the model's choice (log 24). -/
def Obligations.SupervisionExpiryCompletes : Prop :=
  (∀ (s : State) (e : Timer), Running s → s.req.sup = .running e → passed s.link.time e = true →
    ∃ t, exec .supervisionExpiry s = .next t
      ∧ Reported (.supervision s.req.settings.supAction s.req.settings.supInterval s.link.time) s t
      ∧ KeepsAllBut [.portA, .reports, .sup, .gate] s t
      ∧ (s.req.settings.supAction = .report →
          t.req.sup = .running (after s.link.time s.req.settings.supInterval) ∧ t.engine.gate = s.engine.gate)
      ∧ (s.req.settings.supAction = .stop → t.req.sup = .halted ∧ t.engine.gate = false))
    ∧ ∀ s : State, Running s → (∀ e, s.req.sup = .running e → passed s.link.time e = false) →
        exec .supervisionExpiry s = .next s

/-- A multi-frame reply holds whole items in order, each segment as many as fit in 238 bytes, and at least one
segment. -/
def Obligations.SegmentsHoldWholeItems : Prop :=
  ∀ items : List Item, items ≠ [] → (∀ i ∈ items, i.bytes.length ≤ 238) →
    (packItems items).flatten = items
    ∧ (∀ seg ∈ packItems items, seg ≠ [] ∧ (seg.flatMap Item.bytes).length ≤ 238)
    ∧ ∀ (before later : List (List Item)) (seg next : List Item) (i : Item),
        packItems items = before ++ seg :: next :: later → next.head? = some i →
        238 < (seg.flatMap Item.bytes).length + i.bytes.length

/-- READ BUILD, READ PLAN and READ LANE complete: the request is in execution and the frames of its reply follow what was
already on its way out of port A; READ PLAN of a plan that is not held is refused NOT_FOUND.  A command that changes the
state of a station which the reply in progress watches marks the reply, and its final RESPONSE then says CHANGED: READ BUILD
watches the station it names, READ PLAN and READ LANE watch none. -/
def Obligations.ReadsBeginTheirReplies : Prop :=
  (∀ (f : RxFrame) (s : State), TakenAt 0x20 1 f s → badStation f.payload = none →
    let i := stationOf f.payload
    let b := s.builds[i]
    ∃ t, exec (.readBuild f) s = .next t ∧ t.req.sup = fedTimer f.src s ∧ KeepsAllBut [.portA, .exec, .sup] s t
      ∧ ReplyBegun
          { kind := 0x20, tag := f.tag, source := f.src, counts := none
            phase := .replying
              (packItems (.manifestHeader i b.binding b.cases.length b.totalWeight b.deckLoad b.momentX b.momentY
                b.topHeight b.revision :: b.cases.map .caseRecord))
              0 (.buildRead i b.cases.length b.revision) [i] false } [i] s t)
    ∧ (∀ (f : RxFrame) (s : State), TakenAt 0x21 2 f s → badPlanId f.payload = none →
      match s.plan (planIdOf f.payload) with
      | none => ∃ t, exec (.readPlan f) s = .next t ∧ AnsweredRefused 0x21 f .notFound 0 s t
          ∧ KeepsAllBut [.portA, .sup] s t
      | some p => ∃ t, exec (.readPlan f) s = .next t ∧ t.req.sup = fedTimer f.src s
          ∧ KeepsAllBut [.portA, .exec, .sup] s t
          ∧ ReplyBegun
              { kind := 0x21, tag := f.tag, source := f.src, counts := none
                phase := .replying
                  (packItems (.planHeader p.id p.due p.baseKind p.part p.admission p.state p.bound
                    :: p.lines.mapIdx .planLine))
                  0 (.planRead p.id p.lines.length) [] false } [] s t)
    ∧ (∀ (f : RxFrame) (s : State), TakenAt 0x22 1 f s → badLane f.payload = none →
      let k := laneOf f.payload
      let l := s.lanes[k]
      ∃ t, exec (.readLane f) s = .next t ∧ t.req.sup = fedTimer f.src s ∧ KeepsAllBut [.portA, .exec, .sup] s t
        ∧ ReplyBegun
            { kind := 0x22, tag := f.tag, source := f.src, counts := none
              phase := .replying
                (packItems (.laneHeader l.state l.cause l.list.length l.inFlight (l.expiry.map (·.expiry)) (s.flag k)
                  :: l.list.map fun u => .laneEntry u ((s.track u).map (·.state))))
                0 (.laneRead k l.list.length) [] false } [] s t)
    ∧ (∀ (c : Instr) (s t : State) (e : Exec) (segments : List (List Item)) (n : Nat) (r : ResultFields)
        (watch : List StationNo) (changed : Bool),
      Running s → s.req.exec = some e → e.phase = .replying segments n r watch changed → c ≠ .powerOnReset →
      exec c s = .next t → (∃ i ∈ watch, t.stations[i].state ≠ s.stations[i].state) →
      t.req.exec = some { e with phase := .replying segments n r watch true })
    ∧ ∀ (s : State) (e : Exec) (n : Nat) (r : ResultFields) (watch : List StationNo) (changed : Bool),
      e.phase = .replying [] n r watch changed →
      replyFrames s.link.ownNode e =
        [{ dst := e.source, src := s.link.ownNode, tag := e.tag, final := true
           body := .response
             { kind := e.kind, completion := if changed = true then .changed else .done, reason := .none, field := 0
               result := r } }]

/-- PROBE completes: NOT_FOUND for a code the table does not hold; else the probe is in the probe slot with a copy of the
article, and the request is in execution.  PROBE_JOB completes when a probe waits and no other source does: the slot is
empty, and the frames of the reply, one for each station of the set and for drop 0 one more with the choice, follow what
was on its way out of port A; the reply watches the stations of the set from here on.  The entry of a station holds its
state, ready flag and number of orders, its status by the table of R46, and when it is EVALUATED the result for the fixed
drop, or for drop 0 that of the first line with a feasible candidate, else of the last line tried.  The choice is, for drop
0, what a station-choice run among the stations of the set would take. -/
def Obligations.ProbeCompletes : Prop :=
  (∀ (f : RxFrame) (s : State), TakenAt 0x1F 8 f s → badProbe f.payload = none →
    match s.tables.articles.find? (fun a => a.code == BitVec.ofNat 32 (u32At f.payload 0)) with
    | none => ∃ t, exec (.probe f) s = .next t ∧ AnsweredRefused 0x1F f .notFound 0 s t
        ∧ KeepsAllBut [.portA, .sup] s t
    | some art => ∃ t, exec (.probe f) s = .next t ∧ t.req.sup = fedTimer f.src s
        ∧ KeepsAllBut [.exec, .probe, .sup] s t
        ∧ t.engine.probe = some
            { article := art, weight := u16At f.payload 4, drop := u8At f.payload 6
              stations := [0, 1, 2, 3, 4, 5, 6, 7].filter fun i : StationNo => (u8At f.payload 7).testBit i.val }
        ∧ t.req.exec = some
            { kind := 0x1F, tag := f.tag, source := f.src, counts := none, phase := .probing })
  ∧ (∀ (s : State) (p : ProbeReq) (e : Exec), Running s → s.engine.probe = some p → s.takesProbe = true →
    s.req.exec = some e → replyFrames s.link.ownNode e = [] →
    ∃ t, exec .probeJob s = .next t ∧ t.engine.probe = none ∧ KeepsAllBut [.portA, .exec, .probe] s t
      ∧ ReplyBegun
          { e with
            phase := .replying
              ((p.stations.map fun i => [.probeEntry (probeEntry s p i)])
                ++ (if p.drop = 0 then [[.probeChoice (probeChoice s p)]] else []))
              0 (.probed p.stations.length (probeChoice s p).isSome) p.stations false } p.stations s t)
  ∧ (∀ (s : State) (p : ProbeReq) (i : StationNo),
    let e := probeEntry s p i
    let unbound := s.builds[i].binding = none ∨ ∃ g, s.builds[i].binding = some g ∧ s.tables.bases[g.baseKind] = none
    let lineless := p.drop = 0 ∧ ∀ plan, s.planNamed i = some plan →
      ∀ l ∈ plan.lines, l.code = p.article.code → l.required ≤ l.planned
    let weight := if p.weight = 0 then p.article.nominal else p.weight
    e.station = i ∧ e.state = s.stations[i].state ∧ e.ready = s.stations[i].ready
    ∧ e.orders = s.stations[i].orders.length
    ∧ (unbound → e.status = .notEvaluated) ∧ (¬ unbound → lineless → e.status = .noLine)
    ∧ (¬ unbound → ¬ lineless → e.status = .evaluated)
    ∧ (e.status ≠ .evaluated → e.eval = none)
    ∧ (∀ base, s.baseOfBuild i = some base → p.drop ≠ 0 →
      e.eval = some (evaluate (evalInput s i base p.article weight p.drop) i none))
    ∧ ∀ base plan before x later, s.baseOfBuild i = some base → p.drop = 0 → s.planNamed i = some plan →
      let tried := fun y : Nat × PlanLine => evaluate (evalInput s i base p.article weight y.2.drop) i (some y.1)
      plan.openLines p.article.code = before ++ x :: later → (∀ y ∈ before, (tried y).best = none) →
      (tried x).best ≠ none ∨ later = [] → e.eval = some (tried x))
  ∧ ∀ (s : State) (p : ProbeReq),
    let stops := byDue s (p.stations.filter (isCandidate s p.article.code))
    let due := fun i : StationNo => ((s.planNamed i).map (·.due)).getD 0
    (p.drop ≠ 0 → probeChoice s p = none)
    ∧ (p.drop = 0 → probeChoice s p =
        stops.findSome? fun i => decideReplan s i p.article (if p.weight = 0 then p.article.nominal else p.weight))
    ∧ (∀ i, i ∈ stops ↔ i ∈ p.stations ∧ isCandidate s p.article.code i = true)
    ∧ (p.stations.Pairwise (· < ·) → stops.Pairwise (fun i j => due i < due j ∨ due i = due j ∧ i < j))

/-! ### Tables and settings (chapter 3) -/

/-- SET SETTINGS completes: each value is brought into its range (with an interval of 1..999 taken to 1000, and STOP kept
while the latch is set), the whole record stored, the latch set by a stored STOP, the timer moved by its own rows, and
the response carries the clamp mask and the record. -/
def Obligations.SetSettingsCompletes : Prop :=
  ∀ (f : RxFrame) (s : State), TakenAt 0x13 84 f s →
    ∃ t, exec (.setSettings f) s = .next t
      ∧ KeepsAllBut [.portA, .settings, .latch, .sup] s t
      ∧ (∀ i : Fin 21,
          let v := u32At f.payload (4 * i.val)
          let r := settingRange.getD i.val (0, 0)
          t.req.settings.values.getD i.val 0 =
            if i.val = 7 then (if v = 0 then 0 else max 1000 (min 600000 v))
            else if i.val = 8 then (if s.req.latch = true then 1 else min 1 v)
            else max r.1 (min r.2 v))
      ∧ (t.req.latch = true ↔ s.req.latch = true ∨ t.req.settings.supAction = .stop)
      ∧ t.req.sup =
          (if f.src.toNat = s.req.settings.controlNode then
             if t.req.settings.supInterval = 0 then .stopped
             else .running (after s.link.time t.req.settings.supInterval)
           else if t.req.settings.supInterval = 0 then .stopped else s.req.sup)
      ∧ PutOnA (responseFrame s f
          { kind := 0x13, completion := .done, reason := .none, field := 0
            result := .settings
              ((List.range 21).map fun i => u32At f.payload (4 * i) != t.req.settings.values.getD i 0)
              t.req.settings }) s t

/-- DELETE ARTICLE, LOAD KINDS and LOAD LEVELS complete: the entry removed and the count answered, or NOT_FOUND; the whole
kind matrix replaced; the whole level table replaced, a level above 7 stored as 7, with its clamp mask. -/
def Obligations.TableRequestsComplete : Prop :=
  (∀ (f : RxFrame) (s : State), TakenAt 0x15 4 f s → u32At f.payload 0 ≠ 0 →
    let code : ArticleCode := BitVec.ofNat 32 (u32At f.payload 0)
    ∃ t, exec (.deleteArticle f) s = .next t
      ∧ t.tables.articles = s.tables.articles.filter (fun a => a.code != code)
      ∧ KeepsAllBut [.portA, .sup, .articles] s t
      ∧ if (∃ a ∈ s.tables.articles, a.code = code) then
          AnsweredDone 0x15 f (.entryCount t.tables.articles.length) s t
        else AnsweredRefused 0x15 f .notFound 0 s t)
    ∧ (∀ (f : RxFrame) (s : State), TakenAt 0x17 64 f s → badKinds f.payload = none →
      ∃ t, exec (.loadKinds f) s = .next t ∧ AnsweredDone 0x17 f .empty s t ∧ KeepsAllBut [.portA, .sup, .kinds] s t
        ∧ ∀ i j : PackKind, t.tables.mayRest i j = (u8At f.payload (8 * i.val + j.val) == 1))
    ∧ ∀ (f : RxFrame) (s : State), TakenAt 0x18 15 f s →
      let carried := (List.range 15).map fun i => u8At f.payload i
      ∃ t, exec (.loadLevels f) s = .next t ∧ t.reports.levels = carried.map (min 7)
        ∧ AnsweredDone 0x18 f (.levels (carried.map fun v => decide (7 < v)) (carried.map (min 7))) s t
        ∧ KeepsAllBut [.portA, .sup, .levels] s t

/-- LOAD BASE completes: refused WRONG_STATE while a station that uses the kind stands in the way, else the entry stored
whole or made absent. -/
def Obligations.LoadBaseCompletes : Prop :=
  ∀ (f : RxFrame) (s : State), TakenAt 0x16 18 f s → badBase f.payload = none →
    let kind : BaseKind := Fin.ofNat 4 (u8At f.payload 0)
    let present := u8At f.payload 1 = 1
    let blocked := ∃ i : StationNo, s.stations[i].baseKind = kind ∧
      if present then s.stations[i].state = .building ∨ s.stations[i].state = .closing ∨ s.stations[i].state = .fault
      else s.stations[i].state ≠ .offline
    (blocked → ∃ t, exec (.loadBase f) s = .next t ∧ AnsweredRefused 0x16 f .wrongState 0 s t
      ∧ KeepsAllBut [.portA, .sup] s t)
    ∧ (¬ blocked → ∃ t, exec (.loadBase f) s = .next t ∧ AnsweredDone 0x16 f .empty s t
      ∧ KeepsAllBut [.portA, .sup, .bases] s t
      ∧ (∀ k : BaseKind, k ≠ kind → t.tables.bases[k] = s.tables.bases[k])
      ∧ (¬ present → t.tables.bases[kind] = none)
      ∧ (present → t.tables.bases[kind] = some
          { cols := u8At f.payload 2, rows := u8At f.payload 3, heightLimit := u16At f.payload 4
            closeHeight := u16At f.payload 6, maxLoad := u32At f.payload 8, boundX := u8At f.payload 12
            boundY := u8At f.payload 13, threshold := u32At f.payload 14 }))

/-- LOAD ARTICLES and ADMIT PLAN open their loads: the request in execution with its record count and the first data-gap
wait, no response yet; ADMIT PLAN at 32 plans is refused NO_ROOM, and otherwise its admission record is open. -/
def Obligations.LoadsOpen : Prop :=
  (∀ (f : RxFrame) (s : State), TakenAt 0x14 1 f s →
    let n := if u8At f.payload 0 = 0 then 256 else u8At f.payload 0
    ∃ t, exec (.loadArticles f) s = .next t ∧ t.req.sup = fedTimer f.src s ∧ KeepsAllBut [.exec, .sup] s t
      ∧ t.req.exec = some
          { kind := 0x14, tag := f.tag, source := f.src, counts := some (n, n)
            phase := .loading (after s.link.time s.req.settings.dataGap) })
    ∧ ∀ (f : RxFrame) (s : State), TakenAt 0x19 6 f s → s.badHeader f.payload = none →
      (32 ≤ s.plans.plans.length → ∃ t, exec (.admitPlan f) s = .next t ∧ AnsweredRefused 0x19 f .noRoom 0 s t
        ∧ KeepsAllBut [.portA, .sup] s t)
      ∧ (s.plans.plans.length < 32 → ∃ t, exec (.admitPlan f) s = .next t ∧ t.req.sup = fedTimer f.src s
        ∧ KeepsAllBut [.exec, .admission, .sup] s t
        ∧ t.plans.admission = some
            { id := BitVec.ofNat 16 (u16At f.payload 0), due := u16At f.payload 2
              baseKind := Fin.ofNat 4 (u8At f.payload 4), count := u8At f.payload 5, lines := [] }
        ∧ t.req.exec = some
            { kind := 0x19, tag := f.tag, source := f.src, counts := some (u8At f.payload 5, u8At f.payload 5)
              phase := .loading (after s.link.time s.req.settings.dataGap) })

/-- DATA completes in an open LOAD ARTICLES, for payloads of whole records that are valid and find room: each record
replaces the entry of its code or adds one; before the last record a new gap wait starts; with the last the load ends DONE
with the entry count, and records after it are not read; its final RESPONSE is held behind slot and waiting place when it
finds both full. -/
def Obligations.DataStoresArticles : Prop :=
  ∀ (f : RxFrame) (s : State) (e : Exec) (gap : Timer) (n r : Nat) (recs : List (List Byte)),
    Directed 0x28 f s → s.req.exec = some e → e.kind = 0x14 → e.tag = f.tag → e.source = f.src →
    e.counts = some (n, r) → e.phase = .loading gap →
    recs ≠ [] → (∀ p ∈ recs, p.length = 19 ∧ badArticle p = none) →
    let stored := (recs.map articleOf).foldl (fun l a => putKey Article.key a l) s.tables.articles
    stored.length ≤ 4096 →
    (recs.length < r → f.payload = recs.flatten →
      ∃ t, exec (.data f) s = .next t ∧ t.req.sup = fedTimer f.src s ∧ KeepsAllBut [.exec, .sup, .articles] s t
        ∧ t.tables.articles = stored
        ∧ t.req.exec = some
            { e with
              counts := some (n, r - recs.length)
              phase := .loading (after s.link.time s.req.settings.dataGap) })
    ∧ (∀ more : List (List Byte), recs.length = r → f.payload = (recs ++ more).flatten → (∀ p ∈ more, p.length = 19) →
      ∃ t, exec (.data f) s = .next t ∧ t.req.sup = fedTimer f.src s ∧ KeepsAllBut [.portA, .exec, .sup, .articles] s t
        ∧ t.tables.articles = stored
        ∧ t.req.exec = some { e with counts := some (n, 0), phase := .ending }
        ∧ FinalPlaced
            { dst := e.source, src := s.link.ownNode, tag := e.tag, final := true
              body := .response
                { kind := 0x14, completion := .done, reason := .none, field := 0
                  result := .articlesLoaded 0 stored.length } } s t)

/-- DATA completes in an open ADMIT PLAN, for payloads of whole line records that pass R67 against the lines before them:
before the last record the lines are gathered and a new gap wait starts; with the last the plan is made, of part 1, with
the counter's value as its admission number and its lines in stored order, and the load ends DONE.  The stored order holds
the same lines, by drop from the highest to the lowest, and within a drop as they arrived.  The plan store then makes a
binding attempt on the plan put in the queue.  The final RESPONSE is held behind slot and waiting place when it finds both
full. -/
def Obligations.DataAdmitsAPlan : Prop :=
  (∀ ls : List LineRec,
    (orderLines ls).Perm ls ∧ (orderLines ls).Pairwise (fun x y => y.drop ≤ x.drop)
      ∧ ∀ d : Nat, (orderLines ls).filter (fun l => l.drop == d) = ls.filter (fun l => l.drop == d))
  ∧ ∀ (f : RxFrame) (s : State) (e : Exec) (gap : Timer) (n r : Nat) (a : Admission) (recs : List (List Byte)),
    Directed 0x28 f s → s.req.exec = some e → e.kind = 0x19 → e.tag = f.tag → e.source = f.src →
    e.counts = some (n, r) → e.phase = .loading gap → s.plans.admission = some a →
    recs ≠ [] → f.payload = recs.flatten → (∀ p ∈ recs, p.length = 6) →
    (∀ before p later, recs = before ++ p :: later → badLine (a.lines ++ before.map lineOf) p = none) →
    let lines := a.lines ++ recs.map lineOf
    (recs.length < r →
      ∃ t, exec (.data f) s = .next t ∧ t.req.sup = fedTimer f.src s ∧ KeepsAllBut [.exec, .sup, .admission] s t
        ∧ t.plans.admission = some { a with lines := lines }
        ∧ t.req.exec = some
            { e with
              counts := some (n, r - recs.length)
              phase := .loading (after s.link.time s.req.settings.dataGap) })
    ∧ (recs.length = r → RisingKeys Plan.key s.plans.plans → s.plan a.id = none →
      ∃ t, exec (.data f) s = .next t ∧ t.req.sup = fedTimer f.src s
        ∧ KeepsAllBut [.portA, .exec, .sup, .admission, .counter, .plans, .stations, .builds, .flags] s t
        ∧ t.plans.admission = none ∧ t.plans.counter = s.plans.counter + 1
        ∧ t.req.exec = some { e with counts := some (n, 0), phase := .ending }
        ∧ (∃ p, t.plan a.id = some p ∧ p.due = a.due ∧ p.baseKind = a.baseKind ∧ p.part = 1
            ∧ p.admission = s.plans.counter
            ∧ p.lines = (orderLines lines).map (fun l =>
                { drop := l.drop, code := l.code, required := l.required, planned := 0, placed := 0 })
            ∧ (p.state = .queued ∧ p.bound = none ∨ p.state = .building ∧ p.bound.isSome = true)
            ∧ ∃ m : State, KeepsAllBut [.plans, .admission, .counter] s m ∧ m.plans.admission = none
                ∧ m.plans.counter = s.plans.counter + 1 ∧ RisingKeys Plan.key m.plans.plans
                ∧ m.plans.plans.Perm ({ p with state := .queued, bound := none } :: s.plans.plans)
                ∧ KeepsAllBut [.portA, .exec, .sup] (bindingAttempt m) t)
        ∧ FinalPlaced
            { dst := e.source, src := s.link.ownNode, tag := e.tag, final := true
              body := .response
                { kind := 0x19, completion := .done, reason := .none, field := 0
                  result := .planAdmitted 0 a.id s.plans.counter } } s t)

/-- DATA ends an open load at a record that fails: BAD_FIELD with the failing index and the records not stored, where LOAD
ARTICLES keeps the records before it and ADMIT PLAN drops the admission record; NO_ROOM at a new code for a full table;
BAD_LENGTH for a payload that is not whole records; the request then waits for its final RESPONSE to leave, which is held
behind slot and waiting place when it finds both full.  A stray DATA frame changes nothing but the supervision timer. -/
def Obligations.DataEndsALoad : Prop :=
  (∀ (f : RxFrame) (s : State) (e : Exec) (gap : Timer) (n r : Nat) (good : List (List Byte)) (bad : List Byte)
      (later : List (List Byte)),
    Directed 0x28 f s → s.req.exec = some e → e.kind = 0x14 → e.tag = f.tag →
    e.source = f.src → e.counts = some (n, r) → e.phase = .loading gap →
    f.payload = (good ++ bad :: later).flatten → (∀ p ∈ good ++ bad :: later, p.length = 19) →
    (∀ p ∈ good, badArticle p = none) → good.length < r →
    let stored := (good.map articleOf).foldl (fun l a => putKey Article.key a l) s.tables.articles
    let ends := fun (why : Reason) (i : Nat) =>
      ∃ t, exec (.data f) s = .next t ∧ t.req.sup = fedTimer f.src s ∧ KeepsAllBut [.portA, .exec, .sup, .articles] s t
        ∧ t.tables.articles = stored
        ∧ t.req.exec = some { e with counts := some (n, r - good.length), phase := .ending }
        ∧ FinalPlaced
            { dst := e.source, src := s.link.ownNode, tag := e.tag, final := true
              body := .response
                { kind := 0x14, completion := .ended, reason := why, field := i
                  result := .articlesLoaded (r - good.length) stored.length } } s t
    stored.length ≤ 4096 →
    (∀ i, badArticle bad = some i → ends .badField i)
    ∧ (badArticle bad = none → stored.length = 4096 → (∀ a ∈ stored, a.code ≠ (articleOf bad).code) → ends .noRoom 0))
  ∧ (∀ (f : RxFrame) (s : State) (e : Exec) (gap : Timer) (n r i : Nat) (a : Admission) (good : List (List Byte))
      (bad : List Byte) (later : List (List Byte)),
    Directed 0x28 f s → s.req.exec = some e → e.kind = 0x19 → e.tag = f.tag →
    e.source = f.src → e.counts = some (n, r) → e.phase = .loading gap → s.plans.admission = some a →
    f.payload = (good ++ bad :: later).flatten → (∀ p ∈ good ++ bad :: later, p.length = 6) →
    (∀ before p rest, good = before ++ p :: rest → badLine (a.lines ++ before.map lineOf) p = none) →
    badLine (a.lines ++ good.map lineOf) bad = some i → good.length < r →
    ∃ t, exec (.data f) s = .next t ∧ t.req.sup = fedTimer f.src s ∧ KeepsAllBut [.portA, .exec, .sup, .admission] s t
      ∧ t.plans.admission = none
      ∧ t.req.exec = some { e with counts := some (n, r - good.length), phase := .ending }
      ∧ FinalPlaced
          { dst := e.source, src := s.link.ownNode, tag := e.tag, final := true
            body := .response
              { kind := 0x19, completion := .ended, reason := .badField, field := i
                result := .remaining (r - good.length) } } s t)
  ∧ (∀ (f : RxFrame) (s : State) (e : Exec) (gap : Timer) (n r : Nat),
    Directed 0x28 f s → s.req.exec = some e → e.kind = 0x14 ∨ e.kind = 0x19 → e.tag = f.tag →
    e.source = f.src → e.counts = some (n, r) → e.phase = .loading gap →
    (f.payload = [] ∨ f.payload.length % (if e.kind = 0x14 then 19 else 6) ≠ 0) →
    ∃ t, exec (.data f) s = .next t ∧ t.req.sup = fedTimer f.src s ∧ KeepsAllBut [.portA, .exec, .sup, .admission] s t
      ∧ (e.kind = 0x19 → t.plans.admission = none) ∧ (e.kind = 0x14 → t.plans.admission = s.plans.admission)
      ∧ t.req.exec = some { e with phase := .ending }
      ∧ FinalPlaced
          { dst := e.source, src := s.link.ownNode, tag := e.tag, final := true
            body := .response
              { kind := e.kind, completion := .ended, reason := .badLength, field := 0
                result := if e.kind = 0x14 then .articlesLoaded r s.tables.articles.length else .remaining r } } s t)
  ∧ ∀ (f : RxFrame) (s : State), Directed 0x28 f s →
    (∀ e gap, s.req.exec = some e → e.phase = .loading gap → e.tag ≠ f.tag ∨ e.source ≠ f.src) →
    ∃ t, exec (.data f) s = .next t ∧ t.req.sup = fedTimer f.src s ∧ KeepsAllBut [.sup] s t

/-- DATA_GAP_EXPIRY completes when the wait of an open load is reached: the load ends ENDED, DATA_GAP, with the records
not stored, and its final RESPONSE is held behind slot and waiting place when it finds both full; otherwise the command
does nothing (log 9). -/
def Obligations.DataGapExpiryCompletes : Prop :=
  (∀ (s : State) (e : Exec) (gap : Timer) (n r : Nat), Running s → s.placesFull = false → s.req.exec = some e →
    e.kind = 0x14 ∨ e.kind = 0x19 → e.counts = some (n, r) → e.phase = .loading gap → passed s.link.time gap = true →
    ∃ t, exec .dataGapExpiry s = .next t ∧ KeepsAllBut [.portA, .exec, .admission] s t
      ∧ t.req.exec = some { e with phase := .ending }
      ∧ t.plans.admission = (if e.kind = 0x19 then none else s.plans.admission)
      ∧ PutOnA
          { dst := e.source, src := s.link.ownNode, tag := e.tag, final := true
            body := .response
              { kind := e.kind, completion := .ended, reason := .dataGap, field := 0
                result := if e.kind = 0x14 then .articlesLoaded r s.tables.articles.length else .remaining r } } s t)
    ∧ (∀ (s : State) (e : Exec) (gap : Timer) (n r : Nat), Running s → s.placesFull = true → s.req.exec = some e →
    e.kind = 0x14 ∨ e.kind = 0x19 → e.counts = some (n, r) → e.phase = .loading gap → passed s.link.time gap = true →
    ∃ t, exec .dataGapExpiry s = .next t ∧ KeepsAllBut [.portA, .exec, .admission] s t
      ∧ t.req.exec = some { e with phase := .ending }
      ∧ t.plans.admission = (if e.kind = 0x19 then none else s.plans.admission)
      ∧ t.link = s.link ∧ t.req.waiting = s.req.waiting
      ∧ t.req.heldFinal = some
          { dst := e.source, src := s.link.ownNode, tag := e.tag, final := true
            body := .response
              { kind := e.kind, completion := .ended, reason := .dataGap, field := 0
                result := if e.kind = 0x14 then .articlesLoaded r s.tables.articles.length else .remaining r } })
    ∧ ∀ s : State, Running s →
      (∀ e gap, s.req.exec = some e → e.phase = .loading gap → passed s.link.time gap = false) →
      exec .dataGapExpiry s = .next s

/-! ### Plans (chapter 4) -/

/-- WITHDRAW PLAN and SET GATE complete: NOT_FOUND for a plan not held, PLAN_BOUND for one not QUEUED, else the plan
removed; the gate as asked, and answered with it. -/
def Obligations.WithdrawPlanAndSetGateComplete : Prop :=
  (∀ (f : RxFrame) (s : State), TakenAt 0x1A 2 f s → u16At f.payload 0 ≠ 0 →
    let id : PlanId := BitVec.ofNat 16 (u16At f.payload 0)
    (s.plan id = none → ∃ t, exec (.withdrawPlan f) s = .next t ∧ AnsweredRefused 0x1A f .notFound 0 s t
      ∧ KeepsAllBut [.portA, .sup] s t)
    ∧ ∀ p, s.plan id = some p →
      (p.state ≠ .queued → ∃ t, exec (.withdrawPlan f) s = .next t ∧ AnsweredRefused 0x1A f .planBound 0 s t
        ∧ KeepsAllBut [.portA, .sup] s t)
      ∧ (p.state = .queued → ∃ t, exec (.withdrawPlan f) s = .next t ∧ AnsweredDone 0x1A f .empty s t
        ∧ t.plans.plans = s.plans.plans.filter (fun q => q.id != id) ∧ KeepsAllBut [.portA, .sup, .plans] s t))
    ∧ ∀ (f : RxFrame) (s : State), TakenAt 0x23 1 f s → u8At f.payload 0 ≤ 1 →
      ∃ t, exec (.setGate f) s = .next t ∧ t.engine.gate = (u8At f.payload 0 == 1)
        ∧ AnsweredDone 0x23 f (.gate (u8At f.payload 0 == 1)) s t ∧ KeepsAllBut [.portA, .sup, .gate] s t

/-- A station's turn in a binding attempt: an IDLE and ready station whose build is free takes, of the QUEUED plans of its
base kind with an open line, one that no other precedes by due and admission number; the build is bound on the base
entry with every cell at height 0 and owner DECK, the plan is BUILDING there, the station is BUILDING, and the flag of
every READY lane that lists a case is set.  There is such a
plan exactly when some QUEUED plan of the kind has an open line; without one, or at a station that is not IDLE or not
ready, or that the build store refuses, the turn changes nothing.  An attempt gives the stations their turns in number
order. -/
def Obligations.BindingTakesTheFirstPlan : Prop :=
  let suits := fun (s : State) (i : StationNo) (p : Plan) =>
    p ∈ s.plans.plans ∧ p.state = .queued ∧ p.baseKind = s.stations[i].baseKind ∧ ∃ l ∈ p.lines, l.planned < l.required
  (∀ (s : State) (i : StationNo) (p : Plan) (e : BaseEntry), RisingKeys Plan.key s.plans.plans →
    s.stations[i].state = .idle → s.stations[i].ready = true → s.builds[i].binding = none → s.builds[i].cases = [] →
    planFor s i = some p → s.tables.bases[s.stations[i].baseKind] = some e →
    (suits s i p ∧ ∀ q, suits s i q → ¬ (q.due < p.due ∨ q.due = p.due ∧ q.admission.toNat < p.admission.toNat))
    ∧ (offerPlan s i).stations[i] = { s.stations[i] with state := .building }
    ∧ (offerPlan s i).plan p.id = some { p with state := .building, bound := some i }
    ∧ (offerPlan s i).builds[i] =
        { s.builds[i] with
          binding := some
            { plan := p.id, part := p.part, baseKind := s.stations[i].baseKind, cols := e.cols, rows := e.rows
              heightLimit := e.heightLimit }
          heightMap := List.replicate (e.cols * e.rows) 0
          ownerMap := List.replicate (e.cols * e.rows) Owner.deck }
    ∧ OtherStations i s (offerPlan s i) ∧ OtherBuilds i s (offerPlan s i) ∧ FlagsRaised s (offerPlan s i)
    ∧ KeepsAllBut [.plans, .stations, .builds, .flags, .exec] s (offerPlan s i))
  ∧ (∀ (s : State) (i : StationNo), (∃ p, planFor s i = some p) ↔ ∃ p, suits s i p)
  ∧ (∀ (s : State) (i : StationNo),
    s.stations[i].state ≠ .idle ∨ s.stations[i].ready = false ∨ (¬ ∃ p, suits s i p) ∨ s.builds[i].binding ≠ none
      ∨ s.builds[i].cases ≠ [] ∨ s.tables.bases[s.stations[i].baseKind] = none →
    offerPlan s i = s)
  ∧ ∀ s : State, bindingAttempt s = ([0, 1, 2, 3, 4, 5, 6, 7] : List StationNo).foldl offerPlan s

/-- The counts of a held plan's line move one at a time and only within placed ≤ planned ≤ required: P + 1 below R, D + 1
below P, P − 1 above D, and both − 1 for a placed case that a discard removes; each otherwise changes nothing.  A P − 1
reopens a DRAINING plan as its next part, at most 15: QUEUED, or BUILDING at the station that the binding attempt gave it,
and all else is as that attempt leaves it.  A change that names a plan not held, or a line it has not, is dropped. -/
def Obligations.CountsMoveByOne : Prop :=
  (∀ (s : State) (id : PlanId) (j : Nat) (p : Plan) (l : PlanLine), s.plan id = some p → p.lines[j]? = some l →
    let less := fun (lines : List PlanLine) (t : State) =>
      if p.state = .draining then
        KeepsAllBut [.plans, .stations, .builds, .flags, .exec] s t
          ∧ ∃ st b, t.plan id = some { p with lines := lines, part := min 15 (p.part + 1), state := st, bound := b }
            ∧ (st = .queued ∧ b = p.bound ∨ st = .building ∧ b ≠ none)
            ∧ ∃ m : State, KeepsAllBut [.plans] s m ∧ (∀ other, other ≠ id → m.plan other = s.plan other)
                ∧ m.plan id = some { p with lines := lines, part := min 15 (p.part + 1), state := .queued }
                ∧ t = bindingAttempt m
      else KeepsAllBut [.plans] s t ∧ t.plan id = some { p with lines := lines }
    (l.planned < l.required →
      (planMore id j s).plan id = some { p with lines := p.lines.set j { l with planned := l.planned + 1 } }
        ∧ KeepsAllBut [.plans] s (planMore id j s))
    ∧ (l.planned = l.required → planMore id j s = s)
    ∧ (l.placed < l.planned → less (p.lines.set j { l with planned := l.planned - 1 }) (planLess (some id) j s))
    ∧ (l.placed = l.planned → planLess (some id) j s = s ∧ (placeMore (some id) j s).1 = s)
    ∧ (0 < l.placed →
        less (p.lines.set j { l with planned := l.planned - 1, placed := l.placed - 1 }) (revertPlaced (some id) j s))
    ∧ (l.placed = 0 → revertPlaced (some id) j s = s)
    ∧ (l.placed < l.planned →
        let lines := p.lines.set j { l with placed := l.placed + 1 }
        KeepsAllBut [.plans, .reports] s (placeMore (some id) j s).1 ∧
        if (∀ m ∈ lines, m.placed = m.required) then
          (placeMore (some id) j s).1.plan id = none
            ∧ (placeMore (some id) j s).2 = (if p.state = .building then p.bound else none)
            ∧ ReportsTaken [.planDone p.id p.part] s (placeMore (some id) j s).1
        else (placeMore (some id) j s).1.plan id = some { p with lines := lines } ∧ (placeMore (some id) j s).2 = none))
  ∧ ∀ (s : State) (id : PlanId) (j : Nat), (∀ p, s.plan id = some p → p.lines[j]? = none) →
    planMore id j s = s ∧ planLess (some id) j s = s ∧ revertPlaced (some id) j s = s
      ∧ placeMore (some id) j s = (s, none)

/-! ### Stations (chapter 7) -/

/-- SET STATION completes by the station's state and the mode asked for.  A ready station brought online leaves what the
binding attempt of the state with the station IDLE leaves. -/
def Obligations.SetStationCompletes : Prop :=
  ∀ (f : RxFrame) (s : State), TakenAt 0x1B 3 f s → badSetStation f.payload = none →
    let i := stationOf f.payload
    let st := s.stations[i]
    let kind : BaseKind := Fin.ofNat 4 (u8At f.payload 2)
    let refused := fun (r : Reason) => ∃ t, exec (.setStation f) s = .next t ∧ AnsweredRefused 0x1B f r 0 s t
      ∧ KeepsAllBut [.portA, .sup] s t
    let becomes := fun (new : Station) => ∃ t, exec (.setStation f) s = .next t
      ∧ AnsweredDone 0x1B f (.stationState new.state) s t ∧ t.stations[i] = new ∧ OtherStations i s t
      ∧ KeepsAllBut [.portA, .sup, .stations] s t
    (st.state = .offline → u8At f.payload 1 = 1 → s.tables.bases[kind] = none → refused .notFound)
    ∧ (st.state = .offline → u8At f.payload 1 = 1 → s.tables.bases[kind] ≠ none → st.ready = false →
        becomes { st with state := .idle, baseKind := kind })
    ∧ (st.state = .offline → u8At f.payload 1 = 1 → s.tables.bases[kind] ≠ none → st.ready = true →
        ∃ t, exec (.setStation f) s = .next t ∧ AnsweredDone 0x1B f (.stationState t.stations[i].state) s t
          ∧ (t.stations[i] = { st with state := .idle, baseKind := kind }
              ∨ t.stations[i] = { st with state := .building, baseKind := kind })
          ∧ KeepsAllBut [.portA, .sup, .stations, .plans, .builds, .flags] s t
          ∧ KeepsAllBut [.portA, .sup] (bindingAttempt
              { s with stations := s.stations.set i { st with state := .idle, baseKind := kind } }) t)
    ∧ (st.state = .offline → u8At f.payload 1 = 0 → becomes { st with baseKind := kind })
    ∧ (st.state = .idle → u8At f.payload 1 = 1 → st.baseKind = kind → becomes st)
    ∧ (st.state = .idle → u8At f.payload 1 = 1 → st.baseKind ≠ kind → refused .wrongState)
    ∧ (st.state = .idle → u8At f.payload 1 = 0 → becomes { st with state := .offline })
    ∧ (st.state ≠ .offline → st.state ≠ .idle → refused .wrongState)

/-- CLOSE STATION completes: WRONG_STATE outside BUILDING; else the plan BUILDING there leaves it, requeued as the next
part with an open line and DRAINING without, and the station enters CLOSING with reason REQUEST, or AWAIT_EXCHANGE with
EXCHANGE CALL and BUILD_CLOSED when it has no order and no case on its spur.  A split does the same with reason SPLIT,
and only to a BUILDING station with a plan BUILDING there.  A plan put back into the queue is offered in a binding attempt,
which decides plans, lane flags and the other stations.  That the RESPONSE goes to port A before the report of the same
event is the model's choice (log 8). -/
def Obligations.CloseStationCompletes : Prop :=
  ∀ (f : RxFrame) (s : State), TakenAt 0x1C 1 f s → badStation f.payload = none →
    let i := stationOf f.payload
    let st := s.stations[i]
    let b := s.builds[i]
    let closed := fun (r : CloseReason) (t : State) =>
      t.builds[i] = b
      ∧ (if st.orders = [] ∧ st.spur = [] then
           t.stations[i] = { st with close := some r, state := .awaitExchange }
           ∧ JoinedB [callFrame s i b] s t ∧ ReportsTaken [closedReport i b (some r)] s t
         else t.stations[i] = { st with close := some r, state := .closing } ∧ JoinedB [] s t ∧ t.reports = s.reports)
      ∧ ∀ p, s.planAt i = some p → ∃ q, t.plan p.id = some q ∧ q.lines = p.lines
          ∧ if (∃ l ∈ p.lines, l.planned < l.required) then
              q.part = min 15 (p.part + 1)
              ∧ (q.state = .queued ∧ q.bound = none ∨ q.state = .building ∧ ∃ j : StationNo, j ≠ i ∧ q.bound = some j)
              ∧ ∃ m : State, KeepsAllBut [.plans] s m ∧ (∀ id, id ≠ p.id → m.plan id = s.plan id)
                  ∧ m.plan p.id = some { p with part := min 15 (p.part + 1), state := .queued, bound := none }
                  ∧ t.plans = (bindingAttempt m).plans ∧ t.engine.flags = (bindingAttempt m).engine.flags
                  ∧ OtherStations i (bindingAttempt m) t ∧ OtherBuilds i (bindingAttempt m) t
            else q.part = p.part ∧ q.state = .draining ∧ q.bound = none
    (st.state ≠ .building → ∃ t, exec (.closeStation f) s = .next t ∧ AnsweredRefused 0x1C f .wrongState 0 s t
      ∧ KeepsAllBut [.portA, .sup] s t)
    ∧ (st.state = .building → RisingKeys Plan.key s.plans.plans →
      ∃ t, exec (.closeStation f) s = .next t ∧ AnsweredDone 0x1C f .empty s t
        ∧ KeepsAllBut [.portA, .portB, .sup, .plans, .stations, .builds, .flags, .reports] s t
        ∧ closed .request t)
    ∧ (st.state ≠ .building ∨ s.planAt i = none → split s i = s)
    ∧ (st.state = .building → s.planAt i ≠ none → RisingKeys Plan.key s.plans.plans →
      KeepsAllBut [.portB, .exec, .plans, .stations, .builds, .flags, .reports] s (split s i) ∧ closed .split (split s i))

/-- ACKNOWLEDGE FAULT completes: the refusals of R147; the return from an exchange timeout to AWAIT_EXCHANGE with EXCHANGE
CALL alone; keep, which leaves no UNKNOWN order and takes the station back to BUILDING, or to CLOSING when it has a close
reason; discard, which empties the build, marks the spur and takes the station to CLOSING with reason DISCARD.  The UNKNOWN order
is resolved first, with PLACED as DONE resolves it and with REMOVED as NO_CASE does; keep then asks a replan for each unmarked
case of the spur and raises the lane flags, or in CLOSING issues the REJECT orders and makes the closing test; discard takes
every case off the build and its counts back, queues BUILD_DISCARDED, closes the part, and closes likewise.
That the RESPONSE goes to port A before the reports of the same event is the model's choice (log 8). -/
def Obligations.AcknowledgeFaultCompletes : Prop :=
  ∀ (f : RxFrame) (s : State), TakenAt 0x1D 3 f s → badAcknowledge f.payload = none →
    let i := stationOf f.payload
    let st := s.stations[i]
    let b := s.builds[i]
    let hasUnknown := ∃ o ∈ st.orders, o.state = .unknown
    let refused := fun (r : Reason) (n : Nat) => ∃ t, exec (.acknowledgeFault f) s = .next t
      ∧ AnsweredRefused 0x1D f r n s t ∧ KeepsAllBut [.portA, .sup] s t
    let parts : List Part := [.portA, .portB, .sup, .plans, .tracks, .replans, .flags, .builds, .stations, .reports]
    (st.state ≠ .fault → refused .wrongState 0)
    ∧ (st.state = .fault → st.cause = .exchangeTimeout →
      ∃ t, exec (.acknowledgeFault f) s = .next t ∧ AnsweredDone 0x1D f (.stationState .awaitExchange) s t
        ∧ t.stations[i] = { st with cause := .none, state := .awaitExchange } ∧ OtherStations i s t
        ∧ OnB (ownFrameB s s.req.settings.transportNode
            (.exchangeCall i b.planId b.part b.cases.length b.totalWeight b.topHeight)) t
        ∧ KeepsAllBut [.portA, .portB, .sup, .stations] s t)
    ∧ (st.state = .fault → st.cause ≠ .exchangeTimeout → st.ready = false → refused .wrongState 0)
    ∧ (st.state = .fault → st.cause ≠ .exchangeTimeout → st.ready = true → hasUnknown → u8At f.payload 2 = 0 →
        refused .badField 3)
    ∧ (st.state = .fault → st.cause ≠ .exchangeTimeout → st.ready = true → (hasUnknown → u8At f.payload 2 ≠ 0) →
      StationsOk s → u8At f.payload 1 = 0 →
      ∃ t, exec (.acknowledgeFault f) s = .next t ∧ AnsweredDone 0x1D f (.stationState t.stations[i].state) s t
        ∧ KeepsAllBut parts s t ∧ t.stations[i].cause = .none ∧ (∀ o ∈ t.stations[i].orders, o.state ≠ .unknown)
        ∧ (t.stations[i].close = none → t.stations[i].state = .building)
        ∧ (t.stations[i].close ≠ none → t.stations[i].state = .closing ∨ t.stations[i].state = .awaitExchange)
        ∧ (¬ hasUnknown → t.stations[i].close = st.close ∧ t.builds[i] = b))
    ∧ (st.state = .fault → st.cause ≠ .exchangeTimeout → st.ready = true → (hasUnknown → u8At f.payload 2 ≠ 0) →
      u8At f.payload 1 = 1 →
      ∃ t, exec (.acknowledgeFault f) s = .next t ∧ AnsweredDone 0x1D f (.stationState t.stations[i].state) s t
        ∧ KeepsAllBut parts s t ∧ t.stations[i].cause = .none ∧ t.stations[i].close = some .discard
        ∧ (t.stations[i].state = .closing ∨ t.stations[i].state = .awaitExchange)
        ∧ t.builds[i].cases = [] ∧ ∀ e ∈ t.stations[i].spur, e.discard = true)
    ∧ (let disposition := u8At f.payload 2
      let r := resolution s i disposition
      let unknown := st.orders.find? fun o => o.state == .unknown
      st.state = .fault → st.cause ≠ .exchangeTimeout → st.ready = true → (hasUnknown → disposition ≠ 0) →
      CasesOk s → CountsOk s → BindingsOk s →
      (∀ o k c, unknown = some o → disposition = 1 → o.target = .place k → b.cases[k]? = some c →
        c.tracking = o.tracking ∧ c.status = .provisional) →
      ∃ t, exec (.acknowledgeFault f) s = .next t ∧ AnsweredDone 0x1D f (.stationState t.stations[i].state) s t
        ∧ KeepsAllBut parts s t ∧ OthersAfter i r.notice s t
        ∧ (∀ o e, unknown = some o → s.track o.tracking = some e → t.track o.tracking =
            if disposition = 1 then none
            else some
              { e with
                circuits := min 16 (e.circuits + 1)
                state := .circulating (after s.link.time s.req.settings.returnTimeout) })
        ∧ (u8At f.payload 1 = 0 → KeepGoesOn i r s t
          ∧ ∀ o, unknown = some o → disposition ≠ 1 → r.close ≠ none → CutFlags i [o] s t)
        ∧ (u8At f.payload 1 = 1 → DiscardGoesOn i r s t))

/-- ORDER REPLY completes where the reply is the expected one: TAKEN of the oldest ISSUED order starts the place timer;
DONE of a TAKEN PLACE order confirms the case, counts it placed, removes its entry and reports it, and DONE of a TAKEN
REJECT order reports the rejection; the order leaves, the next one's take timer starts, and a station in CLOSING issues
the REJECT orders its discard-marked cases wait for and, with nothing left, awaits its exchange.  A D + 1 that completes
the plan removes it with PLAN_DONE before CASE_PLACED, and the station at which it was BUILDING takes the completion
notice: from BUILDING to AWAIT_EXCHANGE with EXCHANGE CALL and BUILD_CLOSED, or to CLOSING while it holds a case; in FAULT
it keeps its state.  DONE of the UNKNOWN order of a station in FAULT does to the case what it does otherwise.  That an idle
port A chooses among all the reports of one event is the model's reading (log 8). -/
def Obligations.ExpectedOrderReplyCompletes : Prop :=
  ∀ (f : RxFrame) (s : State) (i : StationNo) (o : Order) (rest : List Order), FromPartner 0x52 f s →
    stationAt f.payload = some i → StationsOk s → s.stations[i].orders = o :: rest → o.seq = f.payload.getD 1 0 →
    o.seq ∉ s.stations[i].withdrawn →
    let st := s.stations[i]
    let b := s.builds[i]
    let out := replyOutcome (u8At f.payload 2) (u8At f.payload 3)
    let next := if rest = [] then none else some (after s.link.time s.req.settings.takeTimeout)
    let timed := fun (t : State) => t.stations[i].placeExpiry = none
      ∧ t.stations[i].takeExpiry =
          if t.stations[i].orders = [] then none else some (after s.link.time s.req.settings.takeTimeout)
    let untracked := fun (t : State) => t.tracker.tracks = s.tracker.tracks.filter (fun e => e.tracking != o.tracking)
    let code := (s.track o.tracking).bind fun e => e.snap.map (·.code)
    (st.works = true →
    (o.state = .issued → out = some .taken →
      ∃ t, exec (.orderReply f) s = .next t ∧ t.req.sup = fedTimer f.src s ∧ KeepsAllBut [.sup, .stations] s t
        ∧ OtherStations i s t
        ∧ t.stations[i] =
            { st with
              orders := { o with state := .taken } :: rest
              takeExpiry := none
              placeExpiry := some (after s.link.time s.req.settings.placeTimeout) })
    ∧ (∀ (r : RejectReason), o.state = .taken → out = some .done → o.target = .reject r → st.state = .building →
      ∃ t, exec (.orderReply f) s = .next t ∧ t.req.sup = fedTimer f.src s
        ∧ KeepsAllBut [.portA, .sup, .tracks, .stations, .reports] s t ∧ OtherStations i s t
        ∧ t.stations[i] = { st with orders := rest, placeExpiry := none, takeExpiry := next }
        ∧ untracked t ∧ Reported (.caseRejected o.tracking code r) s t)
    ∧ (∀ (r : RejectReason), o.state = .taken → out = some .done → o.target = .reject r → st.state = .closing →
      rest = [] → st.spur = [] →
      ∃ t, exec (.orderReply f) s = .next t
        ∧ t.stations[i] = { st with orders := [], placeExpiry := none, takeExpiry := none, state := .awaitExchange }
        ∧ OnB (ownFrameB s s.req.settings.transportNode
            (.exchangeCall i b.planId b.part b.cases.length b.totalWeight b.topHeight)) t)
    ∧ (∀ (r : RejectReason), o.state = .taken → out = some .done → o.target = .reject r → st.state = .closing →
      CasesOk s →
      ∃ t, exec (.orderReply f) s = .next t ∧ t.req.sup = fedTimer f.src s
        ∧ KeepsAllBut [.portA, .portB, .exec, .sup, .tracks, .stations, .reports] s t ∧ OtherStations i s t
        ∧ ClosingGoesOn ReportedAll i rest st.spur b [] [.caseRejected o.tracking code r] s t ∧ timed t
        ∧ t.track o.tracking = none))
    ∧ (∀ (r : RejectReason), o.state = .unknown → st.state = .fault → out = some .done → o.target = .reject r →
      ∃ t, exec (.orderReply f) s = .next t ∧ t.req.sup = fedTimer f.src s
        ∧ KeepsAllBut [.portA, .sup, .tracks, .stations, .reports] s t ∧ OtherStations i s t
        ∧ t.stations[i] = { st with orders := rest.filter fun x => x.seq != o.seq }
        ∧ untracked t ∧ Reported (.caseRejected o.tracking code r) s t)
    ∧ ∀ (k : Nat) (c : CaseRec), out = some .done → o.target = .place k → b.cases[k]? = some c →
      c.tracking = o.tracking → c.status = .provisional →
      let placed : ReportBody := .casePlaced o.tracking c.code i b.planId b.part c.line k
      let confirmed : Build := { b with cases := b.cases.set k { c with status := .confirmed } }
      (o.state = .taken → st.works = true → b.planId.bind s.plan = none →
        ∃ t, exec (.orderReply f) s = .next t ∧ t.plans.plans = s.plans.plans ∧ t.builds[i] = confirmed
          ∧ t.track o.tracking = none)
      ∧ ∀ (id : PlanId) (p : Plan) (l : PlanLine), b.planId = some id → s.plan id = some p →
        p.lines[c.line]? = some l → l.placed < l.planned →
        let lines := p.lines.set c.line { l with placed := l.placed + 1 }
        let completes := ∀ m ∈ lines, m.placed = m.required
        let counted := fun (t : State) =>
          t.plan id = if completes then none else some { p with lines := lines }
        let told : List ReportBody := if completes then [.planDone p.id p.part, placed] else [placed]
        (o.state = .taken → st.state = .building → ¬ completes →
          ∃ t, exec (.orderReply f) s = .next t ∧ t.req.sup = fedTimer f.src s
            ∧ KeepsAllBut [.portA, .sup, .plans, .tracks, .builds, .stations, .reports] s t
            ∧ OtherStations i s t ∧ OtherBuilds i s t
            ∧ t.stations[i] = { st with orders := rest, placeExpiry := none, takeExpiry := next }
            ∧ t.builds[i] = confirmed ∧ counted t ∧ untracked t ∧ Reported placed s t)
        ∧ (o.state = .taken → st.state = .building → completes → p.state = .building → p.bound = some i →
          let leaves := rest = [] ∧ st.spur = []
          ∃ t, exec (.orderReply f) s = .next t ∧ t.req.sup = fedTimer f.src s
            ∧ KeepsAllBut [.portA, .portB, .exec, .sup, .plans, .tracks, .builds, .stations, .reports] s t
            ∧ OtherStations i s t ∧ OtherBuilds i s t
            ∧ t.stations[i] =
                { st with
                  orders := rest, placeExpiry := none, takeExpiry := next, close := some .complete
                  state := if leaves then .awaitExchange else .closing }
            ∧ t.builds[i] = confirmed ∧ counted t ∧ untracked t
            ∧ JoinedB (if leaves then [callFrame s i b] else []) s t
            ∧ ReportedAll (told ++ if leaves then [closedReport i b (some .complete)] else []) s t)
        ∧ (o.state = .taken → st.state = .closing → (completes → p.state ≠ .building) → CasesOk s →
          ∃ t, exec (.orderReply f) s = .next t ∧ t.req.sup = fedTimer f.src s
            ∧ KeepsAllBut [.portA, .portB, .exec, .sup, .plans, .tracks, .builds, .stations, .reports] s t
            ∧ OtherStations i s t ∧ OtherBuilds i s t
            ∧ t.builds[i] = confirmed ∧ counted t ∧ t.track o.tracking = none
            ∧ ClosingGoesOn ReportedAll i rest st.spur b [] told s t ∧ timed t)
        ∧ (∀ j : StationNo, o.state = .taken → st.works = true → completes → p.state = .building → p.bound = some j →
          j ≠ i →
          ∃ t, exec (.orderReply f) s = .next t ∧ counted t
            ∧ t.stations[j] = (match s.stations[j].state with
                | .building =>
                  { s.stations[j] with
                    close := some .complete
                    state := if s.stations[j].orders = [] ∧ s.stations[j].spur = [] then .awaitExchange else .closing }
                | .fault => { s.stations[j] with close := some .complete }
                | _ => s.stations[j]))
        ∧ (o.state = .unknown → st.state = .fault → (completes → p.state = .building → p.bound = some i) →
          ∃ t, exec (.orderReply f) s = .next t ∧ t.req.sup = fedTimer f.src s
            ∧ KeepsAllBut [.portA, .sup, .plans, .tracks, .builds, .stations, .reports] s t
            ∧ OtherStations i s t ∧ OtherBuilds i s t
            ∧ t.stations[i] =
                { st with
                  orders := rest.filter (fun x => x.seq != o.seq)
                  close := if completes ∧ p.state = .building then some .complete else st.close }
            ∧ t.builds[i] = confirmed ∧ counted t ∧ untracked t ∧ ReportedAll told s t)

/-- ORDER REPLY completes where an order fails: DROPPED and NO_CASE cut the queue back to nothing, return the later cases
to the spur and ask a replan for each that is not discard-marked, withdraw their sequences, truncate the build at the
first case cut, with the lane flags, and take P − 1 for each; the case is then lost, or CIRCULATING with one circuit more;
a station in CLOSING goes on closing.
BLOCKED does the same with the case itself first on the spur, asks no replan, and puts the station into FAULT with its
replans removed.  WITHDRAW frames name each run of consecutive sequences, in order.  That an idle port A chooses among all
the reports of one event is the model's reading (log 8).  In CLOSING it is the model's choice that the case is settled before
the closing test, so that CASE_LOST comes before BUILD_CLOSED (log 24), and that the discard-marked cases get their REJECT
orders in the order of the spur list, those that waited on it before the ones that joined (log 27). -/
def Obligations.FailedOrderReplyCompletes : Prop :=
  (∀ (f : RxFrame) (s : State) (i : StationNo) (o : Order) (later : List Order), FromPartner 0x52 f s →
    stationAt f.payload = some i → s.stations[i].orders = o :: later → o.seq = f.payload.getD 1 0 →
    o.seq ∉ s.stations[i].withdrawn →
    let st := s.stations[i]
    let out := replyOutcome (u8At f.payload 2) (u8At f.payload 3)
    let parts : List Part :=
      [.portA, .portB, .exec, .sup, .plans, .tracks, .replans, .flags, .builds, .stations, .reports]
    let frames := withdrawFrames s i (later.map (·.seq))
    let lost : ReportBody := .caseLost o.tracking ((s.track o.tracking).bind fun e => e.snap.map (·.code)) i
    let missed := fun (t : State) => ∀ e, s.track o.tracking = some e → t.track o.tracking = some
      { e with
        circuits := min 16 (e.circuits + 1)
        state := .circulating (after s.link.time s.req.settings.returnTimeout) }
    let cut := fun (t : State) =>
      t.stations[i].state = .building ∧ t.stations[i].orders = [] ∧ t.stations[i].takeExpiry = none
      ∧ t.stations[i].placeExpiry = none ∧ t.stations[i].close = st.close
      ∧ t.stations[i].spur = st.spur ++ spurOf later
      ∧ t.stations[i].withdrawn = (if later = [] then st.withdrawn else later.map (·.seq))
      ∧ Cascaded i o later s t ∧ JoinedB frames s t
    let closes := fun (reports : List ReportBody) (t : State) =>
      ClosingGoesOn ReportedAll i [] (st.spur ++ spurOf later) (cutBuild s i (o :: later)) frames reports s t
      ∧ t.stations[i].placeExpiry = none
      ∧ t.stations[i].takeExpiry =
          (if t.stations[i].orders = [] then none else some (after s.link.time s.req.settings.takeTimeout))
      ∧ Cascaded i o later s t
    (o.state = .taken → out = some .dropped → st.state = .building →
      ∃ t, exec (.orderReply f) s = .next t ∧ t.req.sup = fedTimer f.src s ∧ KeepsAllBut parts s t ∧ cut t
        ∧ t.track o.tracking = none ∧ Reported lost s t)
    ∧ (o.state = .issued → out = some .noCase → st.state = .building →
      ∃ t, exec (.orderReply f) s = .next t ∧ t.req.sup = fedTimer f.src s ∧ KeepsAllBut parts s t ∧ cut t
        ∧ missed t ∧ t.reports = s.reports)
    ∧ (o.state = .taken → out = some .dropped → st.state = .closing → CasesOk s →
      ∃ t, exec (.orderReply f) s = .next t ∧ t.req.sup = fedTimer f.src s ∧ KeepsAllBut parts s t ∧ closes [lost] t
        ∧ t.track o.tracking = none)
    ∧ (o.state = .issued → out = some .noCase → st.state = .closing → CasesOk s →
      ∃ t, exec (.orderReply f) s = .next t ∧ t.req.sup = fedTimer f.src s ∧ KeepsAllBut parts s t ∧ closes [] t
        ∧ missed t)
    ∧ (o.state = .taken → out = some .blocked → st.works = true →
      ∃ t, exec (.orderReply f) s = .next t ∧ t.req.sup = fedTimer f.src s
        ∧ KeepsAllBut (.job :: parts) s t
        ∧ t.stations[i].state = .fault ∧ t.stations[i].cause = .blocked ∧ t.stations[i].orders = []
        ∧ t.stations[i].takeExpiry = none ∧ t.stations[i].placeExpiry = none ∧ t.stations[i].close = st.close
        ∧ t.stations[i].spur = st.spur ++ spurOf (o :: later)
        ∧ t.stations[i].withdrawn = (if later = [] then st.withdrawn else later.map (·.seq))
        ∧ Unplaced i (o :: later) s t ∧ CutFlags i (o :: later) s t
        ∧ (CasesOk s → ∀ x ∈ o :: later, (t.track x.tracking).map (·.state) = some (.spurHeld i))
        ∧ t.engine.replans ++ t.engine.waiting =
            (s.engine.replans ++ s.engine.waiting).filter (fun r => r.station != i)
        ∧ t.engine.job = s.engine.job.map (fun j =>
            match j.work with
            | .replan r => if r.station = i then { j with cancelled := true } else j
            | .arrival _ | .laneHead _ _ => j)
        ∧ JoinedB frames s t ∧ Reported (.stationFault i .blocked st.state none) s t))
  ∧ ∀ seqs : List OrderSeq,
    (seqRuns seqs).flatMap (fun r => (List.range r.2).map fun n => r.1 + BitVec.ofNat 8 n) = seqs
    ∧ (∀ r ∈ seqRuns seqs, 1 ≤ r.2)
    ∧ ∀ before r r' later, seqRuns seqs = before ++ r :: r' :: later → r'.1 ≠ r.1 + BitVec.ofNat 8 r.2

/-- Every other ORDER REPLY: one in the withdrawn range, of no outcome the manual lists, for a station without orders to
reply to, or in FAULT for no UNKNOWN order changes nothing but the supervision timer; in BUILDING or CLOSING one that
fits no rule puts the station into FAULT with cause SEQUENCE; in FAULT one that names an UNKNOWN order ends it, and the
station stays in FAULT.  Such an order, if it was a PLACE order, leaves the build with P − 1, and its case is lost (DROPPED),
on the loop with one circuit more (NO_CASE), or at the head of the spur list (BLOCKED); DONE is said with the expected
replies. -/
def Obligations.UnexpectedOrderReply : Prop :=
  ∀ (f : RxFrame) (s : State) (i : StationNo), FromPartner 0x52 f s → stationAt f.payload = some i →
    let st := s.stations[i]
    let q := f.payload.getD 1 0
    let out := replyOutcome (u8At f.payload 2) (u8At f.payload 3)
    let unknown := ∃ o ∈ st.orders, o.state = .unknown ∧ o.seq = q
    let expected := ∃ o, st.orders.head? = some o ∧ o.seq = q
      ∧ (o.state = .issued ∧ (out = some .taken ∨ out = some .noCase)
          ∨ o.state = .taken ∧ (out = some .done ∨ out = some .dropped ∨ out = some .blocked))
    (q ∈ st.withdrawn ∨ out = none ∨ st.state = .offline ∨ st.state = .idle ∨ st.state = .awaitExchange
        ∨ st.state = .exchanging ∨ st.state = .fault ∧ (¬ unknown ∨ out = some .taken) →
      ∃ t, exec (.orderReply f) s = .next t ∧ t.req.sup = fedTimer f.src s ∧ KeepsAllBut [.sup] s t)
    ∧ (q ∉ st.withdrawn → out ≠ none → st.state = .building ∨ st.state = .closing → ¬ expected →
      ∃ t, exec (.orderReply f) s = .next t ∧ t.req.sup = fedTimer f.src s ∧ KeepsAllBut (.sup :: faultParts) s t
        ∧ FaultEntered i .sequence s t)
    ∧ (q ∉ st.withdrawn → st.state = .fault → unknown → out ≠ none → out ≠ some .taken →
      ∃ t, exec (.orderReply f) s = .next t ∧ t.req.sup = fedTimer f.src s ∧ t.stations[i].state = .fault
        ∧ t.stations[i].cause = st.cause ∧ t.stations[i].orders = st.orders.filter (fun o => o.seq != q))
    ∧ ∀ o : Order, q ∉ st.withdrawn → st.state = .fault →
      st.orders.find? (fun o => o.state == .unknown && o.seq == q) = some o →
      let left := st.orders.filter (fun o => o.seq != q)
      let parts : List Part := [.exec, .sup, .plans, .tracks, .flags, .builds, .stations]
      let unplaced := fun (t : State) => Unplaced i [o] s t ∧ CutFlags i [o] s t
      (out = some .dropped →
        ∃ t, exec (.orderReply f) s = .next t ∧ t.req.sup = fedTimer f.src s
          ∧ KeepsAllBut (.portA :: .reports :: parts) s t ∧ t.stations[i] = { st with orders := left } ∧ unplaced t
          ∧ t.tracker.tracks = s.tracker.tracks.filter (fun e => e.tracking != o.tracking)
          ∧ Reported (.caseLost o.tracking ((s.track o.tracking).bind fun e => e.snap.map (·.code)) i) s t)
      ∧ (out = some .noCase →
        ∃ t, exec (.orderReply f) s = .next t ∧ t.req.sup = fedTimer f.src s
          ∧ KeepsAllBut parts s t ∧ t.stations[i] = { st with orders := left } ∧ unplaced t
          ∧ ∀ e, s.track o.tracking = some e → t.track o.tracking = some
              { e with
                circuits := min 16 (e.circuits + 1)
                state := .circulating (after s.link.time s.req.settings.returnTimeout) })
      ∧ (out = some .blocked →
        ∃ t, exec (.orderReply f) s = .next t ∧ t.req.sup = fedTimer f.src s
          ∧ KeepsAllBut parts s t ∧ unplaced t
          ∧ t.stations[i] =
              { st with
                orders := left
                spur := { tracking := o.tracking, discard := decide (o.target = .reject .discard) } :: st.spur }
          ∧ ∀ e, s.track o.tracking = some e → t.track o.tracking = some { e with state := .spurHeld i })

/-- READY CHANGE completes: a repeated value and a value above 1 change nothing; a rise sets the flag and at an IDLE
station makes a binding attempt, which leaves what the attempt of the state with the flag set leaves; a fall clears it, and
in BUILDING or CLOSING puts the station into FAULT with cause NOT_READY.  That a rise in BUILDING or CLOSING, which no run
reaches, sets the flag and no more is the model's reading (log 19). -/
def Obligations.ReadyChangeCompletes : Prop :=
  ∀ (f : RxFrame) (s : State) (i : StationNo), FromPartner 0x53 f s → stationAt f.payload = some i →
    let st := s.stations[i]
    let v := u8At f.payload 1
    (1 < v ∨ v = 1 ∧ st.ready = true ∨ v = 0 ∧ st.ready = false →
      ∃ t, exec (.readyChange f) s = .next t ∧ t.req.sup = fedTimer f.src s ∧ KeepsAllBut [.sup] s t)
    ∧ (v = 1 → st.ready = false → st.state ≠ .idle →
      ∃ t, exec (.readyChange f) s = .next t ∧ t.req.sup = fedTimer f.src s ∧ KeepsAllBut [.sup, .stations] s t
        ∧ t.stations[i] = { st with ready := true } ∧ OtherStations i s t)
    ∧ (v = 1 → st.ready = false → st.state = .idle →
      ∃ t, exec (.readyChange f) s = .next t ∧ t.req.sup = fedTimer f.src s
        ∧ KeepsAllBut [.sup, .stations, .plans, .builds, .flags, .exec] s t
        ∧ (t.stations[i] = { st with ready := true } ∨ t.stations[i] = { st with ready := true, state := .building })
        ∧ KeepsAllBut [.sup] (bindingAttempt { s with stations := s.stations.set i { st with ready := true } }) t)
    ∧ (v = 0 → st.ready = true → st.state ≠ .building → st.state ≠ .closing →
      ∃ t, exec (.readyChange f) s = .next t ∧ t.req.sup = fedTimer f.src s ∧ KeepsAllBut [.sup, .stations] s t
        ∧ t.stations[i] = { st with ready := false } ∧ OtherStations i s t)
    ∧ (v = 0 → st.ready = true → st.state = .building ∨ st.state = .closing →
      ∃ t, exec (.readyChange f) s = .next t ∧ t.req.sup = fedTimer f.src s ∧ KeepsAllBut (.sup :: faultParts) s t
        ∧ t.stations[i].ready = false ∧ FaultEntered i .notReady s t)

/-- EXCHANGE START and EXCHANGE DONE complete: in AWAIT_EXCHANGE the first starts the exchange with its timer; in
EXCHANGING, and in FAULT with cause EXCHANGE_TIMEOUT, the second clears the build, counts its revision and makes the
station IDLE, and when it is ready leaves what the binding attempt of the state with the station IDLE and its build cleared
leaves; elsewhere they change nothing. -/
def Obligations.ExchangesComplete : Prop :=
  (∀ (f : RxFrame) (s : State) (i : StationNo), FromPartner 0x70 f s → stationAt f.payload = some i →
    let st := s.stations[i]
    (st.state = .awaitExchange →
      ∃ t, exec (.exchangeStart f) s = .next t ∧ t.req.sup = fedTimer f.src s ∧ KeepsAllBut [.sup, .stations, .exec] s t
        ∧ OtherStations i s t
        ∧ t.stations[i] =
            { st with
              state := .exchanging
              exchangeExpiry := some (after s.link.time s.req.settings.exchangeTimeout) })
    ∧ (st.state ≠ .awaitExchange →
      ∃ t, exec (.exchangeStart f) s = .next t ∧ t.req.sup = fedTimer f.src s ∧ KeepsAllBut [.sup] s t))
  ∧ (∀ (f : RxFrame) (s : State) (i : StationNo), FromPartner 0x71 f s → stationAt f.payload = some i →
    let st := s.stations[i]
    let taken := st.state = .exchanging ∨ st.state = .fault ∧ st.cause = .exchangeTimeout
    let idle := { st with state := .idle, exchangeExpiry := none, close := none, cause := .none }
    let cleared : Build :=
      { binding := none, cases := [], heightMap := [], ownerMap := [], totalWeight := 0, momentX := 0, momentY := 0
        deckLoad := 0, topHeight := 0, revision := s.builds[i].revision + 1 }
    (taken → ∃ t, exec (.exchangeDone f) s = .next t ∧ t.req.sup = fedTimer f.src s
        ∧ KeepsAllBut [.portA, .sup, .exec, .plans, .flags, .builds, .stations, .reports] s t
        ∧ Reported (.stationIdle i) s t
        ∧ t.builds[i].cases = [] ∧ t.builds[i].revision = s.builds[i].revision + 1
        ∧ (st.ready = false → t.stations[i] = idle ∧ t.builds[i] = cleared ∧ OtherStations i s t
            ∧ OtherBuilds i s t ∧ KeepsAllBut [.portA, .sup, .exec, .builds, .stations, .reports] s t)
        ∧ (st.ready = true → (t.stations[i] = idle ∨ t.stations[i] = { idle with state := .building })
            ∧ KeepsAllBut [.portA, .sup, .exec, .reports] (bindingAttempt
                { s with stations := s.stations.set i idle, builds := s.builds.set i cleared }) t))
    ∧ (¬ taken → ∃ t, exec (.exchangeDone f) s = .next t ∧ t.req.sup = fedTimer f.src s ∧ KeepsAllBut [.sup] s t))
  ∧ ∀ (f : RxFrame) (s : State), stationAt f.payload = none →
    (FromPartner 0x70 f s → ∃ t, exec (.exchangeStart f) s = .next t ∧ t.req.sup = fedTimer f.src s
      ∧ KeepsAllBut [.sup] s t)
    ∧ (FromPartner 0x71 f s → ∃ t, exec (.exchangeDone f) s = .next t ∧ t.req.sup = fedTimer f.src s
      ∧ KeepsAllBut [.sup] s t)

/-- The station timers: an expiry that has passed puts the station into FAULT with the timer's cause; a timer that does
not run, or has not passed, changes nothing (log 9). -/
def Obligations.StationTimersComplete : Prop :=
  ∀ (s : State) (i : StationNo), Running s →
    let st := s.stations[i]
    (∀ e, st.works = true → st.takeExpiry = some e → passed s.link.time e = true →
      ∃ t, exec (.takeTimerExpiry i) s = .next t ∧ KeepsAllBut faultParts s t ∧ FaultEntered i .takeTimeout s t)
    ∧ (∀ e, st.works = true → st.placeExpiry = some e → passed s.link.time e = true →
      ∃ t, exec (.placeTimerExpiry i) s = .next t ∧ KeepsAllBut faultParts s t ∧ FaultEntered i .placeTimeout s t)
    ∧ (∀ e, st.state = .exchanging → st.exchangeExpiry = some e → passed s.link.time e = true →
      ∃ t, exec (.exchangeTimerExpiry i) s = .next t ∧ KeepsAllBut [.portA, .exec, .stations, .reports] s t
        ∧ t.stations[i] = { st with state := .fault, cause := .exchangeTimeout, exchangeExpiry := none }
        ∧ OtherStations i s t ∧ Reported (.stationFault i .exchangeTimeout .exchanging none) s t)
    ∧ ((∀ e, st.takeExpiry = some e → passed s.link.time e = false) → exec (.takeTimerExpiry i) s = .next s)
    ∧ ((∀ e, st.placeExpiry = some e → passed s.link.time e = false) → exec (.placeTimerExpiry i) s = .next s)
    ∧ ((∀ e, st.exchangeExpiry = some e → passed s.link.time e = false) →
        exec (.exchangeTimerExpiry i) s = .next s)

/-! ### Lanes (chapter 6) -/

/-- FLUSH LANE completes: WRONG_STATE in FLUSHING; else LANE FLUSH is sent, the lane is empty and FLUSHING with no release
in flight, its flag clear, and every listed case that is tracked is RETURNING with a new deadline. -/
def Obligations.FlushLaneCompletes : Prop :=
  ∀ (f : RxFrame) (s : State), TakenAt 0x1E 1 f s → badLane f.payload = none →
    let k := laneOf f.payload
    let l := s.lanes[k]
    (l.state = .flushing → ∃ t, exec (.flushLane f) s = .next t ∧ AnsweredRefused 0x1E f .wrongState 0 s t
      ∧ KeepsAllBut [.portA, .sup] s t)
    ∧ (l.state ≠ .flushing → ∃ t, exec (.flushLane f) s = .next t ∧ AnsweredDone 0x1E f (.flushed l.list.length) s t
      ∧ KeepsAllBut [.portA, .portB, .sup, .tracks, .flags, .lanes] s t ∧ OtherLanes k s t
      ∧ t.lanes[k] = { state := .flushing, cause := .none, list := [], inFlight := none, expiry := none }
      ∧ t.flag k = false ∧ (∀ j : LaneNo, j ≠ k → t.flag j = s.flag j)
      ∧ OnB (ownFrameB s s.req.settings.laneNode (.laneFlush k)) t
      ∧ ∀ u : Tracking, t.track u =
          if u ∈ l.list then (s.track u).map (fun e =>
            { e with state := .returning (after s.link.time s.req.settings.returnTimeout) })
          else s.track u)

/-- The lane frames complete: LANE ENTERED of the oldest unconfirmed case confirms it, LANE RELEASED of the case in flight
at the head lets it go, LANE FLUSHED ends a flush; a wrong case puts a READY lane into FAULT; elsewhere they change
nothing. -/
def Obligations.LaneFramesComplete : Prop :=
  (∀ (f : RxFrame) (s : State) (k : LaneNo), FromPartner 0x62 f s → laneAt f.payload = some k →
    let u : Tracking := BitVec.ofNat 32 (u32At f.payload 1)
    (s.lanes[k].state ≠ .flushing → s.oldestUnconfirmed k = some u →
      ∃ t, exec (.laneEntered f) s = .next t ∧ t.req.sup = fedTimer f.src s ∧ KeepsAllBut [.sup, .tracks, .flags] s t
        ∧ t.track u = (s.track u).map (fun e => { e with state := .held k })
        ∧ (∀ v : Tracking, v ≠ u → t.track v = s.track v)
        ∧ (t.flag k = true ↔ s.flag k = true ∨ s.lanes[k].state = .ready ∧ s.lanes[k].list.head? = some u)
        ∧ ∀ j : LaneNo, j ≠ k → t.flag j = s.flag j)
    ∧ (s.lanes[k].state = .ready → s.oldestUnconfirmed k ≠ some u →
      ∃ t, exec (.laneEntered f) s = .next t ∧ t.req.sup = fedTimer f.src s
        ∧ KeepsAllBut [.portA, .sup, .flags, .lanes, .reports] s t ∧ OtherLanes k s t
        ∧ t.lanes[k].list = s.lanes[k].list ∧ LaneFaulted k .entryMismatch s t)
    ∧ (s.lanes[k].state = .flushing ∨ s.lanes[k].state = .fault ∧ s.oldestUnconfirmed k ≠ some u →
      ∃ t, exec (.laneEntered f) s = .next t ∧ t.req.sup = fedTimer f.src s ∧ KeepsAllBut [.sup] s t))
  ∧ (∀ (f : RxFrame) (s : State) (k : LaneNo), FromPartner 0x63 f s → laneAt f.payload = some k →
    let u : Tracking := BitVec.ofNat 32 (u32At f.payload 1)
    let l := s.lanes[k]
    let fits := l.inFlight = some u ∧ l.list.head? = some u
    (l.state ≠ .flushing → fits →
      ∃ t, exec (.laneReleased f) s = .next t ∧ t.req.sup = fedTimer f.src s
        ∧ KeepsAllBut [.portA, .sup, .tracks, .flags, .lanes, .reports] s t ∧ OtherLanes k s t
        ∧ t.lanes[k] = { l with list := l.list.tail, inFlight := none, expiry := none }
        ∧ t.track u = (s.track u).map (fun e =>
            { e with
              circuits := min 16 (e.circuits + 1)
              state := .returning (after s.link.time s.req.settings.returnTimeout) })
        ∧ (t.flag k = true ↔ s.flag k = true ∨ l.state = .ready ∧ l.list.tail ≠ [])
        ∧ Reported (.caseReleased u k) s t)
    ∧ (l.state = .ready → ¬ fits →
      ∃ t, exec (.laneReleased f) s = .next t ∧ t.req.sup = fedTimer f.src s
        ∧ KeepsAllBut [.portA, .sup, .flags, .lanes, .reports] s t ∧ OtherLanes k s t
        ∧ t.lanes[k].list = l.list ∧ LaneFaulted k .releaseMismatch s t)
    ∧ (l.state = .flushing ∨ l.state = .fault ∧ ¬ fits →
      ∃ t, exec (.laneReleased f) s = .next t ∧ t.req.sup = fedTimer f.src s ∧ KeepsAllBut [.sup] s t))
  ∧ (∀ (f : RxFrame) (s : State) (k : LaneNo), FromPartner 0x64 f s → laneAt f.payload = some k →
    (s.lanes[k].state = .flushing →
      ∃ t, exec (.laneFlushed f) s = .next t ∧ t.req.sup = fedTimer f.src s ∧ KeepsAllBut [.sup, .lanes] s t
        ∧ OtherLanes k s t ∧ t.lanes[k] = { s.lanes[k] with state := .ready })
    ∧ (s.lanes[k].state ≠ .flushing →
      ∃ t, exec (.laneFlushed f) s = .next t ∧ t.req.sup = fedTimer f.src s ∧ KeepsAllBut [.sup] s t))
  ∧ ∀ (c : Instr) (k : Byte) (f : RxFrame) (s : State), FromPartner k f s → frameOf c = some (k, f) →
    k = 0x62 ∨ k = 0x63 ∨ k = 0x64 → laneAt f.payload = none →
    ∃ t, exec c s = .next t ∧ t.req.sup = fedTimer f.src s ∧ KeepsAllBut [.sup] s t

/-- RELEASE_TIMER_EXPIRY and RETURN_DEADLINE complete: a passed release timer stops, the release stays in flight, and a
READY lane enters FAULT; a passed return deadline removes the entry and reports the case missing; otherwise they change
nothing (log 9). -/
def Obligations.CaseTimersComplete : Prop :=
  (∀ (s : State) (k : LaneNo), Running s →
    (∀ e, s.lanes[k].expiry = some e → passed s.link.time e = true →
      ∃ t, exec (.releaseTimerExpiry k) s = .next t ∧ KeepsAllBut [.portA, .flags, .lanes, .reports] s t
        ∧ OtherLanes k s t ∧ t.lanes[k].expiry = none ∧ t.lanes[k].inFlight = s.lanes[k].inFlight
        ∧ t.lanes[k].list = s.lanes[k].list
        ∧ (s.lanes[k].state = .ready → LaneFaulted k .releaseTimeout s t)
        ∧ (s.lanes[k].state ≠ .ready →
            t.lanes[k].state = s.lanes[k].state ∧ KeepsAllBut [.lanes] s t))
    ∧ ((∀ e, s.lanes[k].expiry = some e → passed s.link.time e = false) →
        exec (.releaseTimerExpiry k) s = .next s))
  ∧ ∀ (s : State) (u : Tracking), Running s →
    (∀ e d, s.track u = some e → e.state = .circulating d ∨ e.state = .returning d → passed s.link.time d = true →
      ∃ t, exec (.returnDeadline u) s = .next t ∧ KeepsAllBut [.portA, .tracks, .reports] s t
        ∧ t.tracker.tracks = s.tracker.tracks.filter (fun x => x.tracking != u)
        ∧ Reported (.caseMissing u (e.snap.map (·.code))) s t)
    ∧ ((∀ e d, s.track u = some e → e.state = .circulating d ∨ e.state = .returning d →
          passed s.link.time d = false) → exec (.returnDeadline u) s = .next s)

/-! ### Cases and decisions (chapter 5) -/

/-- ARRIVAL completes: it joins the tail of the arrival queue, unless its tracking number is 0 or the queue is full. -/
def Obligations.ArrivalCompletes : Prop :=
  ∀ (f : RxFrame) (s : State), FromPartner 0x40 f s →
    let a := arrivalOf f.payload
    ∃ t, exec (.arrival f) s = .next t ∧ t.req.sup = fedTimer f.src s ∧ KeepsAllBut [.sup, .arrivals] s t
      ∧ t.tracker.arrivals =
          if a.tracking = 0 ∨ 16 ≤ s.tracker.arrivals.length then s.tracker.arrivals else s.tracker.arrivals ++ [a]

/-- TAKING_AN_ARRIVAL completes when the engine takes the arrival queue.  With the gate closed an untracked case is
passed by, a tracked one that is no duplicate is handled as a re-arrival and no more, and a duplicate puts its station into
FAULT with no DECISION.  With the gate open a first arrival that finds the table full stays untracked; any other that is
on the loop is found late, rejected by the first failing acceptance check with its DECISION, or keeps its snapshot and
waits for its commit attempt with the decision of its run; a re-arrival is first taken out of where the table has it; and a
duplicate is rejected, with its DECISION and CASE_REJECTED, and its station put into FAULT.  Otherwise the command changes
nothing (log 10).  That an idle port A chooses among all the reports of one event is the model's reading (log 8), and that
at a station in CLOSING the discard-marked cases that waited on the spur get their REJECT orders before the ones that joined
it is the model's choice (log 27). -/
def Obligations.TakingAnArrivalCompletes : Prop :=
  (∀ s : State, Running s → s.takesArrival = false ∨ s.tracker.arrivals = [] → exec .takingAnArrival s = .next s)
  ∧ (∀ (s : State) (a : Arrival) (rest : List Arrival), Running s → s.takesArrival = true →
    s.tracker.arrivals = a :: rest →
    let u := a.tracking
    let deadline := after s.link.time s.req.settings.returnTimeout
    let age := ageAt s.link.time a.scan
    let late := s.req.settings.decisionWindow < age
    let onLoop := s.track u = none ∧ s.tracker.tracks.length < 160
      ∨ ∃ e d, s.track u = some e ∧ (e.state = .circulating d ∨ e.state = .returning d)
    let before := ((s.track u).map (·.circuits)).getD 0
    let taken : State := { s with tracker := { s.tracker with arrivals := rest } }
    (s.engine.gate = false → s.track u = none →
      ∃ t, exec .takingAnArrival s = .next t ∧ t.tracker.arrivals = rest ∧ KeepsAllBut [.arrivals] s t)
    ∧ (∀ e, s.engine.gate = false → s.track u = some e → s.isDuplicate u e.state = false →
      let m := rearrive u e.state taken
      ∃ t e', exec .takingAnArrival s = .next t ∧ t.tracker.arrivals = rest ∧ t.track u = some e'
        ∧ e'.state = .circulating deadline
        ∧ (∀ i, e.state = .spurHeld i → ∀ x ∈ t.stations[i].spur, x.tracking ≠ u)
        ∧ (∀ k, e.state = .holdPending k ∨ e.state = .held k ∨ e.state = .releasing k → u ∉ t.lanes[k].list)
        ∧ KeepsAllBut [.portA, .portB, .reports] m t ∧ JoinedB [] m t ∧ ReportedAll [] m t)
    ∧ (s.engine.gate = true → s.track u = none → 160 ≤ s.tracker.tracks.length →
      ∃ t, exec .takingAnArrival s = .next t ∧ t.tracker.arrivals = rest
        ∧ KeepsAllBut [.portA, .arrivals, .reports] s t
        ∧ if late then Reported (.caseLate u none) s t else t.reports = s.reports)
    ∧ (s.engine.gate = true → onLoop → late →
      ∃ t e', exec .takingAnArrival s = .next t ∧ t.tracker.arrivals = rest
        ∧ KeepsAllBut [.portA, .arrivals, .tracks, .reports] s t
        ∧ t.track u = some e' ∧ e'.circuits = min 16 (before + 1) ∧ e'.state = .circulating deadline
        ∧ Reported (.caseLate u (some age)) s t)
    ∧ (∀ r, s.engine.gate = true → onLoop → ¬ late → acceptance s a = .error r →
      ∃ t, exec .takingAnArrival s = .next t ∧ t.tracker.arrivals = rest
        ∧ KeepsAllBut [.portA, .portB, .arrivals, .tracks, .reports] s t
        ∧ t.track u = none
        ∧ JoinedB [(s.req.settings.sorterNode, .decision u (.reject r))] s t
        ∧ Reported (.caseRejected u (some a.code) r) s t)
    ∧ (∀ art, s.engine.gate = true → onLoop → ¬ late → acceptance s a = .ok art →
      ∃ t e', exec .takingAnArrival s = .next t ∧ t.tracker.arrivals = rest
        ∧ KeepsAllBut [.arrivals, .tracks, .job] s t
        ∧ t.track u = some e' ∧ e'.snap = some art ∧ e'.weight = a.weight ∧ e'.circuits = before
        ∧ e'.state = .circulating deadline
        ∧ t.engine.job = some
            { work := .arrival a, decision := (decideArrival s u art a.weight).1
              exhausted := (decideArrival s u art a.weight).2, reruns := 0, cancelled := false })
    ∧ (∀ e, s.engine.gate = true → s.track u = some e → s.isDuplicate u e.state = false →
      ∃ t e', exec .takingAnArrival s = .next t ∧ (rearrive u e.state taken).track u = some e'
        ∧ e'.state = .circulating deadline ∧ GoesOn a e' (rearrive u e.state taken) t)
    ∧ (∀ e i q, s.engine.gate = true → s.track u = some e → e.state = .toStation i q →
      s.isDuplicate u e.state = true →
      ∃ t, exec .takingAnArrival s = .next t ∧ t.tracker.arrivals = rest
        ∧ OnB (ownFrameB s s.req.settings.sorterNode (.decision u (.reject .duplicate))) t
        ∧ (CasesOk s → t.track u = some e)
        ∧ (s.stations[i].works = true → t.stations[i].state = .fault ∧ t.stations[i].cause = .duplicate)
        ∧ (s.stations[i].works = false → t.stations = s.stations)
        ∧ (let rejected : ReportBody := .caseRejected u (some a.code) .duplicate
          let decision := (s.req.settings.sorterNode, OwnBody.decision u (.reject .duplicate))
          (s.stations[i].works = true → KeepsAllBut (.arrivals :: faultParts) s t ∧ StationFaulted i .duplicate s t
            ∧ JoinedB (decision :: withdrawFrames s i ((issuedAt s i).map (·.seq))) s t
            ∧ ReportedAll [rejected,
                .stationFault i .duplicate s.stations[i].state (unknownOf t.stations[i].orders)] s t)
          ∧ (s.stations[i].works = false → KeepsAllBut [.portA, .portB, .arrivals, .reports] s t
            ∧ JoinedB [decision] s t ∧ Reported rejected s t)))
    ∧ (∀ e i q, s.engine.gate = false → s.track u = some e → e.state = .toStation i q →
      s.isDuplicate u e.state = true →
      ∃ t, exec .takingAnArrival s = .next t ∧ t.tracker.arrivals = rest
        ∧ (s.stations[i].works = false → KeepsAllBut [.arrivals] s t)
        ∧ (s.stations[i].works = true → KeepsAllBut (.arrivals :: faultParts) s t ∧ FaultEntered i .duplicate s t
          ∧ JoinedB (withdrawFrames s i
              ((s.stations[i].orders.filter fun o => o.state == .issued).map (·.seq))) s t)))
  ∧ (∀ (s : State) (u : Tracking) (i : StationNo) (q : OrderSeq),
    s.isDuplicate u (.toStation i q) = true ↔
      ∃ o, s.stations[i].orders.find? (fun o => o.tracking == u) = some o ∧ o.state ≠ .issued)
  ∧ (∀ (s : State) (u : Tracking) (st : TrackState), (∀ i q, st ≠ .toStation i q) → s.isDuplicate u st = false)
  ∧ (∀ (s : State) (u : Tracking) (e : Track), s.track u = some e →
    let m := rearrive u e.state s
    let back : Track := { e with state := .circulating (after s.link.time s.req.settings.returnTimeout) }
    (∀ d, e.state = .circulating d ∨ e.state = .returning d →
      m.track u = some back ∧ KeepsAllBut [.tracks] s m)
    ∧ (∀ i, e.state = .spurHeld i →
      let st := s.stations[i]
      let left := st.spur.filter fun x => x.tracking != u
      m.track u = some back ∧ OtherStations i s m
      ∧ KeepsAllBut [.portB, .exec, .tracks, .replans, .stations, .reports] s m
      ∧ m.engine.replans ++ m.engine.waiting =
          (s.engine.replans ++ s.engine.waiting).filter (fun r => r.tracking != u)
      ∧ (m.engine.waiting = [] ∨ 32 ≤ m.engine.replans.length)
      ∧ if st.state = .closing ∧ st.orders = [] ∧ left = [] then
          m.stations[i] = { st with spur := left, state := .awaitExchange }
          ∧ JoinedB [callFrame s i s.builds[i]] s m ∧ ReportsTaken [closedReport i s.builds[i] st.close] s m
        else m.stations[i] = { st with spur := left } ∧ m.link = s.link ∧ m.reports = s.reports)
    ∧ (∀ k, e.state = .holdPending k ∨ e.state = .held k ∨ e.state = .releasing k →
      let l := s.lanes[k]
      let left := l.list.filter fun v => v != u
      m.track u = some back ∧ OtherLanes k s m ∧ (∀ j : LaneNo, j ≠ k → m.flag j = s.flag j)
      ∧ KeepsAllBut [.tracks, .flags, .lanes, .reports] s m
      ∧ (e.state = .holdPending k → m.lanes[k] = { l with list := left } ∧ m.reports = s.reports
          ∧ (m.flag k = true ↔ s.flag k = true ∨ l.list.head? = some u ∧ l.state = .ready ∧ left ≠ []))
      ∧ (e.state ≠ .holdPending k →
          let kept : Lane :=
            if e.state = .releasing k then { l with list := left, inFlight := none, expiry := none }
            else { l with list := left }
          if l.state = .ready then
            m.lanes[k] = { kept with state := .fault, cause := .caseReturned } ∧ m.flag k = false
            ∧ ReportsTaken [.laneFault k .caseReturned left.length] s m
          else m.lanes[k] = kept ∧ m.flag k = s.flag k ∧ m.reports = s.reports))
    ∧ ∀ (i : StationNo) (q : OrderSeq) (kept later : List Order) (o : Order), e.state = .toStation i q →
      s.stations[i].orders = kept ++ o :: later → (∀ x ∈ kept, x.tracking ≠ u) → o.tracking = u → o.state = .issued →
      s.stations[i].works = true →
      let st := s.stations[i]
      let frames := withdrawFrames s i ((o :: later).map (·.seq))
      m.track u = some { back with circuits := min 16 (e.circuits + 1) }
      ∧ KeepsAllBut [.portB, .exec, .plans, .tracks, .replans, .flags, .builds, .stations, .reports] s m
      ∧ Cascaded i o later s m
      ∧ m.stations[i].placeExpiry = (if kept = [] then none else st.placeExpiry)
      ∧ m.stations[i].takeExpiry =
          (if kept ≠ [] then st.takeExpiry else if m.stations[i].orders = [] then none
           else some (after s.link.time s.req.settings.takeTimeout))
      ∧ (st.state = .building →
          m.stations[i].state = .building ∧ m.stations[i].orders = kept ∧ m.stations[i].close = st.close
          ∧ m.stations[i].spur = st.spur ++ spurOf later ∧ m.stations[i].withdrawn = (o :: later).map (·.seq)
          ∧ JoinedB frames s m ∧ m.reports = s.reports)
      ∧ (st.state = .closing → CasesOk s →
          ClosingGoesOn ReportsTaken i kept (st.spur ++ spurOf later) (cutBuild s i (o :: later)) frames [] s m))
  ∧ ∀ (s : State) (u : Tracking) (art : Article) (w : Nat),
    let wanted := (((s.plans.plans.flatMap (·.lines)).filter fun l => l.code == art.code).map fun l =>
      l.required - l.planned).sum
    let held := (s.tracker.tracks.filter fun e => e.tracking != u && e.snap.map (·.code) == some art.code
      && match e.state with
        | .holdPending _ | .held _ | .releasing _ | .returning _ => true
        | .circulating _ | .toStation _ _ | .spurHeld _ => false).length
    let room := fun k : LaneNo => s.lanes[k].state = .ready ∧ s.lanes[k].list.length < 24
    let d := decideArrival s u art w
    d.2 = (stationChoice s art w).2
    ∧ (∀ p, (stationChoice s art w).1 = some p → d.1 = .place p)
    ∧ ((stationChoice s art w).1 = none →
      (wanted ≤ held → d.1 = .reject .surplus)
      ∧ (held < wanted → (∀ k, ¬ room k) → d.1 = .pass)
      ∧ ∀ k, held < wanted → room k →
        (∀ j, room j → s.lanes[k].list.length < s.lanes[j].list.length
          ∨ s.lanes[k].list.length = s.lanes[j].list.length ∧ k ≤ j) →
        d.1 = .lane k)

/-- The acceptance checks, in order: the first that fails gives the reason. -/
def Obligations.AcceptanceChecksInOrder : Prop :=
  ∀ (s : State) (a : Arrival), RisingKeys Article.key s.tables.articles →
    (a.code = 0 → acceptance s a = .error .noRead)
    ∧ (a.code ≠ 0 → (∀ art ∈ s.tables.articles, art.code ≠ a.code) → acceptance s a = .error .unknown)
    ∧ ∀ art ∈ s.tables.articles, a.code ≠ 0 → art.code = a.code →
      let far := fun (m n : Nat) => (m - n) + (n - m)
      let misweight := art.tolerance * art.nominal < far a.weight art.nominal * 100
      let mismeasure := s.req.settings.dimTol < far a.height art.height
        ∨ s.req.settings.dimTol < max a.length a.width - max art.length art.width
        ∨ s.req.settings.dimTol < min a.length a.width - min art.length art.width
      let spent := s.req.settings.maxCircuits < ((s.track a.tracking).map (·.circuits)).getD 0
      let unwanted := ∀ p ∈ s.plans.plans, ∀ l ∈ p.lines, l.code = art.code → l.required ≤ l.planned
      (misweight → acceptance s a = .error .misweight)
      ∧ (¬ misweight → mismeasure → acceptance s a = .error .mismeasure)
      ∧ (¬ misweight → ¬ mismeasure → spent → acceptance s a = .error .circuits)
      ∧ (¬ misweight → ¬ mismeasure → ¬ spent → unwanted → acceptance s a = .error .surplus)
      ∧ (¬ misweight → ¬ mismeasure → ¬ spent → ¬ unwanted → acceptance s a = .ok art)

/-- COMMIT_ATTEMPT completes for an arrival's job: with the gate closed the case circulates; a case no longer tracked, and a
late one, get no DECISION; PASS, REJECT, LANE and STATION decisions are carried out whole in one event; a lane or station
decision of a case with too many circuits is rejected; one whose checks fail is re-run on the state as it stands, or after
three re-runs passed.  The exhausted stations of the last run are handed over when the job ends, in station-number order,
each split.  With no job in progress the command changes nothing (log 10). -/
def Obligations.ArrivalCommitCompletes : Prop :=
  (∀ s : State, Running s → s.engine.job = none → exec .commitAttempt s = .next s)
  ∧ (∀ (s : State) (j : Job) (a : Arrival), Running s → s.engine.job = some j → j.work = .arrival a →
    j.exhausted = [] → s.track a.tracking = none →
    ∃ t, exec .commitAttempt s = .next t ∧ KeepsAllBut [.job] s t ∧ t.engine.job = none)
  ∧ (∀ (s : State) (j : Job) (a : Arrival) (e : Track) (art : Article), Running s → s.engine.job = some j →
    j.work = .arrival a → j.exhausted = [] → s.track a.tracking = some e → e.snap = some art →
    let u := a.tracking
    let deadline := after s.link.time s.req.settings.returnTimeout
    let late := s.req.settings.decisionWindow < ageAt s.link.time a.scan
    let spent := s.req.settings.maxCircuits < e.circuits
    let sends := fun (d : DecTarget) (t : State) =>
      JoinedB [(s.req.settings.sorterNode, .decision u d)] s t
    let once := { e with circuits := min 16 (e.circuits + 1) }
    let runsAgain :=
      (j.reruns < 3 → ∃ t, exec .commitAttempt s = .next t ∧ KeepsAllBut [.job] s t ∧ t.engine.job = some
        { work := j.work, decision := (decideArrival s u art e.weight).1
          exhausted := (decideArrival s u art e.weight).2, reruns := j.reruns + 1, cancelled := false })
      ∧ (3 ≤ j.reruns → ∃ t, exec .commitAttempt s = .next t ∧ KeepsAllBut [.portB, .tracks, .job] s t
        ∧ t.engine.job = none ∧ t.track u = some once ∧ sends .pass t)
    (s.engine.gate = false →
      ∃ t, exec .commitAttempt s = .next t ∧ KeepsAllBut [.tracks, .job] s t ∧ t.engine.job = none
        ∧ t.track u = some { e with state := .circulating deadline })
    ∧ (s.engine.gate = true → late →
      ∃ t, exec .commitAttempt s = .next t ∧ KeepsAllBut [.portA, .tracks, .job, .reports] s t ∧ t.engine.job = none
        ∧ t.track u = some once ∧ Reported (.caseLate u (some (ageAt s.link.time a.scan))) s t)
    ∧ (s.engine.gate = true → ¬ late → j.decision = .pass →
      ∃ t, exec .commitAttempt s = .next t ∧ KeepsAllBut [.portB, .tracks, .job] s t ∧ t.engine.job = none
        ∧ t.track u = some once ∧ sends .pass t)
    ∧ (∀ r, s.engine.gate = true → ¬ late → j.decision = .reject r →
      ∃ t, exec .commitAttempt s = .next t ∧ KeepsAllBut [.portA, .portB, .tracks, .job, .reports] s t
        ∧ t.engine.job = none ∧ t.track u = none ∧ sends (.reject r) t
        ∧ Reported (.caseRejected u (some a.code) r) s t)
    ∧ (s.engine.gate = true → ¬ late → spent → (∃ p, j.decision = .place p) ∨ (∃ k, j.decision = .lane k) →
      ∃ t, exec .commitAttempt s = .next t ∧ KeepsAllBut [.portA, .portB, .tracks, .job, .reports] s t
        ∧ t.engine.job = none ∧ t.track u = none ∧ sends (.reject .circuits) t
        ∧ Reported (.caseRejected u (some a.code) .circuits) s t)
    ∧ (∀ k, s.engine.gate = true → ¬ late → ¬ spent → j.decision = .lane k → s.lanes[k].state = .ready →
      s.lanes[k].list.length < 24 →
      ∃ t, exec .commitAttempt s = .next t
        ∧ KeepsAllBut [.portA, .portB, .tracks, .job, .lanes, .reports] s t ∧ OtherLanes k s t ∧ t.engine.job = none
        ∧ t.lanes[k] = { s.lanes[k] with list := s.lanes[k].list ++ [u] }
        ∧ t.track u = some { e with state := .holdPending k } ∧ sends (.lane k) t ∧ Reported (.caseHeld u k) s t)
    ∧ (∀ (p : Placement) (id : PlanId) (plan : Plan) (l : PlanLine),
      let i := p.station
      let b := s.builds[i]
      let q := s.stations[i].nextSeq
      s.engine.gate = true → ¬ late → ¬ spent → j.decision = .place p → s.stations[i].state = .building →
      b.planId = some id → b.revision = p.revision → b.cases.length < 96 → (∀ c ∈ b.cases, c.tracking ≠ u) →
      s.stations[i].orders.length < 4 → s.plan id = some plan → plan.lines[p.line]? = some l →
      l.planned < l.required →
      ∃ t, exec .commitAttempt s = .next t ∧ t.engine.job = none
        ∧ KeepsAllBut [.portB, .plans, .tracks, .flags, .job, .builds, .stations] s t
        ∧ OtherStations i s t ∧ OtherBuilds i s t
        ∧ t.builds[i] = b.add (caseRecordOf art u e.weight p q) ∧ FlagsRaised s t
        ∧ t.plan id = some { plan with lines := plan.lines.set p.line { l with planned := l.planned + 1 } }
        ∧ t.stations[i] = issuedTo s i u (.place b.cases.length)
        ∧ t.track u = some { e with state := .toStation i q }
        ∧ JoinedB
            [(s.req.settings.sorterNode, .decision u (.station i)),
             (s.req.settings.cellNodeOf i, .order i q u
              (.place (50 * p.best.x + 25 * p.best.a) (50 * p.best.y + 25 * p.best.b) p.best.rest p.best.turned
                e.weight))] s t)
    ∧ (∀ k, s.engine.gate = true → ¬ late → ¬ spent → j.decision = .lane k →
      (s.lanes[k].state ≠ .ready ∨ 24 ≤ s.lanes[k].list.length) → runsAgain)
    ∧ (∀ p, s.engine.gate = true → ¬ late → ¬ spent → j.decision = .place p →
      (s.stations[p.station].state ≠ .building ∨ PlaceBlocked s u p) → runsAgain))
  ∧ (∀ (s : State) (j : Job) (a : Arrival) (e : Track) (art : Article), Running s → s.engine.job = some j →
    j.work = .arrival a → s.track a.tracking = some e → e.snap = some art → s.engine.gate = true →
    ageAt s.link.time a.scan ≤ s.req.settings.decisionWindow → j.decision = .pass → RisingKeys Plan.key s.plans.plans →
    ∃ t, exec .commitAttempt s = .next t
      ∧ KeepsAllBut [.portA, .portB, .exec, .plans, .tracks, .flags, .job, .builds, .stations, .reports] s t
      ∧ t.engine.job = none ∧ t.track a.tracking = some { e with circuits := min 16 (e.circuits + 1) }
      ∧ OnB (ownFrameB s s.req.settings.sorterNode (.decision a.tracking .pass)) t ∧ HandedOver j.exhausted s t)
  ∧ (∀ (s t : State) (j : Job) (a : Arrival), Running s → s.engine.job = some j → j.work = .arrival a →
    RisingKeys Plan.key s.plans.plans → exec .commitAttempt s = .next t → t.engine.job = none →
    HandedOver j.exhausted s t)
  ∧ ∀ (exhausted : List StationNo) (s : State), handOver exhausted s =
      (([0, 1, 2, 3, 4, 5, 6, 7] : List StationNo).filter fun i => exhausted.contains i).foldl split s

/-- The order of the sources (R93): with no job in progress the oldest replan whose station has fewer than 4 orders is taken,
else the arrival queue, else the lowest lane that waits, else the probe slot.  REPLAN_JOB and LANE_HEAD_JOB complete when
their sources are taken: the replan taken leaves the queue, whose others keep their order, and a waiting case joins its tail
(R105); a replan whose case is no longer on the spur, or
whose station does not work, leaves the queue with no order; one that finds a place waits for its commit attempt, and one
that finds none gives a REJECT order with reason NO_PLACE (in this step, with no commit attempt: log 12); a lane-head job
clears the lane's flag and either waits for its commit attempt or keeps the case, the exhausted stations handed over.
Otherwise they change nothing (log 10).  The commit attempt of a replan's placement whose checks pass adds the case and
issues its order with no DECISION; one whose checks fail is run again, and after three re-runs, as when a run finds no
place, gives the REJECT order (none at a full queue, log 12); a cancelled job, or one whose case or station has gone, gives
no order.  The commit attempt of a release sends LANE RELEASE and starts the release timer; one whose checks fail is run
again while the lane is READY with the same head and the gate open, and else, or after three re-runs, ends with no release
and the flag of a READY lane set. -/
def Obligations.ReplanAndLaneHeadJobsComplete : Prop :=
  (∀ s : State,
    let room := fun r : Replan => s.stations[r.station].orders.length < 4
    let waits := fun k : LaneNo => s.engine.gate = true ∧ s.lanes[k].state = .ready ∧ s.lanes[k].list ≠ []
      ∧ s.lanes[k].inFlight = none ∧ s.flag k = true
    (∀ r, s.nextReplan = some r ↔
      ∃ before later, s.engine.replans = before ++ r :: later ∧ room r ∧ ∀ x ∈ before, ¬ room x)
    ∧ (s.nextReplan = none ↔ ∀ r ∈ s.engine.replans, ¬ room r)
    ∧ (∀ k, s.nextLane = some k ↔ waits k ∧ ∀ j : LaneNo, j < k → ¬ waits j)
    ∧ (s.nextLane = none ↔ ∀ k, ¬ waits k)
    ∧ (s.takesArrival = true ↔ s.engine.job = none ∧ s.nextReplan = none)
    ∧ (s.takesLane = true ↔ s.engine.job = none ∧ s.nextReplan = none ∧ s.tracker.arrivals = [])
    ∧ (s.takesProbe = true ↔
        s.engine.job = none ∧ s.nextReplan = none ∧ s.tracker.arrivals = [] ∧ s.nextLane = none))
  ∧ (∀ s : State, Running s → s.engine.job ≠ none ∨ s.nextReplan = none → exec .replanJob s = .next s)
  ∧ (∀ (s : State) (r : Replan), Running s → s.engine.job = none → s.nextReplan = some r →
    (s.onSpur r.station r.tracking = false ∨ s.stations[r.station].works = false →
      ∃ t, exec .replanJob s = .next t ∧ KeepsAllBut [.replans] s t ∧ ReplanTaken r s t)
    ∧ ∀ (e : Track), s.stations[r.station].works = true → s.track r.tracking = some e →
      e.state = .spurHeld r.station →
      (∀ art p, e.snap = some art → decideReplan s r.station art e.weight = some p →
        ∃ t, exec .replanJob s = .next t ∧ KeepsAllBut [.replans, .job] s t ∧ ReplanTaken r s t
          ∧ t.engine.job = some
              { work := .replan r, decision := .place p, exhausted := [], reruns := 0, cancelled := false })
      ∧ ((∀ art, e.snap = some art → decideReplan s r.station art e.weight = none) →
        ∃ t, exec .replanJob s = .next t ∧ KeepsAllBut [.portB, .tracks, .replans, .stations] s t
          ∧ ReplanTaken r s t ∧ RejectedNoPlace r.station r.tracking e s t))
  ∧ (∀ s : State, Running s → s.takesLane = false ∨ s.nextLane = none → exec .laneHeadJob s = .next s)
  ∧ (∀ (s : State) (k : LaneNo), Running s → s.takesLane = true → s.nextLane = some k →
    (s.headCase k = none → ∃ t, exec .laneHeadJob s = .next t ∧ KeepsAllBut [.flags] s t ∧ t.flag k = false)
    ∧ ∀ u art w, s.headCase k = some (u, art, w) →
      (∀ c ex, decideHead s art w = (some c, ex) →
        ∃ t, exec .laneHeadJob s = .next t ∧ KeepsAllBut [.flags, .job] s t ∧ t.flag k = false
          ∧ t.engine.job = some
              { work := .laneHead k u, decision := c, exhausted := ex, reruns := 0, cancelled := false })
      ∧ (decideHead s art w = (none, []) →
        ∃ t, exec .laneHeadJob s = .next t ∧ KeepsAllBut [.flags] s t ∧ t.flag k = false)
      ∧ (∀ ex, decideHead s art w = (none, ex) → RisingKeys Plan.key s.plans.plans →
        ∃ t, exec .laneHeadJob s = .next t
          ∧ KeepsAllBut [.portA, .portB, .exec, .plans, .flags, .builds, .stations, .reports] s t
          ∧ HandedOver ex s t ∧ KeepsAllBut [.portA, .portB, .exec, .reports] (handOver ex (s.setFlag k false)) t))
  ∧ (∀ (s : State) (j : Job) (r : Replan) (p : Placement) (e : Track) (art : Article) (id : PlanId) (plan : Plan)
      (l : PlanLine),
    let i := r.station
    let b := s.builds[i]
    let q := s.stations[i].nextSeq
    Running s → s.engine.job = some j → j.work = .replan r → j.cancelled = false → j.decision = .place p →
    p.station = i → s.stations[i].works = true → s.track r.tracking = some e → e.state = .spurHeld i →
    e.snap = some art → b.planId = some id → b.revision = p.revision → b.cases.length < 96 →
    (∀ c ∈ b.cases, c.tracking ≠ r.tracking) → s.stations[i].orders.length < 4 → s.plan id = some plan →
    plan.lines[p.line]? = some l → l.planned < l.required →
    ∃ t, exec .commitAttempt s = .next t ∧ t.engine.job = none
      ∧ KeepsAllBut [.portB, .plans, .tracks, .flags, .job, .builds, .stations] s t
      ∧ OtherStations i s t ∧ OtherBuilds i s t
      ∧ t.builds[i] = b.add (caseRecordOf art r.tracking e.weight p q) ∧ FlagsRaised s t
      ∧ t.plan id = some { plan with lines := plan.lines.set p.line { l with planned := l.planned + 1 } }
      ∧ t.stations[i] =
          { issuedTo s i r.tracking (.place b.cases.length) with
            spur := s.stations[i].spur.filter fun x => x.tracking != r.tracking }
      ∧ t.track r.tracking = some { e with state := .toStation i q }
      ∧ JoinedB
          [(s.req.settings.cellNodeOf i, .order i q r.tracking
            (.place (50 * p.best.x + 25 * p.best.a) (50 * p.best.y + 25 * p.best.b) p.best.rest p.best.turned
              e.weight))] s t)
  ∧ (∀ (s : State) (j : Job) (r : Replan), Running s → s.engine.job = some j → j.work = .replan r →
    (j.cancelled = true ∨ s.onSpur r.station r.tracking = false ∨ s.stations[r.station].works = false →
      ∃ t, exec .commitAttempt s = .next t ∧ KeepsAllBut [.job] s t ∧ t.engine.job = none)
    ∧ ∀ (p : Placement) (e : Track) (art : Article), j.cancelled = false → j.decision = .place p →
      p.station = r.station → j.exhausted = [] → s.stations[r.station].works = true → s.track r.tracking = some e →
      e.state = .spurHeld r.station → e.snap = some art → PlaceBlocked s r.tracking p →
      let again := decideReplan s r.station art e.weight
      (∀ p', j.reruns < 3 → again = some p' →
        ∃ t, exec .commitAttempt s = .next t ∧ KeepsAllBut [.job] s t ∧ t.engine.job = some
          { work := .replan r, decision := .place p', exhausted := [], reruns := j.reruns + 1, cancelled := false })
      ∧ (3 ≤ j.reruns ∨ again = none →
        ∃ t, exec .commitAttempt s = .next t ∧ t.engine.job = none
          ∧ if s.stations[r.station].orders.length < 4 then
              KeepsAllBut [.portB, .tracks, .job, .stations] s t ∧ RejectedNoPlace r.station r.tracking e s t
            else KeepsAllBut [.job] s t))
  ∧ (∀ (s : State) (j : Job) (k : LaneNo) (u : Tracking) (rest : List Tracking) (e : Track)
      (given : Option (StationNo × Revision)),
    Running s → s.engine.job = some j → j.work = .laneHead k u → j.decision = .release given → j.exhausted = [] →
    s.engine.gate = true → s.lanes[k].state = .ready → s.lanes[k].list = u :: rest → s.lanes[k].inFlight = none →
    s.track u = some e → e.state = .held k → (∀ i rev, given = some (i, rev) → s.builds[i].revision = rev) →
    ∃ t, exec .commitAttempt s = .next t ∧ t.engine.job = none
      ∧ KeepsAllBut [.portB, .tracks, .job, .lanes] s t ∧ OtherLanes k s t
      ∧ t.lanes[k] =
          { s.lanes[k] with
            inFlight := some u
            expiry := some (after s.link.time s.req.settings.releaseTimeout) }
      ∧ t.track u = some { e with state := .releasing k }
      ∧ JoinedB [(s.req.settings.laneNode, .laneRelease k u)] s t)
  ∧ ∀ (s : State) (j : Job) (k : LaneNo) (u : Tracking) (given : Option (StationNo × Revision)),
    Running s → s.engine.job = some j → j.work = .laneHead k u → j.decision = .release given → j.exhausted = [] →
    let goes := s.engine.gate = true ∧ s.lanes[k].state = .ready ∧ s.lanes[k].list.head? = some u
    let stands := s.lanes[k].inFlight = none ∧ s.isHeldIn k u = true
      ∧ ∀ i rev, given = some (i, rev) → s.builds[i].revision = rev
    let stays := ∃ t, exec .commitAttempt s = .next t ∧ KeepsAllBut [.flags, .job] s t ∧ t.engine.job = none
      ∧ (t.flag k = true ↔ s.flag k = true ∨ s.lanes[k].state = .ready)
      ∧ ∀ n : LaneNo, n ≠ k → t.flag n = s.flag n
    (¬ goes → stays)
    ∧ (goes → ¬ stands → 3 ≤ j.reruns ∨ s.headCase k = none → stays)
    ∧ ∀ art w, goes → ¬ stands → j.reruns < 3 → s.headCase k = some (u, art, w) →
      (∀ c ex, decideHead s art w = (some c, ex) →
        ∃ t, exec .commitAttempt s = .next t ∧ KeepsAllBut [.job] s t ∧ t.engine.job = some
          { work := .laneHead k u, decision := c, exhausted := ex, reruns := j.reruns + 1, cancelled := false })
      ∧ (∀ ex, decideHead s art w = (none, ex) → RisingKeys Plan.key s.plans.plans →
        ∃ t, exec .commitAttempt s = .next t ∧ t.engine.job = none
          ∧ KeepsAllBut [.portA, .portB, .exec, .plans, .flags, .job, .builds, .stations, .reports] s t
          ∧ (ex = [] → KeepsAllBut [.job] s t) ∧ HandedOver ex s t)

/-! ### Builds and evaluation (chapters 1 and 2) -/

/-- The shares that stage G makes add up to 256, with one principal, and so do those it stores.  On a build whose supporter
lists are of that kind, with supporters of a lower index, an added case brings its whole weight to the deck.  Every step
keeps every build sound: replaying its records gives it back, its height map is that of its owner map and its top height
the largest, its shares add up to 256 over supporters of lower index, its deck load is its total weight and the sum of its
cases' weights, and no case carries more than its crush limit. -/
def Obligations.LoadsReachTheDeck : Prop :=
  (∀ (l : List (Owner × Nat)) (n : Nat), l ≠ [] → (l.map (·.2)).sum = n → 0 < n →
      ((sharesAll l n).map (·.share)).sum = 256 ∧ ((storedShares l n).map (·.share)).sum = 256
        ∧ (storedShares l n).countP (·.principal) = 1)
  ∧ (∀ (b : Build) (c : CaseRec),
    (∀ (i : Nat) (x : CaseRec), (b.cases ++ [c])[i]? = some x →
      (x.supporters.map (·.share)).sum = 256 ∧ x.supporters.countP (·.principal) = 1
        ∧ ∀ j ∈ x.supporters, ∀ m, j.owner = .case m → m < i) →
    (pushCase b c).deckLoad = b.deckLoad + c.weight ∧ (pushCase b c).totalWeight = b.totalWeight + c.weight)
  ∧ (∀ s t : State, BuildsSound s → ArticlesOk s → PlacementsFit s → step s = .next t →
      BuildsSound t ∧ ArticlesOk t ∧ (RevisionsMoveOn s t → PlacementsFit t))

/-- A truncation reproduces exactly what the build held just after the last remaining record was added, with the
revision one higher; one from an index at or beyond the end of the list leaves the build unchanged. -/
def Obligations.TruncationReproducesTheBuild : Prop :=
  ∀ (b : Build) (cs : List CaseRec) (k : Nat), b.bare = b →
    let full := cs.foldl pushCase b
    (k < cs.length → full.truncate k = { (cs.take k).foldl pushCase b with revision := b.revision + 1 })
      ∧ (cs.length ≤ k → full.truncate k = full)

/-- The candidates of an article on a build (stages A and B): none on a full build; else the footprint of the article's length
and width in cells, and for an article that may be turned the other one where it differs, at every anchor at which it fits,
scanned row by row, the turned ones behind the others.  The outcome of each candidate by the stages C to I in their order,
with rest the largest height of its footprint, its
supporters the owners of its support cells by first appearance, and their shares those of stage G.  An evaluation gives
every candidate one outcome, and its best candidate is a feasible one that no feasible candidate precedes by rest, then
256 − q, then dx + dy, then scan index.  A station-choice run goes through the candidate stations by due and number; each
tries its open lines for the article from the highest drop down and takes the best candidate of the first that has one; a
station that yields none, before any that does, is exhausted when a candidate failed HEIGHT or OVERLOAD there and its top
height has come to the close height.  A lane-head run is such a run. That a bound build whose base
entry is absent, which no run reaches, yields nothing is the model's choice (log 20). -/
def Obligations.EvaluationHasOneBest : Prop :=
  (∀ (art : Article) (b : Build),
    let a₀ := (art.length + 49) / 50
    let b₀ := (art.width + 49) / 50
    let straight := if a₀ ≤ b.cols ∧ b₀ ≤ b.rows then (b.cols - a₀ + 1) * (b.rows - b₀ + 1) else 0
    (96 ≤ b.cases.length → candidates art b = [])
    ∧ (b.cases.length < 96 → ∀ c : Candidate, c ∈ candidates art b ↔
        c.x + c.a ≤ b.cols ∧ c.y + c.b ≤ b.rows
          ∧ (c.turned = false ∧ c.a = a₀ ∧ c.b = b₀ ∧ c.scan = c.y * (b.cols - a₀ + 1) + c.x
            ∨ c.turned = true ∧ art.rotateOk = true ∧ a₀ ≠ b₀ ∧ c.a = b₀ ∧ c.b = a₀
              ∧ c.scan = straight + c.y * (b.cols - b₀ + 1) + c.x))
    ∧ ∀ (n : Nat) (c : Candidate), (candidates art b)[n]? = some c → c.scan = n)
  ∧ (∀ (inp : EvalInput) (i : StationNo) (line : Option Nat),
    let r := evaluate inp i line
    let key := fun (x : Best) => (x.rest, 256 - x.q, x.disturb, x.scan)
    r.total = (candidates inp.article inp.build).length ∧ r.counts.sum = r.total
    ∧ (r.best = none ↔ ∀ c ∈ candidates inp.article inp.build, ∀ x, judge inp c ≠ .feasible x)
    ∧ ∀ x, r.best = some x →
      (∃ c ∈ candidates inp.article inp.build, judge inp c = .feasible x)
      ∧ ∀ c ∈ candidates inp.article inp.build, ∀ y, judge inp c = .feasible y → y ≠ x →
        Prod.Lex (· < ·) (Prod.Lex (· < ·) (Prod.Lex (· < ·) (· < ·))) (key x) (key y))
  ∧ (∀ (inp : EvalInput) (c : Candidate) (rest : Nat),
    let b := inp.build
    let height := fun n : Nat => b.heightMap.getD n 0
    let cells := (List.range c.b).flatMap fun y => (List.range c.a).map fun x => (c.y + y) * b.cols + (c.x + x)
    let support := cells.filter fun n => decide (rest ≤ height n + inp.levelTol)
    let q := 256 * support.length / (c.a * c.b)
    let owners := support.map fun n => b.ownerMap.getD n .deck
    let supporters := owners.eraseDups
    let refuses : Owner → Option FailReason := fun o =>
      match o with
      | .deck => none
      | .case m => b.cases[m]?.bind fun y =>
        if y.topOnly = true then some .topOnly
        else if inp.mayRest inp.article.kind y.kind = false then some .kind
        else if y.drop < inp.drop then some .drop
        else none
    let shares := storedShares (supporters.map fun o => (o, owners.count o)) support.length
    let loads := (distribute inp.weight shares b.cases b.deckLoad).1
    let total := b.totalWeight + inp.weight
    let far := fun m n : Nat => (m - n) + (n - m)
    let dx := far (b.momentX + inp.weight * (2 * c.x + c.a)) (b.cols * total)
    let dy := far (b.momentY + inp.weight * (2 * c.y + c.b)) (b.rows * total)
    (∃ n ∈ cells, height n = rest) → (∀ n ∈ cells, height n ≤ rest) →
    judge inp c =
      if b.heightLimit < rest + inp.article.height then .failed .height none
      else if inp.article.deckOnly = true ∧ rest ≠ 0 then .failed .deckOnly none
      else if q < inp.article.minSupport then .failed .support none
      else if 8 < supporters.length then .failed .spread none
      else match supporters.findSome? refuses with
        | some r => .failed r none
        | none =>
          match loads.findIdx? fun y => decide (y.crush < y.carried) with
          | some m => .failed .crush (some m)
          | none =>
            if inp.base.maxLoad < total then .failed .overload none
            else if inp.base.threshold ≤ total ∧ (inp.base.boundX * total < dx ∨ inp.base.boundY * total < dy) then
              .failed .tilt none
            else .feasible
              { x := c.x, y := c.y, turned := c.turned, a := c.a, b := c.b, rest := rest
                top := rest + inp.article.height, q := q, supporters := shares, disturb := dx + dy, scan := c.scan })
  ∧ (∀ (l : List (Owner × Nat)) (n : Nat),
    storedShares l n = (sharesAll l n).filter (fun j => j.share != 0 || j.principal)
    ∧ (sharesAll l n).length = l.length
    ∧ ∀ (i : Nat) (o : Owner) (m : Nat), l[i]? = some (o, m) → ∃ j, (sharesAll l n)[i]? = some j ∧ j.owner = o
      ∧ (j.principal = true ↔ (∀ e ∈ l, e.2 ≤ m) ∧ ∀ e ∈ l.take i, e.2 < m)
      ∧ j.share = 256 * m / n + if j.principal = true then 256 - (l.map fun e => 256 * e.2 / n).sum else 0)
  ∧ ∀ (s : State) (art : Article) (w : Nat),
    let wants := fun l : PlanLine => l.planned < l.required ∧ l.code = art.code
    let stops := byDue s (([0, 1, 2, 3, 4, 5, 6, 7] : List StationNo).filter (isCandidate s art.code))
    let due := fun i : StationNo => ((s.planNamed i).map (·.due)).getD 0
    let yields := fun i : StationNo => decideReplan s i art w
    (∀ i, isCandidate s art.code i = true ↔
      s.stations[i].state = .building ∧ s.stations[i].ready = true ∧ s.stations[i].orders.length < 4
        ∧ ∃ p, s.planNamed i = some p ∧ ∃ l ∈ p.lines, wants l)
    ∧ (∀ i, i ∈ stops ↔ isCandidate s art.code i = true)
    ∧ stops.Pairwise (fun i j => due i < due j ∨ due i = due j ∧ i < j)
    ∧ (∀ p : Plan, (p.openLines art.code).Pairwise (fun x y => y.2.drop ≤ x.2.drop) ∧ (p.openLines art.code).Nodup
        ∧ ∀ x, x ∈ p.openLines art.code ↔ p.lines[x.1]? = some x.2 ∧ wants x.2)
    ∧ (∀ i p e, s.planNamed i = some p → s.baseOfBuild i = some e →
      yields i = (p.openLines art.code).findSome? fun x =>
        (evaluate (evalInput s i e art w x.2.drop) i (some x.1)).best.map fun y =>
          { station := i, line := x.1, drop := x.2.drop, revision := s.builds[i].revision, best := y })
    ∧ (∀ i, s.planNamed i = none ∨ s.baseOfBuild i = none → yields i = none)
    ∧ (stationChoice s art w).1 = stops.findSome? yields
    ∧ (∀ i, i ∈ (stationChoice s art w).2 ↔
      ∃ before later p e, stops = before ++ i :: later ∧ (∀ j ∈ before ++ [i], yields j = none)
        ∧ s.planNamed i = some p ∧ s.baseOfBuild i = some e ∧ e.closeHeight ≤ s.builds[i].topHeight
        ∧ ∃ x ∈ p.openLines art.code, ∃ c ∈ candidates art s.builds[i],
          judge (evalInput s i e art w x.2.drop) c = .failed .height none
            ∨ judge (evalInput s i e art w x.2.drop) c = .failed .overload none)
    ∧ (decideHead s art w).2 = (stationChoice s art w).2
    ∧ (decideHead s art w).1 =
        (match (stationChoice s art w).1 with
          | some p => some (.release (some (p.station, p.revision)))
          | none => if s.openQuantity art.code = 0 then some (.release none) else none)

/-! ### Invariants -/

/-- Every step keeps placed ≤ planned ≤ required ≤ 255 for every line of every held plan, and one record for each id; and
every step keeps a BUILDING plan and its station's build in agreement, every other plan unbound, and a DRAINING plan
without an open line. -/
def Obligations.CountsStayOrdered : Prop :=
  (∀ s t : State, CountsOk s → step s = .next t → CountsOk t)
    ∧ ∀ s t : State, BindingsOk s → step s = .next t → BindingsOk t

/-- Every step keeps every queue and table within its capacity, the plan store's 32 plans among them with the room kept for
an open admission, with one entry for each key, and the oldest order of a station the only one that may be taken; and
every step keeps a tracking number at most once across the lane lists, the order queues and the spur lists, each case
tracked in the state of its place. -/
def Obligations.CapacitiesAreKept : Prop :=
  (∀ s t : State, CapacitiesOk s → step s = .next t → CapacitiesOk t)
    ∧ ∀ s t : State, CasesOk s → step s = .next t → CasesOk t

/-- Every step keeps the report unit, the link queues and the settings as their rules say. -/
def Obligations.UnitsAreKept : Prop :=
  (∀ s t : State, ReportsOk s → step s = .next t → ReportsOk t)
    ∧ (∀ s t : State, LinkOk s → step s = .next t → LinkOk t)
    ∧ ∀ s t : State, SettingsOk s → step s = .next t → SettingsOk t

/-- The invariants hold right after reset, and so they are statements about something. -/
def Obligations.InvariantsHoldAtReset : Prop :=
  CountsOk State.reset ∧ CapacitiesOk State.reset ∧ ReportsOk State.reset ∧ LinkOk State.reset ∧ SettingsOk State.reset
    ∧ BindingsOk State.reset ∧ CasesOk State.reset ∧ BuildsSound State.reset ∧ ArticlesOk State.reset
    ∧ PlacementsFit State.reset
end

