-- ==== Sys2Proof/Laws/State.lean ====
section
/-!
SUPPORT. One lemma for each field and each update of the state, true by `rfl`: no later proof unfolds a record update.
-/

namespace Sys2Proof.Machine

/-! ### onStation -/

@[simp] theorem onStation_inReset (s : State) (i : StationNo) (g : Station → Station) : (s.onStation i g).inReset = s.inReset := rfl
@[simp] theorem onStation_link (s : State) (i : StationNo) (g : Station → Station) : (s.onStation i g).link = s.link := rfl
@[simp] theorem onStation_req (s : State) (i : StationNo) (g : Station → Station) : (s.onStation i g).req = s.req := rfl
@[simp] theorem onStation_tables (s : State) (i : StationNo) (g : Station → Station) : (s.onStation i g).tables = s.tables := rfl
@[simp] theorem onStation_plans (s : State) (i : StationNo) (g : Station → Station) : (s.onStation i g).plans = s.plans := rfl
@[simp] theorem onStation_tracker (s : State) (i : StationNo) (g : Station → Station) : (s.onStation i g).tracker = s.tracker := rfl
@[simp] theorem onStation_engine (s : State) (i : StationNo) (g : Station → Station) : (s.onStation i g).engine = s.engine := rfl
@[simp] theorem onStation_builds (s : State) (i : StationNo) (g : Station → Station) : (s.onStation i g).builds = s.builds := rfl
@[simp] theorem onStation_stations (s : State) (i : StationNo) (g : Station → Station) : (s.onStation i g).stations = s.stations.set i (g s.stations[i]) := rfl
@[simp] theorem onStation_lanes (s : State) (i : StationNo) (g : Station → Station) : (s.onStation i g).lanes = s.lanes := rfl
@[simp] theorem onStation_reports (s : State) (i : StationNo) (g : Station → Station) : (s.onStation i g).reports = s.reports := rfl
@[simp] theorem onStation_draws (s : State) (i : StationNo) (g : Station → Station) : (s.onStation i g).draws = s.draws := rfl
@[simp] theorem onStation_pending (s : State) (i : StationNo) (g : Station → Station) : (s.onStation i g).pending = s.pending := rfl

/-! ### onLane -/

@[simp] theorem onLane_inReset (s : State) (k : LaneNo) (g : Lane → Lane) : (s.onLane k g).inReset = s.inReset := rfl
@[simp] theorem onLane_link (s : State) (k : LaneNo) (g : Lane → Lane) : (s.onLane k g).link = s.link := rfl
@[simp] theorem onLane_req (s : State) (k : LaneNo) (g : Lane → Lane) : (s.onLane k g).req = s.req := rfl
@[simp] theorem onLane_tables (s : State) (k : LaneNo) (g : Lane → Lane) : (s.onLane k g).tables = s.tables := rfl
@[simp] theorem onLane_plans (s : State) (k : LaneNo) (g : Lane → Lane) : (s.onLane k g).plans = s.plans := rfl
@[simp] theorem onLane_tracker (s : State) (k : LaneNo) (g : Lane → Lane) : (s.onLane k g).tracker = s.tracker := rfl
@[simp] theorem onLane_engine (s : State) (k : LaneNo) (g : Lane → Lane) : (s.onLane k g).engine = s.engine := rfl
@[simp] theorem onLane_builds (s : State) (k : LaneNo) (g : Lane → Lane) : (s.onLane k g).builds = s.builds := rfl
@[simp] theorem onLane_stations (s : State) (k : LaneNo) (g : Lane → Lane) : (s.onLane k g).stations = s.stations := rfl
@[simp] theorem onLane_lanes (s : State) (k : LaneNo) (g : Lane → Lane) : (s.onLane k g).lanes = s.lanes.set k (g s.lanes[k]) := rfl
@[simp] theorem onLane_reports (s : State) (k : LaneNo) (g : Lane → Lane) : (s.onLane k g).reports = s.reports := rfl
@[simp] theorem onLane_draws (s : State) (k : LaneNo) (g : Lane → Lane) : (s.onLane k g).draws = s.draws := rfl
@[simp] theorem onLane_pending (s : State) (k : LaneNo) (g : Lane → Lane) : (s.onLane k g).pending = s.pending := rfl

/-! ### onBuild -/

@[simp] theorem onBuild_inReset (s : State) (i : StationNo) (g : Build → Build) : (s.onBuild i g).inReset = s.inReset := rfl
@[simp] theorem onBuild_link (s : State) (i : StationNo) (g : Build → Build) : (s.onBuild i g).link = s.link := rfl
@[simp] theorem onBuild_req (s : State) (i : StationNo) (g : Build → Build) : (s.onBuild i g).req = s.req := rfl
@[simp] theorem onBuild_tables (s : State) (i : StationNo) (g : Build → Build) : (s.onBuild i g).tables = s.tables := rfl
@[simp] theorem onBuild_plans (s : State) (i : StationNo) (g : Build → Build) : (s.onBuild i g).plans = s.plans := rfl
@[simp] theorem onBuild_tracker (s : State) (i : StationNo) (g : Build → Build) : (s.onBuild i g).tracker = s.tracker := rfl
@[simp] theorem onBuild_engine (s : State) (i : StationNo) (g : Build → Build) : (s.onBuild i g).engine = s.engine := rfl
@[simp] theorem onBuild_builds (s : State) (i : StationNo) (g : Build → Build) : (s.onBuild i g).builds = s.builds.set i (g s.builds[i]) := rfl
@[simp] theorem onBuild_stations (s : State) (i : StationNo) (g : Build → Build) : (s.onBuild i g).stations = s.stations := rfl
@[simp] theorem onBuild_lanes (s : State) (i : StationNo) (g : Build → Build) : (s.onBuild i g).lanes = s.lanes := rfl
@[simp] theorem onBuild_reports (s : State) (i : StationNo) (g : Build → Build) : (s.onBuild i g).reports = s.reports := rfl
@[simp] theorem onBuild_draws (s : State) (i : StationNo) (g : Build → Build) : (s.onBuild i g).draws = s.draws := rfl
@[simp] theorem onBuild_pending (s : State) (i : StationNo) (g : Build → Build) : (s.onBuild i g).pending = s.pending := rfl

/-! ### onTrack -/

@[simp] theorem onTrack_inReset (s : State) (t : Tracking) (g : Track → Track) : (s.onTrack t g).inReset = s.inReset := rfl
@[simp] theorem onTrack_link (s : State) (t : Tracking) (g : Track → Track) : (s.onTrack t g).link = s.link := rfl
@[simp] theorem onTrack_req (s : State) (t : Tracking) (g : Track → Track) : (s.onTrack t g).req = s.req := rfl
@[simp] theorem onTrack_tables (s : State) (t : Tracking) (g : Track → Track) : (s.onTrack t g).tables = s.tables := rfl
@[simp] theorem onTrack_plans (s : State) (t : Tracking) (g : Track → Track) : (s.onTrack t g).plans = s.plans := rfl
@[simp] theorem onTrack_tracker (s : State) (t : Tracking) (g : Track → Track) : (s.onTrack t g).tracker = { s.tracker with tracks := changeFirst (fun e => e.tracking == t) g s.tracker.tracks } := rfl
@[simp] theorem onTrack_engine (s : State) (t : Tracking) (g : Track → Track) : (s.onTrack t g).engine = s.engine := rfl
@[simp] theorem onTrack_builds (s : State) (t : Tracking) (g : Track → Track) : (s.onTrack t g).builds = s.builds := rfl
@[simp] theorem onTrack_stations (s : State) (t : Tracking) (g : Track → Track) : (s.onTrack t g).stations = s.stations := rfl
@[simp] theorem onTrack_lanes (s : State) (t : Tracking) (g : Track → Track) : (s.onTrack t g).lanes = s.lanes := rfl
@[simp] theorem onTrack_reports (s : State) (t : Tracking) (g : Track → Track) : (s.onTrack t g).reports = s.reports := rfl
@[simp] theorem onTrack_draws (s : State) (t : Tracking) (g : Track → Track) : (s.onTrack t g).draws = s.draws := rfl
@[simp] theorem onTrack_pending (s : State) (t : Tracking) (g : Track → Track) : (s.onTrack t g).pending = s.pending := rfl

/-! ### setTrack -/

@[simp] theorem setTrack_inReset (s : State) (t : Tracking) (st : TrackState) : (s.setTrack t st).inReset = s.inReset := rfl
@[simp] theorem setTrack_link (s : State) (t : Tracking) (st : TrackState) : (s.setTrack t st).link = s.link := rfl
@[simp] theorem setTrack_req (s : State) (t : Tracking) (st : TrackState) : (s.setTrack t st).req = s.req := rfl
@[simp] theorem setTrack_tables (s : State) (t : Tracking) (st : TrackState) : (s.setTrack t st).tables = s.tables := rfl
@[simp] theorem setTrack_plans (s : State) (t : Tracking) (st : TrackState) : (s.setTrack t st).plans = s.plans := rfl
@[simp] theorem setTrack_tracker (s : State) (t : Tracking) (st : TrackState) : (s.setTrack t st).tracker = { s.tracker with tracks := changeFirst (fun e => e.tracking == t) (fun e => { e with state := st }) s.tracker.tracks } := rfl
@[simp] theorem setTrack_engine (s : State) (t : Tracking) (st : TrackState) : (s.setTrack t st).engine = s.engine := rfl
@[simp] theorem setTrack_builds (s : State) (t : Tracking) (st : TrackState) : (s.setTrack t st).builds = s.builds := rfl
@[simp] theorem setTrack_stations (s : State) (t : Tracking) (st : TrackState) : (s.setTrack t st).stations = s.stations := rfl
@[simp] theorem setTrack_lanes (s : State) (t : Tracking) (st : TrackState) : (s.setTrack t st).lanes = s.lanes := rfl
@[simp] theorem setTrack_reports (s : State) (t : Tracking) (st : TrackState) : (s.setTrack t st).reports = s.reports := rfl
@[simp] theorem setTrack_draws (s : State) (t : Tracking) (st : TrackState) : (s.setTrack t st).draws = s.draws := rfl
@[simp] theorem setTrack_pending (s : State) (t : Tracking) (st : TrackState) : (s.setTrack t st).pending = s.pending := rfl

/-! ### addTrack -/

@[simp] theorem addTrack_inReset (s : State) (e : Track) : (s.addTrack e).inReset = s.inReset := rfl
@[simp] theorem addTrack_link (s : State) (e : Track) : (s.addTrack e).link = s.link := rfl
@[simp] theorem addTrack_req (s : State) (e : Track) : (s.addTrack e).req = s.req := rfl
@[simp] theorem addTrack_tables (s : State) (e : Track) : (s.addTrack e).tables = s.tables := rfl
@[simp] theorem addTrack_plans (s : State) (e : Track) : (s.addTrack e).plans = s.plans := rfl
@[simp] theorem addTrack_tracker (s : State) (e : Track) : (s.addTrack e).tracker = { s.tracker with tracks := putKey Track.key e s.tracker.tracks } := rfl
@[simp] theorem addTrack_engine (s : State) (e : Track) : (s.addTrack e).engine = s.engine := rfl
@[simp] theorem addTrack_builds (s : State) (e : Track) : (s.addTrack e).builds = s.builds := rfl
@[simp] theorem addTrack_stations (s : State) (e : Track) : (s.addTrack e).stations = s.stations := rfl
@[simp] theorem addTrack_lanes (s : State) (e : Track) : (s.addTrack e).lanes = s.lanes := rfl
@[simp] theorem addTrack_reports (s : State) (e : Track) : (s.addTrack e).reports = s.reports := rfl
@[simp] theorem addTrack_draws (s : State) (e : Track) : (s.addTrack e).draws = s.draws := rfl
@[simp] theorem addTrack_pending (s : State) (e : Track) : (s.addTrack e).pending = s.pending := rfl

/-! ### dropTrack -/

@[simp] theorem dropTrack_inReset (s : State) (t : Tracking) : (s.dropTrack t).inReset = s.inReset := rfl
@[simp] theorem dropTrack_link (s : State) (t : Tracking) : (s.dropTrack t).link = s.link := rfl
@[simp] theorem dropTrack_req (s : State) (t : Tracking) : (s.dropTrack t).req = s.req := rfl
@[simp] theorem dropTrack_tables (s : State) (t : Tracking) : (s.dropTrack t).tables = s.tables := rfl
@[simp] theorem dropTrack_plans (s : State) (t : Tracking) : (s.dropTrack t).plans = s.plans := rfl
@[simp] theorem dropTrack_tracker (s : State) (t : Tracking) : (s.dropTrack t).tracker = { s.tracker with tracks := s.tracker.tracks.filter fun e => e.tracking != t } := rfl
@[simp] theorem dropTrack_engine (s : State) (t : Tracking) : (s.dropTrack t).engine = s.engine := rfl
@[simp] theorem dropTrack_builds (s : State) (t : Tracking) : (s.dropTrack t).builds = s.builds := rfl
@[simp] theorem dropTrack_stations (s : State) (t : Tracking) : (s.dropTrack t).stations = s.stations := rfl
@[simp] theorem dropTrack_lanes (s : State) (t : Tracking) : (s.dropTrack t).lanes = s.lanes := rfl
@[simp] theorem dropTrack_reports (s : State) (t : Tracking) : (s.dropTrack t).reports = s.reports := rfl
@[simp] theorem dropTrack_draws (s : State) (t : Tracking) : (s.dropTrack t).draws = s.draws := rfl
@[simp] theorem dropTrack_pending (s : State) (t : Tracking) : (s.dropTrack t).pending = s.pending := rfl

/-! ### circulate -/

@[simp] theorem circulate_inReset (s : State) (t : Tracking) : (s.circulate t).inReset = s.inReset := rfl
@[simp] theorem circulate_link (s : State) (t : Tracking) : (s.circulate t).link = s.link := rfl
@[simp] theorem circulate_req (s : State) (t : Tracking) : (s.circulate t).req = s.req := rfl
@[simp] theorem circulate_tables (s : State) (t : Tracking) : (s.circulate t).tables = s.tables := rfl
@[simp] theorem circulate_plans (s : State) (t : Tracking) : (s.circulate t).plans = s.plans := rfl
@[simp] theorem circulate_tracker (s : State) (t : Tracking) : (s.circulate t).tracker = (s.setTrack t (.circulating s.returnDeadline)).tracker := rfl
@[simp] theorem circulate_engine (s : State) (t : Tracking) : (s.circulate t).engine = s.engine := rfl
@[simp] theorem circulate_builds (s : State) (t : Tracking) : (s.circulate t).builds = s.builds := rfl
@[simp] theorem circulate_stations (s : State) (t : Tracking) : (s.circulate t).stations = s.stations := rfl
@[simp] theorem circulate_lanes (s : State) (t : Tracking) : (s.circulate t).lanes = s.lanes := rfl
@[simp] theorem circulate_reports (s : State) (t : Tracking) : (s.circulate t).reports = s.reports := rfl
@[simp] theorem circulate_draws (s : State) (t : Tracking) : (s.circulate t).draws = s.draws := rfl
@[simp] theorem circulate_pending (s : State) (t : Tracking) : (s.circulate t).pending = s.pending := rfl

/-! ### bump -/

@[simp] theorem bump_inReset (s : State) (t : Tracking) : (s.bump t).inReset = s.inReset := rfl
@[simp] theorem bump_link (s : State) (t : Tracking) : (s.bump t).link = s.link := rfl
@[simp] theorem bump_req (s : State) (t : Tracking) : (s.bump t).req = s.req := rfl
@[simp] theorem bump_tables (s : State) (t : Tracking) : (s.bump t).tables = s.tables := rfl
@[simp] theorem bump_plans (s : State) (t : Tracking) : (s.bump t).plans = s.plans := rfl
@[simp] theorem bump_tracker (s : State) (t : Tracking) : (s.bump t).tracker = (s.onTrack t fun e => { e with circuits := min 16 (e.circuits + 1) }).tracker := rfl
@[simp] theorem bump_engine (s : State) (t : Tracking) : (s.bump t).engine = s.engine := rfl
@[simp] theorem bump_builds (s : State) (t : Tracking) : (s.bump t).builds = s.builds := rfl
@[simp] theorem bump_stations (s : State) (t : Tracking) : (s.bump t).stations = s.stations := rfl
@[simp] theorem bump_lanes (s : State) (t : Tracking) : (s.bump t).lanes = s.lanes := rfl
@[simp] theorem bump_reports (s : State) (t : Tracking) : (s.bump t).reports = s.reports := rfl
@[simp] theorem bump_draws (s : State) (t : Tracking) : (s.bump t).draws = s.draws := rfl
@[simp] theorem bump_pending (s : State) (t : Tracking) : (s.bump t).pending = s.pending := rfl

/-! ### onPlan -/

@[simp] theorem onPlan_inReset (s : State) (id : PlanId) (g : Plan → Plan) : (s.onPlan id g).inReset = s.inReset := rfl
@[simp] theorem onPlan_link (s : State) (id : PlanId) (g : Plan → Plan) : (s.onPlan id g).link = s.link := rfl
@[simp] theorem onPlan_req (s : State) (id : PlanId) (g : Plan → Plan) : (s.onPlan id g).req = s.req := rfl
@[simp] theorem onPlan_tables (s : State) (id : PlanId) (g : Plan → Plan) : (s.onPlan id g).tables = s.tables := rfl
@[simp] theorem onPlan_plans (s : State) (id : PlanId) (g : Plan → Plan) : (s.onPlan id g).plans = { s.plans with plans := changeFirst (fun p => p.id == id) g s.plans.plans } := rfl
@[simp] theorem onPlan_tracker (s : State) (id : PlanId) (g : Plan → Plan) : (s.onPlan id g).tracker = s.tracker := rfl
@[simp] theorem onPlan_engine (s : State) (id : PlanId) (g : Plan → Plan) : (s.onPlan id g).engine = s.engine := rfl
@[simp] theorem onPlan_builds (s : State) (id : PlanId) (g : Plan → Plan) : (s.onPlan id g).builds = s.builds := rfl
@[simp] theorem onPlan_stations (s : State) (id : PlanId) (g : Plan → Plan) : (s.onPlan id g).stations = s.stations := rfl
@[simp] theorem onPlan_lanes (s : State) (id : PlanId) (g : Plan → Plan) : (s.onPlan id g).lanes = s.lanes := rfl
@[simp] theorem onPlan_reports (s : State) (id : PlanId) (g : Plan → Plan) : (s.onPlan id g).reports = s.reports := rfl
@[simp] theorem onPlan_draws (s : State) (id : PlanId) (g : Plan → Plan) : (s.onPlan id g).draws = s.draws := rfl
@[simp] theorem onPlan_pending (s : State) (id : PlanId) (g : Plan → Plan) : (s.onPlan id g).pending = s.pending := rfl

/-! ### dropPlan -/

@[simp] theorem dropPlan_inReset (s : State) (id : PlanId) : (s.dropPlan id).inReset = s.inReset := rfl
@[simp] theorem dropPlan_link (s : State) (id : PlanId) : (s.dropPlan id).link = s.link := rfl
@[simp] theorem dropPlan_req (s : State) (id : PlanId) : (s.dropPlan id).req = s.req := rfl
@[simp] theorem dropPlan_tables (s : State) (id : PlanId) : (s.dropPlan id).tables = s.tables := rfl
@[simp] theorem dropPlan_plans (s : State) (id : PlanId) : (s.dropPlan id).plans = { s.plans with plans := s.plans.plans.filter fun p => p.id != id } := rfl
@[simp] theorem dropPlan_tracker (s : State) (id : PlanId) : (s.dropPlan id).tracker = s.tracker := rfl
@[simp] theorem dropPlan_engine (s : State) (id : PlanId) : (s.dropPlan id).engine = s.engine := rfl
@[simp] theorem dropPlan_builds (s : State) (id : PlanId) : (s.dropPlan id).builds = s.builds := rfl
@[simp] theorem dropPlan_stations (s : State) (id : PlanId) : (s.dropPlan id).stations = s.stations := rfl
@[simp] theorem dropPlan_lanes (s : State) (id : PlanId) : (s.dropPlan id).lanes = s.lanes := rfl
@[simp] theorem dropPlan_reports (s : State) (id : PlanId) : (s.dropPlan id).reports = s.reports := rfl
@[simp] theorem dropPlan_draws (s : State) (id : PlanId) : (s.dropPlan id).draws = s.draws := rfl
@[simp] theorem dropPlan_pending (s : State) (id : PlanId) : (s.dropPlan id).pending = s.pending := rfl

/-! ### setFlag -/

@[simp] theorem setFlag_inReset (s : State) (k : LaneNo) (v : Bool) : (s.setFlag k v).inReset = s.inReset := rfl
@[simp] theorem setFlag_link (s : State) (k : LaneNo) (v : Bool) : (s.setFlag k v).link = s.link := rfl
@[simp] theorem setFlag_req (s : State) (k : LaneNo) (v : Bool) : (s.setFlag k v).req = s.req := rfl
@[simp] theorem setFlag_tables (s : State) (k : LaneNo) (v : Bool) : (s.setFlag k v).tables = s.tables := rfl
@[simp] theorem setFlag_plans (s : State) (k : LaneNo) (v : Bool) : (s.setFlag k v).plans = s.plans := rfl
@[simp] theorem setFlag_tracker (s : State) (k : LaneNo) (v : Bool) : (s.setFlag k v).tracker = s.tracker := rfl
@[simp] theorem setFlag_engine (s : State) (k : LaneNo) (v : Bool) : (s.setFlag k v).engine = { s.engine with flags := s.engine.flags.set k v } := rfl
@[simp] theorem setFlag_builds (s : State) (k : LaneNo) (v : Bool) : (s.setFlag k v).builds = s.builds := rfl
@[simp] theorem setFlag_stations (s : State) (k : LaneNo) (v : Bool) : (s.setFlag k v).stations = s.stations := rfl
@[simp] theorem setFlag_lanes (s : State) (k : LaneNo) (v : Bool) : (s.setFlag k v).lanes = s.lanes := rfl
@[simp] theorem setFlag_reports (s : State) (k : LaneNo) (v : Bool) : (s.setFlag k v).reports = s.reports := rfl
@[simp] theorem setFlag_draws (s : State) (k : LaneNo) (v : Bool) : (s.setFlag k v).draws = s.draws := rfl
@[simp] theorem setFlag_pending (s : State) (k : LaneNo) (v : Bool) : (s.setFlag k v).pending = s.pending := rfl

/-! ### setJob -/

@[simp] theorem setJob_inReset (s : State) (j : Option Job) : (s.setJob j).inReset = s.inReset := rfl
@[simp] theorem setJob_link (s : State) (j : Option Job) : (s.setJob j).link = s.link := rfl
@[simp] theorem setJob_req (s : State) (j : Option Job) : (s.setJob j).req = s.req := rfl
@[simp] theorem setJob_tables (s : State) (j : Option Job) : (s.setJob j).tables = s.tables := rfl
@[simp] theorem setJob_plans (s : State) (j : Option Job) : (s.setJob j).plans = s.plans := rfl
@[simp] theorem setJob_tracker (s : State) (j : Option Job) : (s.setJob j).tracker = s.tracker := rfl
@[simp] theorem setJob_engine (s : State) (j : Option Job) : (s.setJob j).engine = { s.engine with job := j } := rfl
@[simp] theorem setJob_builds (s : State) (j : Option Job) : (s.setJob j).builds = s.builds := rfl
@[simp] theorem setJob_stations (s : State) (j : Option Job) : (s.setJob j).stations = s.stations := rfl
@[simp] theorem setJob_lanes (s : State) (j : Option Job) : (s.setJob j).lanes = s.lanes := rfl
@[simp] theorem setJob_reports (s : State) (j : Option Job) : (s.setJob j).reports = s.reports := rfl
@[simp] theorem setJob_draws (s : State) (j : Option Job) : (s.setJob j).draws = s.draws := rfl
@[simp] theorem setJob_pending (s : State) (j : Option Job) : (s.setJob j).pending = s.pending := rfl

/-! ### setGate -/

@[simp] theorem setGate_inReset (s : State) (isOpen : Bool) : (s.setGate isOpen).inReset = s.inReset := rfl
@[simp] theorem setGate_link (s : State) (isOpen : Bool) : (s.setGate isOpen).link = s.link := rfl
@[simp] theorem setGate_req (s : State) (isOpen : Bool) : (s.setGate isOpen).req = s.req := rfl
@[simp] theorem setGate_tables (s : State) (isOpen : Bool) : (s.setGate isOpen).tables = s.tables := rfl
@[simp] theorem setGate_plans (s : State) (isOpen : Bool) : (s.setGate isOpen).plans = s.plans := rfl
@[simp] theorem setGate_tracker (s : State) (isOpen : Bool) : (s.setGate isOpen).tracker = s.tracker := rfl
@[simp] theorem setGate_engine (s : State) (isOpen : Bool) : (s.setGate isOpen).engine = { s.engine with gate := isOpen } := rfl
@[simp] theorem setGate_builds (s : State) (isOpen : Bool) : (s.setGate isOpen).builds = s.builds := rfl
@[simp] theorem setGate_stations (s : State) (isOpen : Bool) : (s.setGate isOpen).stations = s.stations := rfl
@[simp] theorem setGate_lanes (s : State) (isOpen : Bool) : (s.setGate isOpen).lanes = s.lanes := rfl
@[simp] theorem setGate_reports (s : State) (isOpen : Bool) : (s.setGate isOpen).reports = s.reports := rfl
@[simp] theorem setGate_draws (s : State) (isOpen : Bool) : (s.setGate isOpen).draws = s.draws := rfl
@[simp] theorem setGate_pending (s : State) (isOpen : Bool) : (s.setGate isOpen).pending = s.pending := rfl

/-! ### setSup -/

@[simp] theorem setSup_inReset (s : State) (t : SupTimer) : (s.setSup t).inReset = s.inReset := rfl
@[simp] theorem setSup_link (s : State) (t : SupTimer) : (s.setSup t).link = s.link := rfl
@[simp] theorem setSup_req (s : State) (t : SupTimer) : (s.setSup t).req = { s.req with sup := t } := rfl
@[simp] theorem setSup_tables (s : State) (t : SupTimer) : (s.setSup t).tables = s.tables := rfl
@[simp] theorem setSup_plans (s : State) (t : SupTimer) : (s.setSup t).plans = s.plans := rfl
@[simp] theorem setSup_tracker (s : State) (t : SupTimer) : (s.setSup t).tracker = s.tracker := rfl
@[simp] theorem setSup_engine (s : State) (t : SupTimer) : (s.setSup t).engine = s.engine := rfl
@[simp] theorem setSup_builds (s : State) (t : SupTimer) : (s.setSup t).builds = s.builds := rfl
@[simp] theorem setSup_stations (s : State) (t : SupTimer) : (s.setSup t).stations = s.stations := rfl
@[simp] theorem setSup_lanes (s : State) (t : SupTimer) : (s.setSup t).lanes = s.lanes := rfl
@[simp] theorem setSup_reports (s : State) (t : SupTimer) : (s.setSup t).reports = s.reports := rfl
@[simp] theorem setSup_draws (s : State) (t : SupTimer) : (s.setSup t).draws = s.draws := rfl
@[simp] theorem setSup_pending (s : State) (t : SupTimer) : (s.setSup t).pending = s.pending := rfl

/-! ### withPending -/

@[simp] theorem withPending_inReset (s : State) (q : List Instr) : (s.withPending q).inReset = s.inReset := rfl
@[simp] theorem withPending_link (s : State) (q : List Instr) : (s.withPending q).link = s.link := rfl
@[simp] theorem withPending_req (s : State) (q : List Instr) : (s.withPending q).req = s.req := rfl
@[simp] theorem withPending_tables (s : State) (q : List Instr) : (s.withPending q).tables = s.tables := rfl
@[simp] theorem withPending_plans (s : State) (q : List Instr) : (s.withPending q).plans = s.plans := rfl
@[simp] theorem withPending_tracker (s : State) (q : List Instr) : (s.withPending q).tracker = s.tracker := rfl
@[simp] theorem withPending_engine (s : State) (q : List Instr) : (s.withPending q).engine = s.engine := rfl
@[simp] theorem withPending_builds (s : State) (q : List Instr) : (s.withPending q).builds = s.builds := rfl
@[simp] theorem withPending_stations (s : State) (q : List Instr) : (s.withPending q).stations = s.stations := rfl
@[simp] theorem withPending_lanes (s : State) (q : List Instr) : (s.withPending q).lanes = s.lanes := rfl
@[simp] theorem withPending_reports (s : State) (q : List Instr) : (s.withPending q).reports = s.reports := rfl
@[simp] theorem withPending_draws (s : State) (q : List Instr) : (s.withPending q).draws = s.draws := rfl
@[simp] theorem withPending_pending (s : State) (q : List Instr) : (s.withPending q).pending = q := rfl

/-! ### reachAt and moveTime (R189) -/

@[simp] theorem reachAt_inReset (s : State) (t : LineTime) : (s.reachAt t).inReset = s.inReset := rfl
@[simp] theorem reachAt_link (s : State) (t : LineTime) : (s.reachAt t).link = s.link := rfl
@[simp] theorem reachAt_tables (s : State) (t : LineTime) : (s.reachAt t).tables = s.tables := rfl
@[simp] theorem reachAt_plans (s : State) (t : LineTime) : (s.reachAt t).plans = s.plans := rfl
@[simp] theorem reachAt_engine (s : State) (t : LineTime) : (s.reachAt t).engine = s.engine := rfl
@[simp] theorem reachAt_builds (s : State) (t : LineTime) : (s.reachAt t).builds = s.builds := rfl
@[simp] theorem reachAt_reports (s : State) (t : LineTime) : (s.reachAt t).reports = s.reports := rfl
@[simp] theorem reachAt_draws (s : State) (t : LineTime) : (s.reachAt t).draws = s.draws := rfl
@[simp] theorem reachAt_pending (s : State) (t : LineTime) : (s.reachAt t).pending = s.pending := rfl
@[simp] theorem reachAt_req (s : State) (t : LineTime) : (s.reachAt t).req = { s.req with exec := s.req.exec.map (Exec.reach t), sup := s.req.sup.reach t } := rfl
@[simp] theorem reachAt_tracker (s : State) (t : LineTime) : (s.reachAt t).tracker = { s.tracker with tracks := s.tracker.tracks.map (Track.reach t) } := rfl
@[simp] theorem reachAt_stations (s : State) (t : LineTime) : (s.reachAt t).stations = s.stations.map (Station.reach t) := rfl
@[simp] theorem reachAt_lanes (s : State) (t : LineTime) : (s.reachAt t).lanes = s.lanes.map (Lane.reach t) := rfl

theorem moveTime_eq (s : State) (t : LineTime) :
    s.moveTime t = { s.reachAt t with link := { s.link with time := t } } := rfl

@[simp] theorem moveTime_link (s : State) (t : LineTime) : (s.moveTime t).link = { s.link with time := t } := rfl
@[simp] theorem moveTime_inReset (s : State) (t : LineTime) : (s.moveTime t).inReset = (s.reachAt t).inReset := rfl
@[simp] theorem moveTime_req (s : State) (t : LineTime) : (s.moveTime t).req = (s.reachAt t).req := rfl
@[simp] theorem moveTime_tables (s : State) (t : LineTime) : (s.moveTime t).tables = (s.reachAt t).tables := rfl
@[simp] theorem moveTime_plans (s : State) (t : LineTime) : (s.moveTime t).plans = (s.reachAt t).plans := rfl
@[simp] theorem moveTime_tracker (s : State) (t : LineTime) : (s.moveTime t).tracker = (s.reachAt t).tracker := rfl
@[simp] theorem moveTime_engine (s : State) (t : LineTime) : (s.moveTime t).engine = (s.reachAt t).engine := rfl
@[simp] theorem moveTime_builds (s : State) (t : LineTime) : (s.moveTime t).builds = (s.reachAt t).builds := rfl
@[simp] theorem moveTime_stations (s : State) (t : LineTime) : (s.moveTime t).stations = (s.reachAt t).stations := rfl
@[simp] theorem moveTime_lanes (s : State) (t : LineTime) : (s.moveTime t).lanes = (s.reachAt t).lanes := rfl
@[simp] theorem moveTime_reports (s : State) (t : LineTime) : (s.moveTime t).reports = (s.reachAt t).reports := rfl
@[simp] theorem moveTime_draws (s : State) (t : LineTime) : (s.moveTime t).draws = (s.reachAt t).draws := rfl
@[simp] theorem moveTime_pending (s : State) (t : LineTime) : (s.moveTime t).pending = (s.reachAt t).pending := rfl

@[simp] theorem Timer.reach_expiry (t : LineTime) (e : Timer) : (e.reach t).expiry = e.expiry := rfl
@[simp] theorem Timer.reach_reached (t : LineTime) (e : Timer) : (e.reach t).reached = passed t e := rfl
@[simp] theorem Station.reach_state (t : LineTime) (st : Station) : (st.reach t).state = st.state := rfl
@[simp] theorem Station.reach_ready (t : LineTime) (st : Station) : (st.reach t).ready = st.ready := rfl
@[simp] theorem Station.reach_baseKind (t : LineTime) (st : Station) : (st.reach t).baseKind = st.baseKind := rfl
@[simp] theorem Station.reach_cause (t : LineTime) (st : Station) : (st.reach t).cause = st.cause := rfl
@[simp] theorem Station.reach_close (t : LineTime) (st : Station) : (st.reach t).close = st.close := rfl
@[simp] theorem Station.reach_nextSeq (t : LineTime) (st : Station) : (st.reach t).nextSeq = st.nextSeq := rfl
@[simp] theorem Station.reach_orders (t : LineTime) (st : Station) : (st.reach t).orders = st.orders := rfl
@[simp] theorem Station.reach_spur (t : LineTime) (st : Station) : (st.reach t).spur = st.spur := rfl
@[simp] theorem Station.reach_withdrawn (t : LineTime) (st : Station) : (st.reach t).withdrawn = st.withdrawn := rfl
@[simp] theorem Lane.reach_state (t : LineTime) (l : Lane) : (l.reach t).state = l.state := rfl
@[simp] theorem Lane.reach_cause (t : LineTime) (l : Lane) : (l.reach t).cause = l.cause := rfl
@[simp] theorem Lane.reach_list (t : LineTime) (l : Lane) : (l.reach t).list = l.list := rfl
@[simp] theorem Lane.reach_inFlight (t : LineTime) (l : Lane) : (l.reach t).inFlight = l.inFlight := rfl
@[simp] theorem Track.reach_tracking (t : LineTime) (e : Track) : (e.reach t).tracking = e.tracking := rfl
@[simp] theorem Track.reach_snap (t : LineTime) (e : Track) : (e.reach t).snap = e.snap := rfl
@[simp] theorem Track.reach_weight (t : LineTime) (e : Track) : (e.reach t).weight = e.weight := rfl
@[simp] theorem Track.reach_circuits (t : LineTime) (e : Track) : (e.reach t).circuits = e.circuits := rfl
@[simp] theorem Exec.reach_kind (t : LineTime) (e : Exec) : (e.reach t).kind = e.kind := by unfold Exec.reach; split <;> rfl
@[simp] theorem Exec.reach_tag (t : LineTime) (e : Exec) : (e.reach t).tag = e.tag := by unfold Exec.reach; split <;> rfl
@[simp] theorem Exec.reach_source (t : LineTime) (e : Exec) : (e.reach t).source = e.source := by unfold Exec.reach; split <;> rfl
@[simp] theorem Exec.reach_counts (t : LineTime) (e : Exec) : (e.reach t).counts = e.counts := by unfold Exec.reach; split <;> rfl

/-- A reached expiry stays reached, at every line time (R189). -/
theorem passed_of_reached {e : Timer} (h : e.reached = true) (t : LineTime) : passed t e = true := by simp [passed, h]

/-- An expiry that a move of the line time has reached is passed at every later line time (R189). -/
theorem passed_reach {t : LineTime} {e : Timer} (h : passed t e = true) (u : LineTime) : passed u (e.reach t) = true :=
  passed_of_reached h u

/-! ### One record after an update -/

@[simp] theorem onStation_get (s : State) (i : StationNo) (g : Station → Station) :
    (s.onStation i g).stations[i] = g s.stations[i] := by
  simp only [onStation_stations, Fin.getElem_fin, Vector.getElem_set_self]

theorem onStation_get_ne (s : State) {i j : StationNo} (g : Station → Station) (h : i ≠ j) :
    (s.onStation i g).stations[j] = s.stations[j] := by
  have h' : i.val ≠ j.val := fun e => h (Fin.ext e)
  simp [h']

@[simp] theorem onLane_get (s : State) (k : LaneNo) (g : Lane → Lane) :
    (s.onLane k g).lanes[k] = g s.lanes[k] := by
  simp only [onLane_lanes, Fin.getElem_fin, Vector.getElem_set_self]

theorem onLane_get_ne (s : State) {k j : LaneNo} (g : Lane → Lane) (h : k ≠ j) :
    (s.onLane k g).lanes[j] = s.lanes[j] := by
  have h' : k.val ≠ j.val := fun e => h (Fin.ext e)
  simp [h']

@[simp] theorem onBuild_get (s : State) (i : StationNo) (g : Build → Build) :
    (s.onBuild i g).builds[i] = g s.builds[i] := by
  simp only [onBuild_builds, Fin.getElem_fin, Vector.getElem_set_self]

theorem onBuild_get_ne (s : State) {i j : StationNo} (g : Build → Build) (h : i ≠ j) :
    (s.onBuild i g).builds[j] = s.builds[j] := by
  have h' : i.val ≠ j.val := fun e => h (Fin.ext e)
  simp [h']

/-! ### State.reset -/

/-- State.reset is the end of a power-on reset with node pins 0 or 1. -/
theorem reset_eq : State.reset = State.started 1 := rfl

end Sys2Proof.Machine
end

