-- ==== Sys2Proof/Laws/Works.lean ====
section
/-!
SUPPORT. What the working operations may do, said once.
`Works s t` says that t comes from s by line accounting, bindings, orders, withdrawals, faults, lane moves, replans, reports
queued and port B frames issued: each store by moves of its own, and everything else as it was.
Laws/WorksOps.lean proves it of each shared operation.
-/

namespace Sys2Proof.Machine

/-! ### Moves of the stores -/

/-- A change of the lines of one plan (R73 to R76). -/
inductive LinesMove : List PlanLine → List PlanLine → Prop
  | same (ls : List PlanLine) : LinesMove ls ls
  | more (ls : List PlanLine) (j : Nat) (l : PlanLine) (hj : ls[j]? = some l) (hl : l.planned < l.required) :
      LinesMove ls (ls.modify j fun l => { l with planned := l.planned + 1 })
  | less (ls : List PlanLine) (j : Nat) (l : PlanLine) (hj : ls[j]? = some l) (hl : l.placed < l.planned) :
      LinesMove ls (ls.modify j fun l => { l with planned := l.planned - 1 })
  | revert (ls : List PlanLine) (j : Nat) (l : PlanLine) (hj : ls[j]? = some l) (hl : 0 < l.placed) :
      LinesMove ls (ls.modify j fun l => { l with planned := l.planned - 1, placed := l.placed - 1 })
  | place (ls : List PlanLine) (j : Nat) (l : PlanLine) (hj : ls[j]? = some l) (hl : l.placed < l.planned) :
      LinesMove ls (ls.modify j fun l => { l with placed := l.placed + 1 })

/-- A change of one plan: what admission fixed stays (R64), the lines move as above. -/
structure PlanMove (p q : Plan) : Prop where
  id        : q.id = p.id
  due       : q.due = p.due
  baseKind  : q.baseKind = p.baseKind
  admission : q.admission = p.admission
  lines     : LinesMove p.lines q.lines

/-- A move of the list of plans: one plan changed, or plans of an id removed. -/
inductive PlansMove : List Plan → List Plan → Prop
  | change (ps : List Plan) (id : PlanId) (g : Plan → Plan) (p : Plan)
      (hp : ps.find? (fun p => p.id == id) = some p) (hg : PlanMove p (g p)) :
      PlansMove ps (changeFirst (fun p => p.id == id) g ps)
  | drop (ps : List Plan) (id : PlanId) : PlansMove ps (ps.filter fun p => p.id != id)

/-- A move of the tracking table: an entry changed with its key, added while there is room, or removed. -/
inductive TracksMove : List Track → List Track → Prop
  | change (ts : List Track) (t : Tracking) (g : Track → Track)
      (hk : ∀ e, (g e).tracking = e.tracking) (hc : ∀ e, (g e).circuits = e.circuits ∨ (g e).circuits ≤ 16) :
      TracksMove ts (changeFirst (fun e => e.tracking == t) g ts)
  | add (ts : List Track) (e : Track) (hr : ts.length < Config.trackingCapacity) (hc : e.circuits = 0)
      (hn : ts.find? (fun x => x.tracking == e.tracking) = none) :
      TracksMove ts (putKey Track.key e ts)
  | drop (ts : List Track) (t : Tracking) : TracksMove ts (ts.filter fun e => e.tracking != t)

/-- A move of the planning engine that leaves gate and probe slot. -/
inductive EngineMove : Engine → Engine → Prop
  | flags (e : Engine) (v : Vector Bool 4) : EngineMove e { e with flags := v }
  | job (e : Engine) (j : Option Job)
      (hj : ∀ x, j = some x → x.reruns ≤ Config.maxReruns ∨ ∃ y, e.job = some y ∧ x.reruns = y.reruns) :
      EngineMove e { e with job := j }
  | queues (e : Engine) (rs ws : List Replan) (hr : rs.length ≤ max e.replans.length Config.replanCapacity) :
      EngineMove e { e with replans := rs, waiting := ws }

/-- A move of a station's order queue. -/
inductive OrdersMove : List Order → List Order → Prop
  | sub (os os' : List Order) (h : os'.Sublist os) : OrdersMove os os'
  | issue (os : List Order) (o : Order) (hr : os.length < Config.orderDepth) (ho : o.state = .issued) :
      OrdersMove os (os ++ [o])
  | taken (os : List Order) : OrdersMove os (os.modifyHead fun o => { o with state := .taken })
  | unknown (os os' : List Order) (h : os'.Sublist (os.map Order.unknownIfTaken)) : OrdersMove os os'

/-- A move of a station record: base kind and ready flag stay. -/
structure StationMove (st st' : Station) : Prop where
  baseKind : st'.baseKind = st.baseKind
  ready    : st'.ready = st.ready
  orders   : OrdersMove st.orders st'.orders

/-- A move of a lane record. -/
inductive LaneMove : Lane → Lane → Prop
  | sub (l l' : Lane) (h : l'.list.Sublist l.list) : LaneMove l l'
  | push (l l' : Lane) (t : Tracking) (hr : l.list.length < Config.laneDepth) (h : l'.list = l.list ++ [t]) :
      LaneMove l l'

/-- A move of a build record: the four operations of section 1.6 that working steps ask for. -/
inductive BuildMove : Build → Build → Prop
  | bind (b : Build) (hb : b.free = true) (plan : PlanId) (part : Nat) (kind : BaseKind) (e : BaseEntry) :
      BuildMove b (b.bind plan part kind e)
  | add (b : Build) (c : CaseRec) (hb : ∃ rev t, b.takesAdd rev t = true ∧ c.tracking = t) : BuildMove b (b.add c)
  | truncate (b : Build) (k : Nat) : BuildMove b (b.truncate k)
  | confirm (b : Build) (i : Nat) (t : Tracking) : BuildMove b (b.confirm i t)

/-- A report as the report unit queues it now (R172, R174). -/
structure QueuedIn (levels : List Nat) (time : LineTime) (r : Report) : Prop where
  level  : r.level = levels.getD (r.body.kindCode - 1) 0
  queued : r.level ≠ 0
  time   : r.time = time

/-! ### Works -/

/-- Reflexive and transitive closure, by the name the moves use. -/
abbrev Many {α : Type} (r : α → α → Prop) : α → α → Prop := Relation.ReflTransGen r

/-- t comes from s by working operations. -/
structure Works (s t : State) : Prop where
  inReset   : t.inReset = s.inReset
  pending   : t.pending = s.pending
  tables    : t.tables = s.tables
  link      : ∃ fs : List OwnFrame, t.link = fs.foldl Link.issue s.link
  req       : ∃ is : List StationNo,
                t.req = { s.req with exec := is.foldl (fun e i => e.map (Exec.note i)) s.req.exec }
  admission : t.plans.admission = s.plans.admission
  counter   : t.plans.counter = s.plans.counter
  plans     : Many PlansMove s.plans.plans t.plans.plans
  arrivals  : t.tracker.arrivals = s.tracker.arrivals
  tracks    : Many TracksMove s.tracker.tracks t.tracker.tracks
  gate      : t.engine.gate = s.engine.gate
  probe     : t.engine.probe = s.engine.probe
  engine    : Many EngineMove s.engine t.engine
  builds    : ∀ i : StationNo, Many BuildMove s.builds[i] t.builds[i]
  stations  : ∀ i : StationNo, Many StationMove s.stations[i] t.stations[i]
  lanes     : ∀ k : LaneNo, Many LaneMove s.lanes[k] t.lanes[k]
  reports   : ∃ rs : List Report, (∀ r ∈ rs, QueuedIn s.reports.levels s.link.time r)
                ∧ t.reports = rs.foldl ReportUnit.take s.reports

/-! ### Lemmas of the parts -/

@[simp] theorem issue_time (l : Link) (f : OwnFrame) : (l.issue f).time = l.time := by
  unfold Link.issue; split_ifs <;> rfl

@[simp] theorem issue_ownNode (l : Link) (f : OwnFrame) : (l.issue f).ownNode = l.ownNode := by
  unfold Link.issue; split_ifs <;> rfl

@[simp] theorem issue_slot (l : Link) (f : OwnFrame) : (l.issue f).slot = l.slot := by
  unfold Link.issue; split_ifs <;> rfl

@[simp] theorem issue_portA (l : Link) (f : OwnFrame) : (l.issue f).portA = l.portA := by
  unfold Link.issue; split_ifs <;> rfl

@[simp] theorem issue_portB (l : Link) (f : OwnFrame) : (l.issue f).portB = l.portB := by
  unfold Link.issue; split_ifs <;> rfl

@[simp] theorem issue_fwdA (l : Link) (f : OwnFrame) : (l.issue f).fwdA = l.fwdA := by
  unfold Link.issue; split_ifs <;> rfl

@[simp] theorem issue_fwdB (l : Link) (f : OwnFrame) : (l.issue f).fwdB = l.fwdB := by
  unfold Link.issue; split_ifs <;> rfl

/-- A property of the link that issuing a frame keeps is kept by issuing many. -/
theorem issues_keep {P : Link → Prop} (h : ∀ l f, P l → P (l.issue f)) (fs : List OwnFrame) (l : Link) (hl : P l) :
    P (fs.foldl Link.issue l) := by
  induction fs generalizing l with
  | nil => exact hl
  | cons f fs ih => exact ih _ (h l f hl)

@[simp] theorem issues_time (fs : List OwnFrame) (l : Link) : (fs.foldl Link.issue l).time = l.time :=
  issues_keep (P := fun m => m.time = l.time) (fun m f h => by simp [h]) fs l rfl

@[simp] theorem issues_ownNode (fs : List OwnFrame) (l : Link) : (fs.foldl Link.issue l).ownNode = l.ownNode :=
  issues_keep (P := fun m => m.ownNode = l.ownNode) (fun m f h => by simp [h]) fs l rfl

@[simp] theorem issues_slot (fs : List OwnFrame) (l : Link) : (fs.foldl Link.issue l).slot = l.slot :=
  issues_keep (P := fun m => m.slot = l.slot) (fun m f h => by simp [h]) fs l rfl

@[simp] theorem issues_portA (fs : List OwnFrame) (l : Link) : (fs.foldl Link.issue l).portA = l.portA :=
  issues_keep (P := fun m => m.portA = l.portA) (fun m f h => by simp [h]) fs l rfl

@[simp] theorem issues_portB (fs : List OwnFrame) (l : Link) : (fs.foldl Link.issue l).portB = l.portB :=
  issues_keep (P := fun m => m.portB = l.portB) (fun m f h => by simp [h]) fs l rfl

@[simp] theorem issues_fwdA (fs : List OwnFrame) (l : Link) : (fs.foldl Link.issue l).fwdA = l.fwdA :=
  issues_keep (P := fun m => m.fwdA = l.fwdA) (fun m f h => by simp [h]) fs l rfl

@[simp] theorem issues_fwdB (fs : List OwnFrame) (l : Link) : (fs.foldl Link.issue l).fwdB = l.fwdB :=
  issues_keep (P := fun m => m.fwdB = l.fwdB) (fun m f h => by simp [h]) fs l rfl

@[simp] theorem take_levels (u : ReportUnit) (r : Report) : (u.take r).levels = u.levels := by
  unfold ReportUnit.take; split_ifs <;> rfl

@[simp] theorem takes_levels (rs : List Report) (u : ReportUnit) : (rs.foldl ReportUnit.take u).levels = u.levels := by
  induction rs generalizing u with
  | nil => rfl
  | cons r rs ih => simp [ih]

/-! ### Works is a preorder -/

theorem Works.refl (s : State) : Works s s where
  inReset := rfl
  pending := rfl
  tables := rfl
  link := ⟨[], rfl⟩
  req := ⟨[], rfl⟩
  admission := rfl
  counter := rfl
  plans := .refl
  arrivals := rfl
  tracks := .refl
  gate := rfl
  probe := rfl
  engine := .refl
  builds := fun _ => .refl
  stations := fun _ => .refl
  lanes := fun _ => .refl
  reports := ⟨[], by simp, rfl⟩

theorem Works.time {s t : State} (h : Works s t) : t.link.time = s.link.time := by
  obtain ⟨fs, e⟩ := h.link; rw [e]; simp

theorem Works.ownNode {s t : State} (h : Works s t) : t.link.ownNode = s.link.ownNode := by
  obtain ⟨fs, e⟩ := h.link; rw [e]; simp

theorem Works.levels {s t : State} (h : Works s t) : t.reports.levels = s.reports.levels := by
  obtain ⟨rs, _, e⟩ := h.reports; rw [e]; simp

theorem Works.settings {s t : State} (h : Works s t) : t.req.settings = s.req.settings := by
  obtain ⟨is, e⟩ := h.req; rw [e]

theorem Works.latch {s t : State} (h : Works s t) : t.req.latch = s.req.latch := by
  obtain ⟨is, e⟩ := h.req; rw [e]

theorem Works.sup {s t : State} (h : Works s t) : t.req.sup = s.req.sup := by
  obtain ⟨is, e⟩ := h.req; rw [e]

theorem Works.trans {s t u : State} (h : Works s t) (k : Works t u) : Works s u where
  inReset := k.inReset.trans h.inReset
  pending := k.pending.trans h.pending
  tables := k.tables.trans h.tables
  link := by
    obtain ⟨fs, e⟩ := h.link; obtain ⟨gs, e'⟩ := k.link
    exact ⟨fs ++ gs, by rw [e', e, List.foldl_append]⟩
  req := by
    obtain ⟨is, e⟩ := h.req; obtain ⟨js, e'⟩ := k.req
    exact ⟨is ++ js, by rw [e', e, List.foldl_append]⟩
  admission := k.admission.trans h.admission
  counter := k.counter.trans h.counter
  plans := h.plans.trans k.plans
  arrivals := k.arrivals.trans h.arrivals
  tracks := h.tracks.trans k.tracks
  gate := k.gate.trans h.gate
  probe := k.probe.trans h.probe
  engine := h.engine.trans k.engine
  builds := fun i => (h.builds i).trans (k.builds i)
  stations := fun i => (h.stations i).trans (k.stations i)
  lanes := fun i => (h.lanes i).trans (k.lanes i)
  reports := by
    obtain ⟨rs, q, e⟩ := h.reports; obtain ⟨qs, q', e'⟩ := k.reports
    refine ⟨rs ++ qs, ?_, by rw [e', e, List.foldl_append]⟩
    intro r hr
    rcases List.mem_append.mp hr with hr | hr
    · exact q r hr
    · have := q' r hr
      rwa [h.levels, h.time] at this

/-- Working operations one after another over a list. -/
theorem Works.foldl {α : Type} (op : State → α → State) (h : ∀ s a, Works s (op s a)) (l : List α) (s : State) :
    Works s (l.foldl op s) := by
  induction l generalizing s with
  | nil => exact .refl s
  | cons a l ih => exact (h s a).trans (ih _)

end Sys2Proof.Machine
end

