-- ==== Sys2Proof/Laws/Settle.lean ====
section
/-!
SUPPORT. What serving the ports does (`settle`): the parts it leaves, the states it leaves as they are (`Served`), and the
way of one frame put on port A or port B in such a state.
-/

namespace Sys2Proof.Machine

/-! ### Whether a reply has a frame to produce -/

theorem produceReply_quiet {s : State} (h : replying s.req.exec = false) : produceReply s = s := by
  unfold produceReply
  rcases e : s.req.exec with _ | x
  · rfl
  · rw [e] at h
    rcases x with ⟨k, tg, src, cs, ph⟩
    rcases ph with _ | _ | ⟨sg, n, r, w, c⟩ | _
    · rfl
    · rfl
    · cases h
    · rfl

theorem produceReply_slot {s : State} (h : replying s.req.exec = true) : (produceReply s).link.slot.isSome = true := by
  unfold produceReply
  rcases e : s.req.exec with _ | x
  · rw [e] at h; cases h
  · rw [e] at h
    rcases x with ⟨k, tg, src, cs, ph⟩
    rcases ph with _ | _ | ⟨_ | ⟨g, sg⟩, n, r, w, c⟩ | _
    · cases h
    · cases h
    · rfl
    · rfl
    · cases h

/-! ### Served states -/

/-- A state whose slot has been filled: no frame can move up, and no reply has a frame to produce that is not held back. -/
structure Filled (s : State) : Prop where
  slot    : s.link.slot = none →
              s.req.waiting = none ∧ s.req.heldFinal = none ∧ (s.req.late = false → replying s.req.exec = false)
  waiting : s.req.waiting = none → s.req.heldFinal = none

/-- A state that serving the ports leaves as it is. -/
structure Served (s : State) : Prop extends Filled s where
  idleA   : s.link.portA.sending = none →
              s.link.fwdA = [] ∧ s.link.slot = none ∧ s.reports.queue = [] ∧ s.req.late = false
  idleB   : s.link.portB.sending = none → s.link.fwdB = [] ∧ s.link.ownB = []

theorem moveUp_filled {s : State} (h : Filled s) : moveUp s = s := by
  have h1 := h.slot
  have h2 := h.waiting
  rcases s with ⟨_, ⟨_, _, _, _, sl, _, _, _, _⟩, ⟨ex, lt, w, hf, _, _, _⟩, _, _, _, _, _, _, _, _, _, _⟩
  rcases sl with _ | sl <;> rcases w with _ | w <;> rcases hf with _ | hf <;> simp_all [moveUp]

theorem fillSlot_of_filled {s : State} (h : Filled s) : fillSlot s = s := by
  unfold fillSlot
  rw [moveUp_filled h]
  dsimp only
  split_ifs with c
  · simp only [Bool.and_eq_true, Option.isNone_iff_eq_none, Bool.not_eq_true'] at c
    exact produceReply_quiet ((h.slot c.1.1).2.2 c.2)
  · rfl

/-- An idle port A with nothing to send stays as it is. -/
theorem startA_quiet {s : State} (a : s.link.fwdA = []) (b : s.link.slot = none) (d : s.reports.queue = []) :
    startA s = s := by
  unfold startA
  simp [a, b, d, chooseSide]

/-- The turn of a busy port A, or of an idle one with nothing to send and no frame held back. -/
theorem turnA_quiet {s : State} (hf : Filled s)
    (h : s.link.portA.sending = none →
      s.link.fwdA = [] ∧ s.link.slot = none ∧ s.reports.queue = [] ∧ s.req.late = false) : turnA s = s := by
  unfold turnA
  by_cases e : s.link.portA.sending = none
  · obtain ⟨a, b, d, l⟩ := h e
    have hl : { s with req := { s.req with late := false } } = s := by rw [← l]
    simp only [startA_quiet a b d, hl, fillSlot_of_filled hf, e, Option.isSome_none, Bool.false_eq_true, if_false]
  · rw [if_pos (by simpa [Option.isSome_iff_ne_none] using e)]

theorem startB_served {s : State} (h : Served s) : startB s = s := by
  unfold startB Link.startB
  rcases e : s.link.portB.sending with _ | x
  · obtain ⟨a, b⟩ := h.idleB e
    simp [a, b, chooseSide]
  · simp

theorem settle_of_served {s : State} (h : Served s) : settle s = s := by
  unfold settle
  rw [fillSlot_of_filled h.toFilled, turnA_quiet h.toFilled h.idleA, fillSlot_of_filled h.toFilled, startB_served h]

/-! ### Serving leaves a served state -/

theorem produceReply_link {s : State} : (produceReply s).req.waiting = s.req.waiting
    ∧ (produceReply s).req.heldFinal = s.req.heldFinal ∧ (produceReply s).req.late = s.req.late := by
  unfold produceReply
  split
  · exact ⟨rfl, rfl, rfl⟩
  · split <;> exact ⟨rfl, rfl, rfl⟩

/-- Filling the slot leaves the mark that holds a reply back. -/
theorem fillSlot_late (s : State) : (fillSlot s).req.late = s.req.late := by
  have hm : (moveUp s).req.late = s.req.late := by unfold moveUp; split <;> rfl
  unfold fillSlot
  dsimp only
  split_ifs
  · rw [produceReply_link.2.2, hm]
  · exact hm

theorem fillSlot_filled (s : State) : Filled (fillSlot s) := by
  unfold fillSlot
  dsimp only
  have hm : Filled (moveUp s) ∨ (moveUp s).link.slot = none ∧ (moveUp s).req.waiting = none
      ∧ (moveUp s).req.heldFinal = none := by
    rcases s with ⟨_, ⟨_, _, _, _, sl, _, _, _, _⟩, ⟨ex, lt, w, hf, _, _, _⟩, _, _, _, _, _, _, _, _, _, _⟩
    rcases sl with _ | sl <;> rcases w with _ | w <;> rcases hf with _ | hf <;>
      first
        | exact Or.inr ⟨rfl, rfl, rfl⟩
        | exact Or.inl ⟨fun x => (nomatch x), fun _ => rfl⟩
        | exact Or.inl ⟨fun x => (nomatch x), fun x => (nomatch x)⟩
  split_ifs with c
  · simp only [Bool.and_eq_true, Option.isNone_iff_eq_none, Bool.not_eq_true'] at c
    have c2 : (moveUp s).req.heldFinal = none := by
      rcases hm with h | h
      · exact (h.slot c.1.1).2.1
      · exact h.2.2
    refine ⟨fun e => ?_, fun _ => by rw [produceReply_link.2.1, c2]⟩
    rw [produceReply_link.1, produceReply_link.2.1]
    refine ⟨c.1.2, c2, fun _ => ?_⟩
    rcases hr : replying (moveUp s).req.exec with _ | _
    · rw [produceReply_quiet hr]; exact hr
    · have := produceReply_slot hr
      rw [e] at this; cases this
  · rcases hm with h | ⟨h1, h2, h3⟩
    · exact h
    · refine ⟨fun _ => ⟨h2, h3, fun l => ?_⟩, fun _ => h3⟩
      simp [h1, h2, l] at c

/-- What is left of port A's side when it has taken its turn. -/
theorem startA_idle {s : State} (h : (startA s).link.portA.sending = none) :
    startA s = s ∧ s.link.fwdA = [] ∧ s.link.slot = none ∧ s.reports.queue = [] := by
  have hc : ∀ (q : List Report), q ≠ [] → ∃ x, chooseReport q = some x := by
    intro q hq
    rcases q with _ | ⟨r, q⟩
    · exact absurd rfl hq
    · unfold chooseReport
      split
      · exact ⟨_, rfl⟩
      · split_ifs <;> exact ⟨_, rfl⟩
  unfold startA at h ⊢
  rcases e : s.link.portA.sending with _ | x
  · rcases ef : s.link.fwdA with _ | ⟨b, q⟩
    · rcases es : s.link.slot with _ | f
      · rcases er : s.reports.queue with _ | ⟨r, rs⟩
        · simp [chooseSide]
        · obtain ⟨x, hx⟩ := hc s.reports.queue (by rw [er]; simp)
          simp [e, ef, es, er, chooseSide, sendOwnA, sendReport] at h
          rw [er] at hx
          simp [hx] at h
      · simp [e, ef, es, chooseSide, sendOwnA] at h
    · by_cases ho : (s.link.slot.isSome || !s.reports.queue.isEmpty) = true
      · by_cases hm : s.link.portA.mark = .forward
        · simp only [e, ef, ho, hm, chooseSide, List.isEmpty_cons, Bool.not_false, if_true] at h
          rcases es : s.link.slot with _ | f
          · rw [es] at ho
            obtain ⟨x, hx⟩ := hc s.reports.queue (by intro hq; rw [hq] at ho; simp at ho)
            simp [sendOwnA, es, sendReport, hx] at h
          · simp [sendOwnA, es] at h
        · simp [e, ef, ho, hm, chooseSide, sendForwardA] at h
      · simp only [Bool.not_eq_true] at ho
        simp [e, ef, ho, chooseSide, sendForwardA] at h
  · simp [e] at h

/-- Filling the slot leaves port A and its forward queue. -/
theorem fillSlot_portA (s : State) : (fillSlot s).link.portA = s.link.portA ∧ (fillSlot s).link.fwdA = s.link.fwdA
    ∧ (fillSlot s).reports = s.reports := by
  have hm : (moveUp s).link.portA = s.link.portA ∧ (moveUp s).link.fwdA = s.link.fwdA
      ∧ (moveUp s).reports = s.reports := by
    unfold moveUp; split <;> exact ⟨rfl, rfl, rfl⟩
  have hp : ∀ u : State, (produceReply u).link.portA = u.link.portA ∧ (produceReply u).link.fwdA = u.link.fwdA
      ∧ (produceReply u).reports = u.reports := by
    intro u
    unfold produceReply
    split
    · exact ⟨rfl, rfl, rfl⟩
    · split <;> exact ⟨rfl, rfl, rfl⟩
  unfold fillSlot
  dsimp only
  split_ifs
  · obtain ⟨a, b, c⟩ := hp (moveUp s)
    exact ⟨a.trans hm.1, b.trans hm.2.1, c.trans hm.2.2⟩
  · exact hm

/-- Drawing whether a frame is held back leaves everything but that. -/
theorem drawLate_link (s : State) : (drawLate s).link = s.link ∧ (drawLate s).reports = s.reports
    ∧ (drawLate s).req.waiting = s.req.waiting ∧ (drawLate s).req.heldFinal = s.req.heldFinal
    ∧ (drawLate s).req.exec = s.req.exec := by
  unfold drawLate
  split_ifs <;> exact ⟨rfl, rfl, rfl, rfl, rfl⟩

/-- A port A that is idle after its turn has nothing to send, and no frame is held back. -/
theorem turnA_idle {s : State} (h : (turnA s).link.portA.sending = none) :
    Filled (turnA s) ∧ (turnA s).link.fwdA = [] ∧ (turnA s).link.slot = none ∧ (turnA s).reports.queue = []
      ∧ (turnA s).req.late = false := by
  unfold turnA at h ⊢
  dsimp only at h ⊢
  split_ifs at h ⊢ with a b c
  · rw [h] at a; cases a
  · rw [(drawLate_link _).1] at h
    rw [h] at b; cases b
  · rw [(drawLate_link _).1] at h
    rw [h] at c; cases c
  · obtain ⟨e, x, y, z⟩ := startA_idle h
    rw [e]
    exact ⟨fillSlot_filled _, x, y, z, fillSlot_late _⟩

theorem startB_idle {l : Link} (h : l.startB.portB.sending = none) : l.startB.fwdB = [] ∧ l.startB.ownB = [] := by
  have hr : ∀ m : Link, m.refill.portB = m.portB := by
    intro m; unfold Link.refill; split_ifs
    · split <;> rfl
    · rfl
  unfold Link.startB at h ⊢
  rcases e : l.portB.sending with _ | x
  · rcases ef : l.fwdB with _ | ⟨b, q⟩
    · rcases eo : l.ownB with _ | ⟨f, q⟩
      · simp [chooseSide, ef, eo]
      · simp [e, ef, eo, chooseSide, Link.sendOwnB, hr] at h
    · rcases eo : l.ownB with _ | ⟨f, q'⟩
      · simp [e, ef, eo, chooseSide, Link.sendForwardB] at h
      · by_cases hm : l.portB.mark = .forward
        · simp [e, ef, eo, hm, chooseSide, Link.sendOwnB, hr] at h
        · simp [e, ef, eo, hm, chooseSide, Link.sendForwardB] at h
  · simp [e] at h

theorem startB_portA (l : Link) : l.startB.portA = l.portA ∧ l.startB.fwdA = l.fwdA ∧ l.startB.slot = l.slot
    ∧ l.startB.time = l.time ∧ l.startB.ownNode = l.ownNode := by
  have hr : ∀ m : Link, m.refill.portA = m.portA ∧ m.refill.fwdA = m.fwdA ∧ m.refill.slot = m.slot
      ∧ m.refill.time = m.time ∧ m.refill.ownNode = m.ownNode := by
    intro m; unfold Link.refill; split_ifs
    · split <;> exact ⟨rfl, rfl, rfl, rfl, rfl⟩
    · exact ⟨rfl, rfl, rfl, rfl, rfl⟩
  unfold Link.startB
  split_ifs
  · exact ⟨rfl, rfl, rfl, rfl, rfl⟩
  · split
    · unfold Link.sendForwardB; split <;> exact ⟨rfl, rfl, rfl, rfl, rfl⟩
    · unfold Link.sendOwnB
      split
      · exact ⟨rfl, rfl, rfl, rfl, rfl⟩
      · exact hr _
    · exact ⟨rfl, rfl, rfl, rfl, rfl⟩

/-- Serving the ports leaves a served state. -/
theorem settle_served (s : State) : Served (settle s) := by
  have hf : Filled (fillSlot (turnA (fillSlot s))) := fillSlot_filled _
  have hA : (fillSlot (turnA (fillSlot s))).link.portA.sending = none →
      (fillSlot (turnA (fillSlot s))).link.fwdA = [] ∧ (fillSlot (turnA (fillSlot s))).link.slot = none
        ∧ (fillSlot (turnA (fillSlot s))).reports.queue = [] ∧ (fillSlot (turnA (fillSlot s))).req.late = false := by
    intro h
    rw [(fillSlot_portA _).1] at h
    obtain ⟨f, a, b, c, d⟩ := turnA_idle h
    rw [fillSlot_of_filled f]
    exact ⟨a, b, c, d⟩
  unfold settle startB
  obtain ⟨b1, b2, b3, -, -⟩ := startB_portA (fillSlot (turnA (fillSlot s))).link
  exact ⟨⟨by dsimp only; rw [b3]; exact hf.slot, hf.waiting⟩, by dsimp only; rw [b1, b2, b3]; exact hA, startB_idle⟩

theorem settled_iff {s : State} : Settled s ↔ Served s :=
  ⟨fun h => by have := settle_served s; rwa [show settle s = s from h] at this, settle_of_served⟩

theorem settle_settled (s : State) : Settled (settle s) := settled_iff.mpr (settle_served s)

end Sys2Proof.Machine
end

