-- ==== Sys2Proof/Laws/Ports.lean ====
section
/-!
SUPPORT. One frame on its way out of a served device: what `settle` leaves alone (`Services`), a RESPONSE put on port A,
a report queued, a frame issued on port B, a frame forwarded.
-/

namespace Sys2Proof.Machine

/-! ### What serving the ports leaves alone -/

/-- t differs from s only in the ports, the request unit's outgoing frames, the reply in progress and the report queue. -/
structure Services (s t : State) : Prop where
  inReset  : t.inReset = s.inReset
  pending  : t.pending = s.pending
  tables   : t.tables = s.tables
  plans    : t.plans = s.plans
  tracker  : t.tracker = s.tracker
  engine   : t.engine = s.engine
  builds   : t.builds = s.builds
  stations : t.stations = s.stations
  lanes    : t.lanes = s.lanes
  time     : t.link.time = s.link.time
  ownNode  : t.link.ownNode = s.link.ownNode
  settings : t.req.settings = s.req.settings
  latch    : t.req.latch = s.req.latch
  sup      : t.req.sup = s.req.sup
  levels   : t.reports.levels = s.reports.levels

theorem Services.refl (s : State) : Services s s :=
  ⟨rfl, rfl, rfl, rfl, rfl, rfl, rfl, rfl, rfl, rfl, rfl, rfl, rfl, rfl, rfl⟩

theorem Services.trans {s t u : State} (h : Services s t) (k : Services t u) : Services s u :=
  ⟨k.1.trans h.1, k.2.trans h.2, k.3.trans h.3, k.4.trans h.4, k.5.trans h.5, k.6.trans h.6, k.7.trans h.7,
   k.8.trans h.8, k.9.trans h.9, k.10.trans h.10, k.11.trans h.11, k.12.trans h.12, k.13.trans h.13, k.14.trans h.14,
   k.15.trans h.15⟩

theorem moveUp_services (s : State) : Services s (moveUp s) := by
  unfold moveUp; split <;> exact ⟨rfl, rfl, rfl, rfl, rfl, rfl, rfl, rfl, rfl, rfl, rfl, rfl, rfl, rfl, rfl⟩

theorem produceReply_services (s : State) : Services s (produceReply s) := by
  unfold produceReply
  split
  · exact .refl s
  · split <;> exact ⟨rfl, rfl, rfl, rfl, rfl, rfl, rfl, rfl, rfl, rfl, rfl, rfl, rfl, rfl, rfl⟩

theorem fillSlot_services (s : State) : Services s (fillSlot s) := by
  unfold fillSlot
  dsimp only
  split_ifs
  · exact (moveUp_services s).trans (produceReply_services _)
  · exact moveUp_services s

theorem startA_services (s : State) : Services s (startA s) := by
  unfold startA
  split_ifs
  · exact .refl s
  · split
    · unfold sendForwardA
      split <;> exact ⟨rfl, rfl, rfl, rfl, rfl, rfl, rfl, rfl, rfl, rfl, rfl, rfl, rfl, rfl, rfl⟩
    · unfold sendOwnA
      split
      · exact ⟨rfl, rfl, rfl, rfl, rfl, rfl, rfl, rfl, rfl, rfl, rfl, rfl, rfl, rfl, rfl⟩
      · unfold sendReport
        split <;> exact ⟨rfl, rfl, rfl, rfl, rfl, rfl, rfl, rfl, rfl, rfl, rfl, rfl, rfl, rfl, rfl⟩
    · exact .refl s

theorem drawLate_services (s : State) : Services s (drawLate s) := by
  unfold drawLate
  split_ifs
  · exact ⟨rfl, rfl, rfl, rfl, rfl, rfl, rfl, rfl, rfl, rfl, rfl, rfl, rfl, rfl, rfl⟩
  · exact .refl s

theorem turnA_services (s : State) : Services s (turnA s) := by
  have h : Services s (startA (fillSlot { s with req := { s.req with late := false } })) :=
    (show Services s { s with req := { s.req with late := false } } from
      ⟨rfl, rfl, rfl, rfl, rfl, rfl, rfl, rfl, rfl, rfl, rfl, rfl, rfl, rfl, rfl⟩).trans
      ((fillSlot_services _).trans (startA_services _))
  unfold turnA
  dsimp only
  split_ifs
  · exact .refl s
  · exact (startA_services s).trans (drawLate_services _)
  · exact h.trans (drawLate_services _)
  · exact h

theorem startB_services (s : State) : Services s (startB s) := by
  obtain ⟨-, -, -, a, b⟩ := startB_portA s.link
  exact ⟨rfl, rfl, rfl, rfl, rfl, rfl, rfl, rfl, rfl, a, b, rfl, rfl, rfl, rfl⟩

theorem settle_services (s : State) : Services s (settle s) :=
  (fillSlot_services s).trans ((turnA_services _).trans ((fillSlot_services _).trans (startB_services _)))

/-- Port B under the service of port A. -/
theorem fillSlot_portB (s : State) : Part.Same s (fillSlot s) .portB := by
  have hm : Part.Same s (moveUp s) .portB := by unfold moveUp; split <;> exact ⟨rfl, rfl, rfl, rfl⟩
  have hp : ∀ u : State, Part.Same u (produceReply u) .portB := by
    intro u
    unfold produceReply
    split
    · exact ⟨rfl, rfl, rfl, rfl⟩
    · split <;> exact ⟨rfl, rfl, rfl, rfl⟩
  unfold fillSlot
  dsimp only
  split_ifs
  · obtain ⟨a, b, c, d⟩ := hp (moveUp s)
    exact ⟨a.trans hm.1, b.trans hm.2.1, c.trans hm.2.2.1, d.trans hm.2.2.2⟩
  · exact hm

theorem startA_portB (s : State) : Part.Same s (startA s) .portB := by
  unfold startA
  split_ifs
  · exact ⟨rfl, rfl, rfl, rfl⟩
  · split
    · unfold sendForwardA; split <;> exact ⟨rfl, rfl, rfl, rfl⟩
    · unfold sendOwnA
      split
      · exact ⟨rfl, rfl, rfl, rfl⟩
      · unfold sendReport; split <;> exact ⟨rfl, rfl, rfl, rfl⟩
    · exact ⟨rfl, rfl, rfl, rfl⟩

theorem turnA_portB (s : State) : Part.Same s (turnA s) .portB := by
  have hd : ∀ u : State, Part.Same u (drawLate u) .portB := by
    intro u
    unfold drawLate
    split_ifs <;> exact ⟨rfl, rfl, rfl, rfl⟩
  have tr : ∀ {a b c : State}, Part.Same a b .portB → Part.Same b c .portB → Part.Same a c .portB := fun h k =>
    ⟨k.1.trans h.1, k.2.1.trans h.2.1, k.2.2.1.trans h.2.2.1, k.2.2.2.trans h.2.2.2⟩
  have h : Part.Same s (startA (fillSlot { s with req := { s.req with late := false } })) .portB :=
    tr (tr (b := { s with req := { s.req with late := false } }) ⟨rfl, rfl, rfl, rfl⟩ (fillSlot_portB _)) (startA_portB _)
  unfold turnA
  dsimp only
  split_ifs
  · exact ⟨rfl, rfl, rfl, rfl⟩
  · exact tr (startA_portB s) (hd _)
  · exact tr h (hd _)
  · exact h

/-- Port A's side under the service of port B. -/
theorem startB_sideA (s : State) : Part.Same s (startB s) .portA ∧ (startB s).req = s.req
    ∧ (startB s).reports = s.reports := by
  obtain ⟨a, b, c, -, -⟩ := startB_portA s.link
  exact ⟨⟨a, b, c, rfl, rfl⟩, rfl, rfl⟩

theorem Part.Same.portB_trans {s t u : State} (h : Part.Same s t .portB) (k : Part.Same t u .portB) :
    Part.Same s u .portB :=
  ⟨k.1.trans h.1, k.2.1.trans h.2.1, k.2.2.1.trans h.2.2.1, k.2.2.2.trans h.2.2.2⟩

/-- Port B idle with nothing to send stays as it is. -/
theorem startB_quiet {s : State} (h : s.link.portB.sending = none → s.link.fwdB = [] ∧ s.link.ownB = []) :
    startB s = s := by
  unfold startB Link.startB
  rcases e : s.link.portB.sending with _ | x
  · obtain ⟨a, b⟩ := h e
    simp [a, b, chooseSide]
  · simp

/-- A served state whose ports, reply and reports are as in a served state. -/
theorem Served.of_same {s u : State} (h : Served s) (hA : Part.Same s u .portA) (hB : Part.Same s u .portB)
    (hx : s.link.slot = none → s.req.late = false → replying u.req.exec = false) (hl : u.req.late = s.req.late)
    (hr : s.link.portA.sending = none → u.reports.queue = []) : Served u := by
  obtain ⟨a, b, c, d, e⟩ := hA
  obtain ⟨a', b', c', _⟩ := hB
  refine ⟨⟨?_, ?_⟩, ?_, ?_⟩
  · rw [c, d, e, hl]
    exact fun hs => ⟨(h.slot hs).1, (h.slot hs).2.1, hx hs⟩
  · rw [d, e]; exact h.waiting
  · rw [a, b, c, hl]
    exact fun hs => ⟨(h.idleA hs).1, (h.idleA hs).2.1, hr hs, (h.idleA hs).2.2.2⟩
  · rw [a', b', c']; exact h.idleB

theorem KeepsAllBut.refl (s : State) : KeepsAllBut [] s s :=
  ⟨rfl, rfl, fun p _ => by cases p <;> simp [Part.Same]⟩

/-! ### Service of port A and of port B apart -/

/-- The service of port A. -/
theorem settle_eq (s : State) : settle s = startB (fillSlot (turnA (fillSlot s))) := rfl

/-- Only port B changes when port A is served already. -/
theorem settle_onlyB {u : State} (hf : Filled u)
    (hA : u.link.portA.sending = none →
      u.link.fwdA = [] ∧ u.link.slot = none ∧ u.reports.queue = [] ∧ u.req.late = false) :
    settle u = startB u := by
  rw [settle_eq, fillSlot_of_filled hf, turnA_quiet hf hA, fillSlot_of_filled hf]

/-- The service of an idle port A that has something to send, with no reply in progress. -/
theorem settle_starts {u v : State} (hu : Filled u) (hi : u.link.portA.sending = none) (h1 : startA u = v)
    (hs : v.link.portA.sending.isSome = true) (hx : replying v.req.exec = false) (hv : Filled v) :
    settle u = startB v := by
  have hd : drawLate v = v := by unfold drawLate; rw [hx]; rfl
  have ht : turnA u = v := by
    unfold turnA
    dsimp only
    rw [h1, hi, hs, hd]
    rfl
  rw [settle_eq, fillSlot_of_filled hu, ht, fillSlot_of_filled hv]

/-- A RESPONSE put on the way out of a device whose ports were served before the event. -/
theorem settle_put {s u : State} (fr : OwnFrame) (h : Served s) (hA : Part.Same s u .portA) (hB : Part.Same s u .portB)
    (hroom : s.placesFull = false) (hx : s.link.portA.sending = none → replying u.req.exec = false) :
    PutOnA fr s (settle (placeResponse fr u)) ∧ Part.Same s (settle (placeResponse fr u)) .portB
      ∧ Part.Same u (settle (placeResponse fr u)) .exec
      ∧ (settle (placeResponse fr u)).reports = u.reports := by
  obtain ⟨a, b, c, d, e⟩ := hA
  have hb : ∀ v : State, Part.Same u v .portB → startB v = v := by
    intro v hv
    refine startB_quiet ?_
    obtain ⟨a1, b1, c1, _⟩ := hB.portB_trans hv
    rw [a1, b1, c1]; exact h.idleB
  by_cases hs : s.link.slot = none
  · obtain ⟨hw, hh, _⟩ := h.slot hs
    have hp : placeResponse fr u = { u with link := { u.link with slot := some fr } } := by
      unfold placeResponse; rw [c, hs]; rfl
    have hfil : Filled { u with link := { u.link with slot := some fr } } := by
      refine ⟨fun x => (nomatch x), fun _ => ?_⟩
      show u.req.heldFinal = none
      rw [e, hh]
    rw [hp]
    by_cases hi : s.link.portA.sending = none
    · obtain ⟨hf, _, _⟩ := h.idleA hi
      have h1 : startA { u with link := { u.link with slot := some fr } }
          = { u with link := { u.link with portA := { sending := some (.own fr), mark := .own }, slot := none } } := by
        unfold startA
        simp [a, b, hi, hf, chooseSide, sendOwnA]
      have hfil2 : Filled { u with link :=
          { u.link with portA := { sending := some (.own fr), mark := .own }, slot := none } } :=
        ⟨fun _ => ⟨by show u.req.waiting = none; rw [d, hw], by show u.req.heldFinal = none; rw [e, hh], fun _ => hx hi⟩,
          fun _ => by show u.req.heldFinal = none; rw [e, hh]⟩
      have hset : settle { u with link := { u.link with slot := some fr } }
          = { u with link := { u.link with portA := { sending := some (.own fr), mark := .own }, slot := none } } := by
        rw [settle_starts hfil (by rw [← hi, ← a]) h1 rfl (hx hi) hfil2]
        exact hb _ ⟨rfl, rfl, rfl, rfl⟩
      rw [hset]
      refine ⟨?_, hB, ⟨rfl, rfl, rfl⟩, rfl⟩
      simp [PutOnA, hi, hs, b, d, e]
    · have hset : settle { u with link := { u.link with slot := some fr } }
          = { u with link := { u.link with slot := some fr } } := by
        rw [settle_onlyB hfil (fun x => absurd (a ▸ x) hi)]
        exact hb _ ⟨rfl, rfl, rfl, rfl⟩
      rw [hset]
      refine ⟨?_, hB, ⟨rfl, rfl, rfl⟩, rfl⟩
      simp [PutOnA, hi, hs, a, b, d, e]
  · have hw : s.req.waiting = none := by
      unfold State.placesFull at hroom
      rcases es : s.link.slot with _ | x
      · exact absurd es hs
      · rcases ew : s.req.waiting with _ | y
        · rfl
        · simp [es, ew] at hroom
    have hi : s.link.portA.sending ≠ none := fun x => hs (h.idleA x).2.1
    have hp : placeResponse fr u = { u with req := { u.req with waiting := some fr } } := by
      unfold placeResponse
      rw [c, d, hw]
      simp [hs]
    have hfil : Filled { u with req := { u.req with waiting := some fr } } :=
      ⟨fun x => absurd (c ▸ x) hs, fun x => (nomatch x)⟩
    have hset : settle { u with req := { u.req with waiting := some fr } }
        = { u with req := { u.req with waiting := some fr } } := by
      rw [settle_onlyB hfil (fun x => absurd (a ▸ x) hi)]
      exact hb _ ⟨rfl, rfl, rfl, rfl⟩
    rw [hp, hset]
    refine ⟨?_, hB, ⟨rfl, rfl, rfl⟩, rfl⟩
    simp [PutOnA, hi, hs, a, b, c, e]

/-! ### Reports -/

theorem take_queue_ne (u : ReportUnit) (r : Report) (h : u.queue = []) :
    (u.take r) = { u with queue := [r] } := by
  unfold ReportUnit.take
  rw [h]
  rfl

/-- One report queued in a served device. -/
theorem settle_report {s : State} (b : ReportBody) (h : Served s) :
    Reported b s (settle (report b s)) ∧ Part.Same s (settle (report b s)) .portB
      ∧ (settle (report b s)).req = s.req := by
  have hb : ∀ v : State, Part.Same s v .portB → startB v = v := by
    intro v hv
    refine startB_quiet ?_
    obtain ⟨a1, b1, c1, _⟩ := hv
    rw [a1, b1, c1]; exact h.idleB
  unfold report
  by_cases hl : s.levelOf b = 0
  · rw [if_pos hl, settle_of_served h]
    refine ⟨?_, ⟨rfl, rfl, rfl, rfl⟩, rfl⟩
    have hl' : (reportNow s b).level = 0 := hl
    simp [Reported, hl']
  · rw [if_neg hl]
    have hl' : ¬ (reportNow s b).level = 0 := hl
    by_cases hi : s.link.portA.sending = none
    · obtain ⟨hf, hs, hq, hlate⟩ := h.idleA hi
      obtain ⟨hw, hh, hx⟩ := h.slot hs
      have hfil : ∀ (p : PortState) (u : ReportUnit),
          Filled { s with reports := u, link := { s.link with portA := p } } := fun p u =>
        ⟨fun _ => ⟨hw, hh, hx⟩, fun _ => hh⟩
      have hfil0 : Filled { s with reports := s.reports.take (reportNow s b) } :=
        ⟨fun _ => ⟨hw, hh, hx⟩, fun _ => hh⟩
      have hset : settle { s with reports := s.reports.take (reportNow s b) }
          = { s with
              reports := { s.reports with lost := 0 }
              link := { s.link with portA :=
                { sending := some (.own
                    { dst := BitVec.ofNat 8 s.req.settings.controlNode, src := s.link.ownNode, tag := 0,
                      body := .report (reportNow s b) s.reports.lost, final := false })
                  mark := .own } } } := by
        have h1 : startA { s with reports := s.reports.take (reportNow s b) }
          = { s with
              reports := { s.reports with lost := 0 }
              link := { s.link with portA :=
                { sending := some (.own
                    { dst := BitVec.ofNat 8 s.req.settings.controlNode, src := s.link.ownNode, tag := 0,
                      body := .report (reportNow s b) s.reports.lost, final := false })
                  mark := .own } } } := by
          rw [take_queue_ne _ _ hq]
          have hq' : s.reports = { s.reports with queue := [] } := by rw [← hq]
          unfold startA
          simp [hi, hf, hs, chooseSide, sendOwnA, sendReport, chooseReport, node, hq]
        rw [settle_starts hfil0 hi h1 rfl (hx hlate) (hfil _ _)]
        exact hb _ ⟨rfl, rfl, rfl, rfl⟩
      show Reported b s (settle { s with reports := s.reports.take (reportNow s b) }) ∧ _
      refine ⟨?_, ?_⟩
      · rw [hset]
        simp [Reported, hl', hi]
      · show Part.Same s (settle { s with reports := s.reports.take (reportNow s b) }) .portB
          ∧ (settle { s with reports := s.reports.take (reportNow s b) }).req = s.req
        rw [hset]
        exact ⟨⟨rfl, rfl, rfl, rfl⟩, rfl⟩
    · have hfil0 : Filled { s with reports := s.reports.take (reportNow s b) } := ⟨h.slot, h.waiting⟩
      have hset : settle { s with reports := s.reports.take (reportNow s b) }
          = { s with reports := s.reports.take (reportNow s b) } := by
        rw [settle_onlyB hfil0 (fun x => absurd x hi)]
        exact hb _ ⟨rfl, rfl, rfl, rfl⟩
      show Reported b s (settle { s with reports := s.reports.take (reportNow s b) }) ∧
        Part.Same s (settle { s with reports := s.reports.take (reportNow s b) }) .portB
          ∧ (settle { s with reports := s.reports.take (reportNow s b) }).req = s.req
      rw [hset]
      refine ⟨?_, ⟨rfl, rfl, rfl, rfl⟩, rfl⟩
      simp [Reported, hl', hi]

/-! ### Frames of port B -/

/-- A frame of port B goes no further when nothing waits at port A's side. -/
theorem settle_issue {s : State} (dst : Nat) (b : OwnBody) (h : Served s)
    (hw : s.link.waitB ≠ [] → s.link.ownB.length = Config.ownCapacity) :
    PutOnB (ownFrameB s dst b) s (settle (issueB dst b s)) ∧ Part.Same s (settle (issueB dst b s)) .portA
      ∧ (settle (issueB dst b s)).req = s.req ∧ (settle (issueB dst b s)).reports = s.reports := by
  have hl : (issueB dst b s) = { s with link := s.link.issue (ownFrameB s dst b) } := rfl
  have hfil : Filled (issueB dst b s) := by
    rw [hl]
    exact ⟨by dsimp only; rw [issue_slot]; exact h.slot, h.waiting⟩
  have hset : settle (issueB dst b s) = startB (issueB dst b s) := by
    refine settle_onlyB hfil ?_
    rw [hl]; dsimp only
    rw [issue_portA, issue_fwdA, issue_slot]; exact h.idleA
  rw [hset]
  obtain ⟨hA, hq, hr⟩ := startB_sideA (issueB dst b s)
  have hA2 : Part.Same s (issueB dst b s) .portA := by
    rw [hl]
    exact ⟨issue_portA _ _, issue_fwdA _ _, issue_slot _ _, rfl, rfl⟩
  refine ⟨?_, ⟨hA.1.trans hA2.1, hA.2.1.trans hA2.2.1, hA.2.2.1.trans hA2.2.2.1, hA.2.2.2.1.trans hA2.2.2.2.1,
    hA.2.2.2.2.trans hA2.2.2.2.2⟩, hq, hr⟩
  unfold PutOnB
  by_cases hi : s.link.portB.sending = none
  · obtain ⟨hf, ho⟩ := h.idleB hi
    have hwn : s.link.waitB = [] := by
      by_contra hne
      have := hw hne
      rw [ho] at this
      simp [Config.ownCapacity] at this
    simp [startB, issueB, Link.issue, Link.startB, hi, hf, ho, hwn, Config.ownCapacity, joinOwn, insertDecision,
      chooseSide, Link.sendOwnB, Link.refill, takeWaiting, ownFrameB, node]
  · have hb : startB (issueB dst b s) = issueB dst b s := by
      refine startB_quiet (fun x => absurd ?_ hi)
      rw [hl] at x
      simpa using x
    rw [hb, hl]
    simp only [hi, if_false]
    unfold Link.issue
    by_cases hc : s.link.waitB = [] ∧ s.link.ownB.length < Config.ownCapacity
    · simp [hc.1, hc.2]
    · have : ¬ (s.link.waitB.isEmpty && decide (s.link.ownB.length < Config.ownCapacity)) = true := by
        simpa [List.isEmpty_iff] using hc
      simp [hc, this]

/-! ### The own frames of port B (R187) -/

/-- A frame that joins the own-frame queue is one frame more. -/
theorem joinOwn_perm (f : OwnFrame) (q : List OwnFrame) : (joinOwn f q).Perm (q ++ [f]) := by
  unfold joinOwn
  split
  · induction q with
    | nil => exact List.Perm.refl _
    | cons g q ih =>
      unfold insertDecision
      split
      · exact ih.cons g
      · exact (List.perm_append_singleton f (g :: q)).symm
  · exact List.Perm.refl _

/-- The waiting frame that joins is one of those that wait. -/
theorem takeWaiting_perm {q rest : List OwnFrame} {f : OwnFrame} (h : takeWaiting q = some (f, rest)) :
    q.Perm (f :: rest) := by
  induction q generalizing f rest with
  | nil => cases h
  | cons g q ih =>
    simp only [takeWaiting] at h
    split at h
    · cases h; exact List.Perm.refl _
    · split at h
      · rename_i w others hw
        cases h
        exact ((ih hw).cons g).trans (List.Perm.swap _ _ _)
      · cases h; exact List.Perm.refl _

/-- A frame issued is one frame more among those queued and waiting. -/
theorem Link.issue_perm (l : Link) (f : OwnFrame) :
    ((l.issue f).ownB ++ (l.issue f).waitB).Perm (l.ownB ++ l.waitB ++ [f]) := by
  unfold Link.issue
  split
  · rename_i h
    have hw : l.waitB = [] := by
      rw [Bool.and_eq_true, List.isEmpty_iff] at h
      exact h.1
    simpa [hw] using joinOwn_perm f l.ownB
  · simp

/-- A waiting frame that joins stays one of the own frames. -/
theorem Link.refill_perm (l : Link) : (l.refill.ownB ++ l.refill.waitB).Perm (l.ownB ++ l.waitB) := by
  unfold Link.refill
  split
  · split
    · rename_i f rest h
      have hq := takeWaiting_perm h
      refine ((joinOwn_perm f l.ownB).append_right rest).trans ?_
      simpa using hq.symm.append_left l.ownB
    · exact List.Perm.refl _
  · exact List.Perm.refl _

/-- Issuing a frame adds it to the own frames of port B. -/
theorem issueB_joined (dst : Nat) (b : OwnBody) (s : State) : JoinedB [(dst, b)] s (issueB dst b s) := by
  have hp : (issueB dst b s).link.portB = s.link.portB := by
    unfold issueB Link.issue
    split <;> rfl
  unfold JoinedB outB
  rw [hp, List.append_assoc, List.append_assoc, List.append_assoc]
  refine List.Perm.append_left _ ?_
  rw [← List.append_assoc]
  exact Link.issue_perm s.link (ownFrameB s dst b)

/-- Nothing has joined port B of a state that keeps it. -/
theorem JoinedB.of_same {s t : State} (h : Part.Same s t .portB) : JoinedB [] s t := by
  unfold JoinedB outB
  rw [h.1, h.2.2.1, h.2.2.2]
  simp

/-- Frames that join one after the other. -/
theorem JoinedB.trans {xs ys : List (Nat × OwnBody)} {s t u : State} (h : JoinedB xs s t) (k : JoinedB ys t u)
    (own : t.link.ownNode = s.link.ownNode) : JoinedB (xs ++ ys) s u := by
  unfold JoinedB at *
  have e : (fun x : Nat × OwnBody => ownFrameB t x.1 x.2) = fun x => ownFrameB s x.1 x.2 := by
    funext x
    unfold ownFrameB
    rw [own]
  rw [List.map_append, ← List.append_assoc, ← e]
  rw [← e] at h
  exact k.trans (h.append_right _)

/-- A waiting frame that joins leaves the transmission as it is. -/
theorem Link.refill_portB (l : Link) : l.refill.portB = l.portB := by
  unfold Link.refill
  split
  · split <;> rfl
  · rfl

/-- Port B starting to send keeps its own frames. -/
theorem startB_joined (s : State) : JoinedB [] s (startB s) := by
  by_cases hs : s.link.portB.sending = none
  · have key : startB s = { s with link := s.link.sendForwardB } ∨ startB s = { s with link := s.link.sendOwnB }
        ∨ startB s = s := by
      unfold startB Link.startB
      rw [if_neg (by simp [hs])]
      split
      · exact Or.inl rfl
      · exact Or.inr (Or.inl rfl)
      · exact Or.inr (Or.inr rfl)
    unfold JoinedB
    rcases key with h | h | h <;> rw [h, List.map_nil, List.append_nil]
    · unfold outB Link.sendForwardB
      rw [hs]
      cases s.link.fwdB with
      | nil => dsimp only; rw [hs]
      | cons b rest => exact List.Perm.refl _
    · unfold outB Link.sendOwnB
      rw [hs]
      cases hf : s.link.ownB with
      | nil => dsimp only; rw [hs, hf]
      | cons f rest =>
        dsimp only
        rw [Link.refill_portB, List.append_assoc]
        exact (Link.refill_perm _).cons f
  · refine JoinedB.of_same ?_
    unfold startB Link.startB
    rw [if_pos (by simpa [Option.isSome_iff_ne_none] using hs)]
    exact ⟨rfl, rfl, rfl, rfl⟩

/-- Serving the ports keeps the own frames of port B. -/
theorem settle_joined (s : State) : JoinedB [] s (settle s) := by
  have h1 := JoinedB.of_same (((fillSlot_portB s).portB_trans (turnA_portB _)).portB_trans (fillSlot_portB _))
  have h2 := startB_joined (fillSlot (turnA (fillSlot s)))
  have own : (fillSlot (turnA (fillSlot s))).link.ownNode = s.link.ownNode :=
    ((fillSlot_services s).trans ((turnA_services _).trans (fillSlot_services _))).ownNode
  exact h1.trans h2 own

end Sys2Proof.Machine
end

