-- ==== Sys2Proof/Laws/Taken.lean ====
section
/-!
SUPPORT. From a command to its effect: what `live` and `receive` come to for a frame addressed to the device, what a taken
request comes to, and the parts kept by an effect and the service after it.
-/

namespace Sys2Proof.Machine

/-! ### Parts kept -/

theorem Part.Same.refl (s : State) (p : Part) : Part.Same s s p := by cases p <;> simp [Part.Same]

theorem Part.Same.trans {s t u : State} {p : Part} (h : Part.Same s t p) (k : Part.Same t u p) : Part.Same s u p := by
  cases p <;> simp only [Part.Same] at * <;> first
    | exact k.trans h
    | exact ⟨k.1.trans h.1, k.2.trans h.2⟩
    | exact ⟨k.1.trans h.1, k.2.1.trans h.2.1, k.2.2.trans h.2.2⟩
    | exact ⟨k.1.trans h.1, k.2.1.trans h.2.1, k.2.2.1.trans h.2.2.1, k.2.2.2.trans h.2.2.2⟩
    | exact ⟨k.1.trans h.1, k.2.1.trans h.2.1, k.2.2.1.trans h.2.2.1, k.2.2.2.1.trans h.2.2.2.1,
        k.2.2.2.2.trans h.2.2.2.2⟩

theorem KeepsAllBut.mono {ps qs : List Part} {s t : State} (h : KeepsAllBut ps s t) (hs : ∀ p ∈ ps, p ∈ qs) :
    KeepsAllBut qs s t :=
  ⟨h.1, h.2.1, fun p hp => h.2.2 p fun hm => hp (hs p hm)⟩

theorem KeepsAllBut.trans {ps : List Part} {s t u : State} (h : KeepsAllBut ps s t) (k : KeepsAllBut ps t u) :
    KeepsAllBut ps s u :=
  ⟨k.1.trans h.1, k.2.1.trans h.2.1, fun p hp => (h.2.2 p hp).trans (k.2.2 p hp)⟩

/-- The parts that serving the ports leaves alone. -/
theorem Services.keeps {s t : State} (h : Services s t) :
    KeepsAllBut [.portA, .portB, .exec, .reports] s t := by
  refine ⟨h.inReset, h.pending, fun p hp => ?_⟩
  cases p <;> simp only [Part.Same] <;> first
    | exact h.time
    | exact h.ownNode
    | exact h.settings
    | exact h.latch
    | exact h.sup
    | exact h.builds
    | exact h.stations
    | exact h.lanes
    | exact h.levels
    | exact congrArg _ h.tables
    | exact congrArg _ h.plans
    | exact congrArg _ h.tracker
    | exact congrArg _ h.engine
    | exact ⟨congrArg _ h.engine, congrArg _ h.engine⟩
    | exact absurd (by simp) hp

/-- The same, where port B, the request in execution and the reports stay too. -/
theorem Services.keeps_but_A {s t : State} (h : Services s t) (hB : Part.Same s t .portB)
    (hx : Part.Same s t .exec) (hr : t.reports = s.reports) : KeepsAllBut [.portA] s t := by
  refine ⟨h.inReset, h.pending, fun p hp => ?_⟩
  by_cases hm : p ∈ ([.portA, .portB, .exec, .reports] : List Part)
  · simp only [List.mem_cons, List.not_mem_nil, or_false] at hm hp
    rcases hm with e | e | e | e
    · exact absurd e hp
    · exact e ▸ hB
    · subst e; exact hx
    · subst e; exact ⟨by rw [hr], by rw [hr]⟩
  · exact h.keeps.2.2 p hm

/-! ### Commands on a running device -/

theorem Running.served' {s : State} (h : Running s) : Served s := settled_iff.mp h.served

/-- In a served device whose port A is idle, no reply is in progress. -/
theorem Served.no_reply {s : State} (h : Served s) (hi : s.link.portA.sending = none) : replying s.req.exec = false := by
  obtain ⟨-, hs, -, hl⟩ := h.idleA hi
  exact (h.slot hs).2.2 hl

/-- A command on a running device is its effect and the service of the ports. -/
theorem live_running {s : State} (h : Running s) (effect : State → State) :
    live effect s = .next (settle (effect s)) := by
  unfold live
  rw [h.noReset, show settle s = s from h.served]
  rfl

/-- A command whose effect leaves the device served. -/
theorem live_served {s : State} (h : Running s) {effect : State → State} (hs : Served (effect s)) :
    live effect s = .next (effect s) := by
  rw [live_running h, settle_of_served hs]

/-- A frame addressed to the device alone is consumed. -/
theorem receive_directed {k : Byte} {f : RxFrame} {s : State} (h : Directed k f s) (act : State → State) :
    receive k f act s = act s := by
  unfold receive
  simp [h.ok, h.single, h.own]

theorem live_directed {k : Byte} {f : RxFrame} {s : State} (h : Directed k f s) (act : State → State) :
    live (receive k f act) s = .next (settle (act s)) := by
  rw [live_running h.toRunning, receive_directed h]

/-- Feeding the supervision timer sets it to `fedTimer`. -/
theorem supervise_eq (src : Byte) (s : State) : supervise src s = s.setSup (fedTimer src s) := by
  unfold supervise fedTimer armSupervision
  split_ifs <;> rfl

/-- A taken request is its act, after the feeding of the supervision timer. -/
theorem request_taken {k : Byte} {n : Nat} {bad : List Byte → Option Nat} {act : RxFrame → State → State} {f : RxFrame}
    {s : State} (h : TakenAt k n f s) (hb : bad f.payload = none) :
    request k n bad act f s = act f (s.setSup (fedTimer f.src s)) := by
  unfold request
  rw [supervise_eq]
  have h1 : (s.setSup (fedTimer f.src s)).placesFull = false := h.room
  have h2 : requestFails k n bad f (s.setSup (fedTimer f.src s)) = none := by
    unfold requestFails
    have h3 := h.ready
    simp [h3, h.size, hb]
  simp [h.single, takeRequest, h1, h2]

/-- A taken partner frame is its act, after the feeding of the supervision timer. -/
theorem partner_taken {k : Byte} {act : List Byte → State → State} {f : RxFrame} {s : State} (h : FromPartner k f s) :
    partner k act f s = act f.payload (s.setSup (fedTimer f.src s)) := by
  unfold partner
  rw [supervise_eq]
  simp [h.source, h.single]

/-- The effect of a command on parts that serving the ports does not read leaves the device served. -/
theorem Served.effect {s u : State} (h : Served s) (hk : KeepsAllBut
    [.time, .ownNode, .settings, .latch, .sup, .articles, .bases, .kinds, .plans, .admission, .counter, .arrivals,
     .tracks, .replans, .flags, .probe, .job, .gate, .builds, .stations, .lanes, .levels] s u) : Served u := by
  obtain ⟨hx, hl, -⟩ := hk.2.2 .exec (by simp)
  have hr := hk.2.2 .reports (by simp)
  refine h.of_same (hk.2.2 .portA (by simp)) (hk.2.2 .portB (by simp)) 
    (fun hs l => hx ▸ (h.slot hs).2.2 l) hl (fun hs => ?_)
  rw [hr.1]; exact (h.idleA hs).2.2.1

/-- A request answered from a state whose ports are as they were before the event: the RESPONSE is on its way out of
port A, and the service changes nothing else. -/
theorem answered {s u : State} (f : RxFrame) (r : Response) (h : Served s) (hb : isBroadcast f = false)
    (hA : Part.Same s u .portA) (hB : Part.Same s u .portB) (hn : u.link.ownNode = s.link.ownNode)
    (hroom : s.placesFull = false) (hx : s.link.portA.sending = none → replying u.req.exec = false) :
    PutOnA (responseFrame s f r) s (settle (answer f r u)) ∧ KeepsAllBut [.portA] u (settle (answer f r u)) := by
  have e : answer f r u = placeResponse (responseFrame s f r) u := by
    simp [answer, hb, responseTo, responseFrame, hn]
  obtain ⟨a, b, c, d⟩ := settle_put (responseFrame s f r) h hA hB hroom hx
  rw [e]
  refine ⟨a, ?_⟩
  have hp : Services u (placeResponse (responseFrame s f r) u) := by
    unfold placeResponse
    split_ifs <;> exact ⟨rfl, rfl, rfl, rfl, rfl, rfl, rfl, rfl, rfl, rfl, rfl, rfl, rfl, rfl, rfl⟩
  refine (hp.trans (settle_services _)).keeps_but_A ?_ c d
  obtain ⟨a', b', c', d'⟩ := hB
  obtain ⟨a2, b2, c2, d2⟩ := b
  exact ⟨a2.trans a'.symm, b2.trans b'.symm, c2.trans c'.symm, d2.trans d'.symm⟩

/-! ### Requests answered by their act -/

/-- A taken request whose act answers it from a state `u` that leaves ports, request in execution and own node. -/
theorem request_answered {k : Byte} {n : Nat} {bad : List Byte → Option Nat} {act : RxFrame → State → State} {f : RxFrame}
    {s u : State} {ps : List Part} {r : Response} (h : TakenAt k n f s) (hb : bad f.payload = none)
    (hact : act f (s.setSup (fedTimer f.src s)) = answer f r u) (hk : KeepsAllBut ps s u)
    (hps : Part.portA ∉ ps ∧ Part.portB ∉ ps ∧ Part.exec ∉ ps ∧ Part.ownNode ∉ ps) :
    ∃ t, live (receive k f (request k n bad act f)) s = .next t ∧ PutOnA (responseFrame s f r) s t
      ∧ KeepsAllBut (.portA :: ps) s t ∧ KeepsAllBut [.portA] u t := by
  have hex : u.req.exec = s.req.exec := (hk.2.2 .exec hps.2.2.1).1
  obtain ⟨a, b⟩ := answered f r h.toRunning.served' h.single (hk.2.2 .portA hps.1) (hk.2.2 .portB hps.2.1)
    (hk.2.2 .ownNode hps.2.2.2) h.room (fun hs => hex ▸ h.toRunning.served'.no_reply hs)
  refine ⟨_, live_directed h.toDirected _, ?_⟩
  rw [request_taken h hb, hact]
  exact ⟨a, (hk.mono (by simp +contextual)).trans (b.mono (by simp)), b⟩

/-- A partner frame, or a request that begins to execute, whose act leaves the device served. -/
theorem partner_served {k : Byte} {act : List Byte → State → State} {f : RxFrame} {s : State} (h : FromPartner k f s)
    (hs : Served (act f.payload (s.setSup (fedTimer f.src s)))) :
    live (receive k f (partner k act f)) s = .next (act f.payload (s.setSup (fedTimer f.src s))) := by
  rw [live_directed h.toDirected, partner_taken h, settle_of_served hs]

end Sys2Proof.Machine
end

