-- ==== Sys2Proof/Laws/WorksOps.lean ====
section
/-!
SUPPORT. Each shared operation is a working operation (`Works`), from the updates of one record up to the jobs.
-/

namespace Sys2Proof.Machine

/-! ### Updates of one record -/

theorem Works.onStation {s : State} {i : StationNo} {g : Station → Station}
    (h : StationMove s.stations[i] (g s.stations[i])) : Works s (s.onStation i g) :=
  { Works.refl s with
    stations := fun j => by
      by_cases e : i = j
      · subst e; rw [onStation_get]; exact .single h
      · rw [onStation_get_ne s g e] }

theorem Works.onLane {s : State} {k : LaneNo} {g : Lane → Lane} (h : LaneMove s.lanes[k] (g s.lanes[k])) :
    Works s (s.onLane k g) :=
  { Works.refl s with
    lanes := fun j => by
      by_cases e : k = j
      · subst e; rw [onLane_get]; exact .single h
      · rw [onLane_get_ne s g e] }

theorem Works.onBuild {s : State} {i : StationNo} {g : Build → Build}
    (h : Many BuildMove s.builds[i] (g s.builds[i])) : Works s (s.onBuild i g) :=
  { Works.refl s with
    builds := fun j => by
      by_cases e : i = j
      · subst e; rw [onBuild_get]; exact h
      · rw [onBuild_get_ne s g e] }

/-- A station record changed but for base kind, ready flag and orders. -/
theorem Works.onStationSame {s : State} {i : StationNo} {g : Station → Station}
    (h1 : (g s.stations[i]).baseKind = s.stations[i].baseKind) (h2 : (g s.stations[i]).ready = s.stations[i].ready)
    (h3 : (g s.stations[i]).orders = s.stations[i].orders) : Works s (s.onStation i g) :=
  .onStation ⟨h1, h2, .sub _ _ (h3 ▸ List.Sublist.refl _)⟩

theorem Works.onLaneSame {s : State} {k : LaneNo} {g : Lane → Lane}
    (h : (g s.lanes[k]).list = s.lanes[k].list) : Works s (s.onLane k g) :=
  .onLane (.sub _ _ (h ▸ List.Sublist.refl _))

/-- `changeFirst` changes nothing when no entry meets the test. -/
theorem changeFirst_none {α : Type} {p : α → Bool} {g : α → α} {l : List α} (h : l.find? p = none) :
    changeFirst p g l = l := by
  induction l with
  | nil => rfl
  | cons y ys ih =>
    simp only [List.find?_cons] at h
    unfold changeFirst
    split at h
    · cases h
    · rename_i hp; simp [hp, ih h]

theorem Works.onPlan {s : State} {id : PlanId} {g : Plan → Plan} (h : ∀ p, s.plan id = some p → PlanMove p (g p)) :
    Works s (s.onPlan id g) :=
  { Works.refl s with
    plans := by
      rcases e : s.plans.plans.find? (fun p => p.id == id) with _ | p
      · rw [onPlan_plans, changeFirst_none e]
      · exact .single (.change _ _ _ p e (h p e)) }

/-- A plan changed but for its lines and what admission fixed. -/
theorem Works.onPlanSame {s : State} {id : PlanId} {g : Plan → Plan}
    (h : ∀ p, (g p).id = p.id ∧ (g p).due = p.due ∧ (g p).baseKind = p.baseKind ∧ (g p).admission = p.admission
      ∧ (g p).lines = p.lines) : Works s (s.onPlan id g) :=
  .onPlan fun p _ => ⟨(h p).1, (h p).2.1, (h p).2.2.1, (h p).2.2.2.1, (h p).2.2.2.2 ▸ .same _⟩

theorem Works.dropPlan (s : State) (id : PlanId) : Works s (s.dropPlan id) :=
  { Works.refl s with plans := .single (.drop _ _) }

theorem Works.onTrack {s : State} {t : Tracking} {g : Track → Track} (hk : ∀ e, (g e).tracking = e.tracking)
    (hc : ∀ e, (g e).circuits = e.circuits ∨ (g e).circuits ≤ 16) : Works s (s.onTrack t g) :=
  { Works.refl s with tracks := .single (.change _ _ _ hk hc) }

theorem Works.setTrack (s : State) (t : Tracking) (st : TrackState) : Works s (s.setTrack t st) :=
  .onTrack (fun _ => rfl) fun _ => .inl rfl

theorem Works.circulate (s : State) (t : Tracking) : Works s (s.circulate t) := .setTrack s t _

theorem Works.bump (s : State) (t : Tracking) : Works s (s.bump t) :=
  .onTrack (fun _ => rfl) fun _ => .inr (min_le_left _ _)

theorem Works.addTrack {s : State} {e : Track} (hr : s.tracker.tracks.length < Config.trackingCapacity)
    (hc : e.circuits = 0) (hn : s.track e.tracking = none) : Works s (s.addTrack e) :=
  { Works.refl s with tracks := .single (.add _ _ hr hc hn) }

theorem Works.dropTrack (s : State) (t : Tracking) : Works s (s.dropTrack t) :=
  { Works.refl s with tracks := .single (.drop _ _) }

theorem Works.setFlag (s : State) (k : LaneNo) (v : Bool) : Works s (s.setFlag k v) :=
  { Works.refl s with engine := .single (.flags _ _) }

theorem Works.setJob {s : State} {j : Option Job}
    (h : ∀ x, j = some x → x.reruns ≤ Config.maxReruns ∨ ∃ y, s.engine.job = some y ∧ x.reruns = y.reruns) :
    Works s (s.setJob j) :=
  { Works.refl s with engine := .single (.job _ _ h) }

theorem Works.noJob (s : State) : Works s (s.setJob none) := .setJob fun _ h => nomatch h

theorem Works.enterState (s : State) (i : StationNo) (n : StationState) : Works s (s.enterState i n) := by
  unfold State.enterState
  split_ifs with h
  · exact .refl s
  · have h1 : Works s (s.onStation i fun st => { st with state := n }) := .onStationSame rfl rfl rfl
    refine h1.trans ?_
    exact { Works.refl _ with req := ⟨[i], rfl⟩ }

theorem Works.report (b : ReportBody) (s : State) : Works s (report b s) := by
  unfold Machine.report
  split_ifs with h
  · exact .refl s
  · exact { Works.refl s with
      reports := ⟨[{ body := b, level := s.levelOf b, time := s.link.time }], by
        intro r hr
        rw [List.mem_singleton] at hr
        subst hr
        exact ⟨rfl, h, rfl⟩, rfl⟩ }

theorem Works.issueB (dst : Nat) (b : OwnBody) (s : State) : Works s (issueB dst b s) :=
  { Works.refl s with link := ⟨[_], rfl⟩ }

theorem Works.sendDecision (t : Tracking) (d : DecTarget) (s : State) : Works s (sendDecision t d s) := .issueB _ _ s

theorem Works.raiseFlags (s : State) : Works s (raiseFlags s) := by
  refine Works.foldl _ (fun s k => ?_) _ s
  split_ifs
  · exact .setFlag s k true
  · exact .refl s

theorem Works.clearFlags (s : State) : Works s (clearFlags s) :=
  { Works.refl s with engine := .single (.flags _ _) }

/-! ### The plan store -/

theorem planQueue_mem {ps : List Plan} {p : Plan} (h : p ∈ planQueue ps) : p ∈ ps := by
  have ins : ∀ (q : List Plan) (x y : Plan), y ∈ queuePlan x q → y = x ∨ y ∈ q := by
    intro q x y
    induction q with
    | nil => intro h; simpa [queuePlan] using h
    | cons z q ih =>
      unfold queuePlan
      split_ifs
      · simp
      · intro h
        rcases List.mem_cons.mp h with h | h
        · exact .inr (List.mem_cons.mpr (.inl h))
        · rcases ih h with h | h
          · exact .inl h
          · exact .inr (List.mem_cons.mpr (.inr h))
  have fold : ∀ (l q : List Plan) (y : Plan), y ∈ l.foldl (fun q p => queuePlan p q) q → y ∈ l ∨ y ∈ q := by
    intro l
    induction l with
    | nil => intro q y h; exact .inr h
    | cons a l ih =>
      intro q y h
      rcases ih _ _ h with h | h
      · exact .inl (List.mem_cons_of_mem _ h)
      · rcases ins _ _ _ h with h | h
        · exact .inl (h ▸ List.mem_cons_self)
        · exact .inr h
  rcases fold _ _ _ h with h | h
  · exact (List.mem_filter.mp h).1
  · cases h

theorem Works.bindPlan {i : StationNo} {p : Plan} {e : BaseEntry} {s : State} (hb : s.builds[i].free = true) :
    Works s (bindPlan i p e s) := by
  unfold Machine.bindPlan
  refine Works.trans ?_ (.raiseFlags _)
  refine Works.trans ?_ (.enterState _ _ _)
  refine Works.trans ?_ (.onPlanSame fun q => ⟨rfl, rfl, rfl, rfl, rfl⟩)
  exact .onBuild (.single (.bind _ hb _ _ _ _))

theorem Works.offerPlan (s : State) (i : StationNo) : Works s (offerPlan s i) := by
  unfold Machine.offerPlan
  split_ifs with h
  · split
    · exact .bindPlan h.2.2
    · exact .refl s
  · exact .refl s

theorem Works.bindingAttempt (s : State) : Works s (bindingAttempt s) := .foldl _ .offerPlan _ s

theorem Works.planMore (id : PlanId) (j : Nat) (s : State) : Works s (planMore id j s) := by
  unfold Machine.planMore
  split_ifs with h
  · refine .onPlan fun p hp => ⟨rfl, rfl, rfl, rfl, ?_⟩
    unfold State.takesPlanned at h
    rw [hp] at h
    simp only [Option.bind_some] at h
    split at h
    · rename_i l hl
      exact .more _ j l hl (by simpa [PlanLine.isOpen] using h)
    · cases h
  · exact .refl s

theorem reopened_lines (p : Plan) : p.reopened.lines = p.lines := by
  unfold Plan.reopened; split_ifs <;> rfl

theorem reopened_fixed (p : Plan) : p.reopened.id = p.id ∧ p.reopened.due = p.due
    ∧ p.reopened.baseKind = p.baseKind ∧ p.reopened.admission = p.admission := by
  unfold Plan.reopened; split_ifs <;> exact ⟨rfl, rfl, rfl, rfl⟩

theorem Works.lessPlan {id : PlanId} {p : Plan} {j : Nat} {g : PlanLine → PlanLine} {s : State}
    (h : ∀ q, s.plan id = some q → LinesMove q.lines (q.lines.modify j g)) : Works s (lessPlan id p j g s) := by
  unfold Machine.lessPlan
  have h1 : Works s (s.onPlan id fun q => (q.onLine j g).reopened) := by
    refine .onPlan fun q hq => ?_
    obtain ⟨a, b, c, d⟩ := reopened_fixed (q.onLine j g)
    exact ⟨a, b, c, d, by rw [reopened_lines]; exact h q hq⟩
  split_ifs
  · exact h1.trans (.bindingAttempt _)
  · exact h1

theorem plan_id {s : State} {id : PlanId} {p : Plan} (h : s.plan id = some p) : p.id = id := by
  have := List.find?_some h
  simpa using this

/-- The plan found by an optional id is the plan found by its own id. -/
theorem bind_plan {s : State} {id : Option PlanId} {p : Plan} (h : id.bind s.plan = some p) :
    s.plan p.id = some p := by
  rcases id with _ | id
  · cases h
  · have h' : s.plan id = some p := h
    rw [plan_id h']; exact h'

theorem Works.planLess (id : Option PlanId) (j : Nat) (s : State) : Works s (planLess id j s) := by
  unfold Machine.planLess
  split
  · exact .refl s
  · rename_i p hp
    split
    · exact .refl s
    · rename_i l hl
      split_ifs with h
      · refine .lessPlan fun q hq => ?_
        rw [bind_plan hp] at hq
        cases hq
        exact .less _ j l hl h
      · exact .refl s

theorem Works.revertPlaced (id : Option PlanId) (j : Nat) (s : State) : Works s (revertPlaced id j s) := by
  unfold Machine.revertPlaced
  split
  · exact .refl s
  · rename_i p hp
    split
    · exact .refl s
    · rename_i l hl
      split_ifs with h
      · refine .lessPlan fun q hq => ?_
        rw [bind_plan hp] at hq
        cases hq
        exact .revert _ j l hl h
      · exact .refl s

theorem Works.completePlan (p : Plan) (s : State) : Works s (completePlan p s) :=
  (Works.report _ s).trans (.dropPlan _ _)

theorem Works.placeMore (id : Option PlanId) (j : Nat) (s : State) : Works s (placeMore id j s).1 := by
  unfold Machine.placeMore
  split
  · exact .refl s
  · rename_i p hp
    split
    · exact .refl s
    · rename_i l hl
      by_cases h : l.placed < l.planned
      · have h1 : Works s (s.onPlan p.id fun q => q.onLine j fun l => { l with placed := l.placed + 1 }) := by
          refine .onPlan fun q hq => ⟨rfl, rfl, rfl, rfl, ?_⟩
          rw [bind_plan hp] at hq
          cases hq
          exact .place _ j l hl h
        by_cases hc : (p.onLine j fun l => { l with placed := l.placed + 1 }).complete = true
        · simp only [h, hc, if_true]
          exact h1.trans (.completePlan _ _)
        · simp only [h, hc, if_true]
          exact h1
      · simp only [h, if_false]
        exact .refl s

theorem Works.closePart (i : StationNo) (s : State) : Works s (closePart i s) := by
  unfold Machine.closePart
  split
  · exact .refl s
  · rename_i p hp
    have h1 : Works s (s.onPlan p.id Plan.closed) := by
      refine .onPlanSame fun q => ?_
      unfold Plan.closed
      split_ifs <;> exact ⟨rfl, rfl, rfl, rfl, rfl⟩
    dsimp only
    split_ifs
    · exact h1.trans (.bindingAttempt _)
    · exact h1

/-! ### Replans -/

theorem refill_length (rs ws : List Replan) :
    (rs ++ ws.take (Config.replanCapacity - rs.length)).length ≤ max rs.length Config.replanCapacity := by
  simp only [List.length_append, List.length_take]
  omega

theorem Works.refillReplans (s : State) : Works s (refillReplans s) :=
  { Works.refl s with engine := .single (.queues _ _ _ (refill_length _ _)) }

theorem Works.askReplan (i : StationNo) (t : Tracking) (s : State) : Works s (askReplan i t s) := by
  unfold Machine.askReplan
  split_ifs with h
  · refine { Works.refl s with engine := .single (.queues _ _ _ ?_) }
    simp only [List.length_append, List.length_cons, List.length_nil]
    omega
  · exact { Works.refl s with engine := .single (.queues _ _ _ (le_max_left _ _)) }

theorem Works.keepReplans (keep : Replan → Bool) (s : State) : Works s (keepReplans keep s) := by
  have h1 : Works s { s with engine := { s.engine with
      replans := s.engine.replans.filter keep, waiting := s.engine.waiting.filter keep } } :=
    { Works.refl s with
      engine := .single (.queues _ _ _ ((List.length_filter_le _ _).trans (le_max_left _ _))) }
  exact h1.trans (.refillReplans _)

theorem Works.cancelReplans (i : StationNo) (s : State) : Works s (cancelReplans i s) := by
  refine (Works.keepReplans (fun r => r.station != i) s).trans ?_
  refine { Works.refl _ with engine := .single (.job _ _ ?_) }
  intro x hx
  rcases e : (Machine.keepReplans (fun r => r.station != i) s).engine.job with _ | y
  · rw [e] at hx; cases hx
  · rw [e] at hx
    simp only [Option.map_some, Option.some.injEq] at hx
    refine .inr ⟨y, rfl, ?_⟩
    subst hx
    split_ifs <;> rfl

/-! ### Orders -/

theorem issue_move (st : Station) (t : Tracking) (d : OrderTarget) (e : Timer)
    (h : st.orders.length < Config.orderDepth) : StationMove st (st.issue t d e) :=
  ⟨rfl, rfl, .issue _ _ h rfl⟩

theorem Works.issueOrder {i : StationNo} {t : Tracking} {d : OrderTarget} {fr : OrderFrameTarget} {s : State}
    (h : s.stations[i].orders.length < Config.orderDepth) : Works s (issueOrder i t d fr s) := by
  unfold Machine.issueOrder
  refine Works.trans ?_ (.setTrack _ _ _)
  refine Works.trans ?_ (.issueB _ _ _)
  exact .onStation (issue_move _ t d s.takeExpiry h)

theorem Works.leaveSpur (i : StationNo) (t : Tracking) (s : State) : Works s (leaveSpur i t s) :=
  .onStationSame rfl rfl rfl

theorem leaveSpur_orders (i : StationNo) (t : Tracking) (s : State) :
    (leaveSpur i t s).stations[i].orders = s.stations[i].orders := by
  unfold leaveSpur; rw [onStation_get]

theorem Works.rejectOrder {i : StationNo} {t : Tracking} {r : RejectReason} {s : State}
    (h : s.stations[i].orders.length < Config.orderDepth) : Works s (rejectOrder i t r s) :=
  (Works.leaveSpur i t s).trans (.issueOrder (by rw [leaveSpur_orders]; exact h))

theorem Works.issueDiscard (i : StationNo) (s : State) : Works s (issueDiscard i s) := by
  unfold Machine.issueDiscard
  split_ifs with h
  · split
    · exact .rejectOrder h.2
    · exact .refl s
  · exact .refl s

theorem Works.issueDiscards (i : StationNo) (s : State) : Works s (issueDiscards i s) :=
  (Works.issueDiscard i s).trans ((Works.issueDiscard i _).trans ((Works.issueDiscard i _).trans (.issueDiscard i _)))

theorem Works.withdraw (i : StationNo) (qs : List OrderSeq) (s : State) : Works s (withdraw i qs s) := by
  unfold Machine.withdraw
  split_ifs
  · exact .refl s
  · exact (Works.foldl _ (fun s r => .issueB _ _ s) _ s).trans (.onStationSame rfl rfl rfl)

theorem Works.truncateBuild (i : StationNo) (k : Nat) (s : State) : Works s (truncateBuild i k s) := by
  unfold Machine.truncateBuild
  split_ifs
  · exact (Works.onBuild (.single (.truncate _ k))).trans (.raiseFlags _)
  · exact .refl s

theorem Works.unplace (i : StationNo) (os : List Order) (s : State) : Works s (unplace i os s) := by
  unfold Machine.unplace
  dsimp only
  split
  · exact .refl s
  · exact (Works.truncateBuild i _ s).trans (.foldl _ (fun s j => .planLess _ j s) _ _)

theorem Works.toSpur (i : StationNo) (os : List Order) (s : State) : Works s (toSpur i os s) := by
  unfold Machine.toSpur
  exact (Works.onStationSame rfl rfl rfl).trans (.foldl _ (fun s o => .setTrack s _ _) _ _)

/-! ### Closing and exchange -/

theorem Works.exchangeCall (i : StationNo) (s : State) : Works s (exchangeCall i s) := .issueB _ _ s

theorem Works.awaitExchange (i : StationNo) (s : State) : Works s (awaitExchange i s) :=
  (Works.enterState s i .awaitExchange).trans ((Works.exchangeCall i _).trans (.report _ _))

theorem Works.closingTest (i : StationNo) (s : State) : Works s (closingTest i s) := by
  unfold Machine.closingTest
  split_ifs
  · exact .awaitExchange i s
  · exact .refl s

theorem Works.enterClosing (i : StationNo) (r : CloseReason) (s : State) : Works s (enterClosing i r s) := by
  have h1 : Works s (s.onStation i fun st => { st with close := some r }) := .onStationSame rfl rfl rfl
  exact h1.trans ((Works.enterState _ i .closing).trans (.closingTest i _))

theorem Works.completionNotice (i : StationNo) (s : State) : Works s (completionNotice i s) := by
  have h1 : Works s (s.onStation i fun st => { st with close := some .complete }) := .onStationSame rfl rfl rfl
  unfold Machine.completionNotice
  split
  · dsimp only
    split_ifs
    · exact h1.trans (.awaitExchange i _)
    · exact h1.trans (.enterState _ i .closing)
  · exact h1
  · exact .refl s

theorem Works.notice (n : Option StationNo) (s : State) : Works s (notice n s) := by
  rcases n with _ | i
  · exact .refl s
  · exact .completionNotice i s

/-! ### Faults -/

theorem unknown_sub {os : List Order} {p : Order → Bool} :
    OrdersMove os ((os.map Order.unknownIfTaken).filter p) := .unknown _ _ List.filter_sublist

theorem Works.faultWorking (i : StationNo) (c : StationCause) (s : State) : Works s (faultWorking i c s) := by
  unfold Machine.faultWorking
  have h1 : Works s (s.onStation i fun st =>
      { st with
        takeExpiry := none, placeExpiry := none
        orders := (s.stations[i].orders.map Order.unknownIfTaken).filter fun o => o.state != .issued }) :=
    .onStation ⟨rfl, rfl, unknown_sub⟩
  refine Works.trans ?_ (.report _ _)
  refine Works.trans ?_ (.enterState _ _ _)
  refine Works.trans ?_ (.onStationSame rfl rfl rfl)
  refine Works.trans ?_ (.cancelReplans _ _)
  refine Works.trans ?_ (.toSpur _ _ _)
  refine Works.trans ?_ (.unplace _ _ _)
  refine Works.trans ?_ (.withdraw _ _ _)
  exact h1

theorem Works.faultExchange (i : StationNo) (s : State) : Works s (faultExchange i s) := by
  have h1 : Works s (s.onStation i fun st => { st with exchangeExpiry := none, cause := .exchangeTimeout }) :=
    .onStationSame rfl rfl rfl
  exact h1.trans ((Works.enterState _ i .fault).trans (.report _ _))

theorem Works.stationFault (i : StationNo) (c : StationCause) (s : State) : Works s (stationFault i c s) := by
  unfold Machine.stationFault
  split_ifs
  · exact .faultWorking i c s
  · exact .refl s

/-! ### The cascade and the ends of orders -/

theorem Works.cutOrders {i : StationNo} {kept leaving : List Order} {named : List OrderSeq} {s : State}
    (h : kept.Sublist s.stations[i].orders) : Works s (cutOrders i kept leaving named s) := by
  unfold Machine.cutOrders
  refine Works.trans ?_ ((Works.unplace i leaving _).trans (.withdraw i named _))
  exact .onStation ⟨rfl, rfl, .sub _ _ h⟩

theorem Works.cascade {i : StationNo} {kept : List Order} {failed : Order} {later : List Order}
    {named : List OrderSeq} {s : State} (h : kept.Sublist s.stations[i].orders) :
    Works s (cascade i kept failed later named s) := by
  unfold Machine.cascade
  refine Works.trans ?_ (.issueDiscards _ _)
  refine Works.trans ?_ (.foldl _ (fun s o => .askReplan _ _ s) _ _)
  refine Works.trans ?_ (.toSpur _ _ _)
  exact .cutOrders h

theorem Works.startTake (i : StationNo) (s : State) : Works s (startTake i s) := .onStationSame rfl rfl rfl

theorem Works.casePlaced (i : StationNo) (o : Order) (k : Nat) (s : State) : Works s (casePlaced i o k s).1 := by
  unfold Machine.casePlaced
  dsimp only
  split
  · exact .dropTrack s _
  · exact (Works.onBuild (.single (.confirm _ k o.tracking))).trans
      ((Works.placeMore _ _ _).trans ((Works.dropTrack _ _).trans (.report _ _)))

theorem Works.caseChuted (o : Order) (r : RejectReason) (s : State) : Works s (caseChuted o r s) :=
  (Works.dropTrack s _).trans (.report _ _)

theorem Works.doneCase (i : StationNo) (o : Order) (s : State) : Works s (doneCase i o s).1 := by
  unfold Machine.doneCase
  split
  · exact .casePlaced i o _ s
  · exact .caseChuted o _ s

theorem Works.caseLost (i : StationNo) (o : Order) (s : State) : Works s (caseLost i o s) :=
  (Works.dropTrack s _).trans (.report _ _)

theorem Works.caseMissed (t : Tracking) (s : State) : Works s (caseMissed t s) :=
  (Works.bump s t).trans (.circulate _ t)

theorem Works.popOrder (i : StationNo) (s : State) : Works s (popOrder i s) :=
  .onStation ⟨rfl, rfl, .sub _ _ (List.tail_sublist _)⟩

theorem Works.orderTaken (i : StationNo) (s : State) : Works s (orderTaken i s) := by
  unfold Machine.orderTaken
  exact .onStation ⟨rfl, rfl, .taken _⟩

theorem Works.orderDone (i : StationNo) (o : Order) (s : State) : Works s (orderDone i o s) := by
  unfold Machine.orderDone
  have h1 : Works s ((Machine.popOrder i s).onStation i fun st => { st with placeExpiry := none }) :=
    (Works.popOrder i s).trans (.onStationSame rfl rfl rfl)
  exact h1.trans ((Works.doneCase i o _).trans ((Works.startTake i _).trans ((Works.issueDiscards i _).trans
    ((Works.closingTest i _).trans (.notice _ _)))))

theorem Works.orderDropped (i : StationNo) (o : Order) (s : State) : Works s (orderDropped i o s) := by
  unfold Machine.orderDropped
  refine Works.trans ?_ (.closingTest _ _)
  refine Works.trans ?_ (.caseLost _ _ _)
  exact .cascade (List.nil_sublist _)

theorem Works.orderNoCase (i : StationNo) (o : Order) (s : State) : Works s (orderNoCase i o s) := by
  unfold Machine.orderNoCase
  refine Works.trans ?_ (.closingTest _ _)
  refine Works.trans ?_ (.caseMissed _ _)
  exact .cascade (List.nil_sublist _)

theorem Works.orderBlocked (i : StationNo) (o : Order) (s : State) : Works s (orderBlocked i o s) := by
  unfold Machine.orderBlocked
  refine Works.trans ?_ (.stationFault _ _ _)
  refine Works.trans ?_ (.toSpur _ _ _)
  exact .cutOrders (List.nil_sublist _)

theorem Works.replyWorking (i : StationNo) (q : OrderSeq) (out : ReplyOutcome) (s : State) :
    Works s (replyWorking i q out s) := by
  unfold Machine.replyWorking
  split
  · exact .stationFault i _ s
  · split_ifs
    · split
      · exact .orderTaken i s
      · exact .orderNoCase i _ s
      · exact .orderDone i _ s
      · exact .orderDropped i _ s
      · exact .orderBlocked i _ s
      · exact .stationFault i _ s
    · exact .stationFault i _ s

theorem Works.endOrder (i : StationNo) (o : Order) (s : State) : Works s (endOrder i o s) :=
  .onStation ⟨rfl, rfl, .sub _ _ List.filter_sublist⟩

theorem Works.headSpur (i : StationNo) (o : Order) (s : State) : Works s (headSpur i o s) := by
  unfold Machine.headSpur
  exact Works.trans (.onStationSame rfl rfl rfl) (.setTrack _ _ _)

theorem Works.removed (i : StationNo) (o : Order) (s : State) : Works s (Machine.unplace i [o] (Machine.endOrder i o s)) :=
  (Works.endOrder i o s).trans (.unplace i _ _)

theorem Works.replyFault (i : StationNo) (q : OrderSeq) (out : ReplyOutcome) (s : State) :
    Works s (replyFault i q out s) := by
  unfold Machine.replyFault
  split
  · exact .refl s
  · rename_i o _
    split
    · exact .refl s
    · exact (Works.endOrder i o s).trans ((Works.doneCase i o _).trans (.notice _ _))
    · exact (Works.removed i o s).trans (.caseLost i o _)
    · exact (Works.removed i o s).trans (.caseMissed _ _)
    · exact (Works.removed i o s).trans (.headSpur i o _)

theorem Works.orderReply (i : StationNo) (q : OrderSeq) (out : ReplyOutcome) (s : State) :
    Works s (orderReply i q out s) := by
  unfold Machine.orderReply
  split_ifs
  · exact .refl s
  · split
    · exact .replyFault i q out s
    · exact .replyWorking i q out s
    · exact .replyWorking i q out s
    all_goals exact .refl s

/-! ### Acknowledge, split and RESTART of a station -/

theorem Works.resolveUnknown (i : StationNo) (d : Nat) (s : State) : Works s (resolveUnknown i d s) := by
  unfold Machine.resolveUnknown
  split
  · exact .refl s
  · rename_i o _
    dsimp only
    split_ifs
    · exact (Works.endOrder i o s).trans ((Works.doneCase i o _).trans (.notice _ _))
    · exact (Works.removed i o s).trans (.caseMissed _ _)

theorem Works.keepBuild (i : StationNo) (d : Nat) (s : State) : Works s (keepBuild i d s) := by
  unfold Machine.keepBuild
  have h2 : ∀ u : State, Works u (u.onStation i fun st => { st with cause := .none }) :=
    fun u => .onStationSame rfl rfl rfl
  dsimp only
  refine Works.trans ?_ (.closingTest _ _)
  refine Works.trans ?_ (.issueDiscards _ _)
  refine Works.trans ?_ (.foldl _ (fun s e => .askReplan _ _ s) _ _)
  split_ifs
  · refine Works.trans ?_ (.raiseFlags _)
    refine Works.trans ?_ (.enterState _ _ _)
    exact (Works.resolveUnknown i d s).trans (h2 _)
  · refine Works.trans ?_ (.enterState _ _ _)
    exact (Works.resolveUnknown i d s).trans (h2 _)

theorem Works.revertCase (id : Option PlanId) (s : State) (c : CaseRec) : Works s (revertCase id s c) := by
  unfold Machine.revertCase
  split
  · exact .revertPlaced id _ s
  · exact .planLess id _ s

theorem Works.discardBuild (i : StationNo) (d : Nat) (s : State) : Works s (discardBuild i d s) := by
  unfold Machine.discardBuild
  dsimp only
  have h2 : ∀ u : State, Works u (u.onStation i fun st =>
      { st with spur := st.spur.map fun e => { e with discard := true }, cause := .none, close := some .discard }) :=
    fun u => .onStationSame rfl rfl rfl
  refine Works.trans ?_ (.closingTest _ _)
  refine Works.trans ?_ (.issueDiscards _ _)
  refine Works.trans ?_ (.enterState _ _ _)
  refine Works.trans ?_ (h2 _)
  refine Works.trans ?_ (.closePart _ _)
  refine Works.trans ?_ (.report _ _)
  refine Works.trans ?_ (.foldl _ (fun s c => .revertCase _ s c) _ _)
  refine Works.trans ?_ (.truncateBuild _ _ _)
  exact .resolveUnknown i d s

theorem Works.split (s : State) (i : StationNo) : Works s (split s i) := by
  unfold Machine.split
  split_ifs
  · exact (Works.closePart i s).trans (.enterClosing i _ _)
  · exact .refl s

theorem Works.restartStation (s : State) (i : StationNo) : Works s (restartStation s i) := by
  unfold Machine.restartStation
  have h1 : Works s (s.onStation i fun st =>
      { st with spur := [], takeExpiry := none, placeExpiry := none, orders := [] }) :=
    .onStation ⟨rfl, rfl, .sub _ _ (List.nil_sublist _)⟩
  have h2 : ∀ u : State, Works u (u.onStation i fun st => { st with cause := .restart }) :=
    fun u => .onStationSame rfl rfl rfl
  dsimp only
  split_ifs
  · split
    · exact h1.trans (.closingTest i _)
    · exact h1.trans (.onStationSame rfl rfl rfl)
    all_goals exact h1
  · exact h1.trans ((Works.withdraw i _ _).trans ((Works.unplace i _ _).trans ((h2 _).trans (.enterState _ i .fault))))

/-! ### Lanes -/

theorem Works.laneFault (k : LaneNo) (c : LaneCause) (s : State) : Works s (laneFault k c s) := by
  unfold Machine.laneFault
  split_ifs
  · have h1 : Works s (s.onLane k fun l => { l with state := .fault, cause := c }) := .onLaneSame rfl
    exact h1.trans ((Works.setFlag _ k false).trans (.report _ _))
  · exact .refl s

theorem Works.flagIfListed (k : LaneNo) (s : State) : Works s (flagIfListed k s) := by
  unfold Machine.flagIfListed
  split_ifs
  · exact .setFlag s k true
  · exact .refl s

theorem Works.holdEntry {k : LaneNo} {t : Tracking} {s : State} (h : s.lanes[k].hasRoom = true) :
    Works s (holdEntry k t s) := by
  have h1 : Works s (s.onLane k fun l => { l with list := l.list ++ [t] }) :=
    .onLane (.push _ _ t (by simpa [Lane.hasRoom] using h) rfl)
  exact h1.trans (.setTrack _ _ _)

theorem Works.laneEntered (k : LaneNo) (t : Tracking) (s : State) : Works s (laneEntered k t s) := by
  have h : Works s (if s.oldestUnconfirmed k = some t then
      (if (s.setTrack t (.held k)).lanes[k].list.head? = some t then
        Machine.flagIfListed k (s.setTrack t (.held k)) else s.setTrack t (.held k))
      else Machine.laneFault k .entryMismatch s) := by
    split_ifs
    · exact (Works.setTrack s t _).trans (.flagIfListed k _)
    · exact .setTrack s t _
    · exact .laneFault k _ s
  unfold Machine.laneEntered
  split
  · exact .refl s
  · exact h
  · exact h

theorem Works.laneReturn (k : LaneNo) (t : Tracking) (st : TrackState) (s : State) :
    Works s (laneReturn k t st s) := by
  have h1 : Works s (s.onLane k fun l => { l with list := l.list.filter fun u => u != t }) :=
    .onLane (.sub _ _ List.filter_sublist)
  unfold Machine.laneReturn
  dsimp only
  split
  · split_ifs
    · exact h1.trans (.flagIfListed k _)
    · exact h1
  · have h2 : ∀ u : State, Works u (u.onLane k fun l => { l with inFlight := none, expiry := none }) :=
      fun u => .onLaneSame rfl
    exact h1.trans ((h2 _).trans (.laneFault k _ _))
  · exact h1.trans (.laneFault k _ _)

theorem Works.releaseHead (k : LaneNo) (t : Tracking) (s : State) : Works s (releaseHead k t s) := by
  unfold Machine.releaseHead
  exact (Works.issueB _ _ s).trans ((Works.onLaneSame rfl).trans (.setTrack _ _ _))

theorem Works.headLeaves (k : LaneNo) (t : Tracking) (s : State) : Works s (headLeaves k t s) := by
  have h1 : Works s (s.onLane k fun l => { l with list := l.list.tail, inFlight := none, expiry := none }) :=
    .onLane (.sub _ _ (List.tail_sublist _))
  exact h1.trans ((Works.bump _ t).trans ((Works.setTrack _ _ _).trans
    ((Works.report _ _).trans (.flagIfListed k _))))

theorem Works.laneReleased (k : LaneNo) (t : Tracking) (s : State) : Works s (laneReleased k t s) := by
  have h : Works s (if s.lanes[k].inFlight = some t ∧ s.lanes[k].list.head? = some t then Machine.headLeaves k t s
      else Machine.laneFault k .releaseMismatch s) := by
    split_ifs
    · exact .headLeaves k t s
    · exact .laneFault k _ s
  unfold Machine.laneReleased
  split
  · exact .refl s
  · exact h
  · exact h

theorem Works.laneFlushed (k : LaneNo) (s : State) : Works s (laneFlushed k s) := by
  unfold Machine.laneFlushed
  split_ifs
  · exact .onLaneSame rfl
  · exact .refl s

theorem Works.flush (k : LaneNo) (s : State) : Works s (flush k s) := by
  unfold Machine.flush
  have h2 : ∀ u : State, Works u (u.onLane k fun l =>
      { l with list := [], inFlight := none, expiry := none, cause := .none, state := .flushing }) :=
    fun u => .onLane (.sub _ _ (List.nil_sublist _))
  exact (Works.issueB _ _ s).trans ((Works.foldl _ (fun s t => .setTrack s t _) _ _).trans
    ((h2 _).trans (.setFlag _ k false)))

theorem restarted_list (l : Lane) : l.restarted.list.Sublist l.list := by
  unfold Lane.restarted
  split_ifs
  · exact List.Sublist.refl _
  · exact List.nil_sublist _

theorem Works.restartLanes (s : State) : Works s (restartLanes s) := by
  have h1 : Works s { s with lanes := s.lanes.map Lane.restarted } :=
    { Works.refl s with
      lanes := fun k => .single (.sub _ _ (by simpa using restarted_list s.lanes[k])) }
  exact h1.trans (.clearFlags _)

end Sys2Proof.Machine
end

