-- ==== Sys2Proof/Laws/WorksJobs.lean ====
section
/-!
SUPPORT. The planning engine's jobs are working operations (`Works`): the handling of an arrival, the job steps and the
commit attempt.
-/

namespace Sys2Proof.Machine

/-! ### Job ends -/

theorem Works.handOver (ex : List StationNo) (s : State) : Works s (handOver ex s) := .foldl _ .split _ s

theorem Works.endJob (ex : List StationNo) (s : State) : Works s (endJob ex s) :=
  (Works.noJob s).trans (.handOver ex _)

/-- A job whose reruns are within the limit put in progress. -/
theorem Works.startJob {s : State} {j : Job} (h : j.reruns ≤ Config.maxReruns) : Works s (s.setJob (some j)) :=
  .setJob fun x hx => by cases hx; exact .inl h

/-! ### Arrivals -/

theorem Works.lateCase (a : Arrival) (s : State) : Works s (lateCase a s) :=
  (Works.bump s _).trans (.report _ _)

theorem Works.rejectArrival (a : Arrival) (r : RejectReason) (s : State) : Works s (rejectArrival a r s) :=
  (Works.sendDecision _ _ s).trans ((Works.dropTrack _ _).trans (.report _ _))

theorem Works.passArrival (a : Arrival) (s : State) : Works s (passArrival a s) :=
  (Works.sendDecision _ _ s).trans (.bump _ _)

theorem Works.setSnapshot (t : Tracking) (art : Article) (w : Nat) (s : State) : Works s (setSnapshot t art w s) :=
  .onTrack (fun _ => rfl) fun _ => .inl rfl

theorem Works.planArrival (a : Arrival) (s : State) : Works s (planArrival a s) := by
  unfold Machine.planArrival
  split_ifs
  · exact .lateCase a s
  · split
    · exact .rejectArrival a _ s
    · exact (Works.setSnapshot _ _ _ s).trans (.startJob (Nat.zero_le _))

theorem Works.missedOrder (i : StationNo) (o : Order) (s : State) : Works s (missedOrder i o s) := by
  unfold Machine.missedOrder
  refine Works.trans ?_ (.closingTest _ _)
  refine Works.trans ?_ (.caseMissed _ _)
  exact .cascade (List.takeWhile_sublist _)

theorem Works.spurReturn (i : StationNo) (t : Tracking) (s : State) : Works s (spurReturn i t s) := by
  unfold Machine.spurReturn
  refine Works.trans ?_ (.closingTest _ _)
  refine Works.trans ?_ (.circulate _ _)
  exact (Works.leaveSpur i t s).trans (.keepReplans _ _)

theorem Works.duplicateFault (st : TrackState) (s : State) : Works s (duplicateFault st s) := by
  unfold Machine.duplicateFault
  split
  · exact .stationFault _ _ s
  all_goals exact .refl s

theorem Works.rearrive (t : Tracking) (st : TrackState) (s : State) : Works s (rearrive t st s) := by
  unfold Machine.rearrive
  split
  · exact .circulate s t
  · exact .circulate s t
  · split
    · exact .missedOrder _ _ s
    · exact .circulate s t
  · exact .spurReturn _ t s
  all_goals exact (Works.laneReturn _ t _ s).trans (.circulate _ t)

theorem Works.gateClosedArrival (a : Arrival) (s : State) : Works s (gateClosedArrival a s) := by
  unfold Machine.gateClosedArrival
  split
  · exact .refl s
  · split_ifs
    · exact .duplicateFault _ s
    · exact .rearrive _ _ s

theorem Works.untracked (a : Arrival) (s : State) : Works s (untracked a s) := by
  unfold Machine.untracked
  split_ifs
  · exact .report _ s
  · exact .refl s

theorem Works.handleArrival (a : Arrival) (s : State) : Works s (handleArrival a s) := by
  unfold Machine.handleArrival
  split
  · exact .gateClosedArrival a s
  · split
    · rename_i hn
      split_ifs with hf
      · exact .untracked a s
      · exact (Works.addTrack (Nat.not_le.mp hf) rfl hn).trans (.planArrival a _)
    · dsimp only
      split_ifs
      · exact (Works.sendDecision _ _ s).trans ((Works.report _ _).trans (.duplicateFault _ _))
      · exact (Works.rearrive _ _ s).trans (.planArrival a _)

/-- The arrival queue's head taken: the tail stays queued, and the rest is a working operation. -/
theorem takeArrival_works (s : State) :
    takeArrival s = s ∨ ∃ a rest, s.tracker.arrivals = a :: rest
      ∧ Works { s with tracker := { s.tracker with arrivals := rest } } (takeArrival s) := by
  unfold takeArrival
  split
  · exact .inl rfl
  · rename_i a rest e
    split_ifs
    · exact .inr ⟨a, rest, e, .handleArrival a _⟩
    · exact .inl rfl

/-! ### Replans -/

theorem Works.rejectReplan (r : Replan) (s : State) : Works s (rejectReplan r s) := by
  unfold Machine.rejectReplan
  split_ifs with h
  · exact .rejectOrder h
  · exact .refl s

theorem Works.runReplan {r : Replan} {n : Nat} {s : State} (h : n ≤ Config.maxReruns) : Works s (runReplan r n s) := by
  unfold Machine.runReplan
  dsimp only
  split
  · exact .startJob h
  · exact (Works.noJob s).trans (.rejectReplan r _)

theorem Works.takeOutReplan (r : Replan) (s : State) : Works s (takeOutReplan r s) := by
  have h1 : Works s { s with engine := { s.engine with replans := s.engine.replans.erase r } } :=
    { Works.refl s with
      engine := .single (.queues _ _ s.engine.waiting
        ((List.length_erase_le).trans (le_max_left _ _))) }
  exact h1.trans (.refillReplans _)

theorem Works.takeReplan (s : State) : Works s (takeReplan s) := by
  unfold Machine.takeReplan
  split
  · exact .refl s
  · rename_i r _
    split_ifs
    · exact .refl s
    · dsimp only
      split_ifs
      · exact (Works.takeOutReplan r s).trans (.runReplan (Nat.zero_le _))
      · exact .takeOutReplan r s

/-! ### Lane heads -/

theorem Works.runHead {k : LaneNo} {t : Tracking} {art : Article} {w n : Nat} {s : State} (h : n ≤ Config.maxReruns) :
    Works s (runHead k t art w n s) := by
  unfold Machine.runHead
  dsimp only
  split
  · exact .startJob h
  · exact .endJob _ s

theorem Works.takeLane (s : State) : Works s (takeLane s) := by
  unfold Machine.takeLane
  split
  · exact .refl s
  · rename_i k _
    split_ifs
    · dsimp only
      split
      · exact (Works.setFlag s k false).trans (.runHead (Nat.zero_le _))
      · exact .setFlag s k false
    · exact .refl s

/-! ### The commit attempt -/

theorem takesAdd_of_checks {s : State} {t : Tracking} {p : Placement} (h : placeChecks s t p = true) :
    s.builds[p.station].takesAdd p.revision t = true ∧ s.stations[p.station].orders.length < Config.orderDepth := by
  unfold placeChecks at h
  simp only [Bool.and_eq_true, decide_eq_true_eq] at h
  exact h.1

theorem Works.addCase {i : StationNo} {c : CaseRec} {s : State}
    (h : ∃ rev t, s.builds[i].takesAdd rev t = true ∧ c.tracking = t) : Works s (addCase i c s) :=
  (Works.onBuild (.single (.add _ c h))).trans (.raiseFlags _)

theorem raiseFlags_stations (s : State) : (raiseFlags s).stations = s.stations := by
  unfold raiseFlags
  have h : ∀ (l : List LaneNo) (u : State), (l.foldl (fun s k => if s.lanes[k].flaggable then s.setFlag k true else s) u).stations
      = u.stations := by
    intro l
    induction l with
    | nil => intro u; rfl
    | cons k l ih => intro u; simp only [List.foldl_cons]; rw [ih]; split_ifs <;> rfl
  exact h _ s

theorem planMore_stations (id : PlanId) (j : Nat) (s : State) : (planMore id j s).stations = s.stations := by
  unfold planMore; split_ifs <;> rfl

/-- A station decision committed; `send` is a working operation that leaves the stations. -/
theorem Works.commitPlace {t : Tracking} {art : Article} {w : Nat} {p : Placement} {send : State → State} {s : State}
    (hs : ∀ u, Works u (send u) ∧ (send u).stations = u.stations) (h : placeChecks s t p = true) :
    Works s (commitPlace t art w p send s) := by
  obtain ⟨ha, ho⟩ := takesAdd_of_checks h
  unfold Machine.commitPlace
  dsimp only
  have h1 : Works s (Machine.addCase p.station (caseRecordOf art t w p s.stations[p.station].nextSeq) s) :=
    .addCase ⟨_, _, ha, rfl⟩
  have e1 : (Machine.addCase p.station (caseRecordOf art t w p s.stations[p.station].nextSeq) s).stations = s.stations := by
    unfold Machine.addCase; rw [raiseFlags_stations]; rfl
  cases s.builds[p.station].planId with
  | none =>
    refine (h1.trans (hs _).1).trans (.issueOrder ?_)
    rw [(hs _).2, e1]; exact ho
  | some id =>
    refine ((h1.trans (.planMore id p.line _)).trans (hs _).1).trans (.issueOrder ?_)
    rw [(hs _).2, planMore_stations, e1]; exact ho

theorem Works.commitLane {k : LaneNo} {t : Tracking} {s : State} (h : s.lanes[k].hasRoom = true) :
    Works s (commitLane k t s) :=
  (Works.holdEntry h).trans ((Works.sendDecision _ _ _).trans (.report _ _))

theorem Works.rerun {j : Job} {again : Nat → State → State} {fallback : State → State} {s : State}
    (ha : ∀ n, n ≤ Config.maxReruns → Works s (again n s)) (hf : Works s (fallback s)) :
    Works s (rerun j again fallback s) := by
  unfold Machine.rerun
  split_ifs with h
  · exact ha _ h
  · exact hf.trans (.endJob _ _)

theorem Works.rerunArrival {a : Arrival} {art : Article} {w n : Nat} {s : State} (h : n ≤ Config.maxReruns) :
    Works s (rerunArrival a art w n s) := .startJob h

theorem Works.commitDecision (j : Job) (a : Arrival) (art : Article) (w : Nat) (s : State) :
    Works s (commitDecision j a art w s) := by
  have again : Works s (Machine.rerun j (Machine.rerunArrival a art w) (Machine.passArrival a) s) :=
    .rerun (fun n h => .rerunArrival h) (.passArrival a s)
  unfold Machine.commitDecision
  split
  · exact (Works.passArrival a s).trans (.endJob _ _)
  · exact (Works.rejectArrival a _ s).trans (.endJob _ _)
  · split_ifs with h
    · exact (Works.commitPlace (fun u => ⟨.sendDecision _ _ u, rfl⟩) h.2).trans (.endJob _ _)
    · exact again
  · split_ifs with h
    · exact (Works.commitLane h.2).trans (.endJob _ _)
    · exact again
  · exact .endJob _ s

theorem Works.commitArrival (j : Job) (a : Arrival) (s : State) : Works s (commitArrival j a s) := by
  unfold Machine.commitArrival
  split
  · split_ifs
    · exact (Works.circulate s _).trans (.endJob _ _)
    · exact .endJob _ s
  · split
    · exact .endJob _ s
    · split
      · exact (Works.lateCase a s).trans (.endJob _ _)
      · split
        · exact (Works.rejectArrival a _ s).trans (.endJob _ _)
        · split
          · exact .commitDecision j a _ _ s
          · exact .endJob _ s

theorem Works.commitReplan (j : Job) (r : Replan) (s : State) : Works s (commitReplan j r s) := by
  unfold Machine.commitReplan
  split_ifs
  · exact .noJob s
  · split
    · split_ifs with h
      · exact ((Works.commitPlace (fun u => ⟨.refl u, rfl⟩) h).trans (.leaveSpur _ _ _)).trans (.noJob _)
      · exact .rerun (fun n h => .runReplan h) (.rejectReplan r s)
    · exact .noJob s

theorem Works.noRelease (k : LaneNo) (s : State) : Works s (noRelease k s) := by
  unfold Machine.noRelease
  split_ifs
  · exact .setFlag s k true
  · exact .refl s

theorem Works.commitHead (j : Job) (k : LaneNo) (t : Tracking) (s : State) : Works s (commitHead j k t s) := by
  unfold Machine.commitHead
  dsimp only
  split
  · split_ifs
    · exact (Works.releaseHead k t s).trans (.endJob _ _)
    · refine .rerun (fun n h => ?_) (.noRelease k s)
      split
      · exact .runHead h
      · exact (Works.noRelease k s).trans (.endJob _ _)
    · exact (Works.noRelease k s).trans (.endJob _ _)
  all_goals exact .endJob _ s

theorem Works.commitAttempt (s : State) : Works s (commitAttempt s) := by
  unfold Machine.commitAttempt
  split
  · exact .refl s
  · split
    · exact .commitArrival _ _ s
    · exact .commitReplan _ _ s
    · exact .commitHead _ _ _ s

end Sys2Proof.Machine
end

