-- ==== Sys2Proof/Laws/Kept.lean ====
section
/-!
SUPPORT. Working operations (`Works`) keep the invariants of Safety.lean, store by store, and so does serving the ports.
-/

namespace Sys2Proof.Machine

/-- What every move keeps, many moves keep. -/
theorem Many.keeps {α : Type} {r : α → α → Prop} {P : α → Prop} (h : ∀ a b, r a b → P a → P b) {a b : α} (m : Many r a b)
    (ha : P a) : P b := by
  induction m with
  | refl => exact ha
  | tail _ k ih => exact h _ _ k ih

/-! ### Maps in key order -/

theorem changeFirst_keys {α : Type} (key : α → Nat) {p : α → Bool} {g : α → α} {l : List α}
    (h : ∀ x, l.find? p = some x → key (g x) = key x) : (changeFirst p g l).map key = l.map key := by
  induction l with
  | nil => rfl
  | cons y ys ih =>
    unfold changeFirst
    split_ifs with hp
    · simp [h y (by simp [hp])]
    · simp [ih fun x hx => h x (by simpa [List.find?_cons, hp] using hx)]

theorem mem_changeFirst {α : Type} {p : α → Bool} {g : α → α} {l : List α} {x : α} (h : x ∈ changeFirst p g l) :
    x ∈ l ∨ ∃ y, l.find? p = some y ∧ x = g y := by
  induction l with
  | nil => cases h
  | cons y ys ih =>
    unfold changeFirst at h
    split_ifs at h with hp
    · rcases List.mem_cons.mp h with h | h
      · exact .inr ⟨y, by simp [hp], h⟩
      · exact .inl (List.mem_cons_of_mem _ h)
    · rcases List.mem_cons.mp h with h | h
      · exact .inl (h ▸ List.mem_cons_self)
      · rcases ih h with h | ⟨z, hz, e⟩
        · exact .inl (List.mem_cons_of_mem _ h)
        · exact .inr ⟨z, by simpa [List.find?_cons, hp] using hz, e⟩

theorem length_changeFirst {α : Type} (p : α → Bool) (g : α → α) (l : List α) :
    (changeFirst p g l).length = l.length := by
  induction l with
  | nil => rfl
  | cons y ys ih => unfold changeFirst; split_ifs <;> simp [ih]

theorem risingKeys_iff {α : Type} (key : α → Nat) (l : List α) : RisingKeys key l ↔ (l.map key).Pairwise (· < ·) := by
  rw [List.pairwise_map]; rfl

theorem RisingKeys.changeFirst {α : Type} {key : α → Nat} {p : α → Bool} {g : α → α} {l : List α}
    (hg : ∀ x, l.find? p = some x → key (g x) = key x) (h : RisingKeys key l) : RisingKeys key (changeFirst p g l) := by
  rw [risingKeys_iff, changeFirst_keys key hg, ← risingKeys_iff]; exact h

theorem RisingKeys.filter {α : Type} {key : α → Nat} {l : List α} (p : α → Bool) (h : RisingKeys key l) :
    RisingKeys key (l.filter p) := List.Pairwise.filter p h

theorem mem_putKey {α : Type} {key : α → Nat} {x y : α} {l : List α} (h : y ∈ putKey key x l) : y = x ∨ y ∈ l := by
  induction l with
  | nil => simpa [putKey] using h
  | cons z zs ih =>
    unfold putKey at h
    split_ifs at h
    · simpa using h
    · rcases List.mem_cons.mp h with h | h
      · exact .inl h
      · exact .inr (List.mem_cons_of_mem _ h)
    · rcases List.mem_cons.mp h with h | h
      · exact .inr (h ▸ List.mem_cons_self)
      · exact (ih h).imp_right (List.mem_cons_of_mem _)

theorem RisingKeys.putKey {α : Type} {key : α → Nat} (x : α) {l : List α} (h : RisingKeys key l) :
    RisingKeys key (putKey key x l) := by
  induction l with
  | nil => simp [Machine.putKey, RisingKeys]
  | cons z zs ih =>
    obtain ⟨hz, hs⟩ := List.pairwise_cons.mp h
    unfold Machine.putKey
    split_ifs with h1 h2
    · refine List.pairwise_cons.mpr ⟨fun y hy => ?_, h⟩
      rcases List.mem_cons.mp hy with rfl | hy
      · exact h1
      · exact h1.trans (hz y hy)
    · exact List.pairwise_cons.mpr ⟨fun y hy => h2 ▸ hz y hy, hs⟩
    · refine List.pairwise_cons.mpr ⟨fun y hy => ?_, ih hs⟩
      rcases mem_putKey hy with rfl | hy
      · omega
      · exact hz y hy

theorem length_putKey {α : Type} (key : α → Nat) (x : α) (l : List α) :
    (putKey key x l).length ≤ l.length + 1 := by
  induction l with
  | nil => simp [putKey]
  | cons z zs ih => unfold putKey; split_ifs <;> grind

/-- An entry that replaces another leaves the length. -/
theorem length_putKey_of_mem {α : Type} {key : α → Nat} {x : α} {l : List α} (hr : RisingKeys key l)
    (h : ∃ y ∈ l, key y = key x) : (putKey key x l).length = l.length := by
  induction l with
  | nil => obtain ⟨y, hy, _⟩ := h; cases hy
  | cons z zs ih =>
    obtain ⟨hz, hs⟩ := List.pairwise_cons.mp hr
    unfold putKey
    obtain ⟨y, hy, hk⟩ := h
    split_ifs with h1 h2
    · exfalso
      rcases List.mem_cons.mp hy with rfl | hy
      · omega
      · have := hz y hy; omega
    · rfl
    · rcases List.mem_cons.mp hy with rfl | hy
      · exact absurd hk.symm h2
      · simp [ih hs ⟨y, hy, hk⟩]

/-! ### Plans (R64) -/

theorem LinesMove.keeps {ls ms : List PlanLine} (m : LinesMove ls ms) (h : ∀ l ∈ ls, LineOk l) : ∀ l ∈ ms, LineOk l := by
  have change : ∀ (j : Nat) (l : PlanLine) (g : PlanLine → PlanLine), ls[j]? = some l → LineOk (g l) →
      ∀ x ∈ ls.modify j g, LineOk x := by
    intro j l g hj hg x hx
    obtain ⟨i, hi⟩ := List.mem_iff_getElem?.mp hx
    rw [List.getElem?_modify] at hi
    by_cases e : j = i
    · subst e
      rw [hj] at hi
      simp only [if_true, Option.map_eq_map, Option.map_some, Option.some.injEq] at hi
      exact hi ▸ hg
    · simp only [e, if_false, Option.map_eq_map, Option.map_id'] at hi
      exact h x (List.mem_iff_getElem?.mpr ⟨i, hi⟩)
  have at' : ∀ (j : Nat) (l : PlanLine), ls[j]? = some l → LineOk l :=
    fun j l hj => h l (List.mem_iff_getElem?.mpr ⟨j, hj⟩)
  cases m with
  | same => exact h
  | more j l hj hl => have := at' j l hj; exact change j l _ hj ⟨by have := this.1; dsimp; omega, by dsimp; omega, this.2.2⟩
  | less j l hj hl =>
    have := at' j l hj
    exact change j l _ hj ⟨by dsimp; omega, by have := this.2.1; dsimp; omega, this.2.2⟩
  | revert j l hj hl =>
    have := at' j l hj
    exact change j l _ hj ⟨by have := this.1; dsimp; omega, by have := this.2.1; dsimp; omega, this.2.2⟩
  | place j l hj hl => have := at' j l hj; exact change j l _ hj ⟨by dsimp; omega, this.2.1, this.2.2⟩

/-- A plan found by its id is a plan of the list. -/
theorem mem_of_plan {ps : List Plan} {id : PlanId} {p : Plan} (h : ps.find? (fun p => p.id == id) = some p) : p ∈ ps :=
  List.mem_of_find?_eq_some h

theorem PlansMove.keeps {ps qs : List Plan} (m : PlansMove ps qs)
    (h : (∀ p ∈ ps, ∀ l ∈ p.lines, LineOk l) ∧ RisingKeys Plan.key ps) :
    (∀ p ∈ qs, ∀ l ∈ p.lines, LineOk l) ∧ RisingKeys Plan.key qs := by
  cases m with
  | change id g p hp hg =>
    refine ⟨fun q hq => ?_, h.2.changeFirst fun x hx => ?_⟩
    · rcases mem_changeFirst hq with hq | ⟨y, hy, rfl⟩
      · exact h.1 q hq
      · rw [hp] at hy; cases hy
        exact hg.lines.keeps (h.1 p (mem_of_plan hp))
    · rw [hp] at hx; cases hx
      unfold Plan.key; rw [hg.id]
  | drop id => exact ⟨fun q hq => h.1 q (List.mem_filter.mp hq).1, h.2.filter _⟩

theorem Works.countsOk {s t : State} (w : Works s t) (h : CountsOk s) : CountsOk t := by
  have := Many.keeps (P := fun ps => (∀ p ∈ ps, ∀ l ∈ p.lines, LineOk l) ∧ RisingKeys Plan.key ps)
    (fun _ _ m k => m.keeps k) w.plans ⟨h.1, h.2.2⟩
  exact ⟨this.1, by rw [w.admission]; exact h.2.1, this.2⟩

/-! ### Tables, cases and jobs -/

theorem Works.tablesOk {s t : State} (w : Works s t) (h : TablesOk s) : TablesOk t := by
  unfold TablesOk; rw [w.tables]; exact h

theorem TracksMove.keeps {ts us : List Track} (m : TracksMove ts us)
    (h : ts.length ≤ Config.trackingCapacity ∧ RisingKeys Track.key ts ∧ ∀ e ∈ ts, e.circuits ≤ 16) :
    us.length ≤ Config.trackingCapacity ∧ RisingKeys Track.key us ∧ ∀ e ∈ us, e.circuits ≤ 16 := by
  cases m with
  | change t g hk hc =>
    refine ⟨by rw [length_changeFirst]; exact h.1, h.2.1.changeFirst fun x _ => by unfold Track.key; rw [hk], ?_⟩
    intro e he
    rcases mem_changeFirst he with he | ⟨y, hy, rfl⟩
    · exact h.2.2 e he
    · rcases hc y with e | e
      · rw [e]; exact h.2.2 y (List.mem_of_find?_eq_some hy)
      · exact e
  | add e hr hc hn =>
    refine ⟨(length_putKey _ _ _).trans hr, h.2.1.putKey e, fun x hx => ?_⟩
    rcases mem_putKey hx with rfl | hx
    · rw [hc]; exact Nat.zero_le _
    · exact h.2.2 x hx
  | drop t =>
    exact ⟨(List.length_filter_le _ _).trans h.1, h.2.1.filter _, fun x hx => h.2.2 x (List.mem_filter.mp hx).1⟩

theorem Works.trackerOk {s t : State} (w : Works s t) (h : TrackerOk s) : TrackerOk t := by
  have := Many.keeps (fun _ _ m k => TracksMove.keeps m k) w.tracks h.2
  exact ⟨by rw [w.arrivals]; exact h.1, this⟩

theorem EngineMove.keeps {e f : Engine} (m : EngineMove e f)
    (h : e.replans.length ≤ Config.replanCapacity ∧ ∀ j, e.job = some j → j.reruns ≤ Config.maxReruns) :
    f.replans.length ≤ Config.replanCapacity ∧ ∀ j, f.job = some j → j.reruns ≤ Config.maxReruns := by
  cases m with
  | flags v => exact h
  | job j hj =>
    refine ⟨h.1, fun x hx => ?_⟩
    rcases hj x hx with k | ⟨y, hy, e⟩
    · exact k
    · rw [e]; exact h.2 y hy
  | queues rs ws hr => exact ⟨hr.trans (max_le h.1 le_rfl), h.2⟩

theorem Works.engineOk {s t : State} (w : Works s t) (h : EngineOk s) : EngineOk t :=
  Many.keeps (P := fun e : Engine => e.replans.length ≤ Config.replanCapacity ∧ ∀ j, e.job = some j → j.reruns ≤ Config.maxReruns)
    (fun _ _ m k => m.keeps k) w.engine h

/-! ### Stations, lanes and builds -/

/-- A queue of orders of which only the oldest may be other than ISSUED. -/
def QueueOk (os : List Order) : Prop := os.length ≤ Config.orderDepth ∧ ∀ o ∈ os.tail, o.state = .issued

/-- A sublist's tail is a sublist of the tail. -/
theorem tail_sublist_tail {α : Type} {l m : List α} (h : l.Sublist m) : l.tail.Sublist m.tail := by
  cases h with
  | slnil => exact List.Sublist.refl _
  | cons a h => exact (List.tail_sublist _).trans h
  | cons_cons a h => exact h

theorem OrdersMove.keeps {os ps : List Order} (m : OrdersMove os ps) (h : QueueOk os) : QueueOk ps := by
  cases m with
  | sub _ hs => exact ⟨hs.length_le.trans h.1, fun o ho => h.2 o ((tail_sublist_tail hs).subset ho)⟩
  | issue o hr ho =>
    refine ⟨by simpa using hr, fun x hx => ?_⟩
    cases os with
    | nil => cases hx
    | cons y ys =>
      rcases List.mem_append.mp (show x ∈ ys ++ [o] from hx) with hx | hx
      · exact h.2 x hx
      · rw [List.mem_singleton.mp hx]; exact ho
  | taken => cases os <;> exact h
  | unknown _ hs =>
    refine ⟨hs.length_le.trans (by simpa using h.1), fun o ho => ?_⟩
    have := (tail_sublist_tail hs).subset ho
    rw [← List.map_tail] at this
    obtain ⟨y, hy, rfl⟩ := List.mem_map.mp this
    have e := h.2 y hy
    unfold Order.unknownIfTaken
    rw [e]; simp [e]

theorem Works.stationsOk {s t : State} (w : Works s t) (h : StationsOk s) : StationsOk t := fun i =>
  Many.keeps (P := fun st : Station => QueueOk st.orders) (fun _ _ m k => m.orders.keeps k) (w.stations i) (h i)

theorem Works.lanesOk {s t : State} (w : Works s t) (h : LanesOk s) : LanesOk t := fun k =>
  Many.keeps (P := fun l : Lane => l.list.length ≤ Config.laneDepth)
    (fun _ _ m k => by
      cases m with
      | sub h => exact h.length_le.trans k
      | push t hr h => rw [h]; simpa using hr) (w.lanes k) (h k)

theorem length_deliver (fuel : Nat) (loads : List CaseRec × Nat) (piece : Owner × Nat) :
    (deliver fuel loads piece).1.length = loads.1.length := by
  induction fuel generalizing loads piece with
  | zero => rfl
  | succ fuel ih =>
    have fold : ∀ (ps : List (Owner × Nat)) (l : List CaseRec × Nat),
        (ps.foldl (deliver fuel) l).1.length = l.1.length := by
      intro ps
      induction ps with
      | nil => intro l; rfl
      | cons p ps hp => intro l; rw [List.foldl_cons, hp, ih]
    obtain ⟨owner, n⟩ := piece
    unfold deliver
    split_ifs
    · rfl
    · split
      · rfl
      · split
        · rfl
        · rw [fold]; simp

theorem length_distribute (p : Nat) (sup : List Supporter) (cases : List CaseRec) (deck : Nat) :
    (distribute p sup cases deck).1.length = cases.length := by
  unfold distribute
  have fold : ∀ (ps : List (Owner × Nat)) (n : Nat) (l : List CaseRec × Nat),
      (ps.foldl (deliver n) l).1.length = l.1.length := by
    intro ps n
    induction ps with
    | nil => intro l; rfl
    | cons p ps hp => intro l; rw [List.foldl_cons, hp, length_deliver]
  exact fold _ _ _

theorem length_pushCase (b : Build) (c : CaseRec) : (pushCase b c).cases.length = b.cases.length + 1 := by
  unfold pushCase
  dsimp only
  rw [length_distribute]
  simp

theorem length_add (b : Build) (c : CaseRec) : (b.add c).cases.length = b.cases.length + 1 := length_pushCase b _

theorem length_rebuild (b : Build) (cs : List CaseRec) : (b.rebuild cs).cases.length = cs.length := by
  have fold : ∀ (cs : List CaseRec) (b : Build), (cs.foldl pushCase b).cases.length = b.cases.length + cs.length := by
    intro cs
    induction cs with
    | nil => intro b; rfl
    | cons c cs ih => intro b; rw [List.foldl_cons, ih, length_pushCase, List.length_cons]; omega
  unfold Build.rebuild
  rw [fold]
  exact Nat.zero_add _

theorem length_truncate (b : Build) (k : Nat) : (b.truncate k).cases.length ≤ b.cases.length := by
  unfold Build.truncate
  split_ifs
  · show (b.rebuild (b.cases.take k)).cases.length ≤ _
    rw [length_rebuild]
    exact List.length_take_le' _ _
  · exact le_rfl

theorem length_confirm (b : Build) (i : Nat) (t : Tracking) : (b.confirm i t).cases.length = b.cases.length := by
  unfold Build.confirm
  split
  · split_ifs
    · exact List.length_set ..
    · rfl
  · rfl

theorem BuildMove.keeps {b c : Build} (m : BuildMove b c) (h : b.cases.length ≤ Config.buildCapacity) :
    c.cases.length ≤ Config.buildCapacity := by
  cases m with
  | bind => exact h
  | add c hb =>
    obtain ⟨rev, t, hb, _⟩ := hb
    unfold Build.takesAdd at hb
    simp only [Bool.and_eq_true, decide_eq_true_eq] at hb
    rw [length_add]
    exact hb.1.2
  | truncate k => exact (length_truncate b k).trans h
  | confirm i t => rw [length_confirm]; exact h

theorem Works.buildsOk {s t : State} (w : Works s t) (h : BuildsOk s) : BuildsOk t := fun i =>
  Many.keeps (P := fun b : Build => b.cases.length ≤ Config.buildCapacity) (fun _ _ m k => m.keeps k) (w.builds i) (h i)

/-! ### The room of the plan store (R64, R66) -/

theorem PlansMove.length {ps qs : List Plan} (m : PlansMove ps qs) : qs.length ≤ ps.length := by
  cases m with
  | change => rw [length_changeFirst]
  | drop => exact List.length_filter_le _ _

@[simp] theorem note_kind (i : StationNo) (e : Exec) : (Exec.note i e).kind = e.kind := by
  unfold Exec.note; split <;> rfl

theorem note_loading {i : StationNo} {e : Exec} {gap : Timer} (h : (Exec.note i e).phase = .loading gap) :
    e.phase = .loading gap := by
  unfold Exec.note at h
  split at h
  · cases h
  · exact h

/-- Noting transitions leaves an open load as it is. -/
theorem notes_loading (is : List StationNo) {o : Option Exec} {e : Exec} {gap : Timer}
    (h : is.foldl (fun e i => e.map (Exec.note i)) o = some e) (hp : e.phase = .loading gap) :
    ∃ x, o = some x ∧ x.kind = e.kind ∧ x.phase = .loading gap := by
  induction is generalizing o with
  | nil => exact ⟨e, h, rfl, hp⟩
  | cons i is ih =>
    obtain ⟨x, hx, hk, hl⟩ := ih h
    obtain ⟨y, hy, rfl⟩ := Option.map_eq_some_iff.mp hx
    exact ⟨y, hy, by rw [← hk, note_kind], note_loading hl⟩

theorem Works.planRoomOk {s t : State} (w : Works s t) (h : PlanRoomOk s) : PlanRoomOk t := by
  have hl : t.plans.plans.length ≤ s.plans.plans.length :=
    Many.keeps (P := fun ps : List Plan => ps.length ≤ s.plans.plans.length) (fun _ _ m k => m.length.trans k) w.plans le_rfl
  refine ⟨hl.trans h.1, fun e gap he hp => ?_⟩
  obtain ⟨is, hr⟩ := w.req
  rw [hr] at he
  obtain ⟨x, hx, hk, hg⟩ := notes_loading is he hp
  rw [← hk]
  exact (h.2 x gap hx hg).imp_right fun k => ⟨k.1, hl.trans_lt k.2⟩

theorem Works.capacitiesOk {s t : State} (w : Works s t) (h : CapacitiesOk s) : CapacitiesOk t :=
  ⟨w.tablesOk h.1, w.trackerOk h.2.1, w.engineOk h.2.2.1, w.stationsOk h.2.2.2.1, w.lanesOk h.2.2.2.2.1,
    w.buildsOk h.2.2.2.2.2.1, w.planRoomOk h.2.2.2.2.2.2⟩

/-! ### The report unit -/

theorem length_dropOldest (v : Nat) (q : List Report) (h : ∃ r ∈ q, r.level = v) :
    (dropOldest v q).length + 1 = q.length := by
  induction q with
  | nil => obtain ⟨r, hr, _⟩ := h; cases hr
  | cons r q ih =>
    unfold dropOldest
    split_ifs with e
    · rfl
    · obtain ⟨x, hx, hv⟩ := h
      rcases List.mem_cons.mp hx with rfl | hx
      · exact absurd hv e
      · simp [ih ⟨x, hx, hv⟩]

theorem mem_dropOldest {v : Nat} {q : List Report} {r : Report} (h : r ∈ dropOldest v q) : r ∈ q := by
  induction q with
  | nil => cases h
  | cons x q ih =>
    unfold dropOldest at h
    split_ifs at h
    · exact List.mem_cons_of_mem _ h
    · rcases List.mem_cons.mp h with h | h
      · exact h ▸ List.mem_cons_self
      · exact List.mem_cons_of_mem _ (ih h)

/-- The lowest level is 7 or the level of a queued report. -/
theorem lowestLevel_mem (q : List Report) : lowestLevel q = 7 ∨ ∃ r ∈ q, r.level = lowestLevel q := by
  have fold : ∀ (q : List Report) (n : Nat), q.foldl (fun m r => min m r.level) n = n
      ∨ ∃ r ∈ q, r.level = q.foldl (fun m r => min m r.level) n := by
    intro q
    induction q with
    | nil => intro n; exact .inl rfl
    | cons x q ih =>
      intro n
      rw [List.foldl_cons]
      rcases ih (min n x.level) with e | ⟨r, hr, e⟩
      · rcases Nat.le_total n x.level with k | k
        · exact .inl (e.trans (min_eq_left k))
        · exact .inr ⟨x, List.mem_cons_self, (e.trans (min_eq_right k)).symm⟩
      · exact .inr ⟨r, List.mem_cons_of_mem _ hr, e⟩
  exact fold q 7

/-- The report unit as `ReportsOk` asks for it. -/
def ReportUnit.ok (u : ReportUnit) : Prop :=
  u.levels.length = 15 ∧ (∀ v ∈ u.levels, v ≤ 7) ∧ u.queue.length ≤ Config.reportCapacity
    ∧ (∀ r ∈ u.queue, 1 ≤ r.level ∧ r.level ≤ 7) ∧ u.lost ≤ 255

theorem ReportUnit.ok_take {u : ReportUnit} {r : Report} (h : u.ok) (hr : 1 ≤ r.level ∧ r.level ≤ 7) : (u.take r).ok := by
  obtain ⟨h1, h2, h3, h4, h5⟩ := h
  have lost : lostMore u.lost ≤ 255 := min_le_left _ _
  unfold ReportUnit.take
  split_ifs with hc hl
  · refine ⟨h1, h2, by simpa using hc, fun x hx => ?_, h5⟩
    rcases List.mem_append.mp hx with hx | hx
    · exact h4 x hx
    · rw [List.mem_singleton.mp hx]; exact hr
  · have hm : ∃ x ∈ u.queue, x.level = lowestLevel u.queue := by
      rcases lowestLevel_mem u.queue with e | e
      · omega
      · exact e
    have := length_dropOldest _ _ hm
    refine ⟨h1, h2, by simp; omega, fun x hx => ?_, lost⟩
    rcases List.mem_append.mp hx with hx | hx
    · exact h4 x (mem_dropOldest hx)
    · rw [List.mem_singleton.mp hx]; exact hr
  · exact ⟨h1, h2, h3, h4, lost⟩

/-- A report queued now has a level of 1..7. -/
theorem QueuedIn.range {levels : List Nat} {time : LineTime} {r : Report} (h : QueuedIn levels time r)
    (hl : ∀ v ∈ levels, v ≤ 7) : 1 ≤ r.level ∧ r.level ≤ 7 := by
  refine ⟨Nat.one_le_iff_ne_zero.mpr h.queued, ?_⟩
  rw [h.level, List.getD_eq_getElem?_getD]
  rcases e : levels[r.body.kindCode - 1]? with _ | v
  · simp
  · exact hl v (List.mem_iff_getElem?.mpr ⟨_, e⟩)

theorem Works.reportsOk {s t : State} (w : Works s t) (h : ReportsOk s) : ReportsOk t := by
  obtain ⟨rs, hq, e⟩ := w.reports
  have fold : ∀ (rs : List Report) (u : ReportUnit), u.ok → (∀ r ∈ rs, 1 ≤ r.level ∧ r.level ≤ 7) →
      (rs.foldl ReportUnit.take u).ok := by
    intro rs
    induction rs with
    | nil => intro u h _; exact h
    | cons r rs ih =>
      intro u h k
      exact ih _ (ReportUnit.ok_take h (k r List.mem_cons_self)) fun x hx => k x (List.mem_cons_of_mem _ hx)
  have := fold rs s.reports h fun r hr => (hq r hr).range h.2.1
  unfold ReportsOk; rw [e]; exact this

/-! ### The link -/

/-- The link interface as `LinkOk` asks for it. -/
def Link.ok (l : Link) : Prop :=
  l.fwdA.length ≤ Config.forwardCapacity ∧ l.fwdB.length ≤ Config.forwardCapacity
    ∧ l.ownB.length ≤ Config.ownCapacity
    ∧ l.ownB.Pairwise (fun x y => y.isDecision = true → x.isDecision = true)
    ∧ (l.waitB ≠ [] → l.ownB.length = Config.ownCapacity)

theorem length_insertDecision (f : OwnFrame) (q : List OwnFrame) : (insertDecision f q).length = q.length + 1 := by
  induction q with
  | nil => rfl
  | cons x q ih => unfold insertDecision; split_ifs <;> simp [ih]

theorem mem_insertDecision {f y : OwnFrame} {q : List OwnFrame} (h : y ∈ insertDecision f q) : y = f ∨ y ∈ q := by
  induction q with
  | nil => simpa [insertDecision] using h
  | cons x q ih =>
    unfold insertDecision at h
    split_ifs at h
    · rcases List.mem_cons.mp h with h | h
      · exact .inr (h ▸ List.mem_cons_self)
      · exact (ih h).imp_right (List.mem_cons_of_mem _)
    · simpa using h

theorem length_joinOwn (f : OwnFrame) (q : List OwnFrame) : (joinOwn f q).length = q.length + 1 := by
  unfold joinOwn
  split_ifs
  · exact length_insertDecision f q
  · simp

theorem joinOwn_ordered (f : OwnFrame) {q : List OwnFrame}
    (h : q.Pairwise fun x y => y.isDecision = true → x.isDecision = true) :
    (joinOwn f q).Pairwise fun x y => y.isDecision = true → x.isDecision = true := by
  unfold joinOwn
  split_ifs with hf
  · induction q with
    | nil => simp [insertDecision]
    | cons x q ih =>
      obtain ⟨hx, hq⟩ := List.pairwise_cons.mp h
      unfold insertDecision
      split_ifs with ha
      · refine List.pairwise_cons.mpr ⟨fun y hy hd => ?_, ih hq⟩
        by_cases e : x.isDecision = true
        · exact e
        · exfalso
          simp only [List.any_cons, e, Bool.false_or, List.any_eq_true] at ha
          obtain ⟨z, hz, hd⟩ := ha
          exact e (hx z hz hd)
      · exact List.pairwise_cons.mpr ⟨fun y _ _ => hf, h⟩
  · refine List.pairwise_append.mpr ⟨h, by simp, fun x _ y hy hd => ?_⟩
    rw [List.mem_singleton.mp hy] at hd
    exact absurd hd hf

theorem Link.ok_issue {l : Link} (f : OwnFrame) (h : l.ok) : (l.issue f).ok := by
  obtain ⟨h1, h2, h3, h4, h5⟩ := h
  unfold Link.issue
  split_ifs with e
  · simp only [Bool.and_eq_true, List.isEmpty_iff, decide_eq_true_eq] at e
    exact ⟨h1, h2, by rw [length_joinOwn]; exact e.2, joinOwn_ordered f h4, fun k => absurd e.1 k⟩
  · refine ⟨h1, h2, h3, h4, fun _ => ?_⟩
    simp only [Bool.and_eq_true, List.isEmpty_iff, decide_eq_true_eq, not_and, not_lt] at e
    by_cases k : l.waitB = []
    · exact le_antisymm h3 (e k)
    · exact h5 k

theorem Works.linkOk {s t : State} (w : Works s t) (h : LinkOk s) : LinkOk t := by
  obtain ⟨fs, e⟩ := w.link
  have : (fs.foldl Link.issue s.link).ok := issues_keep (fun l f => Link.ok_issue f) fs s.link h
  unfold LinkOk; rw [e]; exact this

theorem Works.settingsOk {s t : State} (w : Works s t) (h : SettingsOk s) : SettingsOk t := by
  unfold SettingsOk; rw [w.settings, w.latch, w.sup]; exact h

/-! ### Serving the ports -/

/-- The report chosen (R176): none before it is as good, none behind it is better. -/
theorem chooseReport_split {q rest : List Report} {r : Report} (h : chooseReport q = some (r, rest)) :
    ∃ before later, q = before ++ r :: later ∧ rest = before ++ later
      ∧ (∀ x ∈ before, reportBefore r x = true) ∧ ∀ x ∈ later, reportBefore x r = false := by
  induction q generalizing r rest with
  | nil => cases h
  | cons x q ih =>
    unfold chooseReport at h
    split at h
    · rename_i e
      have hq : q = [] := by
        cases q with
        | nil => rfl
        | cons y ys =>
          unfold chooseReport at e
          split at e
          · cases e
          · split_ifs at e
      simp only [Option.some.injEq, Prod.mk.injEq] at h
      obtain ⟨rfl, rfl⟩ := h
      exact ⟨[], [], by simp [hq], rfl, by simp, by simp⟩
    · rename_i b others e
      obtain ⟨before, later, e1, e2, hb, hl⟩ := ih e
      split_ifs at h with c
      · simp only [Option.some.injEq, Prod.mk.injEq] at h
        obtain ⟨rfl, rfl⟩ := h
        refine ⟨x :: before, later, by simp [e1], by simp [e2], fun y hy => ?_, hl⟩
        rcases List.mem_cons.mp hy with rfl | hy
        · exact c
        · exact hb y hy
      · simp only [Option.some.injEq, Prod.mk.injEq] at h
        obtain ⟨rfl, rfl⟩ := h
        refine ⟨[], q, rfl, rfl, by simp, fun y hy => ?_⟩
        rw [e1] at hy
        rcases List.mem_append.mp hy with hy | hy
        · have := hb y hy
          simp only [reportBefore, Bool.or_eq_true, Bool.or_eq_false_iff, Bool.and_eq_true, Bool.and_eq_false_iff, decide_eq_true_eq,
            decide_eq_false_iff_not, beq_iff_eq, beq_eq_false_iff_ne] at *
          omega
        · rcases List.mem_cons.mp hy with rfl | hy
          · simpa using c
          · have := hl y hy
            simp only [reportBefore, Bool.or_eq_true, Bool.or_eq_false_iff, Bool.and_eq_true, Bool.and_eq_false_iff,
              decide_eq_true_eq, decide_eq_false_iff_not, beq_iff_eq, beq_eq_false_iff_ne] at *
            omega

/-- What each part of port A's turn keeps, the turn keeps; `late` and `draws` are no concern of it. -/
theorem turnA_keeps {P : State → Prop} (hf : ∀ s, P s → P (fillSlot s)) (ha : ∀ s, P s → P (startA s))
    (hl : ∀ s (l : Bool) (n : Nat), P s → P { s with req := { s.req with late := l }, draws := n }) (s : State)
    (h : P s) : P (turnA s) := by
  have hd : ∀ u, P u → P (drawLate u) := by
    intro u k
    unfold drawLate
    split_ifs
    · exact hl u _ _ k
    · exact k
  unfold turnA
  dsimp only
  split_ifs
  · exact h
  · exact hd _ (ha _ h)
  · exact hd _ (ha _ (hf _ (hl s false s.draws h)))
  · exact ha _ (hf _ (hl s false s.draws h))

/-- What each part of the service keeps, the service keeps. -/
theorem settle_keeps {P : State → Prop} (hf : ∀ s, P s → P (fillSlot s)) (ha : ∀ s, P s → P (startA s))
    (hl : ∀ s (l : Bool) (n : Nat), P s → P { s with req := { s.req with late := l }, draws := n })
    (hb : ∀ s, P s → P (startB s)) (s : State) (h : P s) : P (settle s) :=
  hb _ (hf _ (turnA_keeps hf ha hl _ (hf _ h)))

theorem settle_reportsOk {s : State} (h : ReportsOk s) : ReportsOk (settle s) := by
  refine settle_keeps (P := ReportsOk) (fun s h => ?_) (fun s h => ?_) (fun _ _ _ h => h) (fun s h => h) s h
  · unfold ReportsOk; rw [(fillSlot_portA s).2.2]; exact h
  · unfold startA
    split_ifs
    · exact h
    · split
      · unfold sendForwardA; split <;> exact h
      · unfold sendOwnA
        split
        · exact h
        · unfold sendReport
          split
          · exact h
          · rename_i r rest e
            obtain ⟨before, later, e1, e2, -, -⟩ := chooseReport_split e
            obtain ⟨h1, h2, h3, h4, h5⟩ := h
            have hs : ∀ x ∈ rest, x ∈ s.reports.queue := by
              intro x hx
              rw [e1]; rw [e2] at hx
              rcases List.mem_append.mp hx with hx | hx
              · exact List.mem_append_left _ hx
              · exact List.mem_append_right _ (List.mem_cons_of_mem _ hx)
            have hl : rest.length ≤ s.reports.queue.length := by rw [e1, e2]; simp
            exact ⟨h1, h2, hl.trans h3, fun x hx => h4 x (hs x hx), Nat.zero_le _⟩
      · exact h

theorem takeWaiting_none {q : List OwnFrame} (h : takeWaiting q = none) : q = [] := by
  cases q with
  | nil => rfl
  | cons f q =>
    unfold takeWaiting at h
    split_ifs at h
    split at h <;> cases h

/-- A place of the own-frame queue freed and filled. -/
theorem Link.ok_refill {l : Link} {f : OwnFrame} {q : List OwnFrame} (h : l.ok) (e : l.ownB = f :: q) (p : PortState) :
    (Link.refill { l with portB := p, ownB := q }).ok := by
  obtain ⟨h1, h2, h3, h4, h5⟩ := h
  rw [e] at h3 h4 h5
  have h4' := (List.pairwise_cons.mp h4).2
  have hq : q.length < Config.ownCapacity := h3
  unfold Link.refill
  simp only [hq, if_true]
  split
  · rename_i g rest hw
    have hne : l.waitB ≠ [] := by intro k; rw [k] at hw; cases hw
    have := h5 hne
    simp only [List.length_cons] at this
    exact ⟨h1, h2, by rw [length_joinOwn]; exact this.le, joinOwn_ordered g h4', fun _ => by
      show (joinOwn g q).length = _
      rw [length_joinOwn]; exact this⟩
  · rename_i hw
    exact ⟨h1, h2, hq.le, h4', fun k => absurd (takeWaiting_none hw) k⟩

theorem Link.ok_startB {l : Link} (h : l.ok) : l.startB.ok := by
  unfold Link.startB
  split_ifs
  · exact h
  · split
    · unfold Link.sendForwardB
      split
      · exact h
      · rename_i b rest e
        obtain ⟨h1, h2, h3, h4, h5⟩ := h
        rw [e] at h2
        exact ⟨h1, (Nat.le_succ _).trans h2, h3, h4, h5⟩
    · unfold Link.sendOwnB
      split
      · exact h
      · rename_i f q e
        exact Link.ok_refill h e _
    · exact h

/-- The link queues that `LinkOk` reads, but for the forward queue of port A. -/
theorem Link.ok_of {l m : Link} (h : l.ok) (ha : m.fwdA.length ≤ Config.forwardCapacity) (hb : m.fwdB = l.fwdB)
    (ho : m.ownB = l.ownB) (hw : m.waitB = l.waitB) : m.ok := by
  obtain ⟨-, h2, h3, h4, h5⟩ := h
  exact ⟨ha, by rw [hb]; exact h2, by rw [ho]; exact h3, by rw [ho]; exact h4, by rw [hw, ho]; exact h5⟩

theorem startA_fwdA (s : State) : (startA s).link.fwdA.length ≤ s.link.fwdA.length := by
  unfold startA
  split_ifs
  · exact le_rfl
  · split
    · unfold sendForwardA
      split
      · exact le_rfl
      · rename_i b rest e
        rw [e]; exact Nat.le_succ _
    · unfold sendOwnA
      split
      · exact le_rfl
      · unfold sendReport; split <;> exact le_rfl
    · exact le_rfl

theorem settle_linkOk {s : State} (h : LinkOk s) : LinkOk (settle s) := by
  refine settle_keeps (P := LinkOk) (fun s h => ?_) (fun s h => ?_) (fun _ _ _ h => h) (fun s h => Link.ok_startB h) s h
  · obtain ⟨-, b, c, d⟩ := fillSlot_portB s
    exact Link.ok_of (l := s.link) h (by rw [(fillSlot_portA s).2.1]; exact h.1) b c d
  · obtain ⟨-, b, c, d⟩ := startA_portB s
    exact Link.ok_of (l := s.link) h ((startA_fwdA s).trans h.1) b c d

theorem settle_countsOk {s : State} (h : CountsOk s) : CountsOk (settle s) := by
  unfold CountsOk; rw [(settle_services s).plans]; exact h

theorem settle_settingsOk {s : State} (h : SettingsOk s) : SettingsOk (settle s) := by
  have k := settle_services s
  unfold SettingsOk; rw [k.settings, k.latch, k.sup]; exact h

/-- A load that is open after the ports are served was open before. -/
theorem settle_loading {s : State} {e : Exec} {gap : Timer} (h : (settle s).req.exec = some e) (hp : e.phase = .loading gap) :
    s.req.exec = some e := by
  have hm : ∀ u : State, (moveUp u).req.exec = u.req.exec := by
    intro u; unfold moveUp; split <;> rfl
  have hr : ∀ u : State, (produceReply u).req.exec = some e → u.req.exec = some e := by
    intro u k
    unfold produceReply at k
    split at k
    · exact k
    · split at k <;> first
        | exact k
        | (cases k; cases hp)
  have hf : ∀ u : State, (fillSlot u).req.exec = some e → u.req.exec = some e := by
    intro u k
    unfold fillSlot at k
    dsimp only at k
    split_ifs at k
    · rw [← hm u]; exact hr _ k
    · rw [← hm u]; exact k
  have ha : ∀ u : State, (startA u).req = u.req := by
    intro u
    unfold startA
    split_ifs
    · rfl
    · split
      · unfold sendForwardA; split <;> rfl
      · unfold sendOwnA
        split
        · rfl
        · unfold sendReport; split <;> rfl
      · rfl
  exact settle_keeps (P := fun u => u.req.exec = some e → s.req.exec = some e) (fun u k x => k (hf u x))
    (fun u k x => k (by rw [← ha u]; exact x)) (fun _ _ _ k x => k x) (fun _ k x => k x) s id h

theorem settle_capacitiesOk {s : State} (h : CapacitiesOk s) : CapacitiesOk (settle s) := by
  have k := settle_services s
  obtain ⟨h1, h2, h3, h4, h5, h6, h7⟩ := h
  refine ⟨?_, ?_, ?_, ?_, ?_, ?_, ?_⟩
  · unfold TablesOk; rw [k.tables]; exact h1
  · unfold TrackerOk; rw [k.tracker]; exact h2
  · unfold EngineOk; rw [k.engine]; exact h3
  · unfold StationsOk; rw [k.stations]; exact h4
  · unfold LanesOk; rw [k.lanes]; exact h5
  · unfold BuildsOk; rw [k.builds]; exact h6
  · refine ⟨by rw [k.plans]; exact h7.1, fun e gap he hp => ?_⟩
    rw [k.plans]
    exact h7.2 e gap (settle_loading he hp) hp

/-! ### Moving the line time (R189) -/

theorem Exec.reach_loading {t : LineTime} {e : Exec} {gap : Timer} (h : (e.reach t).phase = .loading gap) :
    (e.reach t).kind = e.kind ∧ ∃ g, e.phase = .loading g := by
  rcases e with ⟨k, tg, src, cs, ph⟩
  cases ph with
  | loading g => exact ⟨rfl, g, rfl⟩
  | _ => cases h

/-- Marking the expiries reached keeps every capacity. -/
theorem moveTime_capacitiesOk {s : State} (t : LineTime) (h : CapacitiesOk s) : CapacitiesOk (s.moveTime t) := by
  obtain ⟨h1, ⟨ha, hl, hk, hc⟩, h3, h4, h5, h6, h7⟩ := h
  refine ⟨h1, ⟨ha, by simpa [State.moveTime, State.reachAt] using hl, ?_, ?_⟩, h3, ?_, ?_, h6, h7.1, ?_⟩
  · rw [risingKeys_iff] at hk ⊢
    have : (s.tracker.tracks.map (Track.reach t)).map Track.key = s.tracker.tracks.map Track.key := List.map_map
    exact this ▸ hk
  · intro e he
    obtain ⟨x, hx, rfl⟩ := List.mem_map.mp (show e ∈ s.tracker.tracks.map (Track.reach t) from he)
    exact hc x hx
  · intro i
    have := h4 i
    simpa [State.moveTime, State.reachAt, Station.reach] using this
  · intro k
    have := h5 k
    simpa [State.moveTime, State.reachAt, Lane.reach] using this
  · intro e gap he hp
    obtain ⟨x, hx, rfl⟩ := Option.map_eq_some_iff.mp (show s.req.exec.map (Exec.reach t) = some e from he)
    obtain ⟨hk, g, hg⟩ := Exec.reach_loading hp
    rw [hk]
    exact h7.2 x g hx hg

theorem moveTime_settingsOk {s : State} (t : LineTime) (h : SettingsOk s) : SettingsOk (s.moveTime t) := by
  refine ⟨h.1, h.2.1, h.2.2.1, fun e he => ?_⟩
  rcases hs : s.req.sup with _ | x | _
  · rw [show (s.moveTime t).req.sup = s.req.sup.reach t from rfl, hs] at he; cases he
  · exact h.2.2.2 x hs
  · rw [show (s.moveTime t).req.sup = s.req.sup.reach t from rfl, hs] at he; cases he

theorem replying_reach (t : LineTime) (o : Option Exec) : replying (o.map (Exec.reach t)) = replying o := by
  rcases o with _ | ⟨k, tg, src, cs, ph⟩
  · rfl
  · cases ph <;> rfl

/-- Served ports stay served when the line time moves. -/
theorem moveTime_served {s : State} (t : LineTime) (h : Served s) : Served (s.moveTime t) where
  slot := fun e => by
    obtain ⟨a, b, c⟩ := h.slot e
    exact ⟨a, b, fun l => (replying_reach t s.req.exec).trans (c l)⟩
  waiting := h.waiting
  idleA := h.idleA
  idleB := h.idleB

/-- A command keeps what its effect and the service keep. -/
theorem live_keeps {P : State → Prop} (hs : ∀ s, P s → P (settle s)) {effect : State → State}
    (he : ∀ s, P s → P (effect s)) {s t : State} (h : P s) (e : live effect s = .next t) : P t := by
  unfold live at e
  injection e with e
  subst e
  split_ifs
  · exact h
  · exact hs _ (he _ (hs _ h))

end Sys2Proof.Machine
end

