-- ==== Sys2Proof/Tests/Slice0.lean ====
section
/-!
SUPPORT. Tests: the checks of well-formedness, the manual's own figures, and for every statement that has hypotheses a
state and operands that meet them, clause by clause.
-/

namespace Sys2Proof.Tests

open Sys2Proof.Machine

-- One test after the other: their kernel evaluations side by side would each hold a thread.
set_option Elab.async false

/-! ### Frames and states -/

/-- A frame with its length and check filled in. -/
def frame (p : Port) (dst src tag kind : Byte) (payload : List Byte) : RxFrame :=
  let len := BitVec.ofNat 8 payload.length
  { port := p, dst := dst, src := src, tag := tag, len := len, payload := payload
    check := crc16 (frameHead dst src kind tag len payload) }

/-- A request from the control node to node 15. -/
def req (kind : Byte) (p : List Byte) : RxFrame := frame .a 15 1 7 kind p

/-- A partner frame to node 15. -/
def par (kind src : Byte) (p : List Byte) : RxFrame := frame .b 15 src 0 kind p

/-- A timer whose expiry is not yet marked as reached. -/
def tm (n : Nat) : Timer := ⟨BitVec.ofNat 32 n, false⟩

/-- Node 15 with every block at its power-on values. -/
def w0 : State := State.powerOn 15

def art : Article :=
  { code := 100, length := 200, width := 100, height := 150, nominal := 1000, tolerance := 10, crush := 5000, kind := 0
    minSupport := 128, rotateOk := true, topOnly := false, deckOnly := false }

def baseE : BaseEntry :=
  { cols := 6, rows := 4, heightLimit := 1000, closeHeight := 800, maxLoad := 100000, boundX := 48, boundY := 48
    threshold := 100000 }

def best0 : Best :=
  { x := 0, y := 0, turned := false, a := 4, b := 2, rest := 0, top := 150, q := 256, supporters := [⟨.deck, 256, true⟩]
    disturb := 0, scan := 0 }

def place0 : Placement := { station := 0, line := 0, drop := 1, revision := 0, best := best0 }

def plan5 : Plan :=
  { id := 5, due := 7, baseKind := 0, part := 1, admission := 0, state := .building, bound := some 0
    lines := [⟨1, 100, 3, 1, 0⟩] }

def build0 : Build := (Build.empty.bind 5 1 0 baseE).add (caseRecordOf art 1000 1000 place0 0)

def order0 : Order := { seq := 0, tracking := 1000, target := .place 0, state := .issued }

def station0 : Station :=
  { Station.powerOn with
    state := .building, ready := true, nextSeq := 1, orders := [order0], takeExpiry := some (tm 60000) }

/-- A tracked case with its snapshot. -/
def track (t : Tracking) (st : TrackState) (circuits : Nat) : Track :=
  { tracking := t, snap := some art, weight := 1000, circuits := circuits, state := st }

/-- Station 0 BUILDING plan 5 with one case ordered, lane 1 with three cases, the gate open. -/
def w1 : State :=
  { w0 with
    tables := { w0.tables with articles := [art], bases := w0.tables.bases.set 0 (some baseE) }
    plans := { w0.plans with plans := [plan5] }
    builds := w0.builds.set 0 build0
    stations := w0.stations.set 0 station0
    lanes := w0.lanes.set 1 { Lane.powerOn with list := [2000, 2001, 2002] }
    tracker :=
      { arrivals := []
        tracks := [track 1000 (.toStation 0 0) 0, track 2000 (.held 1) 1, track 2001 (.holdPending 1) 0,
          track 2002 (.holdPending 1) 2] }
    engine := { w0.engine with gate := true } }

/-- The line time moved. -/
def atTime (n : Nat) (s : State) : State := { s with link := { s.link with time := BitVec.ofNat 32 n } }

/-- Both ports in the middle of a transmission. -/
def busy (s : State) : State :=
  { s with link := { s.link with portA := ⟨some (.forward []), .forward⟩, portB := ⟨some (.forward []), .forward⟩ } }

/-- An own frame of port B. -/
def lane4 : OwnFrame := ownFrameB w0 4 (.laneFlush 1)
def dec3 : OwnFrame := ownFrameB w0 3 (.decision 9 .pass)

/-- Port A busy, with a frame in the slot and one in the waiting place. -/
def noPlace (s : State) : State :=
  { s with
    link := { s.link with portA := ⟨some (.forward []), .forward⟩, slot := some lane4 }
    req := { s.req with waiting := some lane4 } }

/-- An open load. -/
def load (kind : Byte) (n r : Nat) : Exec :=
  { kind := kind, tag := 7, source := 1, counts := some (n, r), phase := .loading (tm 5000) }

/-- A request in execution. -/
def executing (e : Exec) (s : State) : State := { s with req := { s.req with exec := some e } }

/-! ### The situations, as checks -/

def isRunning (s : State) : Bool := !s.inReset && decide (settle s = s)

theorem running_of {s : State} (h : isRunning s = true) : Running s := by
  simp only [isRunning, Bool.and_eq_true, Bool.not_eq_true', decide_eq_true_eq] at h
  exact ⟨h.1, h.2⟩

def isDirected (k : Byte) (f : RxFrame) (s : State) : Bool :=
  isRunning s && frameOk k f && decide (f.dst = s.link.ownNode) && !isBroadcast f

theorem directed_of {k : Byte} {f : RxFrame} {s : State} (h : isDirected k f s = true) : Directed k f s := by
  simp only [isDirected, Bool.and_eq_true, Bool.not_eq_true', decide_eq_true_eq] at h
  exact ⟨running_of h.1.1.1, h.1.1.2, h.1.2, h.2⟩

def isTaken (k : Byte) (n : Nat) (f : RxFrame) (s : State) : Bool :=
  isDirected k f s && decide (s.req.exec = none) && !s.placesFull && decide (f.payload.length = n)

theorem taken_of {k : Byte} {n : Nat} {f : RxFrame} {s : State} (h : isTaken k n f s = true) : TakenAt k n f s := by
  simp only [isTaken, Bool.and_eq_true, Bool.not_eq_true', decide_eq_true_eq] at h
  exact ⟨directed_of h.1.1.1, h.1.1.2, h.1.2, h.2⟩

def isPartner (k : Byte) (f : RxFrame) (s : State) : Bool := isDirected k f s && sourceOk s.req.settings k f

theorem partner_of {k : Byte} {f : RxFrame} {s : State} (h : isPartner k f s = true) : FromPartner k f s := by
  simp only [isPartner, Bool.and_eq_true] at h
  exact ⟨directed_of h.1, h.2⟩

/-- The state that a command answers. -/
def stateAfter (c : Instr) (s : State) : State :=
  match exec c s with
  | .next t => t
  | .fault _ | .refused _ => s

/-- Whether a case is tracked in a state that `p` allows. -/
def isIn (s : State) (u : Tracking) (p : TrackState → Bool) : Bool := (s.track u).any fun e => p e.state

/-- CasesOk, as a check of a state without an arrival's job. -/
def isCases (s : State) : Bool :=
  decide (s.tracker.tracks.Pairwise fun x y => Track.key x < Track.key y) && decide (placesOf s).Nodup
    && decide (∀ k : LaneNo, s.lanes[k].list.all fun u =>
        isIn s u fun x => x == .holdPending k || x == .held k || x == .releasing k)
    && decide (∀ i : StationNo, s.stations[i].orders.all fun o => isIn s o.tracking fun x => x == .toStation i o.seq)
    && decide (∀ i : StationNo, s.stations[i].spur.all fun x => isIn s x.tracking fun y => y == .spurHeld i)
    && s.engine.job.isNone

theorem cases_of {s : State} (h : isCases s = true) : CasesOk s := by
  simp only [isCases, isIn, Bool.and_eq_true, decide_eq_true_eq, Option.any_eq_true, Bool.or_eq_true, beq_iff_eq,
    List.all_eq_true, Option.isNone_iff_eq_none, or_assoc] at h
  obtain ⟨⟨⟨⟨⟨keys, once⟩, lanes⟩, orders⟩, spur⟩, job⟩ := h
  refine ⟨keys, once, lanes, orders, spur, fun j a e h => ?_⟩
  rw [job] at h
  cases h

/-- BindingsOk, as a check of a state without a job. -/
def isBound (s : State) : Bool :=
  decide (s.plans.plans.Pairwise fun x y => Plan.key x < Plan.key y)
    && decide (∀ p ∈ s.plans.plans, p.state = .building → ∃ i : StationNo, p.bound = some i
        ∧ s.builds[i].planId = some p.id ∧ s.builds[i].part = some p.part
        ∧ (s.stations[i].state = .building
            ∨ s.stations[i].state = .fault ∧ s.stations[i].cause ≠ .exchangeTimeout ∧ s.stations[i].close = none))
    && decide (∀ p ∈ s.plans.plans, p.state ≠ .building → p.bound = none)
    && decide (∀ p ∈ s.plans.plans, p.state = .draining → ∀ l ∈ p.lines, l.required ≤ l.planned)
    && decide (∀ i : StationNo,
        s.stations[i].state = .offline ∨ s.stations[i].state = .idle ∨ s.stations[i].state = .building →
          s.stations[i].close = none)
    && decide (∀ i : StationNo, s.stations[i].orders ≠ [] →
        s.stations[i].state = .building ∨ s.stations[i].state = .closing
          ∨ s.stations[i].state = .fault ∧ s.stations[i].cause ≠ .exchangeTimeout)
    && s.engine.job.isNone

theorem bound_of {s : State} (h : isBound s = true) : BindingsOk s := by
  simp only [isBound, Bool.and_eq_true, decide_eq_true_eq, Option.isNone_iff_eq_none] at h
  obtain ⟨⟨⟨⟨⟨⟨keys, building⟩, others⟩, draining⟩, closing⟩, orders⟩, job⟩ := h
  refine ⟨keys, building, others, draining, closing, orders, fun j r p h => ?_⟩
  rw [job] at h
  cases h

/-- SupportersOk, as a check. -/
def isSupported (below : List CaseRec) (drop : Nat) (sup : List Supporter) : Bool :=
  decide (sup.length ≤ 8) && decide (sup.map (·.owner)).Nodup && decide (∀ j ∈ sup, 1 ≤ j.share)
    && decide ((sup.map (·.share)).sum = 256) && decide (sup.countP (·.principal) = 1)
    && sup.all fun j => match j.owner with
      | .deck => true
      | .case m => below[m]?.any fun y => decide (drop ≤ y.drop) && !y.topOnly

theorem supported_of {below : List CaseRec} {drop : Nat} {sup : List Supporter} (h : isSupported below drop sup = true) :
    SupportersOk below drop sup := by
  simp only [isSupported, Bool.and_eq_true, decide_eq_true_eq, List.all_eq_true] at h
  obtain ⟨⟨⟨⟨⟨few, once⟩, share⟩, sum⟩, one⟩, all⟩ := h
  refine ⟨few, once, share, sum, one, fun j hj m hm => ?_⟩
  have := all j hj
  simpa [hm, Option.any_eq_true] using this

/-- BuildSound, as a check. -/
def isSound (b : Build) : Bool :=
  decide (b.rebuild b.cases = b) && decide (b.binding = none → b.cases = [])
    && decide (b.heightMap.length = b.cols * b.rows ∧ b.ownerMap.length = b.cols * b.rows)
    && decide (∀ n < b.ownerMap.length, (b.ownerMap[n]?.bind (heightOf b.cases)).any fun h =>
        b.heightMap[n]? == some h && decide (h ≤ b.heightLimit))
    && decide (∀ c ∈ b.cases, c.top ≤ b.heightLimit) && decide (b.topHeight = maxHeight b.heightMap)
    && decide (∀ n < b.cases.length, b.cases[n]?.any fun c => isSupported (b.cases.take n) c.drop c.supporters)
    && decide (b.deckLoad = b.totalWeight ∧ b.totalWeight = (b.cases.map (·.weight)).sum)
    && decide (∀ c ∈ b.cases, c.carried ≤ c.crush)

theorem sound_of {b : Build} (h : isSound b = true) : BuildSound b := by
  simp only [isSound, Bool.and_eq_true, decide_eq_true_eq] at h
  obtain ⟨⟨⟨⟨⟨⟨⟨⟨replayed, unbound⟩, sizes⟩, heights⟩, tops⟩, top⟩, supporters⟩, loads⟩, crush⟩ := h
  refine ⟨replayed, unbound, sizes, fun n o ho => ?_, tops, top, fun n c hc => ?_, loads, crush⟩
  · have := heights n (List.getElem?_eq_some_iff.mp ho).1
    simpa [ho, Option.any_eq_true] using this
  · have := supporters n (List.getElem?_eq_some_iff.mp hc).1
    rw [hc] at this
    exact supported_of (by simpa using this)

/-! ### Well-formedness -/

/-- A kind that is no reserved kind is refused by the row of the reserved kinds. -/
theorem test_wf_refuses_unreserved_kind :
    (Instr.unknownKind 0x10 (req 0x10 [])).wf = false ∧ (Instr.unknownKind 0x28 (req 0x28 [])).wf = false
      ∧ (Instr.unknownKind 0x25 (req 0x25 [])).wf = true ∧ (Instr.unknownKind 0x2F (req 0x2F [])).wf = true := by
  decide +kernel

/-- A kind that the device takes is refused by the row of the discarded kinds. -/
theorem test_wf_refuses_taken_kind :
    (Instr.discardedKindFrame 0x40 (req 0x40 [])).wf = false ∧ (Instr.discardedKindFrame 0x10 (req 0x10 [])).wf = false
      ∧ (Instr.discardedKindFrame 0x41 (req 0x41 [])).wf = true := by
  decide +kernel

/-- Every other command is well-formed: its operands are typed. -/
theorem test_wf_takes_typed_operands : (Instr.takeTimerExpiry 7).wf = true ∧ (Instr.describe (req 0x10 [1])).wf = true := by
  decide +kernel

/-! ### The manual's own figures -/

/-- R182: the check of 31H..39H is 29B1H. -/
theorem test_crc_check_value : crc16 [0x31, 0x32, 0x33, 0x34, 0x35, 0x36, 0x37, 0x38, 0x39] = 0x29B1 := by
  decide +kernel

/-! ### Witnesses: the machine and the line link -/

/-- StepRunsFrontCommand, IdleStepsChangeNothing. -/
theorem test_witness_queue :
    ({ w0 with pending := [.lineTimeTick] } : State).pending = [.lineTimeTick] ∧ State.reset.pending = []
      ∧ State.reset.inReset = false := by
  decide +kernel

/-- ResetEventsComplete, NothingHappensInReset: the state that POWER_ON_RESET leaves. -/
theorem test_witness_in_reset :
    ∃ t, exec .powerOnReset w1 = .next t ∧ t.inReset = true ∧ exec .lineTimeTick t = .next t := ⟨_, rfl, rfl, rfl⟩

set_option maxRecDepth 100000 in
/-- BadFrameIsDiscarded: a length byte above 240, a payload cut short, a wrong check, a node above 127, and raw bytes one
short of an envelope. -/
theorem test_witness_bad_frames :
    Running w1
      ∧ (∀ f ∈ [frame .a 15 1 7 0x10 (List.replicate 241 0), { req 0x10 [] with len := 1 },
          { req 0x10 [] with check := 0 }, frame .a 128 1 7 0x10 []],
          frameOf (.describe f) = some (0x10, f) ∧ frameOk 0x10 f = false)
      ∧ (List.replicate 6 (0 : Byte)).length < 7 := by
  refine ⟨running_of ?_, ?_, ?_⟩ <;> decide +kernel

/-- ForwardedFrames: another node's frame, and a broadcast one. -/
theorem test_witness_forwarded :
    Running w1 ∧ frameOk 0x10 (frame .a 16 1 7 0x10 []) = true ∧ (frame .a 16 1 7 0x10 []).dst ≠ w1.link.ownNode
      ∧ isBroadcast (frame .a 16 1 7 0x10 []) = false
      ∧ frameOk 0x10 (frame .b 127 1 7 0x10 []) = true ∧ isBroadcast (frame .b 127 1 7 0x10 []) = true := by
  refine ⟨running_of ?_, ?_⟩ <;> decide +kernel

/-- FrameBytesRoundTrip: the longest payload and the highest node. -/
theorem test_witness_longest_frame :
    let items := List.replicate 44 (Item.laneEntry 1 none) ++ List.replicate 2 (Item.planLine 0 ⟨1, 1, 1, 0, 0⟩)
    (OwnBody.responseData 0 true items).payload.length = 240 ∧ (127 : Byte).toNat ≤ 127 := by
  decide +kernel

/-- DiscardedFramesChangeNothing: a kind of the device's own, and an ARRIVAL from the wrong node and of the wrong
length. -/
theorem test_witness_discarded :
    isTakenKind 0x41 = false ∧ Directed 0x41 (par 0x41 1 []) w1
      ∧ Directed 0x40 (par 0x40 3 (List.replicate 20 1)) w1 ∧ sourceOk w1.req.settings 0x40 (par 0x40 3 (List.replicate 20 1)) = false
      ∧ Directed 0x40 (par 0x40 2 (List.replicate 19 1)) w1
      ∧ sourceOk w1.req.settings 0x40 (par 0x40 2 (List.replicate 19 1)) = false := by
  refine ⟨?_, directed_of ?_, directed_of ?_, ?_, directed_of ?_, ?_⟩ <;> decide +kernel

/-- DecisionsGoAhead: a queue with DECISIONs ahead, and waiting frames of both sorts. -/
theorem test_witness_decisions :
    [dec3, lane4].Pairwise (fun x y => y.isDecision = true → x.isDecision = true)
      ∧ takeWaiting [lane4, dec3, dec3] = some (dec3, [lane4, dec3]) ∧ takeWaiting [lane4, lane4] = some (lane4, [lane4]) := by
  decide +kernel

/-- IdlePortsAreServed. -/
theorem test_witness_settled :
    Settled w1 ∧ w1.inReset = false ∧ w1.link.portA.sending = none ∧ w1.link.slot = none
      ∧ ∃ t, exec .lineTimeTick w1 = .next t := by
  refine ⟨(running_of (by decide +kernel)).served, rfl, rfl, rfl, _, rfl⟩

/-- Port A sending, with a forward queue, a slot, reports and a mark. -/
def sendingA (tx : TxFrame) (fwd : List (List Byte)) (slot : Option OwnFrame) (q : List Report) (m : Side) : State :=
  { w1 with
    link := { w1.link with portA := ⟨some tx, m⟩, fwdA := fwd, slot := slot }
    reports := { w1.reports with queue := q } }

/-- Port B sending. -/
def sendingB (fwd : List (List Byte)) (own : List OwnFrame) (m : Side) : State :=
  { w1 with link := { w1.link with portB := ⟨some (.own lane4), m⟩, fwdB := fwd, ownB := own } }

/-- FrameSentCompletes: each choice of a side, at both ports, and ports that send nothing. -/
theorem test_witness_frame_sent :
    let r := startedReport 15
    (∀ s ∈ [sendingA (.own { lane4 with final := true }) [[1]] none [] .own, sendingA (.own lane4) [[1]] none [] .forward,
        sendingA (.forward [2]) [[1]] (some lane4) [r] .forward, sendingA (.forward [2]) [] (some lane4) [] .own,
        sendingA (.forward [2]) [[1]] none [r, r] .forward, sendingA (.forward [2]) [] none [] .own],
      isRunning s = true ∧ s.link.portA.sending.isSome = true)
      ∧ (∀ s ∈ [sendingB [[1]] [lane4] .own, sendingB [[1]] [] .forward, sendingB [[1]] [lane4] .forward,
          sendingB [] [dec3] .own, sendingB [] [] .own], isRunning s = true ∧ s.link.portB.sending.isSome = true)
      ∧ isRunning w1 = true ∧ w1.link.portA.sending = none ∧ w1.link.portB.sending = none := by
  decide +kernel

/-! ### Witnesses: requests -/

/-- RequestWithoutPlaceIsDiscarded. -/
theorem test_witness_no_place :
    Directed 0x10 (req 0x10 []) (noPlace w1) ∧ (noPlace w1).placesFull = true
      ∧ Directed 0x25 (req 0x25 []) (noPlace w1) ∧ isReservedKind 0x25 = true := by
  refine ⟨directed_of ?_, ?_, directed_of ?_, ?_⟩ <;> decide +kernel

/-- FirstFailingCheckRefuses: a reserved kind; BUSY; a wrong length in READY and of READ STATE in EXECUTING; a field out
of range, at the first value beyond it. -/
theorem test_witness_refused :
    let s := executing (load 0x14 2 2) w1
    isReservedKind 0x2F = true ∧ Directed 0x2F (req 0x2F []) s ∧ s.placesFull = false
      ∧ Directed 0x10 (req 0x10 []) s ∧ s.req.exec.isSome = true
      ∧ Directed 0x11 (req 0x11 [1]) s ∧ (req 0x11 [1]).payload.length ≠ 0
      ∧ Directed 0x1E (req 0x1E []) w1 ∧ w1.req.exec = none ∧ w1.placesFull = false
      ∧ Directed 0x1E (req 0x1E [4]) w1 ∧ badLane [4] = some 1 ∧ badLane [3] = none
      ∧ badStation [8] = some 1 ∧ badStation [7] = none ∧ badSetStation [7, 1, 4] = some 3
      ∧ badSetStation [7, 1, 3] = none ∧ badAcknowledge [7, 1, 3] = some 3 ∧ badAcknowledge [7, 1, 2] = none
      ∧ badProbe [0, 0, 0, 1, 0, 0, 16, 1] = some 3 ∧ badProbe [0, 0, 0, 1, 0, 0, 15, 1] = none
      ∧ badProbe [0, 0, 0, 1, 0, 0, 15, 0] = some 4 := by
  refine ⟨?_, directed_of ?_, ?_, directed_of ?_, ?_, directed_of ?_, ?_, directed_of ?_, ?_, ?_, directed_of ?_, ?_⟩
    <;> decide +kernel

/-- DescribeCompletes, ReadStateCompletes (in EXECUTING), SetTimeCompletes (directed and broadcast), RestartCompletes with
an order queued. -/
theorem test_witness_simple_requests :
    TakenAt 0x10 0 (req 0x10 []) w1 ∧ Directed 0x11 (req 0x11 []) (executing (load 0x14 2 2) w1)
      ∧ TakenAt 0x12 4 (req 0x12 [0xFF, 0xFF, 0xFF, 0xFF]) w1
      ∧ (Running w1 ∧ frameOk 0x12 (frame .a 127 1 7 0x12 [0, 0, 0, 9]) = true
          ∧ isBroadcast (frame .a 127 1 7 0x12 [0, 0, 0, 9]) = true ∧ w1.placesFull = false)
      ∧ TakenAt 0x24 0 (req 0x24 []) w1 ∧ w1.stations[0].orders ≠ [] ∧ w1.reports.levels.getD 0 0 ≠ 0
      ∧ w1.lanes[1].list ≠ [] ∧ w1.lanes[0].list = [] := by
  refine ⟨taken_of ?_, directed_of ?_, taken_of ?_, ⟨running_of ?_, ?_⟩, taken_of ?_, ?_⟩ <;> decide +kernel

/-- The supervision timer running, under an action. -/
def supervised (a : SupAction) (e : Nat) : State :=
  { w1 with
    req :=
      { w1.req with
        sup := .running (tm e), settings := { w1.req.settings with supInterval := 1000, supAction := a } } }

/-- SupervisionExpiryCompletes: an expiry just passed, under both actions, and one not yet passed. -/
theorem test_witness_supervision :
    Running (supervised .report 0) ∧ Running (supervised .stop 0) ∧ Running (supervised .stop 1)
      ∧ passed (supervised .report 0).link.time (tm 0) = true ∧ passed (supervised .stop 1).link.time (tm 1) = false := by
  refine ⟨running_of ?_, running_of ?_, running_of ?_, ?_⟩ <;> decide +kernel

/-- SegmentsHoldWholeItems: more items than one segment holds. -/
theorem test_witness_segments :
    let items := List.replicate 48 (Item.laneEntry 1 none)
    items ≠ [] ∧ (∀ i ∈ items, i.bytes.length ≤ 238)
      ∧ packItems items = [List.replicate 47 (.laneEntry 1 none), [.laneEntry 1 none]] := by
  decide +kernel

/-- ReadsBeginTheirReplies: the plan held and not held. -/
theorem test_witness_reads :
    TakenAt 0x20 1 (req 0x20 [0]) w1 ∧ badStation [0] = none ∧ TakenAt 0x21 2 (req 0x21 [0, 5]) w1
      ∧ badPlanId [0, 5] = none ∧ (w1.plan 5).isSome = true ∧ TakenAt 0x21 2 (req 0x21 [0xFF, 0xFF]) w1
      ∧ w1.plan 0xFFFF = none ∧ TakenAt 0x22 1 (req 0x22 [3]) w1 ∧ badLane [3] = none := by
  refine ⟨taken_of ?_, ?_, taken_of ?_, ?_, ?_, taken_of ?_, ?_, taken_of ?_, ?_⟩ <;> decide +kernel

/-- A probe in the probe slot. -/
def probing (drop : Nat) : State :=
  { executing { kind := 0x1F, tag := 7, source := 1, counts := none, phase := .probing } w1 with
    engine := { w1.engine with probe := some { article := art, weight := 0, drop := drop, stations := [0, 1] } } }

/-- ProbeCompletes: a code that the table holds and one that it does not; the job at drop 0 and drop 15. -/
theorem test_witness_probe :
    TakenAt 0x1F 8 (req 0x1F [0, 0, 0, 100, 0, 0, 0, 3]) w1 ∧ badProbe [0, 0, 0, 100, 0, 0, 0, 3] = none
      ∧ (w1.tables.articles.find? fun a => a.code == 100).isSome = true
      ∧ TakenAt 0x1F 8 (req 0x1F [0, 0, 0, 101, 0, 0, 15, 0xFF]) w1
      ∧ (w1.tables.articles.find? fun a => a.code == 101) = none
      ∧ Running (probing 0) ∧ Running (probing 15) ∧ (probing 0).takesProbe = true
      ∧ (probing 0).req.exec.map (replyFrames 15) = some [] := by
  refine ⟨taken_of ?_, ?_, ?_, taken_of ?_, ?_, running_of ?_, running_of ?_, ?_, ?_⟩ <;> decide +kernel

/-! ### Witnesses: tables and settings -/

set_option maxRecDepth 100000 in
/-- SetSettingsCompletes, from the control node and from another, all fields at 0 and at the highest value. -/
theorem test_witness_settings :
    TakenAt 0x13 84 (req 0x13 (List.replicate 84 0)) w1 ∧ TakenAt 0x13 84 (frame .a 15 9 7 0x13 (List.replicate 84 0xFF)) w1 := by
  refine ⟨taken_of ?_, taken_of ?_⟩ <;> decide +kernel

/-- TableRequestsComplete: a code held and one not held; the kind matrix; levels. -/
theorem test_witness_table_requests :
    TakenAt 0x15 4 (req 0x15 [0, 0, 0, 100]) w1 ∧ (∃ a ∈ w1.tables.articles, a.code = 100)
      ∧ TakenAt 0x15 4 (req 0x15 [0xFF, 0xFF, 0xFF, 0xFF]) w1 ∧ (∀ a ∈ w1.tables.articles, a.code ≠ 0xFFFFFFFF)
      ∧ TakenAt 0x17 64 (req 0x17 (List.replicate 64 1)) w1 ∧ badKinds (List.replicate 64 1) = none
      ∧ badKinds (List.replicate 63 0 ++ [2]) = some 64
      ∧ TakenAt 0x18 15 (req 0x18 (List.replicate 15 8)) w1 := by
  refine ⟨taken_of ?_, ?_, taken_of ?_, ?_, taken_of ?_, ?_, ?_, taken_of ?_⟩ <;> decide +kernel

/-- A LOAD BASE payload. -/
def baseBytes (kind present : Byte) : List Byte := [kind, present, 24, 20, 3, 232, 3, 232, 0, 0, 255, 255, 48, 40, 0, 0, 0, 0]

/-- LoadBaseCompletes: blocked and free, present and absent. -/
theorem test_witness_load_base :
    TakenAt 0x16 18 (req 0x16 (baseBytes 0 1)) w1 ∧ badBase (baseBytes 0 1) = none ∧ badBase (baseBytes 3 0) = none
      ∧ badBase (baseBytes 4 1) = some 1 ∧ badBase (baseBytes 3 2) = some 2
      ∧ (w1.stations[0].baseKind = 0 ∧ w1.stations[0].state = .building)
      ∧ TakenAt 0x16 18 (req 0x16 (baseBytes 3 1)) w1 ∧ TakenAt 0x16 18 (req 0x16 (baseBytes 3 0)) w1
      ∧ ∀ i : StationNo, w1.stations[i].baseKind ≠ 3 := by
  refine ⟨taken_of ?_, ?_, ?_, ?_, ?_, ?_, taken_of ?_, taken_of ?_, ?_⟩ <;> decide +kernel

/-- 32 plans held. -/
def manyPlans : State :=
  { w1 with plans := { w1.plans with
      plans := (List.range 32).map fun n => { plan5 with id := BitVec.ofNat 16 (n + 1), state := .queued, bound := none } } }

/-- LoadsOpen: a count of 0 that stands for 256; a full plan store, and a store with room. -/
theorem test_witness_loads :
    TakenAt 0x14 1 (req 0x14 [0]) w1 ∧ TakenAt 0x14 1 (req 0x14 [255]) w1
      ∧ TakenAt 0x19 6 (req 0x19 [0, 9, 0, 1, 0, 48]) w1 ∧ w1.badHeader [0, 9, 0, 1, 0, 48] = none
      ∧ w1.badHeader [0, 9, 0, 1, 0, 49] = some 4 ∧ w1.badHeader [0, 5, 0, 1, 0, 48] = some 1
      ∧ TakenAt 0x19 6 (req 0x19 [0, 99, 0, 1, 0, 1]) manyPlans ∧ manyPlans.badHeader [0, 99, 0, 1, 0, 1] = none
      ∧ 32 ≤ manyPlans.plans.plans.length := by
  refine ⟨taken_of ?_, taken_of ?_, taken_of ?_, ?_, ?_, ?_, taken_of ?_, ?_, ?_⟩ <;> decide +kernel

/-- An article record of code `c`. -/
def articleBytes (c : Byte) : List Byte := [0, 0, 0, c, 0, 200, 0, 100, 0, 150, 3, 232, 10, 0x13, 0x88, 0, 0, 128, 1]

/-- A plan line record of drop `d`. -/
def lineBytes (d : Byte) : List Byte := [d, 0, 0, 0, 100, 3]

def admission9 : Admission := { id := 9, due := 3, baseKind := 0, count := 2, lines := [] }

/-- An open ADMIT PLAN of two lines. -/
def admitting : State :=
  { executing (load 0x19 2 2) w1 with plans := { w1.plans with admission := some admission9 } }

/-- A table of `n` articles with codes from 1000. -/
def manyArticles (n : Nat) (s : State) : State :=
  { s with tables := { s.tables with articles := (List.range n).map fun i => { art with code := BitVec.ofNat 32 (1000 + i) } } }

/-- DataStoresArticles: one record of two, and the two with one more that is not read. -/
theorem test_witness_article_data :
    let s := executing (load 0x14 2 2) w1
    Directed 0x28 (req 0x28 (articleBytes 3)) s ∧ s.req.exec = some (load 0x14 2 2) ∧ s.placesFull = false
      ∧ (∀ p ∈ [articleBytes 3, articleBytes 100], p.length = 19 ∧ badArticle p = none)
      ∧ ([articleBytes 3, articleBytes 100].map articleOf).foldl (fun l a => putKey Article.key a l) s.tables.articles
          = [{ articleOf (articleBytes 3) with code := 3 }, articleOf (articleBytes 100)]
      ∧ Directed 0x28 (req 0x28 (articleBytes 3 ++ articleBytes 100 ++ articleBytes 0)) s := by
  refine ⟨directed_of ?_, ?_, ?_, ?_, ?_, directed_of ?_⟩ <;> decide +kernel

/-- DataAdmitsAPlan: one line of two, and both. -/
theorem test_witness_line_data :
    Directed 0x28 (req 0x28 (lineBytes 1)) admitting ∧ Directed 0x28 (req 0x28 (lineBytes 1 ++ lineBytes 15)) admitting
      ∧ admitting.req.exec = some (load 0x19 2 2) ∧ admitting.plans.admission = some admission9
      ∧ badLine [] (lineBytes 1) = none ∧ badLine [lineOf (lineBytes 1)] (lineBytes 15) = none
      ∧ admitting.placesFull = false ∧ RisingKeys Plan.key admitting.plans.plans ∧ admitting.plan 9 = none := by
  refine ⟨directed_of ?_, directed_of ?_, ?_, ?_, ?_, ?_, ?_, ?_, ?_⟩
  case refine_8 => unfold RisingKeys; decide +kernel
  all_goals decide +kernel

set_option maxRecDepth 100000 in
/-- DataEndsALoad: a bad article code, a full table, a repeated line, a payload of no whole record, a stray frame. -/
theorem test_witness_data_ends :
    let s := executing (load 0x14 2 2) w1
    Directed 0x28 (req 0x28 (articleBytes 3 ++ articleBytes 0)) s ∧ badArticle (articleBytes 0) = some 1
      ∧ (manyArticles 4096 s).tables.articles.length = 4096
      ∧ (∀ a ∈ (manyArticles 4096 s).tables.articles, a.code ≠ (articleOf (articleBytes 3)).code)
      ∧ (manyArticles 4096 s).placesFull = false
      ∧ Directed 0x28 (req 0x28 (lineBytes 1 ++ lineBytes 1)) admitting
      ∧ badLine [lineOf (lineBytes 1)] (lineBytes 1) = some 2 ∧ badLine [] (lineBytes 0) = some 1
      ∧ badLine [] (lineBytes 16) = some 1
      ∧ Directed 0x28 (req 0x28 [1, 2, 3]) admitting ∧ Directed 0x28 (req 0x28 []) s
      ∧ Directed 0x28 (frame .a 15 2 7 0x28 (lineBytes 1)) admitting ∧ (load 0x19 2 2).source ≠ 2
      ∧ Directed 0x28 (req 0x28 []) w1 ∧ w1.req.exec = none := by
  refine ⟨directed_of ?_, ?_, ?_, ?_, ?_, directed_of ?_, ?_, ?_, ?_, directed_of ?_, directed_of ?_, directed_of ?_,
    ?_, directed_of ?_, ?_⟩ <;> decide +kernel

/-- DataGapExpiryCompletes: the wait of 5000 just passed for both loads, and not yet. -/
theorem test_witness_data_gap :
    Running (atTime 5000 (executing (load 0x14 2 2) w1)) ∧ Running (atTime 5000 admitting)
      ∧ passed (atTime 5000 admitting).link.time (tm 5000) = true ∧ Running (atTime 4999 admitting)
      ∧ passed (atTime 4999 admitting).link.time (tm 5000) = false ∧ admitting.placesFull = false := by
  refine ⟨running_of ?_, running_of ?_, ?_, running_of ?_, ?_, ?_⟩ <;> decide +kernel

/-! ### Witnesses: plans -/

/-- A QUEUED plan of base kind 0. -/
def plan6 : Plan := { plan5 with id := 6, due := 9, admission := 1, state := .queued, bound := none, lines := [⟨1, 100, 2, 0, 0⟩] }

/-- Plan 6 queued too, and station 3 IDLE and ready. -/
def w2 : State :=
  { w1 with
    plans := { w1.plans with plans := [plan5, plan6] }
    stations := w1.stations.set 3 { Station.powerOn with state := .idle, ready := true } }

/-- WithdrawPlanAndSetGateComplete: not held, bound, queued; the gate. -/
theorem test_witness_withdraw :
    TakenAt 0x1A 2 (req 0x1A [0, 7]) w2 ∧ w2.plan 7 = none ∧ TakenAt 0x1A 2 (req 0x1A [0, 5]) w2
      ∧ w2.plan 5 = some plan5 ∧ TakenAt 0x1A 2 (req 0x1A [0, 6]) w2 ∧ w2.plan 6 = some plan6
      ∧ TakenAt 0x23 1 (req 0x23 [0]) w2 ∧ TakenAt 0x23 1 (req 0x23 [1]) w2 := by
  refine ⟨taken_of ?_, ?_, taken_of ?_, ?_, taken_of ?_, ?_, taken_of ?_, taken_of ?_⟩ <;> decide +kernel

/-- BindingTakesTheFirstPlan. -/
theorem test_witness_binding :
    RisingKeys Plan.key w2.plans.plans ∧ w2.stations[3].state = .idle ∧ w2.stations[3].ready = true
      ∧ w2.builds[3].binding = none ∧ w2.builds[3].cases = [] ∧ planFor w2 3 = some plan6
      ∧ w2.tables.bases[w2.stations[3].baseKind] = some baseE := by
  refine ⟨?_, ?_⟩
  · unfold RisingKeys; decide +kernel
  · decide +kernel

/-- CountsMoveByOne: a line that stands between its bounds, at the upper one, at the lower one, and one case short of the
end of its plan. -/
theorem test_witness_counts :
    w2.plan 5 = some plan5 ∧ plan5.lines[0]? = some ⟨1, 100, 3, 1, 0⟩
      ∧ (1 < 3 ∧ 0 < 1) ∧ w2.plan 6 = some plan6 ∧ plan6.lines[0]? = some ⟨1, 100, 2, 0, 0⟩
      ∧ (placeMore (some 7) 0 { w2 with plans := { w2.plans with
          plans := [{ plan5 with id := 7, lines := [⟨1, 100, 2, 2, 1⟩] }] } }).2 = some 0 := by
  decide +kernel

/-! ### Witnesses: stations -/

/-- Station 0 changed. -/
def at0 (g : Station → Station) (s : State) : State := s.onStation 0 g

/-- SetStationCompletes: station 7 in each of its states, each mode, a base kind present and absent. -/
theorem test_witness_set_station :
    (∀ p ∈ ([[7, 1, 3], [7, 1, 0], [7, 0, 0], [3, 1, 0], [3, 1, 1], [3, 0, 0], [0, 1, 0]] : List (List Byte)),
      isTaken 0x1B 3 (req 0x1B p) w2 = true ∧ badSetStation p = none)
      ∧ w2.stations[7].state = .offline ∧ w2.stations[7].ready = false ∧ w2.tables.bases[(3 : BaseKind)] = none
      ∧ w2.tables.bases[(0 : BaseKind)] ≠ none ∧ w2.stations[3].state = .idle ∧ w2.stations[3].baseKind = 0
      ∧ w2.stations[0].state = .building
      ∧ isTaken 0x1B 3 (req 0x1B [7, 1, 0]) (w2.onStation 7 fun st => { st with ready := true }) = true := by
  decide +kernel

/-- CloseStationCompletes: not BUILDING, BUILDING with an order, and BUILDING with none. -/
theorem test_witness_close_station :
    let free := at0 (fun st => { st with orders := [], takeExpiry := none }) w2
    TakenAt 0x1C 1 (req 0x1C [3]) w2 ∧ badStation [3] = none ∧ w2.stations[3].state ≠ .building
      ∧ TakenAt 0x1C 1 (req 0x1C [0]) w2 ∧ w2.stations[0].orders ≠ [] ∧ w2.planAt 0 = some plan5
      ∧ TakenAt 0x1C 1 (req 0x1C [0]) free ∧ free.stations[0].orders = [] ∧ free.stations[0].spur = []
      ∧ RisingKeys Plan.key w2.plans.plans := by
  refine ⟨taken_of ?_, ?_, ?_, taken_of ?_, ?_, ?_, taken_of ?_, ?_, ?_, ?_⟩
  case refine_10 => unfold RisingKeys; decide +kernel
  all_goals decide +kernel

/-- Station 0 in FAULT. -/
def faulted (cause : StationCause) (orders : List Order) (close : Option CloseReason) (ready : Bool) : State :=
  at0
    (fun st =>
      { st with
        state := .fault, cause := cause, orders := orders, close := close, ready := ready, takeExpiry := none })
    w2

/-- AcknowledgeFaultCompletes: no fault; an exchange timeout; not ready; an UNKNOWN order with no disposition and with each;
keep with and without a close reason; discard. -/
theorem test_witness_acknowledge :
    let u : Order := { order0 with state := .unknown }
    (∀ x ∈ ([(w2, [0, 0, 0]), (faulted .exchangeTimeout [] none true, [0, 0, 0]), (faulted .blocked [] none false, [0, 0, 0]),
        (faulted .sequence [u] none true, [0, 0, 0]), (faulted .sequence [u] none true, [0, 0, 1]),
        (faulted .sequence [u] none true, [0, 0, 2]), (faulted .blocked [] (some .split) true, [0, 0, 0]),
        (faulted .sequence [u] none true, [0, 1, 1]), (faulted .blocked [] none true, [0, 1, 0])] :
          List (State × List Byte)),
      isTaken 0x1D 3 (req 0x1D x.2) x.1 = true ∧ badAcknowledge x.2 = none)
      ∧ StationsOk (faulted .sequence [u] none true) := by
  refine ⟨?_, ?_⟩
  · decide +kernel
  · unfold StationsOk; decide +kernel

/-- Station 0 with orders. -/
def ordered (orders : List Order) (state : StationState) : State :=
  at0 (fun st => { st with orders := orders, state := state }) w2

def taken0 : Order := { order0 with state := .taken }
def reject0 : Order := { order0 with target := .reject .noPlace, state := .taken }
def order1 : Order := { seq := 1, tracking := 1001, target := .place 1, state := .issued }

/-- ExpectedOrderReplyCompletes: TAKEN of an ISSUED order; DONE of a TAKEN PLACE order and of a TAKEN REJECT order, in
BUILDING and as the last of a CLOSING station. -/
theorem test_witness_expected_reply :
    (∀ x ∈ ([(ordered [order0, order1] .building, [0, 0, 0, 0]), (ordered [taken0, order1] .building, [0, 0, 1, 0]),
        (ordered [reject0] .building, [0, 0, 1, 0]), (ordered [reject0] .closing, [0, 0, 1, 0])] :
          List (State × List Byte)),
      isPartner 0x52 (par 0x52 8 x.2) x.1 = true ∧ stationAt x.2 = some 0 ∧ x.1.stations[0].works = true
        ∧ x.1.stations[0].withdrawn = [] ∧ x.1.stations[0].spur = [])
      ∧ StationsOk (ordered [taken0, order1] .building)
      ∧ replyOutcome 0 0 = some .taken ∧ replyOutcome 1 0 = some .done
      ∧ (w2.builds[0].cases[0]?.map fun c => (c.tracking, c.status, c.line)) = some (1000, .provisional, 0)
      ∧ w2.builds[0].planId = some 5 ∧ w2.plan 5 = some plan5
      ∧ (∃ m ∈ plan5.lines.set 0 ⟨1, 100, 3, 1, 1⟩, m.placed ≠ m.required) := by
  refine ⟨?_, ?_, ?_⟩
  · decide +kernel
  · unfold StationsOk; decide +kernel
  · decide +kernel

/-- FailedOrderReplyCompletes: DROPPED, NO_CASE and BLOCKED, with a later order. -/
theorem test_witness_failed_reply :
    (∀ x ∈ ([(ordered [taken0, order1] .building, [0, 0, 2, 1]), (ordered [order0, order1] .building, [0, 0, 2, 2]),
        (ordered [taken0, order1] .building, [0, 0, 2, 3])] : List (State × List Byte)),
      isPartner 0x52 (par 0x52 8 x.2) x.1 = true ∧ x.1.stations[0].withdrawn = [])
      ∧ replyOutcome 2 1 = some .dropped ∧ replyOutcome 2 2 = some .noCase ∧ replyOutcome 2 3 = some .blocked := by
  decide +kernel

/-- UnexpectedOrderReply: a withdrawn sequence; no outcome; no order to reply to; a sequence that is not the oldest's; in
FAULT the UNKNOWN order and another. -/
theorem test_witness_unexpected_reply :
    let u : Order := { order0 with state := .unknown }
    (∀ x ∈ ([(at0 (fun st => { st with withdrawn := [0] }) w2, [0, 0, 1, 0]), (w2, [0, 0, 3, 0]), (w2, [1, 0, 1, 0]),
        (w2, [0, 0, 1, 0]), (w2, [0, 9, 0, 0]), (faulted .blocked [u] none true, [0, 0, 1, 0]),
        (faulted .blocked [u] none true, [0, 9, 1, 0])] : List (State × List Byte)),
      isPartner 0x52 (par 0x52 8 x.2) x.1 = true)
      ∧ replyOutcome 3 0 = none ∧ replyOutcome 1 1 = none ∧ w2.stations[1].state = .offline := by
  decide +kernel

/-- ReadyChangeCompletes: repeated and above 1; a rise in OFFLINE and in IDLE; a fall in IDLE and in BUILDING. -/
theorem test_witness_ready_change :
    (∀ x ∈ ([(w2, [0, 1]), (w2, [0, 2]), (w2, [1, 0]), (w2, [1, 1]), (w2, [0, 0])] : List (State × List Byte)),
      isPartner 0x53 (par 0x53 8 x.2) x.1 = true)
      ∧ isPartner 0x53 (par 0x53 9 [3, 1]) (w2.onStation 3 fun st => { st with ready := false }) = true
      ∧ isPartner 0x53 (par 0x53 9 [3, 0]) w2 = true
      ∧ w2.stations[0].ready = true ∧ w2.stations[1].ready = false ∧ w2.stations[1].state = .offline := by
  decide +kernel

/-- ExchangesComplete: EXCHANGE START in AWAIT_EXCHANGE and elsewhere, EXCHANGE DONE in EXCHANGING and after the timeout,
ready and not, and a station above 7. -/
theorem test_witness_exchanges :
    (∀ x ∈ ([(0x70, at0 (fun st => { st with state := .awaitExchange }) w2, [0]), (0x70, w2, [0]),
        (0x71, at0 (fun st => { st with state := .exchanging }) w2, [0]),
        (0x71, at0 (fun st => { st with state := .exchanging, ready := false }) w2, [0]),
        (0x71, faulted .exchangeTimeout [] none true, [0]), (0x71, w2, [0]), (0x70, w2, [8]), (0x71, w2, [8])] :
          List (Byte × State × List Byte)),
      isPartner x.1 (par x.1 5 x.2.2) x.2.1 = true)
      ∧ stationAt [8] = none ∧ stationAt [7] = some 7 := by
  decide +kernel

/-- StationTimersComplete: each timer just passed, and not yet. -/
theorem test_witness_station_timers :
    let placing := at0 (fun st => { st with orders := [taken0], takeExpiry := none, placeExpiry := some (tm 60000) }) w2
    let exchanging := at0 (fun st => { st with state := .exchanging, exchangeExpiry := some (tm 60000) }) w2
    (∀ s ∈ [atTime 60000 w2, atTime 60000 placing, atTime 60000 exchanging, atTime 59999 w2], isRunning s = true)
      ∧ w2.stations[0].works = true ∧ w2.stations[0].takeExpiry = some (tm 60000)
      ∧ passed (atTime 60000 w2).link.time (tm 60000) = true ∧ passed (atTime 59999 w2).link.time (tm 60000) = false := by
  decide +kernel

/-! ### Witnesses: lanes -/

/-- Lane 1 in a state. -/
def laneIn (state : LaneState) : State := w1.onLane 1 fun l => { l with state := state }

/-- Lane 1 releasing its head. -/
def releasing : State :=
  (w1.onLane 1 fun l => { l with inFlight := some 2000, expiry := some (tm 500) }).setTrack 2000 (.releasing 1)

/-- FlushLaneCompletes. -/
theorem test_witness_flush :
    TakenAt 0x1E 1 (req 0x1E [1]) w1 ∧ badLane [1] = none ∧ w1.lanes[1].state ≠ .flushing
      ∧ TakenAt 0x1E 1 (req 0x1E [1]) (laneIn .flushing) := by
  refine ⟨taken_of ?_, ?_, ?_, taken_of ?_⟩ <;> decide +kernel

/-- LaneFramesComplete: the right case and a wrong one, in READY, FAULT and FLUSHING, for each frame; a lane above 3. -/
theorem test_witness_lane_frames :
    (∀ s ∈ [w1, laneIn .fault, laneIn .flushing],
      isPartner 0x62 (par 0x62 4 [1, 0, 0, 0x07, 0xD1]) s = true ∧ isPartner 0x62 (par 0x62 4 [1, 0, 0, 0, 9]) s = true
        ∧ isPartner 0x63 (par 0x63 4 [1, 0, 0, 0, 9]) s = true ∧ isPartner 0x64 (par 0x64 4 [1]) s = true)
      ∧ w1.oldestUnconfirmed 1 = some 2001
      ∧ isPartner 0x63 (par 0x63 4 [1, 0, 0, 0x07, 0xD0]) releasing = true ∧ releasing.lanes[1].inFlight = some 2000
      ∧ releasing.lanes[1].list.head? = some 2000
      ∧ laneAt [4, 0, 0, 0, 9] = none ∧ isPartner 0x62 (par 0x62 4 [4, 0, 0, 0, 9]) w1 = true := by
  decide +kernel

/-- CaseTimersComplete: a release timer and a return deadline just passed, and not yet. -/
theorem test_witness_case_timers :
    let looping := w1.setTrack 2000 (.returning (tm 500))
    Running (atTime 500 releasing) ∧ Running (atTime 499 releasing) ∧ Running (atTime 500 looping)
      ∧ Running (atTime 499 looping) ∧ releasing.lanes[1].expiry = some (tm 500)
      ∧ looping.track 2000 = some (track 2000 (.returning (tm 500)) 1)
      ∧ passed (atTime 500 looping).link.time (tm 500) = true ∧ passed (atTime 499 looping).link.time (tm 500) = false := by
  refine ⟨running_of ?_, running_of ?_, running_of ?_, running_of ?_, ?_⟩ <;> decide +kernel

/-! ### Witnesses: cases and decisions -/

def arrival3 : Arrival := { tracking := 3000, code := 100, length := 200, width := 100, height := 150, weight := 1000, scan := 0 }

/-- An arrival at the head of the arrival queue. -/
def withArrival (a : Arrival) (s : State) : State :=
  { s with tracker := { s.tracker with arrivals := [a, { arrival3 with tracking := 9 }] } }

def shut (s : State) : State := s.setGate false

/-- Case 3000 on the loop. -/
def w3 : State := w1.addTrack (track 3000 (.circulating (tm 9)) 1)

/-- The tracking table full, case 3000 not in it. -/
def fullTable : State :=
  { w1 with tracker := { w1.tracker with
      tracks := (List.range 160).map fun i => track (BitVec.ofNat 32 (5000 + i)) (.circulating (tm 9)) 1 } }

/-- ArrivalCompletes: taken, tracking number 0, and a full queue. -/
theorem test_witness_arrival :
    let p : List Byte := [0, 0, 11, 184, 0, 0, 0, 100, 0, 200, 0, 100, 0, 150, 3, 232, 0, 0, 0, 0]
    FromPartner 0x40 (par 0x40 2 p) w1 ∧ arrivalOf p = arrival3 ∧ FromPartner 0x40 (par 0x40 2 (List.replicate 20 0)) w1
      ∧ FromPartner 0x40 (par 0x40 2 p)
          { w1 with tracker := { w1.tracker with arrivals := List.replicate 16 arrival3 } } := by
  refine ⟨partner_of ?_, ?_, partner_of ?_, partner_of ?_⟩ <;> decide +kernel

/-- TakingAnArrivalCompletes: the queue not taken; the gate closed, untracked and tracked in each state; the table full;
late at one past the window and not late at the window; refused; accepted; and a duplicate. -/
theorem test_witness_taking_an_arrival :
    let taken := at0 (fun st => { st with orders := [taken0] }) w1
    (∀ s ∈ [shut (withArrival arrival3 w1), shut (withArrival arrival3 w3),
        shut (withArrival { arrival3 with tracking := 2000 } w1), shut (withArrival { arrival3 with tracking := 2001 } w1),
        shut (withArrival { arrival3 with tracking := 1000 } w1), withArrival arrival3 fullTable,
        withArrival arrival3 (atTime 1500 w1), withArrival arrival3 (atTime 1501 w1), withArrival arrival3 (atTime 1501 w3),
        withArrival { arrival3 with code := 0 } w3, withArrival { arrival3 with tracking := 1000 } taken],
      isRunning s = true ∧ s.takesArrival = true)
      ∧ (withArrival arrival3 (atTime 1500 w1)).isLate arrival3 = false
      ∧ (withArrival arrival3 (atTime 1501 w1)).isLate arrival3 = true
      ∧ (acceptance w3 arrival3).toOption = some art
      ∧ (acceptance w3 { arrival3 with code := 0 }).toOption = none
      ∧ taken.isDuplicate 1000 (.toStation 0 0) = true ∧ w1.isDuplicate 1000 (.toStation 0 0) = false
      ∧ isRunning w1 = true ∧ w1.tracker.arrivals = [] := by
  decide +kernel

/-- AcceptanceChecksInOrder: the weight and a dimension at the last value within tolerance and at the first beyond it; too
many circuits; no open line. -/
theorem test_witness_acceptance :
    RisingKeys Article.key w3.tables.articles ∧ art ∈ w3.tables.articles
      ∧ (acceptance w3 { arrival3 with weight := 1100, height := 170, width := 120 }).toOption = some art
      ∧ misweight art 1101 = true ∧ misweight art 900 = false ∧ misweight art 899 = true
      ∧ mismeasure art { arrival3 with height := 171 } 20 = true ∧ mismeasure art { arrival3 with length := 221 } 20 = true
      ∧ w3.req.settings.maxCircuits < ((w3.addTrack (track 4000 (.circulating (tm 9)) 4)).track 4000).elim 0 (·.circuits)
      ∧ w3.openQuantity 100 = 2 ∧ w3.openQuantity 101 = 0 := by
  refine ⟨?_, ?_⟩
  · unfold RisingKeys; decide +kernel
  · decide +kernel

/-- A job of case 3000 with its decision. -/
def deciding (d : Decision) (reruns : Nat) : State :=
  w3.setJob (some { work := .arrival arrival3, decision := d, exhausted := [], reruns := reruns, cancelled := false })

/-- A second place on the build of station 0. -/
def place1 : Placement := { place0 with revision := 1, best := { best0 with y := 2 } }

/-- ArrivalCommitCompletes: no job; gate closed; late; PASS; REJECT; too many circuits; a lane with room, and none after
no re-run and after three; a place. -/
theorem test_witness_arrival_commit :
    let blocked := fun n => (deciding (.lane 2) n).onLane 2 fun l => { l with state := .fault }
    let spent := fun (s : State) => { s with req := { s.req with settings := { s.req.settings with maxCircuits := 0 } } }
    (∀ s ∈ [w1, shut (deciding .pass 0), atTime 1501 (deciding .pass 0), deciding .pass 0, deciding (.reject .surplus) 0,
        spent (deciding (.lane 2) 0), spent (deciding (.place place1) 0), deciding (.lane 2) 0, blocked 0, blocked 3,
        deciding (.place place1) 0], isRunning s = true)
      ∧ w3.track 3000 = some (track 3000 (.circulating (tm 9)) 1) ∧ w3.lanes[2].state = .ready ∧ w3.lanes[2].list = []
      ∧ w3.stations[0].state = .building ∧ w3.builds[0].planId = some 5 ∧ w3.builds[0].revision = 1
      ∧ (∀ c ∈ w3.builds[0].cases, c.tracking ≠ 3000) ∧ w3.plan 5 = some plan5
      ∧ plan5.lines[0]? = some ⟨1, 100, 3, 1, 0⟩ := by
  decide +kernel

def replan5 : Replan := { tracking := 1005, station := 0 }

/-- Case 1005 on the spur of station 0, its replan asked for. -/
def replanning : State :=
  let s := at0 (fun st => { st with spur := [⟨1005, false⟩] }) (w1.addTrack (track 1005 (.spurHeld 0) 0))
  { s with engine := { s.engine with replans := [replan5] } }

/-- Lane 1 flagged. -/
def flagged : State := w1.setFlag 1 true

/-- ReplanAndLaneHeadJobsComplete: a replan with a place and one with none, one whose case has left, a lane head with a
release, with none, and one that is not HELD; and the commits of a replan and of a release. -/
theorem test_witness_engine_jobs :
    let noLine := { replanning with plans := { replanning.plans with plans := [{ plan5 with lines := [⟨1, 100, 1, 1, 0⟩] }] } }
    let gone := replanning.setTrack 1005 (.circulating (tm 9))
    let nowhere := { flagged with builds := w0.builds, stations := w0.stations }
    let pendingHead := flagged.setTrack 2000 (.holdPending 1)
    let placing := (({ replanning with engine := { replanning.engine with replans := [] } } : State).setJob
      (some { work := .replan replan5, decision := .place place1, exhausted := [], reruns := 0, cancelled := false }))
    let letting := flagged.setJob
      (some { work := .laneHead 1 2000, decision := .release (some (0, 1)), exhausted := [], reruns := 0, cancelled := false })
    (∀ s ∈ [replanning, noLine, gone, flagged, nowhere, pendingHead, placing, letting], isRunning s = true)
      ∧ replanning.nextReplan = some replan5 ∧ replanning.onSpur 0 1005 = true ∧ gone.onSpur 0 1005 = false
      ∧ (decideReplan replanning 0 art 1000).isSome = true ∧ decideReplan noLine 0 art 1000 = none
      ∧ flagged.takesLane = true ∧ flagged.nextLane = some 1 ∧ pendingHead.headCase 1 = none
      ∧ flagged.headCase 1 = some (2000, art, 1000) ∧ (decideHead flagged art 1000).1.isSome = true
      ∧ decideHead nowhere art 1000 = (none, [])
      ∧ placing.builds[0].revision = place1.revision ∧ letting.builds[0].revision = 1
      ∧ w1.nextReplan = none ∧ w1.nextLane = none := by
  decide +kernel

/-! ### Witnesses: the line time, bounds and rarer cases -/

/-- Every timer and deadline running to `n`: supervision, a data gap, a station's three, a release and a case's. -/
def clocked (n : Nat) : State :=
  let s := executing { load 0x14 2 2 with phase := .loading (tm n) } (w1.setTrack 2001 (.returning (tm n)))
  let s := s.onStation 0 fun st =>
    { st with takeExpiry := some (tm n), placeExpiry := some (tm n), exchangeExpiry := some (tm n) }
  { s.onLane 1 fun l => { l with expiry := some (tm n) } with req := { s.req with sup := .running (tm n) } }

/-- The running timers and deadlines of such a state. -/
def clocks (s : State) : List Timer :=
  (match s.req.sup with
    | .running e => [e]
    | .stopped | .halted => [])
    ++ (match s.req.exec with
        | some ⟨_, _, _, _, .loading e⟩ => [e]
        | _ => [])
    ++ [s.stations[0].takeExpiry, s.stations[0].placeExpiry, s.stations[0].exchangeExpiry, s.lanes[1].expiry,
        (s.track 2001).bind fun e => e.state.deadline].filterMap id

/-- LineTimeTickCompletes: the wrap; each timer marked at its expiry and not one before it, marked at the last value ahead
of it and not at the first beyond; and a mark that stays when the time is set back (R189). -/
theorem test_witness_tick :
    Running (atTime 0xFFFFFFFF w1) ∧ (tick (atTime 0xFFFFFFFF w1)).link.time = 0
      ∧ Running (atTime 99 (clocked 100))
      ∧ (clocks (tick (atTime 98 (clocked 100)))).map (·.reached) = List.replicate 7 false
      ∧ (clocks (tick (atTime 99 (clocked 100)))).map (·.reached) = List.replicate 7 true
      ∧ (clocks ((clocked 100).reachAt 0x80000063)).map (·.reached) = List.replicate 7 true
      ∧ (clocks ((clocked 100).reachAt 0x80000064)).map (·.reached) = List.replicate 7 false
      ∧ clocks (((clocked 100).moveTime 100).moveTime 0) = List.replicate 7 ⟨100, true⟩
      ∧ passed 0 ⟨100, false⟩ = false ∧ passed 0 ⟨100, true⟩ = true := by
  refine ⟨running_of ?_, ?_, running_of ?_, ?_⟩ <;> decide +kernel

/-- SetTimeCompletes: a broadcast in EXECUTING; and a SET TIME past an expiry with one back before it: the take timer's
command puts the station into FAULT all the same (R189). -/
theorem test_witness_set_time :
    let bc := frame .a 127 1 7 0x12 [0, 0, 0, 9]
    let past := stateAfter (.setTime (req 0x12 [0, 1, 0, 0])) w1
    let back := stateAfter (.setTime (req 0x12 [0, 0, 0, 9])) { past with link := w1.link }
    (Running (executing (load 0x14 2 2) w1) ∧ frameOk 0x12 bc = true ∧ isBroadcast bc = true
        ∧ (executing (load 0x14 2 2) w1).placesFull = false ∧ bc.payload.length = 4)
      ∧ back.link.time = 9 ∧ back.stations[0].takeExpiry = some ⟨60000, true⟩
      ∧ (stateAfter (.takeTimerExpiry 0) back).stations[0].cause = .takeTimeout
      ∧ (stateAfter (.takeTimerExpiry 0) (atTime 9 w1)).stations[0].state = .building := by
  refine ⟨⟨running_of ?_, ?_⟩, ?_⟩ <;> decide +kernel

/-- The lowest and the highest base record. -/
def lowBase : List Byte := [0, 1, 4, 4, 0, 200, 0, 0, 0, 0, 0, 1, 0, 0, 0, 0, 0, 0]
def highBase : List Byte := [3, 1, 24, 20, 10, 40, 10, 40, 0, 0x5F, 0xFF, 0xA0, 48, 48, 0, 0x5F, 0xFF, 0xA0]

/-- The lowest and the highest article record. -/
def lowArticle : List Byte := [0, 0, 0, 1, 0, 1, 0, 1, 0, 1, 0, 1, 0, 0, 0, 0, 0, 0, 0]
def highArticle : List Byte :=
  [255, 255, 255, 255, 7, 208, 7, 208, 7, 208, 255, 255, 50, 255, 255, 7, 1, 0, 7]

/-- FirstFailingCheckRefuses: every field of a base record and of an article record at its bounds, and one beyond each. -/
theorem test_witness_record_fields :
    badBase lowBase = none ∧ badBase highBase = none
      ∧ ([(2, 3), (3, 3), (5, 199), (11, 0)] : List (Nat × Byte)).map (fun x => badBase (lowBase.set x.1 x.2))
          = [some 3, some 4, some 5, some 7]
      ∧ ([(0, 4), (1, 2), (2, 25), (3, 21), (5, 41), (7, 41), (11, 0xA1), (12, 49), (13, 49), (17, 0xA1)] :
            List (Nat × Byte)).map (fun x => badBase (highBase.set x.1 x.2))
          = [some 1, some 2, some 3, some 4, some 5, some 6, some 7, some 8, some 9, some 10]
      ∧ badBase [3, 0, 0, 0] = none
      ∧ badArticle lowArticle = none ∧ badArticle highArticle = none
      ∧ ([(3, 0), (5, 0), (7, 0), (9, 0), (11, 0)] : List (Nat × Byte)).map (fun x => badArticle (lowArticle.set x.1 x.2))
          = [some 1, some 2, some 3, some 4, some 5]
      ∧ ([(5, 209), (7, 209), (9, 209), (12, 51), (15, 8), (17, 1), (18, 8)] : List (Nat × Byte)).map
            (fun x => badArticle (highArticle.set x.1 x.2))
          = [some 2, some 3, some 4, some 6, some 8, some 9, some 10] := by
  decide +kernel

/-- FirstFailingCheckRefuses: the plan header, the line records and the kind matrix at their bounds. -/
theorem test_witness_plan_fields :
    let named := { w1 with plans := { w1.plans with plans := [] } }
    let eight : List LineRec := (List.range 8).map fun n => ⟨n + 1, 100, 1⟩
    let ones : List Byte := List.replicate 64 1
    w1.badHeader [255, 255, 0, 0, 3, 48] = none ∧ w1.badHeader [0, 6, 0, 0, 0, 1] = none
      ∧ w1.badHeader [0, 0, 0, 0, 0, 1] = some 1 ∧ w1.badHeader [0, 5, 0, 0, 0, 1] = some 1
      ∧ (named.plan 5 = none ∧ named.badHeader [0, 5, 0, 0, 0, 1] = some 1)
      ∧ w1.badHeader [0, 6, 0, 0, 4, 1] = some 3 ∧ w1.badHeader [0, 6, 0, 0, 0, 0] = some 4
      ∧ w1.badHeader [0, 6, 0, 0, 0, 49] = some 4
      ∧ badLine [] [1, 0, 0, 0, 1, 1] = none ∧ badLine [] [15, 255, 255, 255, 255, 255] = none
      ∧ badLine [] [0, 0, 0, 0, 1, 1] = some 1 ∧ badLine [] [16, 0, 0, 0, 1, 1] = some 1
      ∧ badLine eight [9, 0, 0, 0, 1, 1] = some 1 ∧ badLine (eight.take 7) [9, 0, 0, 0, 1, 1] = none
      ∧ badLine eight [8, 0, 0, 0, 1, 1] = none ∧ badLine eight [8, 0, 0, 0, 100, 1] = some 2
      ∧ badLine [] [1, 0, 0, 0, 0, 1] = some 2 ∧ badLine [] [1, 0, 0, 0, 1, 0] = some 3
      ∧ badKinds ones = none ∧ badKinds (ones.set 0 2) = some 1 ∧ badKinds (ones.set 63 2) = some 64
      ∧ badKinds ((ones.set 63 2).set 0 255) = some 1 := by
  decide +kernel

/-- Station 0 with an order, station 1 in CLOSING with none, station 2 in EXCHANGING, station 3 IDLE and ready. -/
def busyStations : State :=
  (w2.onStation 1 fun st => { st with state := .closing, close := some .request }).onStation 2 fun st =>
    { st with state := .exchanging, exchangeExpiry := some (tm 7) }

/-- RestartCompletes: a station in each case, lanes of both sorts, and the counts and bindings in order. -/
theorem test_witness_restart :
    let t := stateAfter (.restart (req 0x24 [])) busyStations
    TakenAt 0x24 0 (req 0x24 []) busyStations ∧ BindingsOk busyStations ∧ CountsOk busyStations
      ∧ (busyStations.stations[0].orders ≠ [] ∧ busyStations.stations[0].state ≠ .idle)
      ∧ (reportNow busyStations (closedReport 1 busyStations.builds[1] busyStations.stations[1].close)).level ≠ 0
      ∧ lessBy (fun j => leavingOn busyStations 0 busyStations.stations[0].orders 5 j) plan5.lines = [⟨1, 100, 3, 0, 0⟩]
      ∧ t.stations[0].cause = .restart ∧ t.stations[1].state = .awaitExchange
      ∧ t.stations[2].exchangeExpiry ≠ some (tm 7) ∧ t.builds[0].cases = []
      ∧ (t.plan 5).map (·.lines) = some [⟨1, 100, 3, 0, 0⟩] := by
  refine ⟨taken_of ?_, bound_of ?_, ⟨?_, ?_, ?_⟩, ?_⟩
  case refine_3 => unfold LineOk; decide +kernel
  case refine_4 => rintro a h; cases h
  case refine_5 => unfold RisingKeys; decide +kernel
  all_goals decide +kernel

/-- A reply of READ BUILD that watches station 0, its segment in the slot of a busy port A. -/
def watching : State := stateAfter (.readBuild (req 0x20 [0])) (busy w1)

/-- ReadsBeginTheirReplies: a reply that watches a station, and a command that moves the station on: CHANGED. -/
theorem test_witness_watched :
    let t := stateAfter (.readyChange (par 0x53 8 [0, 0])) watching
    Running watching
      ∧ watching.req.exec = some ⟨0x20, 7, 1, none, .replying [] 1 (.buildRead 0 1 1) [0] false⟩
      ∧ watching.stations[0].state = .building ∧ t.stations[0].state = .fault
      ∧ t.req.exec = some ⟨0x20, 7, 1, none, .replying [] 1 (.buildRead 0 1 1) [0] true⟩ := by
  refine ⟨running_of ?_, ?_⟩ <;> decide +kernel

/-- DataGapExpiryCompletes: the wait of a load reached while slot and waiting place are taken. -/
theorem test_witness_held_final :
    let s := atTime 5000 (noPlace admitting)
    Running s ∧ s.placesFull = true ∧ s.req.exec = some (load 0x19 2 2) ∧ passed s.link.time (tm 5000) = true
      ∧ (stateAfter .dataGapExpiry s).req.heldFinal.isSome = true
      ∧ (let sent := stateAfter (.frameSent .a) (stateAfter .dataGapExpiry s)
         sent.link.slot = some lane4 ∧ sent.req.waiting = (stateAfter .dataGapExpiry s).req.heldFinal
           ∧ sent.req.heldFinal = none) := by
  refine ⟨running_of ?_, ?_⟩ <;> decide +kernel

/-- Plans in place of those of `w2`. -/
def withPlans (ps : List Plan) (s : State) : State := { s with plans := { s.plans with plans := ps } }

/-- Plan 5 with its one line counted so. -/
def counted5 (required planned placed : Nat) : Plan := { plan5 with lines := [⟨1, 100, required, planned, placed⟩] }

/-- Plan 6 DRAINING, its one line counted so. -/
def draining6 (required planned placed : Nat) : Plan :=
  { plan6 with state := .draining, lines := [⟨1, 100, required, planned, placed⟩] }

/-- BindingTakesTheFirstPlan: each reason for which a turn changes nothing. -/
theorem test_witness_no_binding :
    let suits := fun (s : State) => s.plans.plans.any fun p =>
      p.state == .queued && p.baseKind == s.stations[3].baseKind && p.lines.any fun l => decide (l.planned < l.required)
    (suits w2 = true ∧ planFor w2 3 = some plan6)
      ∧ (suits w1 = false ∧ (offerPlan (withPlans [plan5] w2) 3).stations[3].state = .idle)
      ∧ suits (withPlans [plan5, { plan6 with lines := [⟨1, 100, 2, 2, 0⟩] }] w2) = false
      ∧ suits (withPlans [plan5, { plan6 with baseKind := 1 }] w2) = false
      ∧ w2.stations[0].state ≠ .idle ∧ w2.stations[4].ready = false
      ∧ (w2.onStation 0 fun st => { st with state := .idle }).builds[0].binding ≠ none
      ∧ (offerPlan { w2 with tables := w0.tables } 3).stations[3].state = .idle := by
  decide +kernel

/-- CountsMoveByOne: a DRAINING plan that reopens, QUEUED and BUILDING; the counts at their bounds; a plan not held and a
line that the plan has not. -/
theorem test_witness_reopening :
    let s := withPlans [plan5, draining6 2 2 1] w1
    let offered := withPlans [plan5, draining6 2 2 1] w2
    (s.plan 6 = some (draining6 2 2 1)
        ∧ ((planLess (some 6) 0 s).plan 6).map (fun p => (p.state, p.part, p.bound)) = some (.queued, 2, none))
      ∧ ((planLess (some 6) 0 offered).plan 6).map (fun p => (p.state, p.part, p.bound)) = some (.building, 2, some 3)
      ∧ ((revertPlaced (some 6) 0 s).plan 6).map (fun p => (p.state, p.lines)) = some (.queued, [⟨1, 100, 2, 1, 0⟩])
      ∧ ((planLess (some 6) 0 (withPlans [plan5, { draining6 2 2 1 with part := 15 }] w1)).plan 6).map (·.part) = some 15
      ∧ (withPlans [counted5 3 3 0] w1).plan 5 = some (counted5 3 3 0)
      ∧ (withPlans [counted5 3 2 2] w1).plan 5 = some (counted5 3 2 2)
      ∧ ((placeMore (some 5) 0 (withPlans [counted5 1 1 0] w1)).1.plan 5).isNone = true
      ∧ w1.plan 6 = none ∧ plan5.lines[1]? = none := by
  decide +kernel

/-- CloseStationCompletes: the splits, of a station that is not BUILDING, of one with no plan BUILDING there, of one whose
plan has an open line and of one whose plan has none. -/
theorem test_witness_split :
    let free := at0 (fun st => { st with orders := [], takeExpiry := none }) w2
    w2.stations[3].state ≠ .building ∧ (withPlans [] w2).planAt 0 = none
      ∧ w2.planAt 0 = some plan5 ∧ (withPlans [counted5 3 3 0] w2).planAt 0 = some (counted5 3 3 0)
      ∧ ((split w2 0).stations[0].state, ((split w2 0).plan 5).map fun q => (q.part, q.state, q.bound))
          = (.closing, some (2, .building, some 3))
      ∧ ((split (withPlans [counted5 3 3 0] w2) 0).plan 5).map (fun q => (q.part, q.state)) = some (1, .draining)
      ∧ (split free 0).stations[0].state = .awaitExchange ∧ (split free 0).link.ownB.length = 1 := by
  decide +kernel

/-- Case 1005 on the spur of station 0, marked for discard. -/
def marked (s : State) : State :=
  at0 (fun st => { st with spur := [⟨1005, true⟩] }) (s.addTrack (track 1005 (.spurHeld 0) 0))

/-- ExpectedOrderReplyCompletes: DONE of a REJECT order and of a PLACE order in CLOSING, with a discard-marked case on the
spur and with none; DONE that completes the plan, at the station of the plan with nothing left there and with an order
left, and at another station in each state; DONE of a PLACE order whose plan is gone; and DONE of the UNKNOWN order of a
station in FAULT. -/
theorem test_witness_done :
    let done := par 0x52 8 [0, 0, 1, 0]
    let last := withPlans [counted5 1 1 0]
    let drains := withPlans [{ counted5 1 1 0 with state := .draining, bound := none }]
    let moved := fun (st : StationState) => (withPlans [{ counted5 1 1 0 with bound := some 3 }]
      (ordered [taken0] .closing)).onStation 3 fun x => { x with state := st }
    let u : Order := { order0 with state := .unknown }
    (∀ s ∈ [ordered [reject0] .closing, marked (ordered [reject0] .closing), ordered [taken0] .closing,
        marked (ordered [taken0] .closing), drains (ordered [taken0] .closing), last (ordered [taken0] .building),
        last (ordered [taken0, order1] .building), moved .building, moved .fault, moved .closing,
        withPlans [] (ordered [taken0] .building), faulted .sequence [u] none true,
        last (faulted .sequence [u] none true)],
      isPartner 0x52 done s = true ∧ s.stations[0].withdrawn = [])
      ∧ (∀ s ∈ [ordered [reject0] .closing, marked (ordered [reject0] .closing), ordered [taken0] .closing,
          marked (ordered [taken0] .closing)], isCases s = true)
      ∧ StationsOk (marked (ordered [taken0] .closing))
      ∧ (stateAfter (.orderReply done) (marked (ordered [reject0] .closing))).stations[0].orders
          = [{ seq := 1, tracking := 1005, target := .reject .discard, state := .issued }]
      ∧ (stateAfter (.orderReply done) (ordered [taken0] .closing)).stations[0].state = .awaitExchange
      ∧ (stateAfter (.orderReply done) (last (ordered [taken0] .building))).stations[0].state = .awaitExchange
      ∧ (stateAfter (.orderReply done) (last (ordered [taken0, order1] .building))).stations[0].state = .closing
      ∧ (stateAfter (.orderReply done) (moved .building)).stations[3].close = some .complete
      ∧ (stateAfter (.orderReply done) (moved .fault)).stations[3].state = .fault
      ∧ (stateAfter (.orderReply done) (last (faulted .sequence [u] none true))).stations[0].close = some .complete := by
  refine ⟨?_, ?_, ?_, ?_⟩
  case refine_3 => unfold StationsOk; decide +kernel
  all_goals decide +kernel

/-- FailedOrderReplyCompletes: DROPPED, NO_CASE and BLOCKED in CLOSING, with a discard-marked case on the spur; and runs of
sequences, one across the wrap. -/
theorem test_witness_failed_closing :
    (∀ x ∈ ([(marked (ordered [taken0] .closing), [0, 0, 2, 1]), (marked (ordered [order0] .closing), [0, 0, 2, 2]),
        (marked (ordered [taken0] .closing), [0, 0, 2, 3])] : List (State × List Byte)),
      isPartner 0x52 (par 0x52 8 x.2) x.1 = true ∧ isCases x.1 = true ∧ x.1.stations[0].withdrawn = [])
      ∧ seqRuns [254, 255, 0, 1, 3] = [(254, 4), (3, 1)] ∧ seqRuns [] = []
      ∧ (let t := stateAfter (.orderReply (par 0x52 8 [0, 0, 2, 1])) (marked (ordered [taken0] .closing))
         t.stations[0].state = .closing ∧ t.stations[0].orders.map (·.tracking) = [1005] ∧ t.builds[0].cases = []
           ∧ (t.plan 5).map (·.lines) = some [⟨1, 100, 3, 0, 0⟩]) := by
  decide +kernel

/-- Case 1000 arrived again. -/
def again (u : Tracking) : Arrival := { arrival3 with tracking := u }

/-- Orders of station 0 ahead of and behind that of case 1000, each of a case in the state of its place. -/
def queued3 (state : StationState) : State :=
  let s := (w1.addTrack (track 1001 (.toStation 0 9) 0)).addTrack (track 1002 (.toStation 0 1) 0)
  at0 (fun st =>
    { st with
      state := state, nextSeq := 2
      orders := [{ seq := 9, tracking := 1001, target := .reject .noPlace, state := .taken }, order0,
        { seq := 1, tracking := 1002, target := .reject .noPlace, state := .issued }] }) s

/-- TakingAnArrivalCompletes: re-arrivals with the gate open, in each state, in BUILDING and in CLOSING, in a READY lane and
in one in FAULT. -/
theorem test_witness_rearrivals :
    let gone := fun (s : State) => at0 (fun st => { st with state := .closing, orders := [] }) s
    let looping := w1.setTrack 2000 (.returning (tm 500))
    let take := fun (a : Arrival) (s : State) => stateAfter .takingAnArrival (withArrival a s)
    (∀ x ∈ ([(1000, w1), (1000, queued3 .building), (1000, queued3 .closing), (1000, ordered [order0] .closing),
        (1005, { replanning with engine := w1.engine }), (1005, gone { replanning with engine := w1.engine }), (2000, w1),
        (2001, w1), (2000, laneIn .fault), (2000, releasing), (2000, looping), (3000, w3)] : List (Tracking × State)),
      isRunning (withArrival (again x.1) x.2) = true ∧ (withArrival (again x.1) x.2).takesArrival = true
        ∧ x.2.engine.gate = true ∧ (x.2.track x.1).map (fun e => x.2.isDuplicate x.1 e.state) = some false)
      ∧ (∀ s ∈ [queued3 .building, queued3 .closing, ordered [order0] .closing, w1], isCases s = true)
      ∧ (take (again 1000) (queued3 .building)).stations[0].withdrawn = [0, 1]
      ∧ (take (again 1000) (queued3 .closing)).stations[0].orders.length = 1
      ∧ (take (again 1000) (ordered [order0] .closing)).stations[0].state = .awaitExchange
      ∧ (take (again 1005) (gone { replanning with engine := w1.engine })).stations[0].state = .awaitExchange
      ∧ (take (again 2000) w1).lanes[1].cause = .caseReturned ∧ (take (again 2001) w1).lanes[1].state = .ready
      ∧ (take (again 2000) releasing).lanes[1].inFlight = none := by
  decide +kernel

/-- TakingAnArrivalCompletes: a duplicate with the gate open and closed, at a station that works and at one in FAULT. -/
theorem test_witness_duplicates :
    let dup := at0 (fun st => { st with orders := [taken0] }) w1
    let still := at0 (fun st => { st with orders := [{ taken0 with state := .unknown }], state := .fault }) w1
    (∀ s ∈ [dup, still, shut dup, shut still],
      isRunning (withArrival (again 1000) s) = true ∧ s.isDuplicate 1000 (.toStation 0 0) = true
        ∧ s.track 1000 = some (track 1000 (.toStation 0 0) 0))
      ∧ isCases (withArrival (again 1000) dup) = true ∧ dup.stations[0].works = true ∧ still.stations[0].works = false
      ∧ (stateAfter .takingAnArrival (withArrival (again 1000) (shut dup))).stations[0].cause = .duplicate
      ∧ (stateAfter .takingAnArrival (withArrival (again 1000) (shut still))).link.portB.sending = none := by
  decide +kernel

/-- TakingAnArrivalCompletes: hold-or-pass with no placement: nothing wanted beyond what is held, no lane with room, and
the lanes with room, of which the emptiest and then the lowest takes the case. -/
theorem test_witness_hold_or_pass :
    let bare := at0 (fun st => { st with ready := false }) w3
    let wide := { bare with plans := { bare.plans with plans := [{ plan5 with lines := [⟨1, 100, 9, 1, 0⟩] }] } }
    let full := { wide with lanes := wide.lanes.map fun l => { l with state := .fault } }
    let second := wide.onLane 0 fun l => { l with list := List.replicate 24 7 }
    (stationChoice bare art 1000).1 = none ∧ (decideArrival bare 3000 art 1000).1 = .reject .surplus
      ∧ (stationChoice wide art 1000).1 = none ∧ (decideArrival wide 3000 art 1000).1 = .lane 0
      ∧ (decideArrival full 3000 art 1000).1 = .pass ∧ (decideArrival second 3000 art 1000).1 = .lane 2
      ∧ (stationChoice w3 art 1000).1.isSome = true := by
  decide +kernel

/-- ArrivalCommitCompletes: an entry that has gone; a station decision whose revision has moved, whose station is not
BUILDING or whose queue is full, after no re-run and after three; a full lane; and exhausted stations handed over. -/
theorem test_witness_failed_commit :
    let gone := fun (s : State) => s.dropTrack 3000
    let moved := fun n => deciding (.place place0) n
    let shutAt := fun n =>
      at0 (fun st => { st with state := .fault, orders := [], takeExpiry := none }) (deciding (.place place1) n)
    let full := fun n => at0 (fun st => { st with orders := List.replicate 4 order0 }) (deciding (.place place1) n)
    let packed := fun n => (deciding (.lane 2) n).onLane 2 fun l => { l with list := List.replicate 24 7 }
    let spent : State := w3.setJob
      (some { work := .arrival arrival3, decision := .pass, exhausted := [0], reruns := 0, cancelled := false })
    (∀ s ∈ [gone (deciding .pass 0), moved 0, moved 3, shutAt 0, shutAt 3, full 0, full 3, packed 0, packed 3, spent],
      isRunning s = true)
      ∧ (gone (deciding .pass 0)).track 3000 = none
      ∧ w3.builds[0].revision ≠ place0.revision ∧ (full 0).stations[0].orders.length = 4
      ∧ (packed 0).lanes[2].list.length = 24
      ∧ (stateAfter .commitAttempt (moved 0)).engine.job.map (·.reruns) = some 1
      ∧ (stateAfter .commitAttempt (moved 3)).engine.job = none
      ∧ (stateAfter .commitAttempt (moved 3)).link.portB.sending
          = some (.own (ownFrameB w1 w1.req.settings.sorterNode (.decision 3000 .pass)))
      ∧ spent.planAt 0 = some plan5 ∧ (stateAfter .commitAttempt spent).engine.job = none
      ∧ (stateAfter .commitAttempt spent).stations[0].close = some .split := by
  decide +kernel

/-- The handing-over of exhausted stations asks for one plan of each id. -/
theorem test_witness_one_plan_each : RisingKeys Plan.key w3.plans.plans := by
  unfold RisingKeys; decide +kernel

/-- The job of a replan that has found a place. -/
def placing (p : Placement) (n : Nat) (cancelled : Bool) (s : State) : State :=
  { s with engine := { s.engine with
      replans := []
      job := some
        { work := .replan replan5, decision := .place p, exhausted := [], reruns := n, cancelled := cancelled } } }

/-- ReplanAndLaneHeadJobsComplete: a replan's commit cancelled, of a case that has left and at a station in FAULT; one whose
checks fail, run again with a place and without, and after three re-runs with room for the REJECT order and with none. -/
theorem test_witness_replan_commit :
    let gone := replanning.setTrack 1005 (.circulating (tm 9))
    let fault := at0 (fun st => { st with state := .fault }) replanning
    let noLine := withPlans [counted5 1 1 0] replanning
    let full := at0 (fun st => { st with orders := List.replicate 4 order0 }) replanning
    (∀ s ∈ [placing place1 0 false replanning, placing place1 0 true replanning, placing place1 0 false gone,
        placing place1 0 false fault, placing place0 0 false replanning, placing place0 0 false noLine,
        placing place0 3 false replanning, placing place0 3 false full], isRunning s = true)
      ∧ (replanning.onSpur 0 1005, gone.onSpur 0 1005, fault.stations[0].works) = (true, false, false)
      ∧ replanning.builds[0].revision = place1.revision ∧ replanning.builds[0].revision ≠ place0.revision
      ∧ ((stateAfter .commitAttempt (placing place0 0 false replanning)).engine.job.map (·.reruns)) = some 1
      ∧ (stateAfter .commitAttempt (placing place0 0 false noLine)).stations[0].orders.map (·.target)
          = [.place 0, .reject .noPlace]
      ∧ (stateAfter .commitAttempt (placing place0 3 false replanning)).stations[0].orders.length = 2
      ∧ (stateAfter .commitAttempt (placing place0 3 false full)).stations[0].orders.length = 4
      ∧ (stateAfter .commitAttempt (placing place0 3 false full)).engine.job = none
      ∧ (stateAfter .commitAttempt (placing place1 0 false replanning)).link.portB.sending.isSome = true := by
  decide +kernel

/-- The job of a release for case 2000. -/
def letting (given : Option (StationNo × Revision)) (n : Nat) (s : State) : State :=
  s.setJob (some { work := .laneHead 1 2000, decision := .release given, exhausted := [], reruns := n, cancelled := false })

/-- ReplanAndLaneHeadJobsComplete: the commit of a release that stands, and one in a lane that is not READY, with the gate
closed, with another head; one whose revision has moved, run again with a release and with a keep, after three re-runs and
with a head that is no longer HELD; and a run that exhausts a station. -/
theorem test_witness_head_commit :
    let other := w1.onLane 1 fun l => { l with list := [2001, 2000] }
    let pending := w1.setTrack 2000 (.holdPending 1)
    let shutAt := at0 (fun st => { st with ready := false }) w1
    (∀ s ∈ [letting (some (0, 1)) 0 w1, letting none 0 w1, letting none 0 (laneIn .fault), letting none 0 (shut w1),
        letting none 0 other, letting (some (0, 0)) 0 w1, letting (some (0, 0)) 0 shutAt, letting (some (0, 0)) 3 w1,
        letting none 0 pending], isRunning s = true)
      ∧ w1.builds[0].revision = 1 ∧ w1.headCase 1 = some (2000, art, 1000) ∧ pending.headCase 1 = none
      ∧ w1.isHeldIn 1 2000 = true ∧ pending.isHeldIn 1 2000 = false
      ∧ (decideHead w1 art 1000).1.isSome = true ∧ (decideHead shutAt art 1000) = (none, [])
      ∧ (stateAfter .commitAttempt (letting (some (0, 1)) 0 w1)).lanes[1].inFlight = some 2000
      ∧ ((stateAfter .commitAttempt (letting (some (0, 0)) 0 w1)).engine.job.map (·.reruns)) = some 1
      ∧ (stateAfter .commitAttempt (letting (some (0, 0)) 0 shutAt)).engine.job = none
      ∧ (stateAfter .commitAttempt (letting (some (0, 0)) 3 w1)).flag 1 = true
      ∧ (stateAfter .commitAttempt (letting none 0 pending)).flag 1 = true
      ∧ (stateAfter .commitAttempt (letting none 0 (laneIn .fault))).flag 1 = false := by
  decide +kernel

/-- Station 0 with a build at its close height, on which the next case fails HEIGHT. -/
def atHeight (s : State) : State :=
  { s with
    builds := s.builds.set 0 { build0 with heightMap := List.replicate 24 900, topHeight := 900 } }

/-- A station exhausted by a run, of an arrival and of a lane head, and its hand-over (R41, R82). -/
theorem test_witness_exhausted :
    let s := atHeight flagged
    isRunning s = true ∧ stationChoice s art 1000 = (none, [0]) ∧ decideHead s art 1000 = (none, [0])
      ∧ s.takesLane = true ∧ s.nextLane = some 1 ∧ s.headCase 1 = some (2000, art, 1000)
      ∧ (stateAfter .laneHeadJob s).stations[0].close = some .split
      ∧ (stateAfter .commitAttempt (letting (some (0, 0)) 0 (atHeight w1))).stations[0].close = some .split := by
  decide +kernel

/-! ### Witnesses: replies held back, and the clauses on builds, flags and the UNKNOWN order -/

/-- A reply of READ BUILD with its RESPONSE left to send, held back. -/
def heldBack (s : State) : State :=
  { s with
    req :=
      { s.req with exec := some ⟨0x20, 7, 1, none, .replying [] 1 (.buildRead 0 1 1) [0] false⟩, late := true } }

/-- IdlePortsAreServed, FrameSentCompletes: a reply held back behind a forward frame, behind a report and behind nothing,
at a port that sends a forward frame and one that sends the reply's own; and no reply. -/
theorem test_witness_held_back :
    let r := startedReport 15
    let own : TxFrame := .own lane4
    (∀ s ∈ [heldBack (sendingA (.forward [2]) [[1]] none [] .own), heldBack (sendingA (.forward [2]) [] none [r] .forward),
        heldBack (sendingA (.forward [2]) [] none [] .forward), heldBack (sendingA own [[1]] none [r] .own),
        heldBack (sendingA own [] none [r] .own), heldBack (sendingA own [] none [] .own)],
      isRunning s = true ∧ s.link.slot = none ∧ s.req.late = true ∧ (replyLeft s).length = 1)
      ∧ lane4.final = false ∧ replyLeft (sendingA own [] none [] .own) = []
      ∧ (heldBack w1).req.exec.map (replyFrames 15) = some (replyLeft (heldBack w1)) := by
  decide +kernel

/-- ProbeCompletes: the status and the result of a station that is unbound, of one whose base entry is absent, of one
without an open line and of one that is evaluated, for a fixed drop and for drop 0 with a line that finds a place and one
that finds none; and the choice. -/
theorem test_witness_probe_entries :
    let ask : ProbeReq := { article := art, weight := 0, drop := 0, stations := [0, 1] }
    let entry := fun (s : State) (drop : Nat) (i : StationNo) => probeEntry s { ask with drop := drop } i
    let noBase := { w1 with tables := { w1.tables with bases := w0.tables.bases } }
    let two := withPlans [{ plan5 with lines := [⟨3, 100, 3, 0, 0⟩, ⟨1, 100, 3, 1, 0⟩] }] w1
    let high := { w1 with builds := w1.builds.set 0 { build0 with heightMap := List.replicate 24 900, topHeight := 900 } }
    w1.builds[1].binding = none ∧ (entry w1 1 1).status = .notEvaluated
      ∧ (noBase.builds[0].binding.map fun g => noBase.tables.bases[g.baseKind]) = some none
      ∧ (entry noBase 1 0).status = .notEvaluated
      ∧ (entry (withPlans [counted5 1 1 0] w1) 0 0).status = .noLine ∧ (entry (withPlans [] w1) 0 0).status = .noLine
      ∧ (entry (withPlans [] w1) 1 0).status = .evaluated
      ∧ w1.baseOfBuild 0 = some baseE ∧ ((entry w1 1 0).eval.map fun e => e.best.isSome) = some true
      ∧ ((entry w1 0 0).eval.map fun e => (e.best.isSome, e.line)) = some (true, some 0)
      ∧ ((entry high 0 0).eval.map fun e => (e.best.isSome, e.line)) = some (false, some 0)
      ∧ (two.planNamed 0).map (fun p => (p.openLines 100).map (·.1)) = some [0, 1]
      ∧ (probeChoice w1 ask).isSome = true ∧ probeChoice high ask = none ∧ probeChoice w1 { ask with drop := 1 } = none
      ∧ ask.stations.Pairwise (· < ·) := by
  decide +kernel

/-- DataAdmitsAPlan: the stored order. -/
theorem test_witness_stored_order :
    orderLines [⟨1, 7, 1⟩, ⟨3, 8, 1⟩, ⟨1, 9, 1⟩, ⟨3, 6, 1⟩, ⟨15, 5, 1⟩]
      = [⟨15, 5, 1⟩, ⟨3, 8, 1⟩, ⟨3, 6, 1⟩, ⟨1, 7, 1⟩, ⟨1, 9, 1⟩] := by
  decide +kernel

/-- CountsOk, as a check of a state without an open admission. -/
def isCounted (s : State) : Bool :=
  s.plans.plans.all (fun p => p.lines.all fun l =>
      decide (l.placed ≤ l.planned) && decide (l.planned ≤ l.required) && decide (l.required ≤ 255))
    && s.plans.admission.isNone && decide (s.plans.plans.Pairwise fun x y => Plan.key x < Plan.key y)

theorem counted_of {s : State} (h : isCounted s = true) : CountsOk s := by
  simp only [isCounted, Bool.and_eq_true, List.all_eq_true, decide_eq_true_eq, Option.isNone_iff_eq_none] at h
  refine ⟨fun p hp l hl => ⟨(h.1.1 p hp l hl).1.1, (h.1.1 p hp l hl).1.2, (h.1.1 p hp l hl).2⟩, fun a ha => ?_, h.2⟩
  rw [h.1.2] at ha
  cases ha

/-- Station 0 in FAULT with an UNKNOWN order of its case 1000, and case 1005 on the spur, marked or not. -/
def unsettled (target : OrderTarget) (close : Option CloseReason) (discard : Bool) : State :=
  at0 (fun st => { st with spur := [⟨1005, discard⟩] })
    ((faulted .sequence [{ order0 with state := .unknown, target := target }] close true).addTrack
      (track 1005 (.spurHeld 0) 0))

/-- An acknowledge answered at station 0: keep (0) or discard (1), with its disposition. -/
def acked (action disposition : Byte) (s : State) : State :=
  stateAfter (.acknowledgeFault (req 0x1D [0, action, disposition])) s

/-- AcknowledgeFaultCompletes: keep and discard with no UNKNOWN order, with a PLACE and with a REJECT order REMOVED and
PLACED, with and without a close reason, and of an order that completes its plan, which is bound here and elsewhere. -/
theorem test_witness_acknowledge_resolves :
    let plain := faulted .blocked [] none true
    let place := unsettled (.place 0) none
    let closing := withPlans [{ plan5 with state := .queued, bound := none }] (unsettled (.place 0) (some .split) true)
    let last := withPlans [counted5 1 1 0] (place false)
    let moved := fun (st : StationState) => (withPlans [{ counted5 1 1 0 with bound := some 3 }]
      (unsettled (.place 0) (some .split) false)).onStation 3 fun x => { x with state := st }
    ([(plain, 0), (place false, 1), (place false, 2), (place true, 2), (unsettled (.reject .noPlace) none false, 1),
        (unsettled (.reject .noPlace) none false, 2), (closing, 1), (closing, 2), (last, 1)]
          : List (State × Byte)).all (fun x =>
        isTaken 0x1D 3 (req 0x1D [0, 0, x.2]) x.1 && isTaken 0x1D 3 (req 0x1D [0, 1, x.2]) x.1 && isCases x.1
          && isCounted x.1 && isBound x.1)
      ∧ ((place false).builds[0].cases[0]?.map fun c => (c.tracking, c.status)) = some (1000, .provisional)
      ∧ ((resolution (moved .building) 0 1).notice, (noticed (moved .building) 3).close) = (some 3, some .complete)
      ∧ (resolution last 0 1).close = some .complete
      ∧ (let t := acked 0 2 (place false)
         t.stations[0].state = .building ∧ t.flag 1 = true ∧ t.engine.replans = [⟨1005, 0⟩] ∧ t.builds[0].cases = []
           ∧ (t.plan 5).map (·.lines) = some [⟨1, 100, 3, 0, 0⟩])
      ∧ (let t := acked 0 1 (place false)
         (t.builds[0].cases.map (·.status), (t.plan 5).map (·.lines)) = ([.confirmed], some [⟨1, 100, 3, 1, 1⟩]))
      ∧ (let t := acked 1 1 (place false)
         t.stations[0].close = some .discard ∧ t.builds[0].cases = [] ∧ (t.plan 5).map (·.lines) = some [⟨1, 100, 3, 0, 0⟩]
           ∧ t.stations[0].orders.map (·.tracking) = [1005])
      ∧ (acked 0 2 closing).stations[0].state = .closing ∧ (acked 0 1 last).stations[0].close = some .complete := by
  decide +kernel

/-- UnexpectedOrderReply: the UNKNOWN order of a station in FAULT answered DROPPED, NO_CASE and BLOCKED. -/
theorem test_witness_unknown_order :
    let s := unsettled (.place 0) none false
    ([[0, 0, 2, 1], [0, 0, 2, 2], [0, 0, 2, 3]] : List (List Byte)).all (fun p =>
        isPartner 0x52 (par 0x52 8 p) s && (stateAfter (.orderReply (par 0x52 8 p)) s).builds[0].cases.isEmpty
          && (stateAfter (.orderReply (par 0x52 8 p)) s).flag 1)
      ∧ s.stations[0].state = .fault ∧ s.stations[0].withdrawn = []
      ∧ (s.stations[0].orders.find? fun o => o.state == .unknown && o.seq == 0).isSome = true
      ∧ ((stateAfter (.orderReply (par 0x52 8 [0, 0, 2, 3])) s).stations[0].spur.map (·.tracking)) = [1000, 1005] := by
  decide +kernel

/-- BindingTakesTheFirstPlan, FailedOrderReplyCompletes, ArrivalCommitCompletes and the replan's commit: the flag of lane 1
raised by a binding, by a truncation and by an add; and a fault with no PLACE order, which raises none. -/
theorem test_witness_flags :
    w1.flag 1 = false ∧ (offerPlan w2 3).flag 1 = true
      ∧ (stateAfter (.orderReply (par 0x52 8 [0, 0, 2, 1])) (ordered [taken0] .building)).flag 1 = true
      ∧ (stateAfter (.readyChange (par 0x53 8 [0, 0])) w1).flag 1 = true
      ∧ (stateAfter .commitAttempt (deciding (.place place1) 0)).flag 1 = true
      ∧ (stateAfter .commitAttempt (placing place1 0 false replanning)).flag 1 = true
      ∧ (stateAfter (.readyChange (par 0x53 8 [0, 0])) (ordered [reject0] .building)).flag 1 = false := by
  decide +kernel

/-- EvaluationHasOneBest: no candidate on a full build, none that does not fit, and the straight and the turned candidates
of a footprint of 3 by 2 cells on a grid of 4 by 4. -/
theorem test_witness_candidates :
    let b := Build.empty.bind 5 1 0 { baseE with cols := 4, rows := 4 }
    let a := { art with length := 101, width := 100 }
    candidates a { b with cases := List.replicate 96 (caseRecordOf art 1 1 place0 0) } = []
      ∧ candidates { a with length := 201, rotateOk := false } b = []
      ∧ (candidates a b).map (fun c => (c.x, c.y, c.turned))
          = [(0, 0, false), (1, 0, false), (0, 1, false), (1, 1, false), (0, 2, false), (1, 2, false), (0, 0, true),
              (1, 0, true), (2, 0, true), (0, 1, true), (1, 1, true), (2, 1, true)]
      ∧ (candidates a b).map (·.scan) = List.range 12
      ∧ (candidates { a with rotateOk := false } b).length = 6 ∧ (candidates { a with width := 150 } b).length = 4 := by
  decide +kernel

/-- R192: an evaluation without a best candidate gives every field of it in its coding for absence. -/
theorem test_absent_best : 
    bestBytes none = [255, 255, 255, 0, 0, 255, 255, 0, 0, 255, 255, 0, 255, 255, 255, 255, 255, 255]
      ∧ (bestBytes none).length = (bestBytes (some { best0 with supporters := [] })).length := by
  decide +kernel

/-! ### Witnesses: waiting frames, full places, the binding attempts, the order of the sources and whole records -/

/-- FrameSentCompletes: a frame that waits takes the place that frees, the DECISION first. -/
theorem test_witness_waiting_frames :
    let s : State :=
      { w1 with
        link := { w1.link with
          portB := ⟨some (.own lane4), .forward⟩, ownB := List.replicate 16 lane4, waitB := [lane4, dec3] } }
    isRunning s = true ∧ s.link.portB.sending.isSome = true ∧ s.link.ownB.tail.length < 16
      ∧ (stateAfter (.frameSent .b) s).link.ownB = dec3 :: List.replicate 15 lane4
      ∧ (stateAfter (.frameSent .b) s).link.waitB = [lane4] := by
  decide +kernel

/-- FirstFailingCheckRefuses: the remaining count of a refused load at the counts 0 and 255. -/
theorem test_witness_refused_load :
    refusedFields 0x14 [0] = .remaining 256 ∧ refusedFields 0x14 [255] = .remaining 255
      ∧ refusedFields 0x19 [0, 9, 0, 1, 0, 49] = .remaining 49 ∧ refusedFields 0x1B [0] = .empty := by
  decide +kernel

/-- SetTimeCompletes: a broadcast of the wrong length, and one that finds both places full. -/
theorem test_witness_broadcast_time :
    let bc := fun p => frame .a 127 1 7 0x12 p
    (isRunning w1 = true ∧ frameOk 0x12 (bc [0, 0, 9]) = true ∧ isBroadcast (bc [0, 0, 9]) = true)
      ∧ isRunning (noPlace w1) = true ∧ (noPlace w1).placesFull = true ∧ frameOk 0x12 (bc [0, 0, 0, 9]) = true
      ∧ (stateAfter (.setTime (bc [0, 0, 0, 9])) (noPlace w1)).link.time = w1.link.time := by
  decide +kernel

/-- DataStoresArticles, DataAdmitsAPlan, DataEndsALoad: a load that ends with both places full, by its last record, by a
bad record and by a payload of no whole record. -/
theorem test_witness_ends_full :
    let articles := noPlace (executing (load 0x14 1 1) w1)
    let plan := noPlace admitting
    ([(articles, articleBytes 3), (articles, articleBytes 0), (articles, [1]), (plan, lineBytes 1 ++ lineBytes 15),
        (plan, lineBytes 0), (plan, [1])] : List (State × List Byte)).all (fun x =>
        isDirected 0x28 (req 0x28 x.2) x.1 && x.1.placesFull
          && (stateAfter (.data (req 0x28 x.2)) x.1).req.heldFinal.isSome
          && (stateAfter (.data (req 0x28 x.2)) x.1).link.slot == x.1.link.slot)
      ∧ plan.plan 9 = none := by
  decide +kernel

/-- Station 3 OFFLINE, IDLE with its ready flag clear, and EXCHANGING, ready for plan 6. -/
def waiting3 (g : Station → Station) : State := w2.onStation 3 g

/-- SetStationCompletes, ReadyChangeCompletes, ExchangesComplete: plan 6 bound to station 3 by the attempt of each event. -/
theorem test_witness_attempts :
    let off := waiting3 fun st => { st with state := .offline }
    let unready := waiting3 fun st => { st with ready := false }
    let swapped := waiting3 fun st => { st with state := .exchanging, exchangeExpiry := some (tm 9) }
    let bound := fun (t : State) => (t.stations[3].state, (t.plan 6).map fun p => (p.state, p.bound))
    isTaken 0x1B 3 (req 0x1B [3, 1, 0]) off = true ∧ off.stations[3].ready = true
      ∧ isPartner 0x53 (par 0x53 9 [3, 1]) unready = true ∧ unready.stations[3].state = .idle
      ∧ isPartner 0x71 (par 0x71 5 [3]) swapped = true ∧ swapped.stations[3].state = .exchanging
      ∧ [stateAfter (.setStation (req 0x1B [3, 1, 0])) off, stateAfter (.readyChange (par 0x53 9 [3, 1])) unready,
          stateAfter (.exchangeDone (par 0x71 5 [3])) swapped].map bound
          = List.replicate 3 (.building, some (.building, some 3)) := by
  decide +kernel

/-- RestartCompletes: the whole report queue with old reports gone, with STARTED at level 0 and not; a plan bound by the
attempt at the end; and a DRAINING plan that a station reopens. -/
theorem test_witness_restart_end :
    let old := { busyStations with reports := { busyStations.reports with queue := [startedReport 15, startedReport 15] } }
    let silent := { busyStations with reports := { busyStations.reports with levels := 0 :: busyStations.reports.levels.tail } }
    let drains := withPlans [draining6 1 1 0 |> fun p => { p with id := 5, baseKind := 0 }] busyStations
    let after := fun (s : State) => stateAfter (.restart (req 0x24 [])) s
    isTaken 0x24 0 (req 0x24 []) (busy old) = true ∧ isTaken 0x24 0 (req 0x24 []) silent = true
      ∧ isTaken 0x24 0 (req 0x24 []) drains = true
      ∧ (after (busy old)).reports.queue.map (·.body)
          = [.started .restart 15, closedReport 1 old.builds[1] (some .request)]
      ∧ (after silent).reports.queue.map (·.body) = [closedReport 1 silent.builds[1] (some .request)]
      ∧ (∀ p ∈ old.plans.plans, p.state ≠ .draining)
      ∧ (after old).stations[3].state = .building ∧ ((after old).plan 6).map (·.bound) = some (some 3)
      ∧ ((after drains).plan 5).map (fun p => (p.state, p.part, p.bound)) = some (.building, 2, some 3) := by
  decide +kernel

/-- ExpectedOrderReplyCompletes: DONE of an UNKNOWN REJECT order. -/
theorem test_witness_unknown_reject :
    let s := unsettled (.reject .noPlace) none false
    let t := stateAfter (.orderReply (par 0x52 8 [0, 0, 1, 0])) (busy s)
    isPartner 0x52 (par 0x52 8 [0, 0, 1, 0]) s = true ∧ s.stations[0].withdrawn = []
      ∧ s.stations[0].orders.head?.map (·.state) = some .unknown ∧ s.stations[0].state = .fault
      ∧ t.stations[0].orders = [] ∧ t.track 1000 = none
      ∧ t.reports.queue.map (·.body) = [.caseRejected 1000 (some 100) .noPlace] := by
  decide +kernel

/-- ArrivalCommitCompletes, ReplanAndLaneHeadJobsComplete: orders issued into an empty queue and behind another, with a
sequence that lies in the withdrawn range and one that does not. -/
theorem test_witness_issued :
    let empty := fun (s : State) => at0 (fun st => { st with orders := [], takeExpiry := none, withdrawn := [0, 1] }) s
    let arrival := deciding (.place place1) 0
    let replan := placing place1 0 false replanning
    (∀ s ∈ [arrival, empty arrival, replan, empty replan], isRunning s = true)
      ∧ (stateAfter .commitAttempt arrival).stations[0] = issuedTo arrival 0 3000 (.place 1)
      ∧ (issuedTo arrival 0 3000 (.place 1)).takeExpiry = some (tm 60000)
      ∧ (stateAfter .commitAttempt (empty arrival)).stations[0] = issuedTo (empty arrival) 0 3000 (.place 1)
      ∧ (issuedTo (empty arrival) 0 3000 (.place 1)).withdrawn = []
      ∧ (issuedTo (empty arrival) 0 3000 (.place 1)).takeExpiry
          = some (after w1.link.time w1.req.settings.takeTimeout)
      ∧ (stateAfter .commitAttempt (empty replan)).stations[0]
          = { issuedTo (empty replan) 0 1005 (.place 1) with spur := [] } := by
  decide +kernel

/-- ReplanAndLaneHeadJobsComplete: what each source needs, and the sources before it; a replan that a younger one of another
station passes; and a waiting case that joins the tail. -/
theorem test_witness_sources :
    let full := at0 (fun st => { st with orders := List.replicate 4 order0 }) replanning
    let passed := { full with engine := { full.engine with
      replans := [replan5, ⟨1006, 1⟩] ++ List.replicate 30 ⟨1007, 0⟩, waiting := [⟨1008, 0⟩, ⟨1009, 2⟩] } }
    let probed := { w1 with engine := { w1.engine with probe := (probing 0).engine.probe } }
    let busyJob := deciding .pass 0
    (replanning.nextReplan, full.nextReplan, passed.nextReplan) = (some replan5, none, some ⟨1006, 1⟩)
      ∧ isRunning passed = true ∧ passed.stations[1].works = false
      ∧ (stateAfter .replanJob passed).engine.replans = replan5 :: List.replicate 30 ⟨1007, 0⟩ ++ [⟨1008, 0⟩]
      ∧ (stateAfter .replanJob passed).engine.waiting = [⟨1009, 2⟩]
      ∧ (replanning.takesArrival, full.takesArrival, busyJob.takesArrival) = (false, true, false)
      ∧ (flagged.takesLane, (withArrival arrival3 flagged).takesLane) = (true, false)
      ∧ (flagged.nextLane, (shut flagged).nextLane, (w1.setFlag 0 true).nextLane) = (some 1, none, none)
      ∧ (probed.takesProbe, (probed.setFlag 1 true).takesProbe) = (true, false) := by
  decide +kernel

/-- ReplanAndLaneHeadJobsComplete: a lane-head job that keeps its case hands the exhausted station over. -/
theorem test_witness_lane_hands_over :
    let s := atHeight flagged
    KeepsAllBut [.portA, .portB, .exec, .reports] (handOver [0] (s.setFlag 1 false)) (stateAfter .laneHeadJob s) := by
  refine ⟨by decide +kernel, by decide +kernel, fun p hp => ?_⟩
  cases p <;> first | exact absurd (by decide) hp | (unfold Part.Same; decide +kernel)

/-- ReadsBeginTheirReplies, ProbeCompletes: the watch of a reply begun at a busy port A. -/
theorem test_witness_watch :
    watching.req.exec = some ⟨0x20, 7, 1, none, .replying [] 1 (.buildRead 0 1 1) [0] false⟩ ∧ replyLeft watching ≠ []
      ∧ ((stateAfter .probeJob (busy (probing 0))).req.exec.map fun e => match e.phase with
          | .replying _ _ _ w c => (w, c)
          | _ => ([], true)) = some ([0, 1], false) := by
  decide +kernel

/-! ### Builds and evaluation: the manual's worked sequences -/

/-- Spec 1.7: the five cases.  The grid is cut to the 8 columns and 4 rows that they stand on. -/
def case17 (n : Nat) (x a rest top weight drop : Nat) (sup : List Supporter) : CaseRec :=
  { tracking := BitVec.ofNat 32 (n + 1), code := 1, line := 0, drop := drop, kind := 0, topOnly := false, deckOnly := false
    crush := 65535, weight := weight, x := x, y := 0, turned := false, a := a, b := 4, rest := rest, top := top, carried := 0
    supporters := sup, status := .provisional, seq := 0 }

def cases17 : List CaseRec :=
  [case17 0 0 4 0 300 100 3 [⟨.deck, 256, true⟩], case17 1 4 4 0 300 80 3 [⟨.deck, 256, true⟩],
   case17 2 2 4 300 550 60 2 [⟨.case 0, 128, true⟩, ⟨.case 1, 128, false⟩], case17 3 6 2 300 550 50 2 [⟨.case 1, 256, true⟩],
   case17 4 4 4 550 800 41 1 [⟨.case 2, 128, true⟩, ⟨.case 3, 128, false⟩]]

def bound17 : Build :=
  { Build.empty.bind 0x2210 1 1 { baseE with cols := 8, rows := 4, heightLimit := 1800 } with revision := 36 }

def build17 : Build := cases17.foldl Build.add bound17

/-- The adds of spec 1.7: carried loads, totals, top height, revision, and row 0 of both maps. -/
theorem test_worked_adds :
    build17.cases.map (·.carried) = [41, 110, 21, 20, 0]
      ∧ (build17.totalWeight, build17.deckLoad, build17.momentX, build17.momentY, build17.topHeight, build17.revision)
          = (331, 331, 3032, 1324, 800, 41)
      ∧ build17.heightMap.take 8 = [300, 300, 550, 550, 800, 800, 800, 800]
      ∧ build17.ownerMap.take 8 =
          [.case 0, .case 0, .case 2, .case 2, .case 4, .case 4, .case 4, .case 4] := by
  decide +kernel

def cut17 : Build := build17.truncate 3

/-- The truncation of spec 1.7 from index 3. -/
theorem test_worked_truncation :
    cut17.cases.map (·.carried) = [30, 30, 0]
      ∧ (cut17.totalWeight, cut17.deckLoad, cut17.momentX, cut17.momentY, cut17.topHeight, cut17.revision) = (240, 240, 1840, 960, 550, 42)
      ∧ cut17.heightMap.take 8 = [300, 300, 550, 550, 550, 550, 300, 300]
      ∧ cut17.ownerMap.take 8 = [.case 0, .case 0, .case 2, .case 2, .case 2, .case 2, .case 1, .case 1] := by
  decide +kernel

/-- Spec 2.9: a case record that matters there, and one that does not. -/
def case29 (drop kind top carried crush : Nat) (sup : List Supporter) : CaseRec :=
  { case17 0 0 0 0 top 0 drop sup with kind := Fin.ofNat 8 kind, carried := carried, crush := crush }

def deckSup : List Supporter := [⟨.deck, 256, true⟩]
def other29 : CaseRec := case29 15 1 0 0 65535 deckSup

/-- Spec 2.9: six cells of a row of a map, columns 10 to 15, in their place. -/
def row29 {α : Type} (z l r : α) : List α := List.replicate 10 z ++ [l, l, l, r, r, r] ++ List.replicate 8 z

/-- Spec 2.9: rows 2 to 5 of a map, behind two rows of the deck.  The rows after them are left out. -/
def map29 {α : Type} (z a b c : α) : List α :=
  List.replicate 48 z ++ row29 z a b ++ row29 z a b ++ row29 z a c ++ row29 z a z

/-- Spec 2.9: the evaluation input, with C's carried load, the tolerance and the line's drop open. -/
def input29 (carriedC tol drop : Nat) : EvalInput :=
  let cases := [other29, other29, other29, other29, other29, case29 5 1 150 120 500 deckSup, case29 5 1 150 120 500 deckSup,
    other29, case29 4 1 300 200 600 deckSup, case29 5 2 295 carriedC 300 deckSup,
    case29 3 1 300 0 400 [⟨.case 5, 128, true⟩, ⟨.case 6, 128, false⟩]]
  let b := Build.empty.bind 1 1 0 { baseE with cols := 24, rows := 16, heightLimit := 1800 }
  { article := { art with length := 300, width := 200, height := 250, kind := 2, minSupport := 192, rotateOk := false }
    weight := 240
    build :=
      { b with
        cases := cases, heightMap := map29 0 300 300 295, ownerMap := map29 .deck (.case 8) (.case 10) (.case 9)
        totalWeight := 4000, momentX := 96000, momentY := 64000, deckLoad := 4000 }
    base := { baseE with cols := 24, rows := 16, heightLimit := 1800, maxLoad := 12000, boundX := 4, boundY := 4, threshold := 1000 }
    mayRest := fun i j => i == 2 && (j == 1 || j == 2)
    levelTol := tol, drop := drop }

def candidate29 : Candidate := { x := 10, y := 2, turned := false, a := 6, b := 4, scan := 48 }

/-- The candidate of spec 2.9 through every stage: its key terms and its supporter list. -/
theorem test_worked_candidate :
    (candidates (input29 250 10 3).article (input29 250 10 3).build)[48]? = some candidate29
      ∧ judge (input29 250 10 3) candidate29 = .feasible
        { x := 10, y := 2, turned := false, a := 6, b := 4, rest := 300, top := 550, q := 224
          supporters := [⟨.case 8, 147, true⟩, ⟨.case 10, 73, false⟩, ⟨.case 9, 36, false⟩], disturb := 2400, scan := 48 } := by
  decide +kernel

/-- The changed conditions of spec 2.9. -/
theorem test_worked_candidate_changes :
    let i := input29 250 10 3
    let verdict := fun (inp : EvalInput) => judge inp candidate29
    verdict (input29 270 10 3) = .failed .crush (some 9)
      ∧ verdict { i with base := { i.base with maxLoad := 4200 } } = .failed .overload none
      ∧ verdict { i with base := { i.base with boundX := 0, boundY := 0 } } = .failed .tilt none
      ∧ verdict { i with article := { i.article with minSupport := 225 } } = .failed .support none
      ∧ verdict (input29 250 10 4) = .failed .drop none
      ∧ (trial (input29 250 0 3) [⟨.case 8, 171, true⟩, ⟨.case 10, 85, false⟩]).1.map (·.carried) =
          [0, 0, 0, 0, 0, 160, 159, 0, 361, 250, 79] := by
  decide +kernel

/-- LoadsReachTheDeck: the counts of spec 2.9, and the build of spec 1.7 before its last case. -/
theorem test_witness_loads_reach_the_deck :
    let l : List (Owner × Nat) := [(.case 8, 12), (.case 10, 6), (.case 9, 3)]
    l ≠ [] ∧ (l.map (·.2)).sum = 21 ∧ (sharesAll l 21).map (·.share) = [147, 73, 36]
      ∧ ∀ x ∈ cases17, (x.supporters.map (·.share)).sum = 256 ∧ x.supporters.countP (·.principal) = 1 := by
  decide +kernel

def input1 : EvalInput :=
  { article := art, weight := 1000, build := build0, base := baseE, mayRest := fun _ _ => true, levelTol := 10, drop := 1 }

/-- TruncationReproducesTheBuild, EvaluationHasOneBest: a bare build with more cases than remain, and an evaluation with a
best candidate. -/
theorem test_witness_builds :
    bound17.bare = bound17 ∧ 3 < cases17.length
      ∧ (evaluate input1 0 (some 0)).best.isSome = true := by
  decide +kernel

/-- EvaluationHasOneBest: the largest height of a footprint, and the outcomes of the stages C to F that spec 2.9 does not
show. -/
theorem test_witness_stages :
    let i := input29 250 10 3
    let c := candidate29
    let cells := (List.range c.b).flatMap fun y => (List.range c.a).map fun x => (c.y + y) * i.build.cols + (c.x + x)
    let on := fun (b : Build) => judge { i with build := b } c
    let cases := fun (g : CaseRec → CaseRec) => on { i.build with cases := i.build.cases.map g }
    (∃ n ∈ cells, i.build.heightMap.getD n 0 = 300) ∧ (∀ n ∈ cells, i.build.heightMap.getD n 0 ≤ 300)
      ∧ judge { i with article := { i.article with height := 1501 } } c = .failed .height none
      ∧ judge { i with article := { i.article with deckOnly := true } } c = .failed .deckOnly none
      ∧ on { i.build with
            heightMap := List.replicate 144 300
            ownerMap := (List.range 144).map fun n => .case (n % 9) } = .failed .spread none
      ∧ cases (fun y => { y with topOnly := true }) = .failed .topOnly none
      ∧ judge { i with mayRest := fun _ _ => false } c = .failed .kind none := by
  decide +kernel

/-- EvaluationHasOneBest: the shares of a list whose largest count stands twice, and of one cell among many. -/
theorem test_witness_shares :
    sharesAll [(.case 1, 2), (.case 2, 3), (.case 3, 3)] 8 = [⟨.case 1, 64, false⟩, ⟨.case 2, 96, true⟩, ⟨.case 3, 96, false⟩]
      ∧ storedShares [(.deck, 300), (.case 0, 1)] 301 = [⟨.deck, 256, true⟩] := by
  decide +kernel

/-- EvaluationHasOneBest: a station that is a candidate, with its plan and its base entry, and one with neither. -/
theorem test_witness_station_choice :
    isCandidate w3 100 0 = true ∧ w3.planNamed 0 = some plan5 ∧ w3.baseOfBuild 0 = some baseE
      ∧ plan5.openLines 100 = [(0, ⟨1, 100, 3, 1, 0⟩)] ∧ isCandidate w3 100 1 = false ∧ w3.planNamed 1 = none
      ∧ w3.baseOfBuild 1 = none ∧ (decideReplan w3 0 art 1000).isSome = true := by
  decide +kernel

/-- BuildsSound, as a check. -/
theorem sound_builds {s : State} (h : (s.builds.toList.all isSound) = true) : BuildsSound s := by
  intro i
  refine sound_of ?_
  rw [List.all_eq_true] at h
  exact h _ (by simp)

/-- ArticlesOk, as a check. -/
def isMeasured (s : State) : Bool :=
  s.tables.articles.all (fun a => decide (1 ≤ a.length ∧ 1 ≤ a.width))
    && s.tracker.tracks.all fun e => e.snap.all fun a => decide (1 ≤ a.length ∧ 1 ≤ a.width)

theorem measured_of {s : State} (h : isMeasured s = true) : ArticlesOk s := by
  simp only [isMeasured, Bool.and_eq_true, List.all_eq_true, decide_eq_true_eq, Option.all_eq_true] at h
  exact ⟨h.1, fun e he a ha => h.2 e he a ha⟩

/-- LoadsReachTheDeck: sound builds with the tick next, and a placement that fits. -/
theorem test_witness_sound_builds :
    let s : State := { deciding (.place place1) 0 with pending := [.lineTimeTick] }
    BuildsSound s ∧ ArticlesOk s ∧ Fits s.builds[0] 1000 place1
      ∧ s.builds[0].revision = place1.revision ∧ isSound build17 = true ∧ isSound cut17 = true := by
  refine ⟨sound_builds ?_, measured_of ?_, ⟨?_, supported_of ?_, ?_, ?_⟩, ?_⟩ <;> decide +kernel

/-- LoadsReachTheDeck: a placement that waits for its commit, and a step that leaves its build. -/
theorem test_witness_placement_fits :
    PlacementsFit (deciding (.place place1) 0)
      ∧ RevisionsMoveOn (deciding (.place place1) 0) (tick (deciding (.place place1) 0)) := by
  refine ⟨fun j p u e hj hp hu he _ => ?_, fun j p hj hp h => absurd rfl h⟩
  cases hj
  cases hp
  cases hu
  have hw : (w3.track 3000).map (·.weight) = some 1000 := by decide +kernel
  have he' : w3.track 3000 = some e := he
  rw [he'] at hw
  have : e.weight = 1000 := by simpa using hw
  rw [this]
  exact ⟨by decide +kernel, supported_of (by decide +kernel), by decide +kernel, by decide +kernel⟩

/-! ### Witnesses: invariants -/

/-- A command waiting, with an admission open. -/
def commanded : State := { admitting with pending := [.takingAnArrival] }

/-- CountsStayOrdered, CapacitiesAreKept, UnitsAreKept: a state that keeps them, with an admission open, and its step. -/
theorem test_witness_invariants :
    CountsOk commanded ∧ CapacitiesOk commanded ∧ BindingsOk commanded ∧ CasesOk commanded ∧ ReportsOk commanded
      ∧ LinkOk commanded ∧ ∃ t, step commanded = .next t := by
  refine ⟨⟨?_, ?_, ?_⟩, ⟨⟨?_, ?_⟩, ⟨?_, ?_, ?_, ?_⟩, ⟨?_, ?_⟩, ?_, ?_, ?_, ?_, ?_⟩, bound_of ?_, cases_of ?_, ⟨?_, ?_⟩,
    ⟨?_, ?_⟩, ⟨_, rfl⟩⟩
  case refine_2 =>
    rintro a h
    cases h
    decide
  case refine_16 =>
    rintro e gap h -
    cases h
    exact Or.inr ⟨rfl, by decide +kernel⟩
  all_goals first
    | (unfold RisingKeys; decide +kernel)
    | (unfold StationsOk; decide +kernel)
    | (unfold LanesOk; decide +kernel)
    | (unfold BuildsOk; decide +kernel)
    | (unfold LineOk; decide +kernel)
    | decide +kernel

/-- UnitsAreKept: settings in their ranges. -/
theorem test_witness_settings_in_range : SettingsOk w2 := by
  refine ⟨by decide +kernel, by decide +kernel, by decide +kernel, fun e h => ?_⟩
  cases h

end Sys2Proof.Tests
end

section
/-!
PROOFS. The distribution of weight (R8) and the replay of a build's records (R13): what they depend on, what they keep,
and that the whole of a weight comes to the deck.
-/

namespace Sys2Proof.Machine

/-! ### Case records but for the load they carry -/

/-- A case record with nothing on it: what a replay reads of it (R13, step 4). -/
def CaseRec.unloaded (c : CaseRec) : CaseRec := { c with carried := 0 }

/-- A record is its unloaded record and its carried load. -/
theorem CaseRec.ext_unloaded {c d : CaseRec} (h : c.unloaded = d.unloaded) (hc : c.carried = d.carried) : c = d := by
  cases c; cases d
  simp only [unloaded, CaseRec.mk.injEq] at h ⊢
  tauto

theorem supporters_of_unloaded {c d : CaseRec} (h : c.unloaded = d.unloaded) : c.supporters = d.supporters := by
  have := congrArg CaseRec.supporters h
  exact this

/-- Lists that agree but for carried loads hold at each index records that do. -/
theorem getElem?_of_unloaded {cs ds : List CaseRec} (h : cs.map CaseRec.unloaded = ds.map CaseRec.unloaded) {i : Nat}
    {c : CaseRec} (hc : cs[i]? = some c) : ∃ d, ds[i]? = some d ∧ c.unloaded = d.unloaded := by
  have hi : (ds.map CaseRec.unloaded)[i]? = some c.unloaded := by rw [← h, List.getElem?_map, hc]; rfl
  rw [List.getElem?_map, Option.map_eq_some_iff] at hi
  obtain ⟨d, hd, e⟩ := hi
  exact ⟨d, hd, e.symm⟩

/-- A field that does not read the carried load agrees on lists that agree but for carried loads. -/
theorem map_of_unloaded {α : Type} (g : CaseRec → α) (hg : ∀ c, g c.unloaded = g c) {cs ds : List CaseRec}
    (h : cs.map CaseRec.unloaded = ds.map CaseRec.unloaded) : cs.map g = ds.map g := by
  have e : ∀ l : List CaseRec, l.map g = (l.map CaseRec.unloaded).map g := fun l => by simp [hg]
  rw [e cs, e ds, h]

/-- The number of places of a build that reach up to the owner: 0 for the deck, so that whatever lies below an owner has a
smaller rank. -/
def Owner.rank : Owner → Nat
  | .deck => 0
  | .case i => i + 1

/-- Every supporter lies at a lower index than the case it supports (R6). -/
def Stacked (cs : List CaseRec) : Prop := ∀ (i : Nat) (c : CaseRec), cs[i]? = some c → ∀ j ∈ c.supporters, j.owner.rank ≤ i

/-- Every supporter list has shares of 256 in all and one principal (R6, R29). -/
def FullShares (cs : List CaseRec) : Prop :=
  ∀ c ∈ cs, (c.supporters.map (·.share)).sum = 256 ∧ c.supporters.countP (·.principal) = 1

theorem Stacked.of_unloaded {cs ds : List CaseRec} (h : cs.map CaseRec.unloaded = ds.map CaseRec.unloaded)
    (hs : Stacked ds) : Stacked cs := by
  intro i c hc j hj
  obtain ⟨d, hd, e⟩ := getElem?_of_unloaded h hc
  have : c.supporters = d.supporters := supporters_of_unloaded e
  exact hs i d hd j (this ▸ hj)

theorem FullShares.of_unloaded {cs ds : List CaseRec} (h : cs.map CaseRec.unloaded = ds.map CaseRec.unloaded)
    (hs : FullShares ds) : FullShares cs := by
  intro c hc
  obtain ⟨i, hi⟩ := List.getElem?_of_mem hc
  obtain ⟨d, hd, e⟩ := getElem?_of_unloaded h hi
  have : c.supporters = d.supporters := supporters_of_unloaded e
  exact this ▸ hs d (List.mem_of_getElem? hd)

/-! ### Pieces (R8, steps 1 and 2) -/

/-- The floors of a load over shares of 256 in all are no more than the load. -/
theorem floors_le (p : Nat) (sup : List Supporter) :
    (sup.map (floorPiece p)).sum * 256 ≤ p * (sup.map (·.share)).sum := by
  induction sup with
  | nil => simp
  | cons j sup ih =>
    have : floorPiece p j * 256 ≤ p * j.share := by
      unfold floorPiece
      exact Nat.div_mul_le_self _ _
    rw [List.map_cons, List.sum_cons, List.map_cons, List.sum_cons, add_mul, mul_add]
    exact Nat.add_le_add this ih

/-- The floors and the remainder at each principal. -/
theorem sum_pieces_with (p r : Nat) (sup : List Supporter) :
    ((sup.map fun j => (j.owner, floorPiece p j + if j.principal then r else 0)).map (·.2)).sum
      = (sup.map (floorPiece p)).sum + r * sup.countP (·.principal) := by
  induction sup with
  | nil => simp
  | cons j sup ih =>
    simp only [List.map_cons, List.sum_cons, List.countP_cons, ih, mul_add]
    split_ifs <;> omega

/-- The pieces of a load are the whole of it. -/
theorem sum_pieces {p : Nat} {sup : List Supporter} (h : (sup.map (·.share)).sum = 256)
    (h1 : sup.countP (·.principal) = 1) : ((pieces p sup).map (·.2)).sum = p := by
  have hf := floors_le p sup
  rw [h] at hf
  rw [pieces, sum_pieces_with, h1]
  omega

theorem owner_of_piece {p : Nat} {sup : List Supporter} {x : Owner × Nat} (h : x ∈ pieces p sup) :
    ∃ j ∈ sup, j.owner = x.1 := by
  obtain ⟨j, hj, rfl⟩ := List.mem_map.mp h
  exact ⟨j, hj, rfl⟩

/-! ### What a delivery keeps -/

/-- The delivery of a piece to a case: it carries the piece, and its supporters get the pieces of that. -/
theorem deliver_case (fuel : Nat) (loads : List CaseRec × Nat) {i n : Nat} (hn : n ≠ 0) {c : CaseRec}
    (hc : loads.1[i]? = some c) :
    deliver (fuel + 1) loads (.case i, n) =
      (pieces n c.supporters).foldl (deliver fuel)
        (loads.1.set i { c with carried := saturate c.carried n }, loads.2) := by
  simp [deliver, hn, hc]

/-- What each delivery of a list of pieces keeps, they keep together. -/
theorem delivers_keep {P : List CaseRec × Nat → Prop} {f : Nat} (h : ∀ l x, P l → P (deliver f l x))
    (ps : List (Owner × Nat)) (l : List CaseRec × Nat) (hl : P l) : P (ps.foldl (deliver f) l) := by
  induction ps generalizing l with
  | nil => exact hl
  | cons x ps ih => exact ih _ (h l x hl)

section
variable {P : List CaseRec × Nat → Prop} (hdeck : ∀ l n, P l → P (l.1, l.2 + n))
  (hcase : ∀ (l : List CaseRec × Nat) (i n : Nat) (c : CaseRec), l.1[i]? = some c → P l →
    P (l.1.set i { c with carried := saturate c.carried n }, l.2))
include hdeck hcase

/-- A delivery raises the deck load, or loads a case and delivers its pieces: what both keep, it keeps. -/
theorem deliver_keeps (f : Nat) (l : List CaseRec × Nat) (x : Owner × Nat) (h : P l) : P (deliver f l x) := by
  induction f generalizing l x with
  | zero => exact h
  | succ f ih =>
    obtain ⟨owner, n⟩ := x
    rcases Nat.eq_zero_or_pos n with rfl | hn
    · simpa [deliver] using h
    cases owner with
    | deck => simpa [deliver, hn.ne'] using hdeck l n h
    | case i =>
      rcases hc : l.1[i]? with - | c
      · simpa [deliver, hn.ne', hc] using h
      rw [deliver_case f l hn.ne' hc]
      exact delivers_keep ih _ _ (hcase l i n c hc h)

theorem distribute_keeps (p : Nat) (sup : List Supporter) (cs : List CaseRec) (deck : Nat) (h : P (cs, deck)) :
    P (distribute p sup cs deck) :=
  delivers_keep (deliver_keeps hdeck hcase _) _ _ h
end

theorem map_unloaded_set {cs : List CaseRec} {i n : Nat} {c : CaseRec} (h : cs[i]? = some c) :
    (cs.set i { c with carried := n }).map CaseRec.unloaded = cs.map CaseRec.unloaded := by
  rw [List.map_set]
  have : (cs.map CaseRec.unloaded)[i]? = some c.unloaded := by simp [h]
  obtain ⟨hi, e⟩ := List.getElem?_eq_some_iff.mp this
  calc (cs.map CaseRec.unloaded).set i c.unloaded
      = (cs.map CaseRec.unloaded).set i (cs.map CaseRec.unloaded)[i] := by rw [e]
    _ = cs.map CaseRec.unloaded := List.set_getElem_self _

/-- A delivery changes carried loads alone. -/
theorem deliver_unloaded (fuel : Nat) (l : List CaseRec × Nat) (x : Owner × Nat) :
    (deliver fuel l x).1.map CaseRec.unloaded = l.1.map CaseRec.unloaded :=
  deliver_keeps (P := fun m => m.1.map CaseRec.unloaded = l.1.map CaseRec.unloaded) (fun _ _ h => h)
    (fun m i n c hc h => by rw [map_unloaded_set hc, h]) fuel l x rfl

theorem distribute_unloaded (p : Nat) (sup : List Supporter) (cs : List CaseRec) (deck : Nat) :
    (distribute p sup cs deck).1.map CaseRec.unloaded = cs.map CaseRec.unloaded :=
  distribute_keeps (P := fun m => m.1.map CaseRec.unloaded = cs.map CaseRec.unloaded) (fun _ _ h => h)
    (fun m i n c hc h => by rw [map_unloaded_set hc, h]) p sup cs deck rfl

/-- A carried load never falls, and stays within its 16 bits (R5, R8). -/
def NoLess (cs ds : List CaseRec) : Prop :=
  ∀ (i : Nat) (c : CaseRec), cs[i]? = some c → ∃ d, ds[i]? = some d ∧ d.crush = c.crush
    ∧ (c.carried ≤ 65535 → c.carried ≤ d.carried ∧ d.carried ≤ 65535)

theorem NoLess.refl (cs : List CaseRec) : NoLess cs cs := fun _ c hc => ⟨c, hc, rfl, fun h => ⟨le_rfl, h⟩⟩

theorem NoLess.trans {cs ds es : List CaseRec} (h : NoLess cs ds) (k : NoLess ds es) : NoLess cs es := by
  intro i c hc
  obtain ⟨d, hd, e, hcd⟩ := h i c hc
  obtain ⟨x, hx, e', hdx⟩ := k i d hd
  refine ⟨x, hx, e'.trans e, fun hl => ?_⟩
  obtain ⟨h1, h2⟩ := hcd hl
  obtain ⟨h3, h4⟩ := hdx h2
  exact ⟨h1.trans h3, h4⟩

theorem NoLess.set {cs : List CaseRec} {i n : Nat} {c : CaseRec} (hc : cs[i]? = some c) :
    NoLess cs (cs.set i { c with carried := saturate c.carried n }) := by
  intro m d hd
  rcases eq_or_ne i m with rfl | hne
  · obtain rfl : c = d := Option.some.inj (hc.symm.trans hd)
    have hi : i < cs.length := (List.getElem?_eq_some_iff.mp hc).1
    refine ⟨{ c with carried := saturate c.carried n }, by simp [hi], rfl, fun h => ?_⟩
    simp only [saturate]
    omega
  · exact ⟨d, by rw [List.getElem?_set_ne hne, hd], rfl, fun h => ⟨le_rfl, h⟩⟩

theorem distribute_noLess (p : Nat) (sup : List Supporter) (cs : List CaseRec) (deck : Nat) :
    NoLess cs (distribute p sup cs deck).1 :=
  distribute_keeps (P := fun m => NoLess cs m.1) (fun _ _ h => h) (fun _ _ _ _ hc h => h.trans (.set hc)) p sup cs deck
    (.refl cs)

/-! ### What a delivery depends on -/

/-- Case lists with the same supporter lists and carried loads. -/
def Alike : List CaseRec → List CaseRec → Prop :=
  List.Forall₂ fun c d => c.supporters = d.supporters ∧ c.carried = d.carried

theorem Alike.get {cs ds : List CaseRec} (h : Alike cs ds) {i : Nat} :
    cs[i]? = none ∧ ds[i]? = none
      ∨ ∃ c d, cs[i]? = some c ∧ ds[i]? = some d ∧ c.supporters = d.supporters ∧ c.carried = d.carried := by
  induction h generalizing i with
  | nil => simp
  | cons hcd _ ih =>
    cases i with
    | zero => simp [hcd]
    | succ i => simpa using ih

theorem Alike.set {cs ds : List CaseRec} (h : Alike cs ds) (i n : Nat) {c d : CaseRec}
    (hs : c.supporters = d.supporters) : Alike (cs.set i { c with carried := n }) (ds.set i { d with carried := n }) := by
  induction h generalizing i with
  | nil => exact .nil
  | cons hcd ht ih =>
    cases i with
    | zero => exact .cons ⟨hs, rfl⟩ ht
    | succ i => exact .cons hcd (ih i)

theorem delivers_alike {f : Nat}
    (h : ∀ (l m : List CaseRec × Nat) (x : Owner × Nat), Alike l.1 m.1 → l.2 = m.2 →
      Alike (deliver f l x).1 (deliver f m x).1 ∧ (deliver f l x).2 = (deliver f m x).2)
    (ps : List (Owner × Nat)) (l m : List CaseRec × Nat) (hl : Alike l.1 m.1) (hd : l.2 = m.2) :
    Alike (ps.foldl (deliver f) l).1 (ps.foldl (deliver f) m).1
      ∧ (ps.foldl (deliver f) l).2 = (ps.foldl (deliver f) m).2 := by
  induction ps generalizing l m with
  | nil => exact ⟨hl, hd⟩
  | cons x ps ih =>
    obtain ⟨ha, hb⟩ := h l m x hl hd
    exact ih _ _ ha hb

/-- A delivery depends on supporter lists and carried loads alone. -/
theorem deliver_alike (f : Nat) (l m : List CaseRec × Nat) (x : Owner × Nat) (h : Alike l.1 m.1) (hd : l.2 = m.2) :
    Alike (deliver f l x).1 (deliver f m x).1 ∧ (deliver f l x).2 = (deliver f m x).2 := by
  induction f generalizing l m x with
  | zero => exact ⟨h, hd⟩
  | succ f ih =>
    obtain ⟨owner, n⟩ := x
    rcases Nat.eq_zero_or_pos n with rfl | hn
    · simpa [deliver] using ⟨h, hd⟩
    cases owner with
    | deck => simpa [deliver, hn.ne', hd] using h
    | case i =>
      rcases h.get (i := i) with ⟨hc, he⟩ | ⟨c, e, hc, he, hs, hl⟩
      · simpa [deliver, hn.ne', hc, he] using ⟨h, hd⟩
      rw [deliver_case f l hn.ne' hc, deliver_case f m hn.ne' he]
      have hset := h.set i (saturate e.carried n) hs
      rw [← hl] at hset
      rw [hs]
      exact delivers_alike ih _ _ _ (by simpa [hs, hl] using hset) hd

theorem distribute_alike {cs ds : List CaseRec} (h : Alike cs ds) (p deck : Nat) (sup : List Supporter) :
    Alike (distribute p sup cs deck).1 (distribute p sup ds deck).1
      ∧ (distribute p sup cs deck).2 = (distribute p sup ds deck).2 := by
  unfold distribute
  rw [h.length_eq]
  exact delivers_alike (deliver_alike _) _ _ _ h rfl

theorem Stacked.set {cs : List CaseRec} (h : Stacked cs) {i n : Nat} {c : CaseRec} (hc : cs[i]? = some c) :
    Stacked (cs.set i { c with carried := n }) := h.of_unloaded (map_unloaded_set hc)

/-- The pieces that a case of a stacked list hands down go below it. -/
theorem Stacked.pieces {cs : List CaseRec} (h : Stacked cs) {i : Nat} {c : CaseRec} (hc : cs[i]? = some c) (n : Nat) :
    ∀ y ∈ pieces n c.supporters, y.1.rank ≤ i := by
  intro y hy
  obtain ⟨j, hj, e⟩ := owner_of_piece hy
  exact e ▸ h i c hc j hj

theorem delivers_append (ds : List CaseRec) {f g r : Nat} (hf : r < f) (hg : r < g)
    (h : ∀ (l : List CaseRec × Nat) (x : Owner × Nat), Stacked l.1 → x.1.rank ≤ l.1.length → x.1.rank < f →
      x.1.rank < g → deliver g (l.1 ++ ds, l.2) x = ((deliver f l x).1 ++ ds, (deliver f l x).2))
    (ps : List (Owner × Nat)) (hps : ∀ y ∈ ps, y.1.rank ≤ r) (l : List CaseRec × Nat) (hs : Stacked l.1)
    (hl : r ≤ l.1.length) :
    ps.foldl (deliver g) (l.1 ++ ds, l.2) = ((ps.foldl (deliver f) l).1 ++ ds, (ps.foldl (deliver f) l).2) := by
  induction ps generalizing l with
  | nil => rfl
  | cons y ps ih =>
    have hy : y.1.rank ≤ r := hps y List.mem_cons_self
    rw [List.foldl_cons, List.foldl_cons, h l y hs (by omega) (by omega) (by omega)]
    exact ih (fun z hz => hps z (List.mem_cons_of_mem _ hz)) _ (hs.of_unloaded (deliver_unloaded f l y))
      (by rw [length_deliver]; exact hl)

/-- A delivery to an owner among the lower cases does not reach the cases behind them, and enough fuel is as good as
more (log 18). -/
theorem deliver_append (ds : List CaseRec) (f g : Nat) (l : List CaseRec × Nat) (x : Owner × Nat) (hs : Stacked l.1)
    (hx : x.1.rank ≤ l.1.length) (hf : x.1.rank < f) (hg : x.1.rank < g) :
    deliver g (l.1 ++ ds, l.2) x = ((deliver f l x).1 ++ ds, (deliver f l x).2) := by
  induction f generalizing l x g with
  | zero => omega
  | succ f ih =>
    obtain ⟨g, rfl⟩ : ∃ k, g = k + 1 := ⟨g - 1, by omega⟩
    obtain ⟨owner, n⟩ := x
    rcases Nat.eq_zero_or_pos n with rfl | hn
    · simp [deliver]
    cases owner with
    | deck => simp [deliver, hn.ne']
    | case i =>
      simp only [Owner.rank] at hx hf hg
      obtain ⟨c, hc⟩ : ∃ c, l.1[i]? = some c := ⟨l.1[i], List.getElem?_eq_getElem (by omega)⟩
      have hc' : (l.1 ++ ds, l.2).1[i]? = some c := by rw [List.getElem?_append_left (by omega), hc]
      have hset : (l.1 ++ ds).set i { c with carried := saturate c.carried n }
          = l.1.set i { c with carried := saturate c.carried n } ++ ds := List.set_append_left _ _ (by omega)
      rw [deliver_case f l hn.ne' hc, deliver_case g _ hn.ne' hc', hset]
      exact delivers_append ds (by omega) (by omega) (ih g) _ (hs.pieces hc n) (_, l.2) (hs.set hc)
        (by rw [List.length_set]; omega)

/-- A distribution over the lower cases, with a case behind them. -/
theorem distribute_append {cs : List CaseRec} (hs : Stacked cs) (c : CaseRec) (p deck : Nat) {sup : List Supporter}
    (hsup : ∀ j ∈ sup, j.owner.rank ≤ cs.length) :
    distribute p sup (cs ++ [c]) deck
      = ((distribute p sup cs deck).1 ++ [c], (distribute p sup cs deck).2) := by
  unfold distribute
  have hps : ∀ y ∈ pieces p sup, y.1.rank ≤ cs.length := by
    intro y hy
    obtain ⟨j, hj, e⟩ := owner_of_piece hy
    exact e ▸ hsup j hj
  rw [List.length_append]
  exact delivers_append [c] (by omega) (by simp) (deliver_append [c] _ _) _ hps (cs, deck) hs le_rfl

/-! ### The deck load -/

theorem delivers_deck {f r : Nat} (hf : r < f)
    (h : ∀ (l : List CaseRec × Nat) (x : Owner × Nat), Stacked l.1 → FullShares l.1 → x.1.rank ≤ l.1.length →
      x.1.rank < f → (deliver f l x).2 = l.2 + x.2)
    (ps : List (Owner × Nat)) (hps : ∀ y ∈ ps, y.1.rank ≤ r) (l : List CaseRec × Nat) (hs : Stacked l.1)
    (hfull : FullShares l.1) (hl : r ≤ l.1.length) :
    (ps.foldl (deliver f) l).2 = l.2 + (ps.map (·.2)).sum := by
  induction ps generalizing l with
  | nil => rfl
  | cons y ps ih =>
    have hy : y.1.rank ≤ r := hps y List.mem_cons_self
    have hu := deliver_unloaded f l y
    rw [List.foldl_cons, ih (fun z hz => hps z (List.mem_cons_of_mem _ hz)) _ (hs.of_unloaded hu) (hfull.of_unloaded hu)
      (by rw [length_deliver]; exact hl), h l y hs hfull (by omega) (by omega), List.map_cons, List.sum_cons, add_assoc]

/-- A piece delivered down sound supporter lists comes to the deck whole. -/
theorem deliver_deck (f : Nat) (l : List CaseRec × Nat) (x : Owner × Nat) (hs : Stacked l.1) (hfull : FullShares l.1)
    (hx : x.1.rank ≤ l.1.length) (hf : x.1.rank < f) : (deliver f l x).2 = l.2 + x.2 := by
  induction f generalizing l x with
  | zero => omega
  | succ f ih =>
    obtain ⟨owner, n⟩ := x
    rcases Nat.eq_zero_or_pos n with rfl | hn
    · simp [deliver]
    cases owner with
    | deck => simp [deliver, hn.ne']
    | case i =>
      simp only [Owner.rank] at hx hf
      obtain ⟨c, hc⟩ : ∃ c, l.1[i]? = some c := ⟨l.1[i], List.getElem?_eq_getElem (by omega)⟩
      obtain ⟨h256, hone⟩ := hfull c (List.mem_of_getElem? hc)
      rw [deliver_case f l hn.ne' hc,
        delivers_deck (r := i) (by omega) ih _ (hs.pieces hc n) _ (hs.set hc) (hfull.of_unloaded (map_unloaded_set hc))
          (by rw [List.length_set]; omega), sum_pieces h256 hone]

/-- A load distributed over sound supporter lists comes to the deck whole. -/
theorem distribute_deck {cs : List CaseRec} (hs : Stacked cs) (hfull : FullShares cs) (p deck : Nat)
    {sup : List Supporter} (hsup : ∀ j ∈ sup, j.owner.rank ≤ cs.length) (h256 : (sup.map (·.share)).sum = 256)
    (hone : sup.countP (·.principal) = 1) : (distribute p sup cs deck).2 = deck + p := by
  have hps : ∀ y ∈ pieces p sup, y.1.rank ≤ cs.length := by
    intro y hy
    obtain ⟨j, hj, e⟩ := owner_of_piece hy
    exact e ▸ hsup j hj
  unfold distribute
  rw [delivers_deck (by omega) (deliver_deck _) _ hps (cs, deck) hs hfull le_rfl, sum_pieces h256 hone]

end Sys2Proof.Machine
end

section
/-!
PROOFS. Builds (chapter 1): replaying records (R13), truncation (R14), and that bind, add, confirm, truncate and clear keep
a build sound.
-/

namespace Sys2Proof.Machine

/-! ### Pushing a record -/

/-- Pushing a record does not read its carried load. -/
theorem pushCase_unloaded (b : Build) (c : CaseRec) : pushCase b c.unloaded = pushCase b c := rfl

theorem pushCase_cases (b : Build) (c : CaseRec) :
    (pushCase b c).cases.map CaseRec.unloaded = (b.cases ++ [c]).map CaseRec.unloaded := by
  have h := distribute_unloaded c.weight c.supporters (b.cases ++ [c.unloaded]) b.deckLoad
  rw [List.map_append] at h ⊢
  exact h

theorem pushCase_binding (b : Build) (c : CaseRec) : (pushCase b c).binding = b.binding := rfl

theorem pushCase_revision (b : Build) (c : CaseRec) : (pushCase b c).revision = b.revision := rfl

theorem map_setFootprint {α β : Type} (f : β) (cols x y a b : Nat) (v : α) (m : List α) :
    (setFootprint cols x y a b v m).map (fun _ => f) = m.map fun _ => f := by
  simp [setFootprint, List.map_const']

/-- A build emptied of a pushed record is the build emptied. -/
theorem bare_pushCase (b : Build) (c : CaseRec) : (pushCase b c).bare = b.bare := by
  simp only [Build.bare, pushCase, map_setFootprint]

/-! ### Replays -/

theorem replay_bare (cs : List CaseRec) (b : Build) : (cs.foldl pushCase b).bare = b.bare := by
  induction cs generalizing b with
  | nil => rfl
  | cons c cs ih => rw [List.foldl_cons, ih, bare_pushCase]

theorem replay_revision (cs : List CaseRec) (b : Build) : (cs.foldl pushCase b).revision = b.revision := by
  induction cs generalizing b with
  | nil => rfl
  | cons c cs ih => rw [List.foldl_cons, ih, pushCase_revision]

theorem replay_binding (cs : List CaseRec) (b : Build) : (cs.foldl pushCase b).binding = b.binding := by
  induction cs generalizing b with
  | nil => rfl
  | cons c cs ih => rw [List.foldl_cons, ih, pushCase_binding]

theorem replay_cases (cs : List CaseRec) (b : Build) :
    (cs.foldl pushCase b).cases.map CaseRec.unloaded = (b.cases ++ cs).map CaseRec.unloaded := by
  induction cs generalizing b with
  | nil => simp
  | cons c cs ih =>
    rw [List.foldl_cons, ih, List.map_append, pushCase_cases]
    simp

/-- A replay does not read the carried loads of the records. -/
theorem replay_congr {cs ds : List CaseRec} (h : cs.map CaseRec.unloaded = ds.map CaseRec.unloaded) (b : Build) :
    cs.foldl pushCase b = ds.foldl pushCase b := by
  have e : ∀ l : List CaseRec, l.foldl pushCase b = (l.map CaseRec.unloaded).foldl pushCase b := by
    intro l
    rw [List.foldl_map]
    rfl
  rw [e cs, e ds, h]

/-- A replay leaves the revision and does not read it. -/
theorem replay_withRevision (cs : List CaseRec) (b : Build) (r : Revision) :
    cs.foldl pushCase { b with revision := r } = { cs.foldl pushCase b with revision := r } := by
  induction cs generalizing b with
  | nil => rfl
  | cons c cs ih => exact ih (pushCase b c)

/-- A replay loads no case less than its beginning did. -/
theorem replay_noLess (cs : List CaseRec) (b : Build) : NoLess b.cases (cs.foldl pushCase b).cases := by
  induction cs generalizing b with
  | nil => exact .refl _
  | cons c cs ih =>
    have grown : NoLess b.cases (b.cases ++ [c.unloaded]) := by
      intro i d hd
      have hi : i < b.cases.length := (List.getElem?_eq_some_iff.mp hd).1
      exact ⟨d, by rw [List.getElem?_append_left hi, hd], rfl, fun h => ⟨le_rfl, h⟩⟩
    exact (grown.trans (distribute_noLess c.weight c.supporters _ b.deckLoad)).trans (ih (pushCase b c))

/-- Loads within 16 bits stay so (R5). -/
theorem pushCase_within {b : Build} {c : CaseRec} (h : ∀ x ∈ b.cases, x.carried ≤ 65535) :
    ∀ x ∈ (pushCase b c).cases, x.carried ≤ 65535 := by
  have h0 : ∀ x ∈ b.cases ++ [c.unloaded], x.carried ≤ 65535 := by
    intro x hx
    rcases List.mem_append.mp hx with hx | hx
    · exact h x hx
    · simp only [List.mem_singleton.mp hx, CaseRec.unloaded, Nat.zero_le]
  refine distribute_keeps (P := fun m => ∀ x ∈ m.1, x.carried ≤ 65535) (fun _ _ h => h) ?_ c.weight c.supporters _
    b.deckLoad h0
  intro l i n d _ hl x hx
  rcases List.mem_or_eq_of_mem_set hx with hx | rfl
  · exact hl x hx
  · simp only [saturate]
    omega

theorem replay_within (cs : List CaseRec) {b : Build} (h : ∀ x ∈ b.cases, x.carried ≤ 65535) :
    ∀ x ∈ (cs.foldl pushCase b).cases, x.carried ≤ 65535 := by
  induction cs generalizing b with
  | nil => exact h
  | cons c cs ih => exact ih (pushCase_within h)

/-! ### Truncation (R14) -/

/-- Settles O55: the records left are those of the first `k`, and a replay of them from the emptied build is the growth of
the build up to them. -/
theorem truncationReproducesTheBuild : Obligations.TruncationReproducesTheBuild := by
  intro b cs k hb full
  have hempty : b.cases = [] := by
    have := congrArg Build.cases hb
    exact this.symm
  have hcases : full.cases.map CaseRec.unloaded = cs.map CaseRec.unloaded := by
    rw [replay_cases, hempty, List.nil_append]
  have hlen : full.cases.length = cs.length := by simpa using congrArg List.length hcases
  refine ⟨fun hk => ?_, fun hk => ?_⟩
  · have htake : (full.cases.take k).map CaseRec.unloaded = (cs.take k).map CaseRec.unloaded := by
      rw [List.map_take, List.map_take, hcases]
    rw [Build.truncate, if_pos (hlen ▸ hk), Build.rebuild, replay_bare, hb, replay_congr htake, replay_revision]
  · rw [Build.truncate, if_neg (by omega)]

/-! ### Sound builds -/

/-- A supporter list of R6 depends on the lower cases but for their carried loads. -/
theorem SupportersOk.congr {cs ds : List CaseRec} (h : cs.map CaseRec.unloaded = ds.map CaseRec.unloaded) {drop : Nat}
    {sup : List Supporter} (hs : SupportersOk cs drop sup) : SupportersOk ds drop sup := by
  obtain ⟨hlen, hnodup, hshare, hsum, hone, hbelow⟩ := hs
  refine ⟨hlen, hnodup, hshare, hsum, hone, fun j hj m hm => ?_⟩
  obtain ⟨y, hy, hdrop, htop⟩ := hbelow j hj m hm
  obtain ⟨z, hz, e⟩ := getElem?_of_unloaded h hy
  have ed : y.drop = z.drop := by
    have := congrArg CaseRec.drop e
    exact this
  have et : y.topOnly = z.topOnly := by
    have := congrArg CaseRec.topOnly e
    exact this
  exact ⟨z, hz, ed ▸ hdrop, et ▸ htop⟩

/-- The supporters of R6 lie below. -/
theorem SupportersOk.rank_le {cs : List CaseRec} {drop : Nat} {sup : List Supporter} (h : SupportersOk cs drop sup) :
    ∀ j ∈ sup, j.owner.rank ≤ cs.length := by
  obtain ⟨-, -, -, -, -, hbelow⟩ := h
  intro j hj
  rcases ho : j.owner with - | m
  · exact Nat.zero_le _
  · obtain ⟨y, hy, -⟩ := hbelow j hj m ho
    exact (List.getElem?_eq_some_iff.mp hy).1

theorem stacked_of_supporters {cs : List CaseRec}
    (h : ∀ (i : Nat) (c : CaseRec), cs[i]? = some c → SupportersOk (cs.take i) c.drop c.supporters) : Stacked cs := by
  intro i c hc j hj
  have := (h i c hc).rank_le j hj
  rw [List.length_take] at this
  omega

theorem fullShares_of_supporters {cs : List CaseRec}
    (h : ∀ (i : Nat) (c : CaseRec), cs[i]? = some c → SupportersOk (cs.take i) c.drop c.supporters) : FullShares cs := by
  intro c hc
  obtain ⟨i, hi⟩ := List.getElem?_of_mem hc
  obtain ⟨-, -, -, hsum, hone, -⟩ := h i c hi
  exact ⟨hsum, hone⟩

/-- A supporter list behind one more record. -/
theorem supporters_push {b : Build} {c : CaseRec}
    (h : ∀ (i : Nat) (x : CaseRec), b.cases[i]? = some x → SupportersOk (b.cases.take i) x.drop x.supporters)
    (hc : SupportersOk b.cases c.drop c.supporters) :
    ∀ (i : Nat) (x : CaseRec), (b.cases ++ [c.unloaded])[i]? = some x →
      SupportersOk ((b.cases ++ [c.unloaded]).take i) x.drop x.supporters := by
  intro i x hx
  rcases Nat.lt_or_ge i b.cases.length with hi | hi
  · rw [List.getElem?_append_left hi] at hx
    rw [List.take_append_of_le_length hi.le]
    exact h i x hx
  · have hlen := (List.getElem?_eq_some_iff.mp hx).1
    simp only [List.length_append, List.length_singleton] at hlen
    obtain rfl : i = b.cases.length := by omega
    have : x = c.unloaded := by simpa using hx.symm
    rw [this, List.take_append_of_le_length le_rfl, List.take_length]
    exact hc

/-- The heights that owners stand for read nothing but tops. -/
theorem heightOf_push {b : Build} {c : CaseRec} {o : Owner} {h : Nat} (ho : heightOf b.cases o = some h) :
    heightOf (pushCase b c).cases o = some h := by
  cases o with
  | deck => exact ho
  | case m =>
    have e : (pushCase b c).cases.map (·.top) = (b.cases ++ [c]).map (·.top) :=
      map_of_unloaded (·.top) (fun _ => rfl) (pushCase_cases b c)
    have hm : (b.cases.map (·.top))[m]? = some h := by simpa [heightOf] using ho
    have : ((pushCase b c).cases.map (·.top))[m]? = some h := by
      rw [e, List.map_append, List.getElem?_append_left (List.getElem?_eq_some_iff.mp hm).1, hm]
    simpa [heightOf] using this

theorem heightOf_pushed (b : Build) (c : CaseRec) :
    heightOf (pushCase b c).cases (.case b.cases.length) = some c.top := by
  have e : (pushCase b c).cases.map (·.top) = (b.cases ++ [c]).map (·.top) :=
    map_of_unloaded (·.top) (fun _ => rfl) (pushCase_cases b c)
  have : ((pushCase b c).cases.map (·.top))[b.cases.length]? = some c.top := by rw [e]; simp
  simpa [heightOf] using this

theorem heights_push {b : Build} {c : CaseRec} (htop : c.top ≤ b.heightLimit)
    (h : ∀ (n : Nat) (o : Owner), b.ownerMap[n]? = some o →
      ∃ h, heightOf b.cases o = some h ∧ b.heightMap[n]? = some h ∧ h ≤ b.heightLimit) :
    ∀ (n : Nat) (o : Owner), (pushCase b c).ownerMap[n]? = some o →
      ∃ h, heightOf (pushCase b c).cases o = some h ∧ (pushCase b c).heightMap[n]? = some h
        ∧ h ≤ (pushCase b c).heightLimit := by
  intro n o ho
  have ho' : (b.ownerMap[n]?).map
      (fun old => if inFootprint b.cols c.x c.y c.a c.b n then Owner.case b.cases.length else old) = some o := by
    rw [← ho]
    exact (List.getElem?_mapIdx
      (f := fun i old => if inFootprint b.cols c.x c.y c.a c.b i then Owner.case b.cases.length else old)).symm
  obtain ⟨old, hold, e⟩ := Option.map_eq_some_iff.mp ho'
  obtain ⟨k, hk, hm, hle⟩ := h n old hold
  have hmap : (pushCase b c).heightMap[n]?
      = some (if inFootprint b.cols c.x c.y c.a c.b n then c.top else k) := by
    have : (pushCase b c).heightMap[n]?
        = (b.heightMap[n]?).map fun old => if inFootprint b.cols c.x c.y c.a c.b n then c.top else old :=
      List.getElem?_mapIdx
    rw [this, hm]
    rfl
  rcases hin : inFootprint b.cols c.x c.y c.a c.b n
  · rw [hin] at e hmap
    refine ⟨k, ?_, hmap, hle⟩
    have : old = o := e
    exact this ▸ heightOf_push hk
  · rw [hin] at e hmap
    refine ⟨c.top, ?_, hmap, htop⟩
    have : Owner.case b.cases.length = o := e
    exact this ▸ heightOf_pushed b c

/-- The deck load and the total weight of a build that takes a record (R10, R30). -/
theorem pushCase_deck {b : Build} {c : CaseRec} (hs : Stacked (b.cases ++ [c.unloaded]))
    (hf : FullShares (b.cases ++ [c.unloaded])) : (pushCase b c).deckLoad = b.deckLoad + c.weight := by
  have hlast : (b.cases ++ [c.unloaded])[b.cases.length]? = some c.unloaded := by simp
  obtain ⟨h256, hone⟩ := hf c.unloaded (by simp)
  refine distribute_deck hs hf c.weight b.deckLoad (fun j hj => ?_) h256 hone
  have := hs _ _ hlast j hj
  rw [List.length_append]
  omega

/-- A record pushed on a sound build whose cases then carry no more than they may. -/
theorem BuildSound.push {b : Build} (h : BuildSound b) {c : CaseRec} (hbound : b.binding ≠ none)
    (hsup : SupportersOk b.cases c.drop c.supporters) (htop : c.top ≤ b.heightLimit)
    (hcrush : ∀ x ∈ (pushCase b c).cases, x.carried ≤ x.crush) : BuildSound (pushCase b c) where
  replayed := by
    calc (pushCase b c).rebuild (pushCase b c).cases
        = (b.cases ++ [c]).foldl pushCase b.bare := by
          rw [Build.rebuild, replay_congr (pushCase_cases b c), bare_pushCase]
      _ = pushCase (b.rebuild b.cases) c := by rw [List.foldl_append]; rfl
      _ = pushCase b c := by rw [h.replayed]
  unbound hb := absurd hb hbound
  sizes := by
    obtain ⟨hh, ho⟩ := h.sizes
    exact ⟨by rw [← show b.cols * b.rows = (pushCase b c).cols * (pushCase b c).rows from rfl, ← hh]
              exact List.length_mapIdx,
      by rw [← show b.cols * b.rows = (pushCase b c).cols * (pushCase b c).rows from rfl, ← ho]
         exact List.length_mapIdx⟩
  heights := heights_push htop h.heights
  tops := by
    intro x hx
    have e : (pushCase b c).cases.map (·.top) = (b.cases ++ [c]).map (·.top) :=
      map_of_unloaded (·.top) (fun _ => rfl) (pushCase_cases b c)
    have : x.top ∈ (b.cases ++ [c]).map (·.top) := e ▸ List.mem_map_of_mem hx
    obtain ⟨y, hy, ey⟩ := List.mem_map.mp this
    rw [← ey]
    rcases List.mem_append.mp hy with hy | hy
    · exact h.tops y hy
    · rw [List.mem_singleton.mp hy]
      exact htop
  top := rfl
  supporters := by
    intro i x hx
    have e : (pushCase b c).cases.map CaseRec.unloaded = (b.cases ++ [c.unloaded]).map CaseRec.unloaded :=
      distribute_unloaded c.weight c.supporters (b.cases ++ [c.unloaded]) b.deckLoad
    obtain ⟨y, hy, exy⟩ := getElem?_of_unloaded e hx
    have hy' := supporters_push h.supporters hsup i y hy
    have edrop : x.drop = y.drop := by
      have := congrArg CaseRec.drop exy
      exact this
    rw [edrop, supporters_of_unloaded exy]
    exact hy'.congr (by rw [List.map_take, List.map_take, e])
  loads := by
    obtain ⟨hdeck, htotal⟩ := h.loads
    have hpush := supporters_push h.supporters hsup
    have e : (pushCase b c).cases.map (·.weight) = (b.cases ++ [c]).map (·.weight) :=
      map_of_unloaded (·.weight) (fun _ => rfl) (pushCase_cases b c)
    refine ⟨?_, ?_⟩
    · rw [pushCase_deck (stacked_of_supporters hpush) (fullShares_of_supporters hpush), hdeck]
      rfl
    · rw [e, List.map_append, List.sum_append, ← htotal, List.map_singleton, List.sum_singleton]
      rfl
  crush := hcrush

/-- The revision is no part of soundness. -/
theorem BuildSound.withRevision {b : Build} (h : BuildSound b) (r : Revision) : BuildSound { b with revision := r } where
  replayed := by
    have e : Build.rebuild { b with revision := r } b.cases = { b.rebuild b.cases with revision := r } :=
      replay_withRevision b.cases b.bare r
    rw [h.replayed] at e
    exact e
  unbound := h.unbound
  sizes := h.sizes
  heights := h.heights
  tops := h.tops
  top := h.top
  supporters := h.supporters
  loads := h.loads
  crush := h.crush

theorem maxHeight_replicate (n : Nat) : maxHeight (List.replicate n 0) = 0 := by
  unfold maxHeight
  induction n with
  | zero => rfl
  | succ n ih => simpa [List.replicate_succ] using ih

/-- A build with no case on it, every cell at height 0 and owner DECK, and totals of 0, is sound. -/
theorem BuildSound.ofBare {b : Build} (hb : b.bare = b) (hh : b.heightMap.length = b.cols * b.rows)
    (ho : b.ownerMap.length = b.cols * b.rows) : BuildSound b := by
  have hcases : b.cases = [] := by
    have := congrArg Build.cases hb
    exact this.symm
  have hheights : b.heightMap = List.replicate b.heightMap.length 0 := by
    have := congrArg Build.heightMap hb
    rw [← List.map_const']
    exact this.symm
  have howners : b.ownerMap = List.replicate b.ownerMap.length Owner.deck := by
    have := congrArg Build.ownerMap hb
    rw [← List.map_const']
    exact this.symm
  have htotal : b.totalWeight = 0 := by
    have := congrArg Build.totalWeight hb
    exact this.symm
  have hdeck : b.deckLoad = 0 := by
    have := congrArg Build.deckLoad hb
    exact this.symm
  have htop : b.topHeight = 0 := by
    have := congrArg Build.topHeight hb
    exact this.symm
  exact
    { replayed := by rw [hcases, Build.rebuild, List.foldl_nil, hb]
      unbound := fun _ => hcases
      sizes := ⟨hh, ho⟩
      heights := by
        intro n o hn
        rw [howners, List.getElem?_replicate] at hn
        split_ifs at hn with hlt
        obtain rfl := Option.some.inj hn
        refine ⟨0, rfl, ?_, Nat.zero_le _⟩
        rw [hheights, List.getElem?_replicate, if_pos (by omega)]
      tops := by simp [hcases]
      top := by rw [hheights, maxHeight_replicate, htop]
      supporters := by simp [hcases]
      loads := by simp [hcases, htotal, hdeck]
      crush := by simp [hcases] }

/-- The emptied build of a sound one is sound. -/
theorem BuildSound.bare {b : Build} (h : BuildSound b) : BuildSound b.bare := by
  obtain ⟨hh, ho⟩ := h.sizes
  refine .ofBare ?_ ?_ ?_
  · simp [Build.bare]
  · rw [← show b.cols * b.rows = b.bare.cols * b.bare.rows from rfl, ← hh]
    exact List.length_map ..
  · rw [← show b.cols * b.rows = b.bare.cols * b.bare.rows from rfl, ← ho]
    exact List.length_map ..

/-- The replay of the first records of a sound build is sound (R14). -/
theorem BuildSound.initial {b : Build} (h : BuildSound b) (k : Nat) (hk : k ≤ b.cases.length) :
    BuildSound (b.rebuild (b.cases.take k)) := by
  induction k with
  | zero => exact h.bare
  | succ k ih =>
    obtain ⟨c, hc⟩ : ∃ c, b.cases[k]? = some c := ⟨b.cases[k], List.getElem?_eq_getElem hk⟩
    have hstep : b.rebuild (b.cases.take (k + 1)) = pushCase (b.rebuild (b.cases.take k)) c := by
      rw [Build.rebuild, List.take_add_one, hc, List.foldl_append]
      rfl
    have hgrown : b = (b.cases.drop (k + 1)).foldl pushCase (b.rebuild (b.cases.take (k + 1))) := by
      rw [Build.rebuild, ← List.foldl_append, List.take_append_drop]
      exact h.replayed.symm
    have hbelow : (b.cases.take k).map CaseRec.unloaded
        = (b.rebuild (b.cases.take k)).cases.map CaseRec.unloaded := by
      rw [Build.rebuild, replay_cases]
      rfl
    have hbind : (b.rebuild (b.cases.take k)).binding = b.binding := replay_binding _ _
    rw [hstep]
    refine (ih (by omega)).push ?_ ((h.supporters k c hc).congr hbelow) ?_ ?_
    · rw [hbind]
      intro hb
      simp [h.unbound hb] at hc
    · rw [Build.heightLimit, hbind]
      exact h.tops c (List.mem_of_getElem? hc)
    · intro x hx
      rw [← hstep] at hx
      obtain ⟨i, hi⟩ := List.getElem?_of_mem hx
      obtain ⟨d, hd, ecrush, hle⟩ := replay_noLess (b.cases.drop (k + 1)) _ i x hi
      rw [← hgrown] at hd
      have hx' : x.carried ≤ 65535 := replay_within _ (by simp [Build.bare]) x hx
      exact ecrush ▸ (hle hx').1.trans (h.crush d (List.mem_of_getElem? hd))

theorem BuildSound.truncate {b : Build} (h : BuildSound b) (k : Nat) : BuildSound (b.truncate k) := by
  unfold Build.truncate
  split_ifs with hk
  · exact (h.initial k hk.le).withRevision _
  · exact h

theorem BuildSound.clear (b : Build) : BuildSound b.clear := .ofBare rfl rfl rfl

/-- A sound build that is not bound is the emptied build (R3, R18). -/
theorem BuildSound.bare_of_unbound {b : Build} (h : BuildSound b) (hb : b.binding = none) : b.bare = b := by
  have := h.replayed
  rwa [h.unbound hb, Build.rebuild, List.foldl_nil] at this

theorem BuildSound.bind {b : Build} (h : BuildSound b) (hb : b.binding = none) (plan : PlanId) (part : Nat)
    (kind : BaseKind) (e : BaseEntry) : BuildSound (b.bind plan part kind e) := by
  have hbare := h.bare_of_unbound hb
  refine .ofBare ?_ (List.length_replicate ..) (List.length_replicate ..)
  rw [← hbare]
  simp [Build.bare, Build.bind]

/-! ### Confirming a case (R12) -/

/-- The same records but for their status. -/
def Restated : List CaseRec → List CaseRec → Prop := List.Forall₂ fun c d => d = { c with status := d.status }

theorem Restated.refl (cs : List CaseRec) : Restated cs cs := by
  induction cs with
  | nil => exact .nil
  | cons c cs ih => exact .cons rfl ih

theorem Restated.set {cs : List CaseRec} {i : Nat} {c : CaseRec} (hc : cs[i]? = some c) (st : CaseStatus) :
    Restated cs (cs.set i { c with status := st }) := by
  induction cs generalizing i with
  | nil => exact .nil
  | cons d cs ih =>
    cases i with
    | zero =>
      obtain rfl : d = c := by simpa using hc
      exact .cons rfl (Restated.refl cs)
    | succ i => exact .cons rfl (ih (by simpa using hc))

theorem Restated.alike {cs ds : List CaseRec} (h : Restated cs ds) : Alike cs ds := by
  refine List.Forall₂.imp (fun c d hcd => ?_) h
  rw [hcd]
  exact ⟨rfl, rfl⟩

theorem Restated.map_eq {α : Type} (g : CaseRec → α) (hg : ∀ (c : CaseRec) (st : CaseStatus), g { c with status := st } = g c)
    {cs ds : List CaseRec} (h : Restated cs ds) : ds.map g = cs.map g := by
  induction h with
  | nil => rfl
  | cons hcd _ ih => rw [List.map_cons, List.map_cons, ih, hcd, hg]

theorem Restated.get {cs ds : List CaseRec} (h : Restated cs ds) {i : Nat} {d : CaseRec} (hd : ds[i]? = some d) :
    ∃ c, cs[i]? = some c ∧ d = { c with status := d.status } := by
  induction h generalizing i with
  | nil => simp at hd
  | cons hcd _ ih =>
    cases i with
    | zero =>
      obtain rfl := Option.some.inj hd
      exact ⟨_, rfl, hcd⟩
    | succ i => exact ih hd

/-- A confirm restates one case, or changes nothing. -/
theorem confirm_restated (b : Build) (i : Nat) (t : Tracking) :
    ∃ cs, Restated b.cases cs ∧ b.confirm i t = { b with cases := cs } := by
  unfold Build.confirm
  split
  · rename_i c hc
    split_ifs
    · exact ⟨_, .set hc _, rfl⟩
    · exact ⟨_, .refl _, rfl⟩
  · exact ⟨_, .refl _, rfl⟩

/-- A push on restated cases: all but the cases comes out the same, and their loads do. -/
theorem pushCase_restated (b : Build) (c : CaseRec) {ds : List CaseRec} (h : Alike b.cases ds) (st : CaseStatus) :
    ∃ es, pushCase { b with cases := ds } { c with status := st } = { pushCase b c with cases := es }
      ∧ Alike (pushCase b c).cases es := by
  obtain ⟨ha, hd⟩ := distribute_alike (cs := b.cases ++ [c.unloaded])
    (ds := ds ++ [({ c with status := st } : CaseRec).unloaded])
    (List.rel_append h (.cons ⟨rfl, rfl⟩ .nil)) c.weight b.deckLoad c.supporters
  refine ⟨_, ?_, ha⟩
  simp only [pushCase, Build.mk.injEq, h.length_eq, true_and, and_true]
  exact ⟨rfl, rfl, rfl, hd.symm, rfl⟩

theorem replay_restated {cs ds : List CaseRec} (h : Restated cs ds) (b : Build) {es : List CaseRec}
    (he : Alike b.cases es) : ∃ fs, ds.foldl pushCase { b with cases := es } = { cs.foldl pushCase b with cases := fs }
      ∧ Alike (cs.foldl pushCase b).cases fs := by
  induction h generalizing b es with
  | nil => exact ⟨es, rfl, he⟩
  | @cons c d cs ds hcd _ ih =>
    obtain ⟨gs, e, hgs⟩ := pushCase_restated b c he d.status
    rw [List.foldl_cons, List.foldl_cons, hcd, e]
    exact ih _ hgs

/-- Cases are known by their records without the loads, and the loads. -/
theorem eq_of_alike {cs ds : List CaseRec} (h : Alike cs ds)
    (hu : cs.map CaseRec.unloaded = ds.map CaseRec.unloaded) : cs = ds := by
  induction h with
  | nil => rfl
  | cons hcd _ ih =>
    obtain ⟨hu1, hu2⟩ := List.cons.inj hu
    rw [CaseRec.ext_unloaded hu1 hcd.2, ih hu2]

theorem Alike.trans {cs ds es : List CaseRec} (h : Alike cs ds) (k : Alike ds es) : Alike cs es := by
  induction h generalizing es with
  | nil => exact k
  | cons hcd _ ih =>
    cases k with
    | cons hde ht => exact .cons ⟨hcd.1.trans hde.1, hcd.2.trans hde.2⟩ (ih ht)

theorem Alike.symm {cs ds : List CaseRec} (h : Alike cs ds) : Alike ds cs := by
  induction h with
  | nil => exact .nil
  | cons hcd _ ih => exact .cons ⟨hcd.1.symm, hcd.2.symm⟩ ih

theorem SupportersOk.restate {cs ds : List CaseRec} (h : Restated cs ds) {drop : Nat} {sup : List Supporter}
    (hs : SupportersOk cs drop sup) : SupportersOk ds drop sup := by
  obtain ⟨hlen, hnodup, hshare, hsum, hone, hbelow⟩ := hs
  refine ⟨hlen, hnodup, hshare, hsum, hone, fun j hj m hm => ?_⟩
  obtain ⟨y, hy, hdrop, htop⟩ := hbelow j hj m hm
  have hm' : m < ds.length := h.length_eq ▸ (List.getElem?_eq_some_iff.mp hy).1
  have hz := List.getElem?_eq_getElem hm'
  obtain ⟨y', hy', e⟩ := h.get hz
  obtain rfl : y' = y := Option.some.inj (hy'.symm.trans hy)
  exact ⟨_, hz, by rw [e]; exact hdrop, by rw [e]; exact htop⟩

theorem heightOf_restated {cs ds : List CaseRec} (h : Restated cs ds) (o : Owner) : heightOf ds o = heightOf cs o := by
  cases o with
  | deck => rfl
  | case m => simp only [heightOf, ← List.getElem?_map, h.map_eq (·.top) fun _ _ => rfl]

/-- Statuses are no part of soundness. -/
theorem BuildSound.restate {b : Build} (h : BuildSound b) {ds : List CaseRec} (hd : Restated b.cases ds) :
    BuildSound { b with cases := ds } where
  replayed := by
    obtain ⟨fs, e, hfs⟩ := replay_restated hd b.bare (es := []) .nil
    have hb : b.bare = { b.bare with cases := [] } := rfl
    rw [← hb] at e
    have hu : fs.map CaseRec.unloaded = ds.map CaseRec.unloaded := by
      have := replay_cases ds b.bare
      rw [e] at this
      simpa [Build.bare] using this
    have hl : Alike (b.rebuild b.cases).cases fs := hfs
    rw [h.replayed] at hl
    have : fs = ds := eq_of_alike (hl.symm.trans hd.alike) hu
    show ds.foldl pushCase b.bare = _
    rw [e, this]
    show { b.rebuild b.cases with cases := ds } = _
    rw [h.replayed]
  unbound hb := by
    have := h.unbound hb
    rw [this] at hd
    exact List.forall₂_nil_left_iff.mp hd
  sizes := h.sizes
  heights n o ho := by
    obtain ⟨k, hk, hm⟩ := h.heights n o ho
    exact ⟨k, (heightOf_restated hd o).trans hk, hm⟩
  tops c hc := by
    obtain ⟨i, hi⟩ := List.getElem?_of_mem hc
    obtain ⟨x, hx, e⟩ := hd.get hi
    rw [e]
    exact h.tops x (List.mem_of_getElem? hx)
  top := h.top
  supporters i c hc := by
    obtain ⟨x, hx, e⟩ := hd.get hc
    have := h.supporters i x hx
    rw [e]
    exact this.restate (List.forall₂_take i hd)
  loads := by
    obtain ⟨hdeck, htotal⟩ := h.loads
    exact ⟨hdeck, htotal.trans (by rw [hd.map_eq (·.weight) fun _ _ => rfl])⟩
  crush c hc := by
    obtain ⟨i, hi⟩ := List.getElem?_of_mem hc
    obtain ⟨x, hx, e⟩ := hd.get hi
    rw [e]
    exact h.crush x (List.mem_of_getElem? hx)

theorem BuildSound.confirm {b : Build} (h : BuildSound b) (i : Nat) (t : Tracking) : BuildSound (b.confirm i t) := by
  obtain ⟨cs, hcs, e⟩ := confirm_restated b i t
  rw [e]
  exact h.restate hcs

/-! ### Placements that fit (R10) -/

/-- A placement that fits a build fits it with a case confirmed. -/
theorem Fits.confirm {b : Build} {w : Nat} {p : Placement} (h : Fits b w p) (i : Nat) (t : Tracking) :
    Fits (b.confirm i t) w p := by
  obtain ⟨cs, hcs, e⟩ := confirm_restated b i t
  rw [e]
  refine ⟨h.bound, h.supporters.restate hcs, h.top, ?_⟩
  obtain ⟨ha, -⟩ := distribute_alike hcs.alike w b.deckLoad p.best.supporters
  have hcrush : (distribute w p.best.supporters cs b.deckLoad).1.map (·.crush)
      = (distribute w p.best.supporters b.cases b.deckLoad).1.map (·.crush) := by
    rw [map_of_unloaded (·.crush) (fun _ => rfl) (distribute_unloaded w p.best.supporters cs b.deckLoad),
      map_of_unloaded (·.crush) (fun _ => rfl) (distribute_unloaded w p.best.supporters b.cases b.deckLoad),
      hcs.map_eq (·.crush) fun _ _ => rfl]
  intro c hc
  obtain ⟨n, hn⟩ := List.getElem?_of_mem hc
  rcases ha.get (i := n) with ⟨-, hnone⟩ | ⟨x, d, hx, hd, -, hl⟩
  · exact absurd (hnone.symm.trans hn) (by simp)
  obtain rfl : d = c := Option.some.inj (hd.symm.trans hn)
  have hcr : d.crush = x.crush := by
    have := congrArg (fun l => l[n]?) hcrush
    simpa [hx, hd] using this
  rw [← hl, hcr]
  exact h.crush x (List.mem_of_getElem? hx)

/-- The record of a placement that fits, added to a sound build, leaves it sound (R10). -/
theorem BuildSound.add {b : Build} (h : BuildSound b) {c : CaseRec} {p : Placement} (hp : Fits b c.weight p)
    (hs : c.supporters = p.best.supporters) (hd : c.drop = p.drop) (ht : c.top = p.best.top) :
    BuildSound (b.add c) := by
  have hsup : SupportersOk b.cases c.drop c.supporters := hs ▸ hd ▸ hp.supporters
  refine BuildSound.withRevision (b := pushCase b { c with status := .provisional }) ?_ _
  refine h.push hp.bound hsup (ht ▸ hp.top) fun x hx => ?_
  have e := distribute_append (stacked_of_supporters h.supporters)
    ({ c with status := .provisional } : CaseRec).unloaded c.weight b.deckLoad hsup.rank_le
  have hx' : x ∈ (distribute c.weight c.supporters
      (b.cases ++ [({ c with status := .provisional } : CaseRec).unloaded]) b.deckLoad).1 := hx
  rw [e, List.mem_append] at hx'
  rcases hx' with hx' | hx'
  · rw [hs] at hx'
    exact hp.crush x hx'
  · simp only [List.mem_singleton.mp hx', CaseRec.unloaded, Nat.zero_le]

end Sys2Proof.Machine
end

section
/-!
PROOFS. Stage G's shares (R29), and that an evaluation's feasible candidates fit the build they were evaluated on
(R25 to R31).
-/

namespace Sys2Proof.Machine

/-! ### The largest of a list -/

theorem foldl_max_mem (l : List Nat) (a : Nat) : l.foldl max a = a ∨ l.foldl max a ∈ l := by
  induction l generalizing a with
  | nil => exact .inl rfl
  | cons x l ih =>
    rw [List.foldl_cons]
    rcases ih (max a x) with h | h
    · rw [h]
      rcases max_choice a x with e | e <;> simp [e]
    · exact .inr (List.mem_cons_of_mem _ h)

theorem maxHeight_mem {l : List Nat} (h : l ≠ []) : maxHeight l ∈ l := by
  obtain ⟨x, m, rfl⟩ := List.exists_cons_of_ne_nil h
  rcases foldl_max_mem m x with e | e
  · simp [maxHeight, e]
  · simp [maxHeight, e]

theorem le_foldl_max {l : List Nat} {a x : Nat} (h : x = a ∨ x ∈ l) : x ≤ l.foldl max a := by
  induction l generalizing a x with
  | nil =>
    rcases h with rfl | h
    · exact le_rfl
    · simp at h
  | cons y l ih =>
    rcases h with rfl | h
    · exact (le_max_left x y).trans (ih (.inl rfl))
    rcases List.mem_cons.mp h with rfl | h
    · exact (le_max_right a x).trans (ih (.inl rfl))
    · exact ih (.inr h)

theorem le_maxHeight {l : List Nat} {x : Nat} (h : x ∈ l) : x ≤ maxHeight l := le_foldl_max (.inr h)

/-! ### Shares (R29) -/

/-- One entry of a list raised. -/
theorem sum_mapIdx_raise {α : Type} (g : α → Nat) (r k : Nat) (l : List α) :
    (l.mapIdx fun i e => g e + if i == k then r else 0).sum = (l.map g).sum + if k < l.length then r else 0 := by
  induction l generalizing k with
  | nil => rfl
  | cons e l ih =>
    rw [List.mapIdx_cons, List.sum_cons, List.map_cons, List.sum_cons]
    cases k with
    | zero =>
      have : (l.mapIdx fun i e => g e + if i + 1 == 0 then r else 0) = l.map g := by
        refine List.ext_getElem? fun i => ?_
        simp [List.getElem?_mapIdx]
      rw [this]
      simp only [beq_self_eq_true, if_true, List.length_cons, Nat.zero_lt_succ]
      omega
    | succ k =>
      have h := ih k
      simp only [beq_iff_eq] at h
      simp only [beq_iff_eq, Nat.add_right_cancel_iff, h, List.length_cons, Nat.add_lt_add_iff_right]
      simp only [(Nat.succ_ne_zero k).symm, if_false]
      omega

theorem countP_mapIdx_at {α β : Type} (q : β → Bool) (k : Nat) (l : List α) (f : Nat → α → β)
    (h : ∀ i e, q (f i e) = (i == k)) : (l.mapIdx f).countP q = if k < l.length then 1 else 0 := by
  induction l generalizing k f with
  | nil => rfl
  | cons e l ih =>
    rw [List.mapIdx_cons, List.countP_cons, h]
    cases k with
    | zero =>
      have : (l.mapIdx fun i => f (i + 1)).countP q = 0 := by
        rw [List.countP_eq_zero]
        intro b hb
        obtain ⟨i, hi, rfl⟩ := List.mem_mapIdx.mp hb
        simp [h]
      simp [this]
    | succ k =>
      rw [ih k (fun i => f (i + 1)) fun i e => by rw [h]; simp]
      simp

/-- The principal of a list of supporters stands in it, with the largest count. -/
theorem principalAt_lt {l : List (Owner × Nat)} (hl : l ≠ []) : principalAt l < l.length := by
  have hm : maxHeight (l.map (·.2)) ∈ l.map (·.2) := maxHeight_mem (by simpa using hl)
  obtain ⟨e, he, h⟩ := List.mem_map.mp hm
  exact List.findIdx_lt_length_of_exists ⟨e, he, by simp [h]⟩

theorem share_floors_le {l : List (Owner × Nat)} {n : Nat} (hn : (l.map (·.2)).sum = n) (h0 : 0 < n) :
    (l.map fun e => 256 * e.2 / n).sum ≤ 256 := by
  have h : ∀ m : List (Owner × Nat), (m.map fun e => 256 * e.2 / n).sum * n ≤ 256 * (m.map (·.2)).sum := by
    intro m
    induction m with
    | nil => simp
    | cons e m ih =>
      rw [List.map_cons, List.sum_cons, List.map_cons, List.sum_cons, add_mul, mul_add]
      exact Nat.add_le_add (Nat.div_mul_le_self _ _) ih
  exact Nat.le_of_mul_le_mul_right (hn ▸ h l) h0

theorem sum_sharesAll {l : List (Owner × Nat)} {n : Nat} (hl : l ≠ []) (hn : (l.map (·.2)).sum = n) (h0 : 0 < n) :
    ((sharesAll l n).map (·.share)).sum = 256 := by
  have h := share_floors_le hn h0
  have e : (sharesAll l n).map (·.share) = l.mapIdx fun i e =>
      256 * e.2 / n + if i == principalAt l then 256 - (l.map fun e => 256 * e.2 / n).sum else 0 := by
    refine List.ext_getElem? fun i => ?_
    simp [sharesAll, List.getElem?_mapIdx, Function.comp_def]
  rw [e, sum_mapIdx_raise, if_pos (principalAt_lt hl)]
  omega

theorem principals_sharesAll {l : List (Owner × Nat)} (n : Nat) (hl : l ≠ []) :
    (sharesAll l n).countP (·.principal) = 1 := by
  rw [sharesAll, countP_mapIdx_at _ (principalAt l) l _ fun _ _ => rfl, if_pos (principalAt_lt hl)]

/-- The entries that are not stored have no share and are not the principal (R29). -/
theorem sum_storedShares (l : List (Owner × Nat)) (n : Nat) :
    ((storedShares l n).map (·.share)).sum = ((sharesAll l n).map (·.share)).sum := by
  unfold storedShares
  induction sharesAll l n with
  | nil => rfl
  | cons j m ih =>
    rw [List.filter_cons]
    split_ifs with h
    · rw [List.map_cons, List.sum_cons, ih, List.map_cons, List.sum_cons]
    · have : j.share = 0 := by
        by_contra hj
        simp [hj] at h
      rw [ih, List.map_cons, List.sum_cons, this, zero_add]

theorem principals_storedShares (l : List (Owner × Nat)) (n : Nat) :
    (storedShares l n).countP (·.principal) = (sharesAll l n).countP (·.principal) := by
  rw [storedShares, List.countP_filter]
  congr 1
  funext j
  cases j.principal <;> simp

/-- Where the principal's floor is 0 every floor is, and the remainder is the whole (R29). -/
theorem one_le_stored {l : List (Owner × Nat)} {n : Nat} (j : Supporter) (hj : j ∈ storedShares l n) : 1 ≤ j.share := by
  obtain ⟨hmem, hkeep⟩ := List.mem_filter.mp hj
  by_contra h0
  have hshare : j.share = 0 := by omega
  rw [hshare] at hkeep
  obtain ⟨i, hi, e⟩ := List.mem_mapIdx.mp hmem
  have hprin : (i == principalAt l) = true := by
    rw [← e] at hkeep
    simpa using hkeep
  have hat : i = principalAt l := by simpa using hprin
  have hmax : l[i].2 = maxHeight (l.map (·.2)) := by
    have h := List.findIdx_getElem (xs := l) (p := fun e => e.2 == maxHeight (l.map (·.2)))
      (w := by rw [← show principalAt l = l.findIdx _ from rfl, ← hat]; exact hi)
    have h' : l[principalAt l]'(hat ▸ hi) = l[i] := by simp [hat]
    rw [← h']
    exact eq_of_beq h
  rw [← e] at hshare
  simp only [hprin, if_true, Nat.add_eq_zero_iff] at hshare
  obtain ⟨hfloor, hrest⟩ := hshare
  have hzero : ∀ x ∈ l.map fun e => 256 * e.2 / n, x = 0 := by
    intro x hx
    obtain ⟨y, hy, rfl⟩ := List.mem_map.mp hx
    have : y.2 ≤ l[i].2 := hmax ▸ le_maxHeight (List.mem_map_of_mem hy)
    have := Nat.div_le_div_right (c := n) (Nat.mul_le_mul_left 256 this)
    exact Nat.le_zero.mp (hfloor ▸ this)
  rw [List.sum_eq_zero hzero] at hrest
  exact absurd hrest (by decide)

theorem owners_sharesAll (l : List (Owner × Nat)) (n : Nat) : (sharesAll l n).map (·.owner) = l.map (·.1) := by
  refine List.ext_getElem? fun i => ?_
  simp [sharesAll, List.getElem?_mapIdx, Function.comp_def]

/-! ### The supporters of a candidate (R27) -/

theorem tallyOne_owners {l : List (Owner × Nat)} {o : Owner} :
    (tallyOne l o).map (·.1) = if l.any fun e => e.1 == o then l.map (·.1) else l.map (·.1) ++ [o] := by
  unfold tallyOne
  split_ifs with h
  · rw [List.map_map]
    refine List.map_congr_left fun e _ => ?_
    simp only [Function.comp_apply]
    split_ifs <;> rfl
  · simp

theorem tallyOne_sum {l : List (Owner × Nat)} (h : (l.map (·.1)).Nodup) (o : Owner) :
    ((tallyOne l o).map (·.2)).sum = (l.map (·.2)).sum + 1 := by
  unfold tallyOne
  split_ifs with ho
  · induction l with
    | nil => simp at ho
    | cons e l ih =>
      obtain ⟨hnot, hn⟩ := List.nodup_cons.mp h
      by_cases he : e.1 = o
      · have : (l.map fun x => if x.1 = o then (x.1, x.2 + 1) else x) = l := by
          refine (List.map_congr_left fun x hx => ?_).trans (List.map_id l)
          have : x.1 ≠ o := fun hx' => hnot (List.mem_map.mpr ⟨x, hx, hx'.trans he.symm⟩)
          simp [this]
        simp only [List.map_cons, he, if_true, this, List.sum_cons]
        omega
      · have ho' : (l.any fun x => x.1 == o) = true := by simpa [he] using ho
        have := ih hn ho'
        simp only [List.map_cons, if_neg he, List.sum_cons, this]
        omega
  · simp

/-- The tally of the owners of cells: each owner once, every cell counted, and no owner but theirs. -/
theorem tally_ok (os : List Owner) :
    ((tally os).map (·.1)).Nodup ∧ ((tally os).map (·.2)).sum = os.length ∧ ∀ e ∈ tally os, e.1 ∈ os := by
  suffices ∀ (l : List (Owner × Nat)), (l.map (·.1)).Nodup →
      ((os.foldl tallyOne l).map (·.1)).Nodup
        ∧ ((os.foldl tallyOne l).map (·.2)).sum = (l.map (·.2)).sum + os.length
        ∧ ∀ x ∈ (os.foldl tallyOne l).map (·.1), x ∈ l.map (·.1) ∨ x ∈ os by
    obtain ⟨h1, h2, h3⟩ := this [] List.nodup_nil
    refine ⟨h1, by simpa [tally] using h2, fun e he => ?_⟩
    simpa using h3 e.1 (List.mem_map_of_mem he)
  induction os with
  | nil => exact fun l h => ⟨h, rfl, fun x hx => .inl hx⟩
  | cons o os ih =>
    intro l h
    have hn : ((tallyOne l o).map (·.1)).Nodup := by
      rw [tallyOne_owners]
      split_ifs with ho
      · exact h
      · refine List.nodup_append.mpr ⟨h, List.nodup_singleton o, fun x hx y hy => ?_⟩
        rw [List.mem_singleton.mp hy]
        rintro rfl
        obtain ⟨e, he, rfl⟩ := List.mem_map.mp hx
        exact ho (List.any_eq_true.mpr ⟨e, he, by simp⟩)
    obtain ⟨h1, h2, h3⟩ := ih _ hn
    refine ⟨h1, ?_, fun x hx => ?_⟩
    · rw [List.foldl_cons, h2, tallyOne_sum h, List.length_cons]
      omega
    · rcases h3 x hx with hx | hx
      · rw [tallyOne_owners] at hx
        split_ifs at hx
        · exact .inl hx
        · rcases List.mem_append.mp hx with hx | hx
          · exact .inl hx
          · exact .inr (by simp [List.mem_singleton.mp hx])
      · exact .inr (List.mem_cons_of_mem _ hx)

/-- What stage F has let pass (R28). -/
theorem compat_none {inp : EvalInput} {l : List (Owner × Nat)} (h : compat inp l = none) {m n : Nat}
    (hm : (Owner.case m, n) ∈ l) {y : CaseRec} (hy : inp.build.cases[m]? = some y) :
    inp.drop ≤ y.drop ∧ y.topOnly = false := by
  induction l with
  | nil => simp at hm
  | cons e l ih =>
    obtain ⟨o, k⟩ := e
    cases o with
    | deck =>
      refine ih h ?_
      simpa using hm
    | case i =>
      rcases hi : inp.build.cases[i]? with - | c
      · simp only [compat, hi] at h
        rcases List.mem_cons.mp hm with e | hm
        · obtain ⟨rfl, -⟩ : m = i ∧ n = k := by simpa using e
          simp [hi] at hy
        · exact ih h hm
      · simp only [compat, hi] at h
        rcases hc : compatCase inp c with - | r
        · rw [hc] at h
          rcases List.mem_cons.mp hm with e | hm
          · obtain ⟨rfl, -⟩ : m = i ∧ n = k := by simpa using e
            obtain rfl : c = y := Option.some.inj (hi.symm.trans hy)
            unfold compatCase at hc
            split_ifs at hc with h1 h2 h3
            exact ⟨by omega, by simpa using h1⟩
          · exact ih h hm
        · simp [hc] at h

/-! ### A feasible candidate fits (R25 to R31) -/

/-- The highest cell of a footprint is a support cell (R26). -/
theorem supportCells_ne_nil (bd : Build) {cells : List Nat} (hc : cells ≠ []) (tol : Nat) :
    supportCells bd cells (restOf bd cells) tol ≠ [] := by
  have hm := maxHeight_mem (l := cells.map fun i => bd.heightMap.getD i 0) (by simpa using hc)
  obtain ⟨i, hi, e⟩ := List.mem_map.mp hm
  have : i ∈ supportCells bd cells (restOf bd cells) tol := by
    refine List.mem_filter.mpr ⟨hi, ?_⟩
    rw [e]
    simp [restOf]
  exact List.ne_nil_of_mem this

theorem footprint_ne_nil (cols : Nat) {c : Candidate} (ha : 1 ≤ c.a) (hb : 1 ≤ c.b) : footprint cols c ≠ [] := by
  have : (c.y + 0) * cols + (c.x + 0) ∈ footprint cols c := by
    refine List.mem_flatMap.mpr ⟨0, List.mem_range.mpr hb, List.mem_map.mpr ⟨0, List.mem_range.mpr ha, rfl⟩⟩
  exact List.ne_nil_of_mem this

/-- The supporters that stages D to G give a candidate, once stage F has let them pass, are as R6 says. -/
theorem supportersOk_of_stages {inp : EvalInput} (hb : BuildSound inp.build) {cells : List Nat} (hne : cells ≠ [])
    (hlen : (tally (cells.map fun i => inp.build.ownerMap.getD i .deck)).length ≤ 8)
    (hcompat : compat inp (tally (cells.map fun i => inp.build.ownerMap.getD i .deck)) = none) :
    SupportersOk inp.build.cases inp.drop
      (storedShares (tally (cells.map fun i => inp.build.ownerMap.getD i .deck)) cells.length) := by
  obtain ⟨hnodup, hsum, hfrom⟩ := tally_ok (cells.map fun i => inp.build.ownerMap.getD i .deck)
  rw [List.length_map] at hsum
  have hpos : 0 < cells.length := List.length_pos_iff.mpr hne
  generalize htal : tally (cells.map fun i => inp.build.ownerMap.getD i .deck) = owners at *
  have hown : owners ≠ [] := by
    rintro rfl
    simp at hsum
    omega
  have hsub : (storedShares owners cells.length).Sublist (sharesAll owners cells.length) := List.filter_sublist
  refine ⟨?_, ?_, one_le_stored, ?_, ?_, ?_⟩
  · have := hsub.length_le
    rw [sharesAll, List.length_mapIdx] at this
    omega
  · refine List.Nodup.sublist (hsub.map _) ?_
    rw [owners_sharesAll]
    exact hnodup
  · rw [sum_storedShares, sum_sharesAll hown hsum hpos]
  · rw [principals_storedShares, principals_sharesAll _ hown]
  · intro j hj m hm
    have : j.owner ∈ owners.map (·.1) := by
      rw [← owners_sharesAll owners cells.length]
      exact List.mem_map_of_mem (hsub.subset hj)
    obtain ⟨⟨o, n⟩, he, eo⟩ := List.mem_map.mp this
    obtain rfl : o = .case m := eo.trans hm
    obtain ⟨i, -, ei⟩ := List.mem_map.mp (hfrom _ he)
    have hmap : inp.build.ownerMap[i]? = some (.case m) := by
      rcases ho : inp.build.ownerMap[i]? with - | o
      · simp [List.getD_eq_getElem?_getD, ho] at ei
      · simpa [List.getD_eq_getElem?_getD, ho] using ei
    obtain ⟨h, hh, -⟩ := hb.heights i _ hmap
    obtain ⟨y, hy, -⟩ := Option.map_eq_some_iff.mp hh
    obtain ⟨hdrop, htop⟩ := compat_none hcompat he hy
    exact ⟨y, hy, hdrop, htop⟩

/-- A placement on a feasible candidate fits the build it was evaluated on. -/
theorem fits_of_feasible {inp : EvalInput} (hb : BuildSound inp.build) (hbound : inp.build.binding ≠ none)
    {c : Candidate} (ha : 1 ≤ c.a) (hc : 1 ≤ c.b) {b : Best} (h : judge inp c = .feasible b) {p : Placement}
    (hp : p.best = b) (hd : p.drop = inp.drop) : Fits inp.build inp.weight p := by
  unfold judge at h
  dsimp only at h
  split at h
  · cases h
  rename_i htop
  split at h
  · cases h
  split at h
  · cases h
  split at h
  · cases h
  rename_i hspread
  split at h
  · cases h
  rename_i hcompat
  split at h
  · cases h
  rename_i hcrush
  split at h
  · cases h
  split at h
  · cases h
  injection h with h
  subst h
  have hne := supportCells_ne_nil inp.build (footprint_ne_nil inp.build.cols ha hc) inp.levelTol
  refine ⟨hbound, ?_, ?_, ?_⟩
  · rw [hp, hd]
    exact supportersOk_of_stages hb hne (Nat.not_lt.mp hspread) hcompat
  · rw [hp]
    exact Nat.not_lt.mp htop
  · intro x hx
    rw [hp] at hx
    have := List.findIdx?_eq_none_iff.mp hcrush x hx
    simpa using this

/-- The footprint of a measured article has cells (R21 to R24). -/
theorem candidate_size {art : Article} (hl : 1 ≤ art.length) (hw : 1 ≤ art.width) {bd : Build} {c : Candidate}
    (h : c ∈ candidates art bd) : 1 ≤ c.a ∧ 1 ≤ c.b := by
  have hcells : ∀ n, 1 ≤ n → 1 ≤ cellsOf n := fun n hn => by
    unfold cellsOf
    omega
  have hanchor : ∀ {cols rows a b t}, 1 ≤ a → 1 ≤ b → ∀ x ∈ anchors cols rows a b t, 1 ≤ x.2.2.2.1 ∧ 1 ≤ x.2.2.2.2 := by
    intro cols rows a b t ha hb x hx
    unfold anchors at hx
    split_ifs at hx
    · obtain ⟨y, -, hx⟩ := List.mem_flatMap.mp hx
      obtain ⟨z, -, rfl⟩ := List.mem_map.mp hx
      exact ⟨ha, hb⟩
    · simp at hx
  by_cases hcap : Config.buildCapacity ≤ bd.cases.length
  · rw [candidates, if_pos hcap] at h
    simp at h
  rw [candidates, if_neg hcap] at h
  have size : ∀ x ∈ anchors bd.cols bd.rows (cellsOf art.length) (cellsOf art.width) false
      ++ (if art.rotateOk && cellsOf art.length != cellsOf art.width
          then anchors bd.cols bd.rows (cellsOf art.width) (cellsOf art.length) true else []),
      1 ≤ x.2.2.2.1 ∧ 1 ≤ x.2.2.2.2 := by
    intro x hx
    rcases List.mem_append.mp hx with hx | hx
    · exact hanchor (hcells _ hl) (hcells _ hw) _ hx
    · split_ifs at hx
      · exact hanchor (hcells _ hw) (hcells _ hl) _ hx
      · simp at hx
  obtain ⟨i, hi, rfl⟩ := List.mem_mapIdx.mp h
  exact size _ (List.getElem_mem hi)

/-- The best candidate is one of the feasible ones (R35). -/
theorem best_feasible {vs : List Verdict} {acc : Option Best} {b : Best} (h : vs.foldl better acc = some b) :
    acc = some b ∨ .feasible b ∈ vs := by
  induction vs generalizing acc with
  | nil => exact .inl h
  | cons v vs ih =>
    rcases ih h with e | e
    · cases v with
      | failed r k => exact .inl e
      | feasible x =>
        cases acc with
        | none => exact .inr (by simp [Option.some.inj e])
        | some q =>
          simp only [better] at e
          split_ifs at e
          · exact .inr (by simp [Option.some.inj e])
          · exact .inl e
    · exact .inr (List.mem_cons_of_mem _ e)

/-- The placement that an evaluation gives fits its build. -/
theorem fits_of_evaluate {inp : EvalInput} (hb : BuildSound inp.build) (hbound : inp.build.binding ≠ none)
    (hl : 1 ≤ inp.article.length) (hw : 1 ≤ inp.article.width) {i : StationNo} {line : Option Nat} {p : Placement}
    (h : (evaluate inp i line).placement = some p) : p.station = i ∧ Fits inp.build inp.weight p := by
  unfold EvalResult.placement at h
  split at h
  · rename_i j b hj hbest
    obtain rfl := Option.some.inj h
    refine ⟨rfl, ?_⟩
    rcases best_feasible (acc := none) hbest with e | e
    · simp at e
    · obtain ⟨c, hc, e⟩ := List.mem_map.mp e
      obtain ⟨ha, hb'⟩ := candidate_size hl hw hc
      exact fits_of_feasible hb hbound ha hb' e rfl rfl
  · simp at h

theorem mem_tryLines {ev : Nat × PlanLine → EvalResult} {l : List (Nat × PlanLine)} {r : EvalResult}
    (h : r ∈ tryLines ev l) : ∃ x ∈ l, r = ev x := by
  induction l with
  | nil => simp [tryLines] at h
  | cons x l ih =>
    unfold tryLines at h
    split_ifs at h
    · exact ⟨x, List.mem_cons_self, List.mem_singleton.mp h⟩
    · rcases List.mem_cons.mp h with rfl | h
      · exact ⟨x, List.mem_cons_self, rfl⟩
      · obtain ⟨y, hy, e⟩ := ih h
        exact ⟨y, List.mem_cons_of_mem _ hy, e⟩

section
variable {s : State} (hs : BuildsSound s) {art : Article} (hl : 1 ≤ art.length) (hw : 1 ≤ art.width) {w : Nat}
include hs hl hw

/-- The placement found among a station's results fits its build. -/
theorem fits_of_station {i : StationNo} {rs : List EvalResult} (h : evalStation s i art w = some rs) {p : Placement}
    (hp : placementIn rs = some p) : p.station = i ∧ Fits s.builds[i] w p := by
  unfold evalStation at h
  split at h
  · rename_i pl e hpl he
    obtain rfl := Option.some.inj h
    obtain ⟨r, hr, hrp⟩ := List.exists_of_findSome?_eq_some hp
    obtain ⟨x, -, rfl⟩ := mem_tryLines hr
    refine fits_of_evaluate (inp := evalInput s i e art w x.2.drop) (hs i) ?_ hl hw hrp
    obtain ⟨g, hg, -⟩ := Option.bind_eq_some_iff.mp he
    exact fun hn => Option.some_ne_none g (hg.symm.trans hn)
  · simp at h

theorem fits_of_chooseFrom {is : List StationNo} {p : Placement} (h : (chooseFrom s art w is).1 = some p) :
    Fits s.builds[p.station] w p := by
  induction is with
  | nil => simp [chooseFrom] at h
  | cons i is ih =>
    unfold chooseFrom at h
    split at h
    · exact ih h
    · rename_i rs hrs
      split at h
      · rename_i q hq
        obtain rfl := Option.some.inj h
        obtain ⟨e, hf⟩ := fits_of_station hs hl hw hrs hq
        exact e ▸ hf
      · exact ih h

/-- The placement of an arrival's run fits (R100). -/
theorem fits_of_decideArrival {t : Tracking} {p : Placement} (h : (decideArrival s t art w).1 = .place p) :
    Fits s.builds[p.station] w p := by
  unfold decideArrival at h
  dsimp only at h
  split at h
  · rename_i q hq
    injection h with h
    exact h ▸ fits_of_chooseFrom hs hl hw hq
  · unfold holdOrPass at h
    split_ifs at h
    split at h <;> simp at h

/-- The placement of a replan's run fits (R106). -/
theorem fits_of_decideReplan {i : StationNo} {p : Placement} (h : decideReplan s i art w = some p) :
    Fits s.builds[p.station] w p := by
  obtain ⟨rs, hrs, hp⟩ := Option.bind_eq_some_iff.mp h
  obtain ⟨e, hf⟩ := fits_of_station hs hl hw hrs hp
  exact e ▸ hf
end

end Sys2Proof.Machine
end

section
/-!
PROOFS. What a step is made of.  A relation between states that every operation of the blocks meets, and that changes of
the ports, the requests and the reports do not touch, holds from the state before a step to the state after it.
-/

namespace Sys2Proof.Machine

/-! ### Changes that touch no case, plan, build, station or lane -/

/-- t differs from s outside the articles, the kind matrix, the plans, the cases, the engine's queues and job, the builds,
the stations and the lanes, and no load is open in t that was not open in s. -/
structure Quiet (s t : State) : Prop where
  articles : t.tables.articles = s.tables.articles
  kinds    : t.tables.kinds = s.tables.kinds
  plans    : t.plans.plans = s.plans.plans
  tracker  : t.tracker = s.tracker
  replans  : t.engine.replans = s.engine.replans
  waiting  : t.engine.waiting = s.engine.waiting
  job      : t.engine.job = s.engine.job
  builds   : t.builds = s.builds
  stations : t.stations = s.stations
  lanes    : t.lanes = s.lanes
  loads    : ∀ e gap, t.req.exec = some e → e.phase = .loading gap →
               ∃ x g, s.req.exec = some x ∧ x.kind = e.kind ∧ x.phase = .loading g

namespace Quiet

/-- The request in execution is the same. -/
theorem sameExec {s t : State} (h : t.req.exec = s.req.exec) :
    ∀ e gap, t.req.exec = some e → e.phase = .loading gap →
      ∃ x g, s.req.exec = some x ∧ x.kind = e.kind ∧ x.phase = .loading g :=
  fun e gap he hp => ⟨e, gap, h ▸ he, rfl, hp⟩

theorem refl (s : State) : Quiet s s := ⟨rfl, rfl, rfl, rfl, rfl, rfl, rfl, rfl, rfl, rfl, sameExec rfl⟩

theorem trans {s t u : State} (h : Quiet s t) (k : Quiet t u) : Quiet s u where
  articles := k.articles.trans h.articles
  kinds := k.kinds.trans h.kinds
  plans := k.plans.trans h.plans
  tracker := k.tracker.trans h.tracker
  replans := k.replans.trans h.replans
  waiting := k.waiting.trans h.waiting
  job := k.job.trans h.job
  builds := k.builds.trans h.builds
  stations := k.stations.trans h.stations
  lanes := k.lanes.trans h.lanes
  loads e gap he hp := by
    obtain ⟨x, g, hx, hk, hg⟩ := k.loads e gap he hp
    obtain ⟨y, g', hy, hk', hg'⟩ := h.loads x g hx hg
    exact ⟨y, g', hy, hk'.trans hk, hg'⟩

/-- A change of the link, of the request unit but for its request in execution, of the reports, the flags, the gate, the
probe slot, the base entries, the admission and its counter. -/
theorem of_sides {s t : State} (ha : t.tables.articles = s.tables.articles) (hk : t.tables.kinds = s.tables.kinds)
    (hp : t.plans.plans = s.plans.plans) (hc : t.tracker = s.tracker) (hr : t.engine.replans = s.engine.replans)
    (hw : t.engine.waiting = s.engine.waiting) (hj : t.engine.job = s.engine.job) (hb : t.builds = s.builds)
    (hs : t.stations = s.stations) (hl : t.lanes = s.lanes) (he : t.req.exec = s.req.exec) : Quiet s t :=
  ⟨ha, hk, hp, hc, hr, hw, hj, hb, hs, hl, sameExec he⟩

theorem settle (s : State) : Quiet s (settle s) := by
  have h := settle_services s
  exact ⟨by rw [h.tables], by rw [h.tables], by rw [h.plans], h.tracker, by rw [h.engine], by rw [h.engine],
    by rw [h.engine], h.builds, h.stations, h.lanes, fun e gap he hp => ⟨e, gap, settle_loading he hp, rfl, hp⟩⟩

theorem setSup (s : State) (x : SupTimer) : Quiet s (s.setSup x) :=
  of_sides rfl rfl rfl rfl rfl rfl rfl rfl rfl rfl rfl

theorem supervise (src : Byte) (s : State) : Quiet s (supervise src s) := by
  rw [supervise_eq]
  exact setSup s _

theorem superviseSettings (n : Nat) (src : Byte) (s : State) : Quiet s (superviseSettings n src s) := by
  unfold Machine.superviseSettings
  split_ifs
  · exact setSup s _
  · exact setSup s _
  · exact refl s

theorem report (b : ReportBody) (s : State) : Quiet s (report b s) := by
  unfold Machine.report
  split_ifs
  · exact refl s
  · exact of_sides rfl rfl rfl rfl rfl rfl rfl rfl rfl rfl rfl

theorem placeResponse (f : OwnFrame) (s : State) : Quiet s (placeResponse f s) := by
  unfold Machine.placeResponse
  split_ifs <;> exact of_sides rfl rfl rfl rfl rfl rfl rfl rfl rfl rfl rfl

theorem answer (f : RxFrame) (r : Response) (s : State) : Quiet s (answer f r s) := by
  unfold Machine.answer
  split_ifs
  · exact refl s
  · exact placeResponse _ s

theorem answerDone (k : Byte) (f : RxFrame) (r : ResultFields) (s : State) : Quiet s (answerDone k f r s) := answer f _ s

theorem refuse (k : Byte) (r : Reason) (i : Nat) (f : RxFrame) (s : State) : Quiet s (refuse k r i f s) := answer f _ s

theorem answerStation (k : Byte) (f : RxFrame) (i : StationNo) (s : State) : Quiet s (answerStation k f i s) :=
  answerDone k f _ s

theorem forward (k : Byte) (f : RxFrame) (s : State) : Quiet s (forward k f s) := by
  unfold Machine.forward
  split
  all_goals
    split_ifs
    · exact of_sides rfl rfl rfl rfl rfl rfl rfl rfl rfl rfl rfl
    · exact refl s

/-- The request in execution replaced by one that is no open load. -/
theorem setExec (s : State) {e : Exec} (h : ∀ gap, e.phase ≠ .loading gap) :
    Quiet s { s with req := { s.req with exec := some e } } := by
  refine ⟨rfl, rfl, rfl, rfl, rfl, rfl, rfl, rfl, rfl, rfl, fun x gap hx hp => ?_⟩
  obtain rfl := Option.some.inj hx
  exact absurd hp (h gap)

theorem beginReply (k : Byte) (f : RxFrame) (items : List Item) (r : ResultFields) (w : List StationNo) (s : State) :
    Quiet s (beginReply k f items r w s) := setExec s (by simp)

theorem finishLoad (e : Exec) (c : Completion) (r : Reason) (i : Nat) (res : ResultFields) (s : State) :
    Quiet s (finishLoad e c r i res s) :=
  (setExec s (e := { e with phase := .ending }) (by simp)).trans (placeResponse _ _)

theorem endLoad (e : Exec) (r : Reason) (i : Nat) (s : State) : Quiet s (endLoad e r i s) := by
  unfold Machine.endLoad
  refine trans ?_ (finishLoad e _ r i _ _)
  split_ifs
  · exact of_sides rfl rfl rfl rfl rfl rfl rfl rfl rfl rfl rfl
  · exact refl s

theorem withPending (s : State) (q : List Instr) : Quiet s (s.withPending q) :=
  of_sides rfl rfl rfl rfl rfl rfl rfl rfl rfl rfl rfl

theorem takeProbe (s : State) : Quiet s (takeProbe s) := by
  unfold Machine.takeProbe
  split
  · exact refl s
  · split_ifs
    · refine ⟨rfl, rfl, rfl, rfl, rfl, rfl, rfl, rfl, rfl, rfl, fun e gap he hp => ?_⟩
      obtain ⟨x, -, rfl⟩ := Option.map_eq_some_iff.mp he
      cases hp
    · exact refl s

theorem frameSent (p : Port) (s : State) : Quiet s (frameSent p s) := by
  cases p with
  | a =>
    show Quiet s (frameSentA s)
    unfold frameSentA
    split
    · exact refl s
    · rename_i tx _
      cases tx with
      | forward bytes => exact of_sides rfl rfl rfl rfl rfl rfl rfl rfl rfl rfl rfl
      | own f =>
        dsimp only
        split_ifs
        · exact ⟨rfl, rfl, rfl, rfl, rfl, rfl, rfl, rfl, rfl, rfl, fun e gap he _ => by cases he⟩
        · exact of_sides rfl rfl rfl rfl rfl rfl rfl rfl rfl rfl rfl
  | b => exact of_sides rfl rfl rfl rfl rfl rfl rfl rfl rfl rfl rfl

theorem supervisionExpires (s : State) : Quiet s (supervisionExpires s) := by
  unfold Machine.supervisionExpires
  split
  · split_ifs
    · dsimp only
      refine (report (.supervision s.req.settings.supAction s.req.settings.supInterval s.link.time) s).trans ?_
      split
      · exact setSup _ _
      · exact of_sides rfl rfl rfl rfl rfl rfl rfl rfl rfl rfl rfl
    · exact refl s
  · exact refl s
  · exact refl s

end Quiet

/-! ### The operations of a step -/

/-- What a RESTART does to the blocks, after its response and STARTED (R162). -/
def restartBlocks (s : State) : State :=
  bindingAttempt (armSupervision (restartLanes (restartTracking (allStations.foldl restartStation s))))

/-- A relation that quiet changes do not touch and that every other operation of the blocks meets. -/
structure Upholds (R : State → State → Prop) : Prop where
  quiet           : ∀ {s t}, Quiet s t → R s t
  before          : ∀ {s t u}, Quiet s t → R t u → R s u
  behind          : ∀ {s t u}, R s t → Quiet t u → R s u
  powerOn         : ∀ s node, R s (State.powerOn node)
  moveTime        : ∀ s t, R s (s.moveTime t)
  deleteArticle   : ∀ (s : State) p, R s { s with tables := { s.tables with articles := s.tables.articles.filter p } }
  loadKinds       : ∀ (s : State) (l : List Bool), l.length = 64 → R s { s with tables := { s.tables with kinds := l } }
  openArticles    : ∀ s f n, R s (openLoad 0x14 f n s)
  openPlan        : ∀ (s : State) f n, s.plans.plans.length < Config.planCapacity → R s (openLoad 0x19 f n s)
  takeData        : ∀ (s : State) e gap p, s.req.exec = some e → e.phase = .loading gap → R s (takeData e p s)
  dropPlan        : ∀ s id, R s (s.dropPlan id)
  setKind         : ∀ (s : State) i kind, R s (s.onStation i fun st => { st with baseKind := kind })
  bringOnline     : ∀ s i kind, R s (bringOnline i kind s)
  takeOffline     : ∀ s i, R s (s.enterState i .offline)
  closeStation    : ∀ s i, R s (enterClosing i .request (closePart i s))
  recallExchange  : ∀ s i, R s (recallExchange i s)
  keepBuild       : ∀ s i d, R s (keepBuild i d s)
  discardBuild    : ∀ s i d, R s (discardBuild i d s)
  flush           : ∀ s k, R s (flush k s)
  restart         : ∀ s, R s (restartBlocks s)
  queueArrival    : ∀ (s : State) a, s.tracker.arrivals.length < Config.arrivalCapacity →
                      R s { s with tracker := { s.tracker with arrivals := s.tracker.arrivals ++ [a] } }
  orderReply      : ∀ s i q out, R s (orderReply i q out s)
  readyRises      : ∀ s i, R s (readyRises i s)
  readyFalls      : ∀ s i, R s (readyFalls i s)
  exchangeStarts  : ∀ s i, R s (exchangeStarts i s)
  exchangeEnds    : ∀ s i, R s (exchangeEnds i s)
  laneEntered     : ∀ s k t, R s (laneEntered k t s)
  laneReleased    : ∀ s k t, R s (laneReleased k t s)
  laneFlushed     : ∀ s k, R s (laneFlushed k s)
  stationFault    : ∀ s i c, R s (stationFault i c s)
  faultExchange   : ∀ s i, R s (faultExchange i s)
  releaseTimer    : ∀ s k, R s (releaseTimer k s)
  deadlinePasses  : ∀ s t, R s (deadlinePasses t s)
  takeArrival     : ∀ s, R s (takeArrival s)
  takeReplan      : ∀ s, R s (takeReplan s)
  takeLane        : ∀ s, R s (takeLane s)
  commitAttempt   : ∀ s, R s (commitAttempt s)

namespace Upholds

variable {R : State → State → Prop} (h : Upholds R)
include h

theorem refl (s : State) : R s s := h.quiet (.refl s)

/-! ### Requests -/

/-- A request is discarded, refused or taken, behind the feeding of the supervision timer (R152, R170). -/
theorem request {k : Byte} {n : Nat} {bad : List Byte → Option Nat} {act : RxFrame → State → State} (f : RxFrame)
    (ha : ∀ s, R s (act f s)) (s : State) : R s (request k n bad act f s) := by
  refine h.before (.supervise f.src s) ?_
  unfold Machine.request
  dsimp only
  split_ifs
  · exact h.refl _
  · unfold takeRequest
    split_ifs
    · exact h.refl _
    · split
      · exact h.quiet (.refuse ..)
      · exact ha _

theorem handleSetTime (f : RxFrame) (s : State) : R s (handleSetTime f s) := by
  refine h.behind ?_ (.supervise f.src _)
  unfold takeRequest
  split_ifs
  · exact h.refl s
  · split
    · exact h.quiet (.refuse ..)
    · exact h.behind (h.moveTime s _) (.answerDone ..)

theorem handleSetSettings (f : RxFrame) (s : State) : R s (handleSetSettings f s) := by
  unfold Machine.handleSetSettings
  split_ifs
  · have stored : Quiet s (storeSettings f s) := by
      unfold storeSettings
      exact .of_sides rfl rfl rfl rfl rfl rfl rfl rfl rfl rfl rfl
    have moved := stored.trans (.superviseSettings s.req.settings.controlNode f.src _)
    exact h.quiet (moved.trans (.answerDone ..))
  · exact h.request f (fun s => h.refl s) s

theorem deleteArticleRequest (f : RxFrame) (s : State) : R s (Machine.deleteArticle f s) := by
  unfold Machine.deleteArticle
  dsimp only
  split_ifs
  · exact h.behind (h.deleteArticle s _) (.answerDone ..)
  · exact h.quiet (.refuse ..)

theorem loadBase (f : RxFrame) (s : State) : R s (loadBase f s) := by
  unfold Machine.loadBase
  dsimp only
  by_cases hb : (s.stations.toList.any fun st => st.baseKind == Fin.ofNat 4 (u8At f.payload 0)
      && blocksBase (u8At f.payload 1 == 1) st.state) = true
  · rw [if_pos hb]
    exact h.quiet (.refuse ..)
  · rw [if_neg hb]
    refine h.behind (h.quiet ?_) (.answerDone ..)
    exact .of_sides rfl rfl rfl rfl rfl rfl rfl rfl rfl rfl rfl

theorem loadKindsRequest (f : RxFrame) (s : State) : R s (Machine.loadKinds f s) :=
  h.behind (h.loadKinds s _ (by simp)) (.answerDone ..)

theorem loadLevels (f : RxFrame) (s : State) : R s (loadLevels f s) := by
  unfold Machine.loadLevels
  dsimp only
  refine h.behind (h.quiet ?_) (.answerDone ..)
  exact .of_sides rfl rfl rfl rfl rfl rfl rfl rfl rfl rfl rfl

theorem withdrawPlan (f : RxFrame) (s : State) : R s (withdrawPlan f s) := by
  unfold Machine.withdrawPlan
  split
  · exact h.quiet (.refuse ..)
  · split_ifs
    · exact h.behind (h.dropPlan s _) (.answerDone ..)
    · exact h.quiet (.refuse ..)

theorem setStation (f : RxFrame) (s : State) : R s (setStation f s) := by
  unfold Machine.setStation
  dsimp only
  split
  case h_1 =>
    split_ifs
    · exact h.behind (h.bringOnline ..) (.answerStation ..)
    · exact h.quiet (.refuse ..)
    · exact h.behind (h.setKind ..) (.answerStation ..)
  case h_2 =>
    split_ifs
    · exact h.quiet (.answerStation ..)
    · exact h.quiet (.refuse ..)
    · exact h.behind (h.takeOffline ..) (.answerStation ..)
  all_goals exact h.quiet (.refuse ..)

theorem closeStationRequest (f : RxFrame) (s : State) : R s (Machine.closeStation f s) := by
  unfold Machine.closeStation
  dsimp only
  split_ifs
  · exact h.behind (h.closeStation ..) (.answerDone ..)
  · exact h.quiet (.refuse ..)

theorem acknowledgeFault (f : RxFrame) (s : State) : R s (acknowledgeFault f s) := by
  unfold Machine.acknowledgeFault
  dsimp only
  split_ifs
  · exact h.quiet (.refuse ..)
  · exact h.behind (h.recallExchange ..) (.answerStation ..)
  · exact h.quiet (.refuse ..)
  · exact h.quiet (.refuse ..)
  · exact h.behind (h.keepBuild ..) (.answerStation ..)
  · exact h.behind (h.discardBuild ..) (.answerStation ..)

theorem flushLane (f : RxFrame) (s : State) : R s (flushLane f s) := by
  unfold Machine.flushLane
  dsimp only
  split_ifs
  · exact h.quiet (.refuse ..)
  · exact h.behind (h.flush ..) (.answerDone ..)

theorem setGate (f : RxFrame) (s : State) : R s (setGate f s) := by
  unfold Machine.setGate
  dsimp only
  refine h.behind (h.quiet ?_) (.answerDone ..)
  exact .of_sides rfl rfl rfl rfl rfl rfl rfl rfl rfl rfl rfl

theorem readPlan (f : RxFrame) (s : State) : R s (readPlan f s) := by
  unfold Machine.readPlan
  split
  · exact h.quiet (.refuse ..)
  · exact h.quiet (.beginReply ..)

theorem probe (f : RxFrame) (s : State) : R s (probe f s) := by
  unfold Machine.probe
  dsimp only
  split
  · exact h.quiet (.refuse ..)
  · refine h.quiet (.trans ?_ (.setExec _ (by simp)))
    exact .of_sides rfl rfl rfl rfl rfl rfl rfl rfl rfl rfl rfl

theorem restartRequest (f : RxFrame) (s : State) : R s (Machine.restart f s) := by
  have started : ∀ u, Quiet u (restartReports u) := fun u =>
    .trans (t := { u with reports := { u.reports with queue := [], lost := 0 } })
      (.of_sides rfl rfl rfl rfl rfl rfl rfl rfl rfl rfl rfl) (.report ..)
  have unlatched : ∀ u : State, Quiet u { u with req := { u.req with latch := false } } := fun u =>
    .of_sides rfl rfl rfl rfl rfl rfl rfl rfl rfl rfl rfl
  exact h.before (((Quiet.answerDone ..).trans (started _)).trans (unlatched _)) (h.restart _)

theorem admitPlan (f : RxFrame) (s : State) : R s (admitPlan f s) := by
  unfold Machine.admitPlan
  split_ifs with hroom
  · exact h.quiet (.refuse ..)
  · have opened : Quiet s { s with plans := { s.plans with admission := some (admissionOf f.payload) } } :=
      .of_sides rfl rfl rfl rfl rfl rfl rfl rfl rfl rfl rfl
    exact h.before opened (h.openPlan _ f _ (Nat.not_le.mp hroom))

theorem handleData (f : RxFrame) (s : State) : R s (handleData f s) := by
  refine h.before (.supervise f.src s) ?_
  unfold Machine.handleData
  dsimp only
  split
  · exact h.refl _
  · rename_i e he
    split_ifs with ht
    · obtain ⟨gap, hg⟩ : ∃ gap, e.phase = .loading gap := by
        cases hp : e.phase with
        | loading gap => exact ⟨gap, rfl⟩
        | _ => simp [Exec.takesData, hp] at ht
      exact h.takeData _ e gap _ he hg
    · exact h.refl _

theorem handleReserved (k : Byte) (f : RxFrame) (s : State) : R s (handleReserved k f s) := by
  refine h.before (.supervise f.src s) ?_
  unfold Machine.handleReserved
  dsimp only
  split_ifs
  · exact h.refl _
  · exact h.quiet (.refuse ..)

/-! ### Partner frames -/

theorem partner {k : Byte} {act : List Byte → State → State} (ha : ∀ p s, R s (act p s)) (f : RxFrame) (s : State) :
    R s (partner k act f s) := by
  unfold Machine.partner
  split_ifs
  · exact h.refl s
  · exact h.quiet (.supervise f.src s)
  · exact h.before (.supervise f.src s) (ha _ _)

theorem arrival (p : List Byte) (s : State) : R s (arrival p s) := by
  unfold Machine.arrival
  dsimp only
  split_ifs with hfull
  · exact h.refl s
  · exact h.queueArrival s _ (Nat.not_le.mp (not_or.mp hfull).2)

theorem takeReply (p : List Byte) (s : State) : R s (takeReply p s) := by
  unfold Machine.takeReply
  split
  · exact h.orderReply ..
  · exact h.refl s

theorem takeReady (p : List Byte) (s : State) : R s (takeReady p s) := by
  unfold Machine.takeReady
  split
  · exact h.refl s
  · split_ifs
    · exact h.readyRises ..
    · exact h.readyFalls ..
    · exact h.refl s

theorem exchangeDone (i : StationNo) (s : State) : R s (exchangeDone i s) := by
  unfold Machine.exchangeDone
  split_ifs
  · exact h.exchangeEnds ..
  · exact h.refl s

theorem takeTransport {act : StationNo → State → State} (ha : ∀ s i, R s (act i s)) (p : List Byte) (s : State) :
    R s (takeTransport act p s) := by
  unfold Machine.takeTransport
  split
  · exact ha ..
  · exact h.refl s

theorem takeLaneFrame {act : LaneNo → Tracking → State → State} (ha : ∀ s k t, R s (act k t s)) (p : List Byte)
    (s : State) : R s (takeLaneFrame act p s) := by
  unfold Machine.takeLaneFrame
  split
  · exact ha ..
  · exact h.refl s

/-! ### Frames and commands -/

/-- A frame consumed by its kind (R184). -/
theorem consume (k : Byte) (f : RxFrame) (s : State) : R s (consumeByKind k f s) := by
  generalize hg : consumeByKind k f = g
  unfold consumeByKind at hg
  split at hg
  case h_31 =>
    split_ifs at hg <;> subst hg
    · exact h.handleReserved k f s
    · exact h.quiet (.supervise f.src s)
  all_goals subst hg
  · exact h.request f (act := describe) (fun s => h.quiet (.answerDone ..)) s
  · exact h.request f (act := readState) (fun s => h.quiet (.answerDone ..)) s
  · exact h.handleSetTime f s
  · exact h.handleSetSettings f s
  · exact h.request f (act := loadArticles) (fun s => h.openArticles s f _) s
  · exact h.request f (h.deleteArticleRequest f) s
  · exact h.request f (h.loadBase f) s
  · exact h.request f (h.loadKindsRequest f) s
  · exact h.request f (h.loadLevels f) s
  · exact h.request f (h.admitPlan f) s
  · exact h.request f (h.withdrawPlan f) s
  · exact h.request f (h.setStation f) s
  · exact h.request f (h.closeStationRequest f) s
  · exact h.request f (h.acknowledgeFault f) s
  · exact h.request f (h.flushLane f) s
  · exact h.request f (h.probe f) s
  · exact h.request f (act := readBuild) (fun s => h.quiet (.beginReply ..)) s
  · exact h.request f (h.readPlan f) s
  · exact h.request f (act := readLane) (fun s => h.quiet (.beginReply ..)) s
  · exact h.request f (h.setGate f) s
  · exact h.request f (h.restartRequest f) s
  · exact h.handleData f s
  · exact h.partner h.arrival f s
  · exact h.partner h.takeReply f s
  · exact h.partner h.takeReady f s
  · exact h.partner (h.takeLaneFrame h.laneEntered) f s
  · exact h.partner (h.takeLaneFrame h.laneReleased) f s
  · exact h.partner (h.takeLaneFrame fun s k _ => h.laneFlushed s k) f s
  · exact h.partner (h.takeTransport h.exchangeStarts) f s
  · exact h.partner (h.takeTransport fun s i => h.exchangeDone i s) f s

/-- A frame received: discarded, forwarded, consumed, or the last two (R182, R183). -/
theorem receive (k : Byte) (f : RxFrame) (s : State) : R s (receive k f (consumeByKind k f) s) := by
  unfold Machine.receive
  split_ifs
  · exact h.refl s
  · exact h.before (.forward k f s) (h.consume k f _)
  · exact h.consume k f s
  · exact h.quiet (.forward k f s)

/-- A command's effect between two services of the ports. -/
theorem live {effect : State → State} (he : ∀ s, R s (effect s)) {s t : State} (e : live effect s = .next t) : R s t := by
  unfold Machine.live at e
  injection e with e
  subst e
  split_ifs
  · exact h.refl s
  · exact h.before (.settle s) (h.behind (he _) (.settle _))

theorem gapExpired (s : State) : R s (gapExpired s) := by
  unfold Machine.gapExpired
  split
  · exact h.refl s
  · split
    · split_ifs
      · exact h.quiet (.endLoad ..)
      · exact h.refl s
    all_goals exact h.refl s

/-- What the operations of the blocks meet, every command does. -/
theorem exec {c : Instr} {s t : State} (e : exec c s = .next t) : R s t := by
  have fresh : ∀ (u : State), Quiet (State.powerOn u.link.ownNode) u → R s u := fun u k => h.behind (h.powerOn s _) k
  cases c with
  | powerOnReset =>
    injection e with e
    subst e
    exact fresh _ (.of_sides rfl rfl rfl rfl rfl rfl rfl rfl rfl rfl rfl)
  | resetEnd pins =>
    injection e with e
    subst e
    split_ifs
    · refine h.behind (h.powerOn s (nodeOf pins)) (.trans ?_ (.settle _))
      exact .of_sides rfl rfl rfl rfl rfl rfl rfl rfl rfl rfl rfl
    · exact h.refl s
  | unknownKind k f => exact h.live (h.receive k f) e
  | discardedKindFrame k f => exact h.live (h.receive k f) e
  | passThrough p raw =>
    refine h.live (fun u => ?_) e
    unfold receiveRaw
    split
    · exact h.refl u
    · exact h.receive _ _ u
  | dataGapExpiry => exact h.live h.gapExpired e
  | supervisionExpiry => exact h.live (fun u => h.quiet (.supervisionExpires u)) e
  | takeTimerExpiry i =>
    refine h.live (fun u => ?_) e
    unfold takeTimer
    split_ifs
    · exact h.stationFault ..
    · exact h.refl u
  | placeTimerExpiry i =>
    refine h.live (fun u => ?_) e
    unfold placeTimer
    split_ifs
    · exact h.stationFault ..
    · exact h.refl u
  | exchangeTimerExpiry i =>
    refine h.live (fun u => ?_) e
    unfold exchangeTimer
    split_ifs
    · exact h.faultExchange ..
    · exact h.refl u
  | releaseTimerExpiry k => exact h.live (fun u => h.releaseTimer u k) e
  | returnDeadline t => exact h.live (fun u => h.deadlinePasses u t) e
  | takingAnArrival => exact h.live h.takeArrival e
  | replanJob => exact h.live h.takeReplan e
  | laneHeadJob => exact h.live h.takeLane e
  | probeJob => exact h.live (fun u => h.quiet (.takeProbe u)) e
  | commitAttempt => exact h.live h.commitAttempt e
  | frameSent p => exact h.live (fun u => h.quiet (.frameSent p u)) e
  | lineTimeTick => exact h.live (fun u => h.moveTime u _) e
  | describe f => exact h.live (h.receive 0x10 f) e
  | readState f => exact h.live (h.receive 0x11 f) e
  | setTime f => exact h.live (h.receive 0x12 f) e
  | setSettings f => exact h.live (h.receive 0x13 f) e
  | loadArticles f => exact h.live (h.receive 0x14 f) e
  | deleteArticle f => exact h.live (h.receive 0x15 f) e
  | loadBase f => exact h.live (h.receive 0x16 f) e
  | loadKinds f => exact h.live (h.receive 0x17 f) e
  | loadLevels f => exact h.live (h.receive 0x18 f) e
  | admitPlan f => exact h.live (h.receive 0x19 f) e
  | withdrawPlan f => exact h.live (h.receive 0x1A f) e
  | setStation f => exact h.live (h.receive 0x1B f) e
  | closeStation f => exact h.live (h.receive 0x1C f) e
  | acknowledgeFault f => exact h.live (h.receive 0x1D f) e
  | flushLane f => exact h.live (h.receive 0x1E f) e
  | probe f => exact h.live (h.receive 0x1F f) e
  | readBuild f => exact h.live (h.receive 0x20 f) e
  | readPlan f => exact h.live (h.receive 0x21 f) e
  | readLane f => exact h.live (h.receive 0x22 f) e
  | setGate f => exact h.live (h.receive 0x23 f) e
  | restart f => exact h.live (h.receive 0x24 f) e
  | data f => exact h.live (h.receive 0x28 f) e
  | arrival f => exact h.live (h.receive 0x40 f) e
  | orderReply f => exact h.live (h.receive 0x52 f) e
  | readyChange f => exact h.live (h.receive 0x53 f) e
  | exchangeStart f => exact h.live (h.receive 0x70 f) e
  | exchangeDone f => exact h.live (h.receive 0x71 f) e
  | laneEntered f => exact h.live (h.receive 0x62 f) e
  | laneReleased f => exact h.live (h.receive 0x63 f) e
  | laneFlushed f => exact h.live (h.receive 0x64 f) e

/-- What the operations of the blocks meet, every step does. -/
theorem step {s t : State} (e : step s = .next t) : R s t := by
  unfold Machine.step at e
  split at e
  · injection e with e
    exact e ▸ h.refl s
  · exact h.before (.withPending s _) (h.exec e)

end Upholds

end Sys2Proof.Machine
end

section
/-!
PROOFS. The records of a load (R163), and that every step keeps the capacities (R4, R47, R64, R66, R87, R89, R104, R105,
R112, R128).
-/

namespace Sys2Proof.Machine

/-! ### The records of a load -/

/-- A load of a kind is open. -/
def OpenLoad (kind : Byte) (s : State) : Prop :=
  ∃ x g, s.req.exec = some x ∧ x.kind = kind ∧ x.phase = .loading g

/-- The new gap wait of an open load (R164). -/
theorem Quiet.newGap {e : Exec} {s : State} (h : OpenLoad e.kind s) (gap : Timer) :
    Quiet s { s with req := { s.req with exec := some { e with phase := .loading gap } } } := by
  obtain ⟨x, g, hx, hk, hg⟩ := h
  refine ⟨rfl, rfl, rfl, rfl, rfl, rfl, rfl, rfl, rfl, rfl, fun y _ hy _ => ⟨x, g, hx, ?_, hg⟩⟩
  obtain rfl := Option.some.inj hy
  exact hk

section
variable {Q : State → State → Prop} (trans : ∀ {s t u}, Q s t → Q t u → Q s u)
  (quiet : ∀ {s t}, Quiet s t → Q s t)
  (store : ∀ (s : State) p, badArticle p = none →
    ((s.tables.articles.any fun a => a.code == (articleOf p).code)
      || decide (s.tables.articles.length < Config.articleCapacity)) = true →
    Q s { s with tables := { s.tables with articles := putKey Article.key (articleOf p) s.tables.articles } })
  {ps : List Plan} {k : Byte}
  (make : ∀ (s : State) a e c r i res, k ≠ 0x14 → s.plans.plans = ps → Q s (finishLoad e c r i res (makePlan a s)))
include trans quiet store make

/-- What one record does to the state, and that the load that goes on is still open (R49, R67). -/
theorem takeRecord_meets (e : Exec) (p : List Byte) (s : State) (hk : e.kind = k) (hps : s.plans.plans = ps)
    (ho : OpenLoad e.kind s) :
    Q s (takeRecord e p s).1 ∧ ∀ x, (takeRecord e p s).2 = .more x → x.kind = e.kind
      ∧ (takeRecord e p s).1.plans.plans = s.plans.plans ∧ OpenLoad e.kind (takeRecord e p s).1 := by
  unfold takeRecord
  split_ifs with h14
  · unfold takeArticle
    split
    · exact ⟨quiet (.endLoad ..), fun x hx => by cases hx⟩
    · rename_i hbad
      dsimp only
      split_ifs with hroom hlast
      · exact ⟨trans (store s p hbad hroom) (quiet (.finishLoad ..)), fun x hx => by cases hx⟩
      · refine ⟨store s p hbad hroom, fun x hx => ?_⟩
        cases hx
        exact ⟨rfl, rfl, ho⟩
      · exact ⟨quiet (.endLoad ..), fun x hx => by cases hx⟩
  · unfold takeLine
    split
    · exact ⟨quiet (.endLoad ..), fun x hx => by cases hx⟩
    · rename_i a _
      split
      · exact ⟨quiet (.endLoad ..), fun x hx => by cases hx⟩
      · dsimp only
        generalize ({ a with lines := a.lines ++ [lineOf p] } : Admission) = a'
        split_ifs with hlast
        · dsimp only
          have hk' : k ≠ 0x14 := hk ▸ h14
          have made := make s a' e.less .done .none 0 (.planAdmitted 0 a.id s.plans.counter) hk' hps
          exact ⟨made, fun x hx => hx.elim⟩
        · have opened : Quiet s { s with plans := { s.plans with admission := some a' } } :=
            .of_sides rfl rfl rfl rfl rfl rfl rfl rfl rfl rfl rfl
          refine ⟨quiet opened, fun x hx => ?_⟩
          cases hx
          exact ⟨rfl, rfl, ho⟩

theorem takeRecords_meets (records : List (List Byte)) (e : Exec) (s : State)
    (hk : e.kind = k) (hps : s.plans.plans = ps) (ho : OpenLoad e.kind s) : Q s (takeRecords e records s) := by
  induction records generalizing e s with
  | nil => exact quiet (.newGap ho _)
  | cons p records ih =>
    obtain ⟨hq, hmore⟩ := takeRecord_meets (Q := Q) trans quiet store make e p s hk hps ho
    unfold takeRecords
    split
    · rename_i t hr
      rw [hr] at hq
      exact hq
    · rename_i t x hr
      rw [hr] at hq hmore
      obtain ⟨hx, hp, hopen⟩ := hmore x rfl
      exact trans hq (ih x t (hx.trans hk) (hp.trans hps) (hx ▸ hopen))

/-- The changes that a DATA frame makes, one after the other: quiet ones, articles stored, and a plan made from the
admission with the final RESPONSE placed behind it. -/
theorem takeData_meets (p : List Byte) (e : Exec) (s : State) (hk : e.kind = k) (hps : s.plans.plans = ps)
    (ho : OpenLoad e.kind s) : Q s (takeData e p s) := by
  unfold takeData
  split_ifs
  · exact quiet (.endLoad ..)
  · exact takeRecords_meets (Q := Q) trans quiet store make _ e s hk hps ho

end

/-! ### Capacities -/

theorem Quiet.capacitiesOk {s t : State} (q : Quiet s t) (h : CapacitiesOk s) : CapacitiesOk t := by
  obtain ⟨htables, htracker, hengine, hstations, hlanes, hbuilds, hcount, hload⟩ := h
  refine ⟨?_, ?_, ?_, ?_, ?_, ?_, ?_, fun e gap he hp => ?_⟩
  · unfold TablesOk
    rw [q.articles, q.kinds]
    exact htables
  · unfold TrackerOk
    rw [q.tracker]
    exact htracker
  · unfold EngineOk
    rw [q.replans, q.job]
    exact hengine
  · unfold StationsOk
    rw [q.stations]
    exact hstations
  · unfold LanesOk
    rw [q.lanes]
    exact hlanes
  · unfold BuildsOk
    rw [q.builds]
    exact hbuilds
  · rw [q.plans]
    exact hcount
  · obtain ⟨x, g, hx, hk, hg⟩ := q.loads e gap he hp
    rw [q.plans, ← hk]
    exact hload x g hx hg

/-- A station record changed but for its orders. -/
theorem onStation_capacitiesOk {s : State} {i : StationNo} {g : Station → Station}
    (hg : (g s.stations[i]).orders = s.stations[i].orders) (h : CapacitiesOk s) : CapacitiesOk (s.onStation i g) := by
  obtain ⟨htables, htracker, hengine, hstations, hlanes, hbuilds, hplans⟩ := h
  refine ⟨htables, htracker, hengine, fun j => ?_, hlanes, hbuilds, hplans⟩
  rcases eq_or_ne i j with rfl | hne
  · rw [onStation_get, hg]
    exact hstations i
  · rw [onStation_get_ne s g hne]
    exact hstations j

/-- A build record changed to one of no more cases. -/
theorem onBuild_capacitiesOk {s : State} {i : StationNo} {g : Build → Build}
    (hg : (g s.builds[i]).cases.length ≤ s.builds[i].cases.length) (h : CapacitiesOk s) :
    CapacitiesOk (s.onBuild i g) := by
  obtain ⟨htables, htracker, hengine, hstations, hlanes, hbuilds, hplans⟩ := h
  refine ⟨htables, htracker, hengine, hstations, hlanes, fun j => ?_, hplans⟩
  rcases eq_or_ne i j with rfl | hne
  · rw [onBuild_get]
    exact hg.trans (hbuilds i)
  · rw [onBuild_get_ne s g hne]
    exact hbuilds j

theorem powerOn_station (node : Byte) (i : StationNo) : (State.powerOn node).stations[i] = Station.powerOn := by
  fin_cases i <;> rfl

theorem powerOn_lane (node : Byte) (k : LaneNo) : (State.powerOn node).lanes[k] = Lane.powerOn := by
  fin_cases k <;> rfl

theorem powerOn_build (node : Byte) (i : StationNo) : (State.powerOn node).builds[i] = Build.empty := by
  fin_cases i <;> rfl

theorem powerOn_capacitiesOk (node : Byte) : CapacitiesOk (State.powerOn node) := by
  refine ⟨⟨List.Pairwise.nil, Nat.zero_le _, List.length_replicate ..⟩,
    ⟨Nat.zero_le _, Nat.zero_le _, List.Pairwise.nil, fun e he => by cases he⟩,
    ⟨Nat.zero_le _, fun j hj => by cases hj⟩, fun i => ?_, fun k => ?_, fun i => ?_, Nat.zero_le _,
    fun e gap he => by cases he⟩
  · rw [powerOn_station]
    exact ⟨Nat.zero_le _, fun o ho => by cases ho⟩
  · rw [powerOn_lane]
    exact Nat.zero_le _
  · rw [powerOn_build]
    exact Nat.zero_le _

theorem restartTracking_capacitiesOk {s : State} (h : CapacitiesOk s) : CapacitiesOk (restartTracking s) := by
  obtain ⟨htables, -, -, hstations, hlanes, hbuilds, hplans⟩ := h
  refine ⟨htables, ⟨Nat.zero_le _, Nat.zero_le _, List.Pairwise.nil, by simp [restartTracking]⟩,
    ⟨Nat.zero_le _, fun j hj => by cases hj⟩, hstations, hlanes, hbuilds, hplans⟩

theorem restartBlocks_capacitiesOk {s : State} (h : CapacitiesOk s) : CapacitiesOk (restartBlocks s) := by
  have hstations := (Works.foldl restartStation Works.restartStation allStations s).capacitiesOk h
  have hlanes := (Works.restartLanes _).capacitiesOk (restartTracking_capacitiesOk hstations)
  exact (Works.bindingAttempt _).capacitiesOk ((Quiet.setSup _ _).capacitiesOk hlanes)

theorem exchangeEnds_capacitiesOk {s : State} (i : StationNo) (h : CapacitiesOk s) : CapacitiesOk (exchangeEnds i s) := by
  have hstation := onStation_capacitiesOk (i := i)
    (g := fun st => { st with exchangeExpiry := none, close := none, cause := .none }) rfl h
  have hbuild := onBuild_capacitiesOk (i := i) (g := Build.clear) (Nat.zero_le _) hstation
  have hidle := ((Works.enterState _ i .idle).trans (Works.report (.stationIdle i) _)).capacitiesOk hbuild
  unfold exchangeEnds
  dsimp only
  split_ifs
  · exact (Works.bindingAttempt _).capacitiesOk hidle
  · exact hidle

theorem store_capacitiesOk {s : State} {p : List Byte}
    (hroom : ((s.tables.articles.any fun a => a.code == (articleOf p).code)
      || decide (s.tables.articles.length < Config.articleCapacity)) = true) (h : CapacitiesOk s) :
    CapacitiesOk
      { s with tables := { s.tables with articles := putKey Article.key (articleOf p) s.tables.articles } } := by
  obtain ⟨⟨hkeys, hlen, hkinds⟩, hrest⟩ := h
  refine ⟨⟨hkeys.putKey _, ?_, hkinds⟩, hrest⟩
  rcases Bool.or_eq_true_iff.mp hroom with hmem | hfree
  · obtain ⟨a, ha, hcode⟩ := List.any_eq_true.mp hmem
    have hkey : Article.key a = Article.key (articleOf p) := congrArg BitVec.toNat (eq_of_beq hcode)
    rw [length_putKey_of_mem hkeys ⟨a, ha, hkey⟩]
    exact hlen
  · exact (length_putKey ..).trans (of_decide_eq_true hfree)

/-- The plan store is no part of the other capacities. -/
theorem withPlans_capacities {s : State} (ps : PlanStore) (h : CapacitiesOk s) :
    TablesOk { s with plans := ps } ∧ TrackerOk { s with plans := ps } ∧ EngineOk { s with plans := ps }
      ∧ StationsOk { s with plans := ps } ∧ LanesOk { s with plans := ps } ∧ BuildsOk { s with plans := ps } := by
  obtain ⟨htables, htracker, hengine, hstations, hlanes, hbuilds, -⟩ := h
  exact ⟨htables, htracker, hengine, hstations, hlanes, hbuilds⟩

/-- The plan made at the end of an admission, with the final RESPONSE placed: no load is open any more (R64, R67). -/
theorem makePlan_capacitiesOk {s : State} (hroom : s.plans.plans.length < Config.planCapacity) (a : Admission) (e : Exec)
    (c : Completion) (r : Reason) (i : Nat) (res : ResultFields) (h : CapacitiesOk s) :
    CapacitiesOk (finishLoad e c r i res (makePlan a s)) := by
  have hlen := (length_putKey Plan.key (planOf a s.plans.counter) s.plans.plans).trans hroom
  unfold makePlan
  generalize hps : ({ plans := putKey Plan.key (planOf a s.plans.counter) s.plans.plans, admission := none
                      counter := s.plans.counter + 1 } : PlanStore) = ps
  obtain ⟨htables, htracker, hengine, hstations, hlanes, hbuilds⟩ := withPlans_capacities ps h
  rw [← show ps.plans = putKey Plan.key (planOf a s.plans.counter) s.plans.plans from hps ▸ rfl] at hlen
  have w := Works.bindingAttempt { s with plans := ps }
  generalize bindingAttempt { s with plans := ps } = t at w
  have hcount : t.plans.plans.length ≤ Config.planCapacity :=
    (Many.keeps (P := fun l : List Plan => l.length ≤ ps.plans.length) (fun _ _ m k => m.length.trans k) w.plans
      le_rfl).trans hlen
  have hended : CapacitiesOk { t with req := { t.req with exec := some { e with phase := .ending } } } :=
    ⟨w.tablesOk htables, w.trackerOk htracker, w.engineOk hengine, w.stationsOk hstations, w.lanesOk hlanes,
      w.buildsOk hbuilds, hcount, fun x gap hx hg => by cases hx; cases hg⟩
  exact (Quiet.placeResponse _ _).capacitiesOk hended

theorem takeData_capacitiesOk {s : State} {e : Exec} {gap : Timer} (p : List Byte) (he : s.req.exec = some e)
    (hp : e.phase = .loading gap) (h : CapacitiesOk s) : CapacitiesOk (takeData e p s) := by
  obtain ⟨-, -, -, -, -, -, -, hload⟩ := id h
  have hroom : e.kind ≠ 0x14 → s.plans.plans.length < Config.planCapacity := fun hk =>
    ((hload e gap he hp).resolve_left hk).2
  exact takeData_meets (Q := fun s t => CapacitiesOk s → CapacitiesOk t) (fun f g h => g (f h))
    (fun q h => q.capacitiesOk h) (fun s p _ hr h => store_capacitiesOk hr h)
    (fun u a e' c r i res hk hu h => makePlan_capacitiesOk (hu ▸ hroom hk) a e' c r i res h) p e s rfl rfl
    ⟨e, gap, he, rfl, hp⟩ h

/-- Every operation of the blocks keeps the capacities. -/
theorem capacities_upheld : Upholds fun s t => CapacitiesOk s → CapacitiesOk t where
  quiet q := q.capacitiesOk
  before q f := f ∘ q.capacitiesOk
  behind f q := q.capacitiesOk ∘ f
  powerOn _ node _ := powerOn_capacitiesOk node
  moveTime _ t := moveTime_capacitiesOk t
  deleteArticle s p h := by
    obtain ⟨⟨hkeys, hlen, hkinds⟩, hrest⟩ := h
    exact ⟨⟨hkeys.filter p, (List.length_filter_le ..).trans hlen, hkinds⟩, hrest⟩
  loadKinds s l hl h := by
    obtain ⟨⟨hkeys, hlen, -⟩, hrest⟩ := h
    exact ⟨⟨hkeys, hlen, hl⟩, hrest⟩
  openArticles s f n h := by
    obtain ⟨htables, htracker, hengine, hstations, hlanes, hbuilds, hcount, -⟩ := h
    refine ⟨htables, htracker, hengine, hstations, hlanes, hbuilds, hcount, fun e gap he _ => .inl ?_⟩
    cases he
    rfl
  openPlan s f n hroom h := by
    obtain ⟨htables, htracker, hengine, hstations, hlanes, hbuilds, hcount, -⟩ := h
    refine ⟨htables, htracker, hengine, hstations, hlanes, hbuilds, hcount, fun e gap he _ => .inr ⟨?_, hroom⟩⟩
    cases he
    rfl
  takeData _ _ _ p he hp := takeData_capacitiesOk p he hp
  dropPlan s id := (Works.dropPlan s id).capacitiesOk
  setKind s i kind := onStation_capacitiesOk rfl
  bringOnline s i kind h := by
    have hidle := (Works.enterState _ i .idle).capacitiesOk
      (onStation_capacitiesOk (i := i) (g := fun st => { st with baseKind := kind }) rfl h)
    unfold bringOnline
    dsimp only
    split_ifs
    · exact (Works.bindingAttempt _).capacitiesOk hidle
    · exact hidle
  takeOffline s i := (Works.enterState s i .offline).capacitiesOk
  closeStation s i := ((Works.closePart i s).trans (Works.enterClosing i .request _)).capacitiesOk
  recallExchange s i :=
    (((Works.onStationSame (g := fun st => { st with cause := .none }) rfl rfl rfl).trans (Works.enterState _ i _)).trans
      (Works.exchangeCall i _)).capacitiesOk
  keepBuild s i d := (Works.keepBuild i d s).capacitiesOk
  discardBuild s i d := (Works.discardBuild i d s).capacitiesOk
  flush s k := (Works.flush k s).capacitiesOk
  restart _ := restartBlocks_capacitiesOk
  queueArrival s a hroom h := by
    obtain ⟨htables, ⟨-, htracker⟩, hrest⟩ := h
    exact ⟨htables, ⟨by rw [List.length_append]; exact hroom, htracker⟩, hrest⟩
  orderReply s i q out := (Works.orderReply i q out s).capacitiesOk
  readyRises s i h := by
    have hready := onStation_capacitiesOk (i := i) (g := fun st => { st with ready := true }) rfl h
    unfold readyRises
    dsimp only
    split_ifs
    · exact (Works.bindingAttempt _).capacitiesOk hready
    · exact hready
  readyFalls s i h := (Works.stationFault i .notReady _).capacitiesOk
    (onStation_capacitiesOk (i := i) (g := fun st => { st with ready := false }) rfl h)
  exchangeStarts s i h := by
    unfold exchangeStarts
    split_ifs
    · exact (Works.enterState _ i .exchanging).capacitiesOk (onStation_capacitiesOk rfl h)
    · exact h
  exchangeEnds _ i := exchangeEnds_capacitiesOk i
  laneEntered s k t := (Works.laneEntered k t s).capacitiesOk
  laneReleased s k t := (Works.laneReleased k t s).capacitiesOk
  laneFlushed s k := (Works.laneFlushed k s).capacitiesOk
  stationFault s i c := (Works.stationFault i c s).capacitiesOk
  faultExchange s i := (Works.faultExchange i s).capacitiesOk
  releaseTimer s k h := by
    unfold releaseTimer
    split_ifs
    · exact ((Works.onLaneSame (g := fun l => { l with expiry := none }) rfl).trans (Works.laneFault k _ _)).capacitiesOk h
    · exact h
  deadlinePasses s t h := by
    unfold deadlinePasses
    split
    · exact h
    · split_ifs
      · exact ((Works.dropTrack s t).trans (Works.report _ _)).capacitiesOk h
      · exact h
  takeArrival s h := by
    rcases takeArrival_works s with e | ⟨a, rest, hrest, w⟩
    · rw [e]
      exact h
    · refine w.capacitiesOk ?_
      obtain ⟨htables, ⟨hlen, htracker⟩, hother⟩ := h
      refine ⟨htables, ⟨?_, htracker⟩, hother⟩
      rw [hrest, List.length_cons] at hlen
      exact Nat.le_of_succ_le hlen
  takeReplan s := (Works.takeReplan s).capacitiesOk
  takeLane s := (Works.takeLane s).capacitiesOk
  commitAttempt s := (Works.commitAttempt s).capacitiesOk

end Sys2Proof.Machine
end

section
/-!
PROOFS. What working operations do to builds and to cases: `Trims n s t` says that each build of t comes from that of s by
bindings, confirms and at most n cuts, that a new article is measured, that no case has a new snapshot and the engine no new
job, and that a reply in progress sees the stations that it watches change; `Chores n s t` says that, with every case in its
place.
-/

namespace Sys2Proof.Machine

/-! ### Builds -/

/-- d comes from b by at most n changes of revision; where it has none, what fitted b fits d. -/
structure Trimmed (n : Nat) (b d : Build) : Prop where
  sound : BuildSound b → BuildSound d
  moved : ∃ k ≤ n, d.revision = b.revision + BitVec.ofNat 16 k ∧ (k = 0 → ∀ w p, Fits b w p → Fits d w p)

namespace Trimmed

theorem refl (b : Build) : Trimmed 0 b b := ⟨id, 0, le_rfl, by simp, fun _ _ _ h => h⟩

theorem trans {m n : Nat} {b c d : Build} (h : Trimmed m b c) (k : Trimmed n c d) : Trimmed (m + n) b d := by
  obtain ⟨hs, x, hx, hr, hf⟩ := h
  obtain ⟨ks, y, hy, kr, kf⟩ := k
  refine ⟨ks ∘ hs, x + y, Nat.add_le_add hx hy, ?_, fun h w p hp => kf (by omega) w p (hf (by omega) w p hp)⟩
  rw [kr, hr, BitVec.ofNat_add, BitVec.add_assoc]

theorem mono {m n : Nat} {b d : Build} (h : Trimmed m b d) (hmn : m ≤ n) : Trimmed n b d := by
  obtain ⟨hs, x, hx, hr⟩ := h
  exact ⟨hs, x, hx.trans hmn, hr⟩

/-- The change of revision by one that truncate and clear make (R16). -/
theorem one {b d : Build} (hs : BuildSound b → BuildSound d) (hr : d.revision = b.revision + 1) : Trimmed 1 b d :=
  ⟨hs, 1, le_rfl, hr, fun h => absurd h Nat.one_ne_zero⟩

theorem truncate (b : Build) (k : Nat) : Trimmed 1 b (b.truncate k) := by
  by_cases hk : k < b.cases.length
  · refine one (fun h => h.truncate k) ?_
    rw [Build.truncate, if_pos hk]
  · rw [Build.truncate, if_neg hk]
    exact (refl b).mono (Nat.zero_le 1)

theorem clear (b : Build) : Trimmed 1 b b.clear := one (fun _ => BuildSound.clear b) rfl

theorem confirm (b : Build) (i : Nat) (t : Tracking) : Trimmed 0 b (b.confirm i t) := by
  refine ⟨fun h => h.confirm i t, 0, le_rfl, ?_, fun _ w p h => h.confirm i t⟩
  obtain ⟨cs, -, e⟩ := confirm_restated b i t
  rw [e]
  simp

theorem bind {b : Build} (hb : b.free = true) (plan : PlanId) (part : Nat) (kind : BaseKind) (e : BaseEntry) :
    Trimmed 0 b (b.bind plan part kind e) := by
  have hn : b.binding = none := by
    simp only [Build.free, Bool.and_eq_true, Option.isNone_iff_eq_none] at hb
    exact hb.1
  exact ⟨fun h => h.bind hn plan part kind e, 0, le_rfl, by simp [Build.bind], fun _ w p h => absurd hn h.bound⟩

end Trimmed

/-! ### A reply in progress (R168) -/

/-- What port A is to send next is as in s, and a reply in progress goes on, marked when a station that it watches has
changed its state. -/
structure Seen (s t : State) : Prop where
  sending : t.link.portA.sending = s.link.portA.sending
  places  : t.link.slot = s.link.slot ∧ t.req.waiting = s.req.waiting ∧ t.req.heldFinal = s.req.heldFinal
  late    : t.req.late = s.req.late
  reply   : ∀ e segments next result watch changed, s.req.exec = some e →
              e.phase = .replying segments next result watch changed →
              ∃ mark, t.req.exec = some { e with phase := .replying segments next result watch mark }
                ∧ (changed = true → mark = true)
                ∧ ∀ i ∈ watch, t.stations[i].state ≠ s.stations[i].state → mark = true

namespace Seen

/-- A change of neither the request in execution nor the states of the stations. -/
theorem of_same {s t : State} (hp : t.link.portA.sending = s.link.portA.sending) (hs : t.link.slot = s.link.slot)
    (hr : t.req = s.req) (hst : ∀ i : StationNo, t.stations[i].state = s.stations[i].state) : Seen s t := by
  refine ⟨hp, ⟨hs, by rw [hr], by rw [hr]⟩, by rw [hr], fun e _ _ _ _ changed he hphase => ⟨changed, ?_, id, ?_⟩⟩
  · rw [hr, he, ← hphase]
  · exact fun i _ hne => absurd (hst i) hne

theorem refl (s : State) : Seen s s := of_same rfl rfl rfl fun _ => rfl

theorem trans {s t u : State} (h : Seen s t) (k : Seen t u) : Seen s u := by
  refine ⟨k.sending.trans h.sending, ⟨k.places.1.trans h.places.1, k.places.2.1.trans h.places.2.1,
    k.places.2.2.trans h.places.2.2⟩, k.late.trans h.late, fun e segments next result watch changed he hp => ?_⟩
  obtain ⟨m, hm, hchanged, hwatch⟩ := h.reply e segments next result watch changed he hp
  obtain ⟨m', hm', hmark, hwatch'⟩ := k.reply _ segments next result watch m hm rfl
  refine ⟨m', hm', fun c => hmark (hchanged c), fun i hi hne => ?_⟩
  by_cases hst : t.stations[i].state = s.stations[i].state
  · exact hwatch' i hi fun e => hne (e.trans hst)
  · exact hmark (hwatch i hi hst)

/-- A transition of one station, noted (R125, R168). -/
theorem enterState (s : State) (i : StationNo) (n : StationState) : Seen s (s.enterState i n) := by
  unfold State.enterState
  split_ifs
  · exact refl s
  · refine ⟨rfl, ⟨rfl, rfl, rfl⟩, rfl, fun e segments next result watch changed he hp => ?_⟩
    refine ⟨changed || watch.contains i, ?_, fun c => by simp [c], fun j hj hne => ?_⟩
    · show s.req.exec.map (Exec.note i) = _
      rw [he, Option.map_some, Exec.note, hp]
    · by_cases hij : i = j
      · subst hij
        simp [hj]
      · exact absurd (congrArg Station.state (onStation_get_ne s (fun st => { st with state := n }) hij)) hne

end Seen

/-! ### Builds, snapshots and the job -/

/-- What a change does to builds, articles, snapshots and the job. -/
structure Carries (n : Nat) (s t : State) : Prop where
  builds   : ∀ i : StationNo, Trimmed n s.builds[i] t.builds[i]
  articles : ∀ a ∈ t.tables.articles, a ∈ s.tables.articles ∨ (1 ≤ a.length ∧ 1 ≤ a.width)
  tracks   : ∀ u e, t.track u = some e → ∃ x, s.track u = some x ∧ e.snap = x.snap ∧ e.weight = x.weight
  snaps    : ∀ e ∈ t.tracker.tracks, ∃ x ∈ s.tracker.tracks, e.snap = x.snap
  job      : ∀ j, t.engine.job = some j →
               ∃ x, s.engine.job = some x ∧ x.work = j.work ∧ x.decision = j.decision

namespace Carries

theorem refl (s : State) : Carries 0 s s :=
  ⟨fun _ => .refl _, fun _ h => .inl h, fun _ e h => ⟨e, h, rfl, rfl⟩, fun e h => ⟨e, h, rfl⟩, fun j h => ⟨j, h, rfl, rfl⟩⟩

theorem trans {m n : Nat} {s t u : State} (h : Carries m s t) (k : Carries n t u) : Carries (m + n) s u where
  builds i := (h.builds i).trans (k.builds i)
  articles a ha := (k.articles a ha).elim (h.articles a) .inr
  tracks v e he := by
    obtain ⟨x, hx, a, b⟩ := k.tracks v e he
    obtain ⟨y, hy, c, d⟩ := h.tracks v x hx
    exact ⟨y, hy, a.trans c, b.trans d⟩
  snaps e he := by
    obtain ⟨x, hx, a⟩ := k.snaps e he
    obtain ⟨y, hy, b⟩ := h.snaps x hx
    exact ⟨y, hy, a.trans b⟩
  job j hj := by
    obtain ⟨x, hx, a, b⟩ := k.job j hj
    obtain ⟨y, hy, c, d⟩ := h.job x hx
    exact ⟨y, hy, c.trans a, d.trans b⟩

theorem mono {m n : Nat} {s t : State} (h : Carries m s t) (hmn : m ≤ n) : Carries n s t :=
  { h with builds := fun i => (h.builds i).mono hmn }

/-- A change outside builds, articles, cases and the job. -/
theorem of_same {s t : State} (hb : t.builds = s.builds) (ha : t.tables.articles = s.tables.articles)
    (hc : t.tracker.tracks = s.tracker.tracks) (hj : t.engine.job = s.engine.job) : Carries 0 s t where
  builds i := by
    rw [hb]
    exact .refl _
  articles a h := .inl (ha ▸ h)
  tracks u e h := ⟨e, by rwa [State.track, ← hc], rfl, rfl⟩
  snaps e h := ⟨e, hc ▸ h, rfl⟩
  job j h := ⟨j, hj ▸ h, rfl, rfl⟩

theorem of_quiet {s t : State} (q : Quiet s t) : Carries 0 s t := of_same q.builds q.articles (by rw [q.tracker]) q.job

end Carries

/-- A working operation on the builds, the snapshots and the job, seen by a reply in progress. -/
structure Trims (n : Nat) (s t : State) : Prop extends Carries n s t where
  seen : Seen s t

namespace Trims

theorem refl (s : State) : Trims 0 s s := ⟨.refl s, .refl s⟩

theorem trans {m n : Nat} {s t u : State} (h : Trims m s t) (k : Trims n t u) : Trims (m + n) s u :=
  ⟨h.toCarries.trans k.toCarries, h.seen.trans k.seen⟩

theorem mono {m n : Nat} {s t : State} (h : Trims m s t) (hmn : m ≤ n) : Trims n s t := ⟨h.toCarries.mono hmn, h.seen⟩

theorem foldl {α : Type} {n : Nat} {op : State → α → State} (h : ∀ s a, Trims n s (op s a)) (l : List α) (s : State) :
    Trims (n * l.length) s (l.foldl op s) := by
  induction l generalizing s with
  | nil => exact refl s
  | cons a l ih =>
    refine ((h s a).trans (ih _)).mono ?_
    rw [List.length_cons, Nat.mul_succ]
    omega

end Trims

/-! ### Chores: every case stays in its place -/

structure Chores (n : Nat) (s t : State) : Prop extends Trims n s t where
  tracker : t.tracker = s.tracker
  lanes   : ∀ k : LaneNo, t.lanes[k].list = s.lanes[k].list
  orders  : ∀ i : StationNo, t.stations[i].orders = s.stations[i].orders
  spur    : ∀ i : StationNo, t.stations[i].spur = s.stations[i].spur

namespace Chores

/-- A change of builds, stations, lanes and the job with the cases as they are. -/
theorem of_parts {n : Nat} {s t : State} (hb : ∀ i : StationNo, Trimmed n s.builds[i] t.builds[i])
    (ha : t.tables.articles = s.tables.articles) (hc : t.tracker = s.tracker)
    (hj : ∀ j, t.engine.job = some j → ∃ x, s.engine.job = some x ∧ x.work = j.work ∧ x.decision = j.decision)
    (hl : ∀ k : LaneNo, t.lanes[k].list = s.lanes[k].list)
    (ho : ∀ i : StationNo, t.stations[i].orders = s.stations[i].orders)
    (hs : ∀ i : StationNo, t.stations[i].spur = s.stations[i].spur) (hseen : Seen s t) : Chores n s t where
  seen := hseen
  builds := hb
  articles a h := .inl (ha ▸ h)
  tracks u e he := ⟨e, by rwa [State.track, ← hc], rfl, rfl⟩
  snaps e he := ⟨e, hc ▸ he, rfl⟩
  job := hj
  tracker := hc
  lanes := hl
  orders := ho
  spur := hs

/-- A change outside builds, articles, cases, stations, lanes, the job, the request unit and port A. -/
theorem of_same {s t : State} (hb : t.builds = s.builds) (ha : t.tables.articles = s.tables.articles)
    (hc : t.tracker = s.tracker) (hj : t.engine.job = s.engine.job) (hl : t.lanes = s.lanes)
    (hs : t.stations = s.stations) (hr : t.req = s.req) (hp : t.link.portA = s.link.portA)
    (hslot : t.link.slot = s.link.slot) : Chores 0 s t :=
  of_parts (fun i => by rw [hb]; exact .refl _) ha hc (fun j h => ⟨j, hj ▸ h, rfl, rfl⟩) (fun k => by rw [hl])
    (fun i => by rw [hs]) (fun i => by rw [hs]) (.of_same (by rw [hp]) hslot hr fun i => by rw [hs])

theorem refl (s : State) : Chores 0 s s := of_same rfl rfl rfl rfl rfl rfl rfl rfl rfl

theorem trans {m n : Nat} {s t u : State} (h : Chores m s t) (k : Chores n t u) : Chores (m + n) s u :=
  { h.toTrims.trans k.toTrims with
    tracker := k.tracker.trans h.tracker
    lanes := fun x => (k.lanes x).trans (h.lanes x)
    orders := fun i => (k.orders i).trans (h.orders i)
    spur := fun i => (k.spur i).trans (h.spur i) }

theorem mono {m n : Nat} {s t : State} (h : Chores m s t) (hmn : m ≤ n) : Chores n s t :=
  { h with toTrims := h.toTrims.mono hmn }

/-- Chores that cut no build, one after another over a list. -/
theorem foldl {α : Type} {op : State → α → State} (h : ∀ s a, Chores 0 s (op s a)) (l : List α) (s : State) :
    Chores 0 s (l.foldl op s) := by
  induction l generalizing s with
  | nil => exact refl s
  | cons a l ih => exact (h s a).trans (ih _)

/-! #### One record -/

theorem onStation {s : State} {i : StationNo} {g : Station → Station}
    (ho : (g s.stations[i]).orders = s.stations[i].orders) (hs : (g s.stations[i]).spur = s.stations[i].spur)
    (hst : (g s.stations[i]).state = s.stations[i].state) : Chores 0 s (s.onStation i g) := by
  refine of_parts (fun i => .refl _) rfl rfl (fun j h => ⟨j, h, rfl, rfl⟩) (fun k => rfl) (fun j => ?_) (fun j => ?_)
    (.of_same rfl rfl rfl fun j => ?_)
  all_goals
    rcases eq_or_ne i j with rfl | hne
    · rw [onStation_get]
      assumption
    · rw [onStation_get_ne s g hne]

theorem onLane {s : State} {k : LaneNo} {g : Lane → Lane} (h : (g s.lanes[k]).list = s.lanes[k].list) :
    Chores 0 s (s.onLane k g) := by
  refine of_parts (fun i => .refl _) rfl rfl (fun j h => ⟨j, h, rfl, rfl⟩) (fun j => ?_) (fun j => rfl) (fun j => rfl)
    (.of_same rfl rfl rfl fun _ => rfl)
  rcases eq_or_ne k j with rfl | hne
  · rw [onLane_get, h]
  · rw [onLane_get_ne s g hne]

theorem onBuild {n : Nat} {s : State} {i : StationNo} {g : Build → Build} (h : Trimmed n s.builds[i] (g s.builds[i])) :
    Chores n s (s.onBuild i g) := by
  refine of_parts (fun j => ?_) rfl rfl (fun j h => ⟨j, h, rfl, rfl⟩) (fun j => rfl) (fun j => rfl) (fun j => rfl)
    (.of_same rfl rfl rfl fun _ => rfl)
  rcases eq_or_ne i j with rfl | hne
  · rw [onBuild_get]
    exact h
  · rw [onBuild_get_ne s g hne]
    exact (Trimmed.refl _).mono (Nat.zero_le n)

theorem onPlan (s : State) (id : PlanId) (g : Plan → Plan) : Chores 0 s (s.onPlan id g) :=
  of_same rfl rfl rfl rfl rfl rfl rfl rfl rfl

theorem dropPlan (s : State) (id : PlanId) : Chores 0 s (s.dropPlan id) := of_same rfl rfl rfl rfl rfl rfl rfl rfl rfl

theorem setFlag (s : State) (k : LaneNo) (v : Bool) : Chores 0 s (s.setFlag k v) := of_same rfl rfl rfl rfl rfl rfl rfl rfl rfl

theorem noJob (s : State) : Chores 0 s (s.setJob none) :=
  of_parts (fun i => .refl _) rfl rfl (fun j h => by cases h) (fun k => rfl) (fun i => rfl) (fun i => rfl)
    (.of_same rfl rfl rfl fun _ => rfl)

theorem report (b : ReportBody) (s : State) : Chores 0 s (report b s) := by
  unfold Machine.report
  split_ifs
  · exact refl s
  · exact of_same rfl rfl rfl rfl rfl rfl rfl rfl rfl

theorem issueB (dst : Nat) (b : OwnBody) (s : State) : Chores 0 s (issueB dst b s) :=
  of_same rfl rfl rfl rfl rfl rfl rfl (issue_portA ..) (issue_slot ..)

theorem sendDecision (t : Tracking) (d : DecTarget) (s : State) : Chores 0 s (sendDecision t d s) := issueB ..

theorem enterState (s : State) (i : StationNo) (n : StationState) : Chores 0 s (s.enterState i n) := by
  have seen := Seen.enterState s i n
  unfold State.enterState at seen ⊢
  split_ifs at seen ⊢
  · exact refl s
  · have stations : ∀ j : StationNo, (s.onStation i fun st => { st with state := n }).stations[j].orders
          = s.stations[j].orders
        ∧ (s.onStation i fun st => { st with state := n }).stations[j].spur = s.stations[j].spur := by
      intro j
      rcases eq_or_ne i j with rfl | hne
      · rw [onStation_get]
        exact ⟨rfl, rfl⟩
      · rw [onStation_get_ne s _ hne]
        exact ⟨rfl, rfl⟩
    exact of_parts (fun i => .refl _) rfl rfl (fun j h => ⟨j, h, rfl, rfl⟩) (fun k => rfl) (fun j => (stations j).1)
      (fun j => (stations j).2) seen

theorem raiseFlags (s : State) : Chores 0 s (raiseFlags s) := by
  refine foldl (fun u k => ?_) _ s
  split_ifs
  · exact setFlag u k true
  · exact refl u

/-! #### Plans and bindings -/

theorem offerPlan (s : State) (i : StationNo) : Chores 0 s (offerPlan s i) := by
  unfold Machine.offerPlan
  split_ifs with h
  · obtain ⟨-, -, hfree⟩ := h
    split
    · unfold Machine.bindPlan
      exact ((onBuild (.bind hfree ..)).trans (onPlan ..)).trans ((enterState ..).trans (raiseFlags _))
    · exact refl s
  · exact refl s

theorem bindingAttempt (s : State) : Chores 0 s (bindingAttempt s) := foldl offerPlan _ s

theorem planMore (id : PlanId) (j : Nat) (s : State) : Chores 0 s (planMore id j s) := by
  unfold Machine.planMore
  split_ifs
  · exact onPlan ..
  · exact refl s

theorem lessPlan (id : PlanId) (p : Plan) (j : Nat) (g : PlanLine → PlanLine) (s : State) :
    Chores 0 s (lessPlan id p j g s) := by
  unfold Machine.lessPlan
  dsimp only
  split_ifs
  · exact (onPlan ..).trans (bindingAttempt _)
  · exact onPlan ..

theorem planLess (id : Option PlanId) (j : Nat) (s : State) : Chores 0 s (planLess id j s) := by
  unfold Machine.planLess
  split
  · exact refl s
  · split
    · exact refl s
    · split_ifs
      · exact lessPlan ..
      · exact refl s

theorem revertPlaced (id : Option PlanId) (j : Nat) (s : State) : Chores 0 s (revertPlaced id j s) := by
  unfold Machine.revertPlaced
  split
  · exact refl s
  · split
    · exact refl s
    · split_ifs
      · exact lessPlan ..
      · exact refl s

theorem revertCase (id : Option PlanId) (s : State) (c : CaseRec) : Chores 0 s (revertCase id s c) := by
  unfold Machine.revertCase
  split
  · exact revertPlaced ..
  · exact planLess ..

theorem completePlan (p : Plan) (s : State) : Chores 0 s (completePlan p s) := (report ..).trans (dropPlan ..)

theorem placeMore (id : Option PlanId) (j : Nat) (s : State) : Chores 0 s (placeMore id j s).1 := by
  unfold Machine.placeMore
  split
  · exact refl s
  · split
    · exact refl s
    · rename_i p _ _ l _
      by_cases h : l.placed < l.planned
      · by_cases hc : (p.onLine j fun l => { l with placed := l.placed + 1 }).complete = true
        · simp only [h, hc, if_true]
          exact (onPlan ..).trans (completePlan ..)
        · simp only [h, hc, if_true]
          exact onPlan ..
      · simp only [h, if_false]
        exact refl s

theorem closePart (i : StationNo) (s : State) : Chores 0 s (closePart i s) := by
  unfold Machine.closePart
  split
  · exact refl s
  · dsimp only
    split_ifs
    · exact (onPlan ..).trans (bindingAttempt _)
    · exact onPlan ..

/-! #### Replans -/

theorem refillReplans (s : State) : Chores 0 s (refillReplans s) := of_same rfl rfl rfl rfl rfl rfl rfl rfl rfl

theorem askReplan (i : StationNo) (t : Tracking) (s : State) : Chores 0 s (askReplan i t s) := by
  unfold Machine.askReplan
  split_ifs <;> exact of_same rfl rfl rfl rfl rfl rfl rfl rfl rfl

theorem keepReplans (keep : Replan → Bool) (s : State) : Chores 0 s (keepReplans keep s) :=
  of_same rfl rfl rfl rfl rfl rfl rfl rfl rfl

theorem cancelReplans (i : StationNo) (s : State) : Chores 0 s (cancelReplans i s) := by
  refine trans (n := 0) (keepReplans (fun r => r.station != i) s) ?_
  refine of_parts (fun i => .refl _) rfl rfl (fun j hj => ?_) (fun k => rfl) (fun i => rfl) (fun i => rfl)
    (.of_same rfl rfl rfl fun _ => rfl)
  obtain ⟨x, hx, rfl⟩ := Option.map_eq_some_iff.mp hj
  refine ⟨x, hx, ?_⟩
  split_ifs <;> exact ⟨rfl, rfl⟩

/-! #### Orders and builds cut back -/

theorem withdraw (i : StationNo) (qs : List OrderSeq) (s : State) : Chores 0 s (withdraw i qs s) := by
  unfold Machine.withdraw
  split_ifs
  · exact refl s
  · exact (foldl (fun s r => issueB ..) _ s).trans (onStation rfl rfl rfl)

theorem truncateBuild (i : StationNo) (k : Nat) (s : State) : Chores 1 s (truncateBuild i k s) := by
  unfold Machine.truncateBuild
  split_ifs
  · exact (onBuild (.truncate _ k)).trans (raiseFlags _)
  · exact (refl s).mono (Nat.zero_le 1)

theorem unplace (i : StationNo) (os : List Order) (s : State) : Chores 1 s (unplace i os s) := by
  unfold Machine.unplace
  dsimp only
  split
  · exact (refl s).mono (Nat.zero_le 1)
  · exact (truncateBuild i _ s).trans (foldl (fun s j => planLess _ j s) _ _)

theorem startTake (i : StationNo) (s : State) : Chores 0 s (startTake i s) := onStation rfl rfl rfl

/-! #### Closing and exchange -/

theorem exchangeCall (i : StationNo) (s : State) : Chores 0 s (exchangeCall i s) := issueB ..

theorem awaitExchange (i : StationNo) (s : State) : Chores 0 s (awaitExchange i s) :=
  ((enterState s i .awaitExchange).trans (exchangeCall i _)).trans (report _ _)

theorem closingTest (i : StationNo) (s : State) : Chores 0 s (closingTest i s) := by
  unfold Machine.closingTest
  split_ifs
  · exact awaitExchange i s
  · exact refl s

theorem enterClosing (i : StationNo) (r : CloseReason) (s : State) : Chores 0 s (enterClosing i r s) :=
  ((onStation (g := fun st => { st with close := some r }) rfl rfl rfl).trans (enterState _ i .closing)).trans
    (closingTest i _)

theorem completionNotice (i : StationNo) (s : State) : Chores 0 s (completionNotice i s) := by
  have noted : Chores 0 s (s.onStation i fun st => { st with close := some .complete }) := onStation rfl rfl rfl
  unfold Machine.completionNotice
  split
  · dsimp only
    split_ifs
    · exact noted.trans (awaitExchange i _)
    · exact noted.trans (enterState _ i .closing)
  · exact noted
  · exact refl s

theorem notice (n : Option StationNo) (s : State) : Chores 0 s (notice n s) := by
  cases n with
  | none => exact refl s
  | some i => exact completionNotice i s

theorem faultExchange (i : StationNo) (s : State) : Chores 0 s (faultExchange i s) :=
  ((onStation (g := fun st => { st with exchangeExpiry := none, cause := .exchangeTimeout }) rfl rfl rfl).trans
    (enterState _ i .fault)).trans (report _ _)

theorem split (s : State) (i : StationNo) : Chores 0 s (split s i) := by
  unfold Machine.split
  split_ifs
  · exact (closePart i s).trans (enterClosing i _ _)
  · exact refl s

theorem handOver (ex : List StationNo) (s : State) : Chores 0 s (handOver ex s) := foldl split _ s

theorem endJob (ex : List StationNo) (s : State) : Chores 0 s (endJob ex s) := (noJob s).trans (handOver ex _)

theorem recallExchange (i : StationNo) (s : State) : Chores 0 s (recallExchange i s) :=
  ((onStation (g := fun st => { st with cause := .none }) rfl rfl rfl).trans (enterState _ i _)).trans (exchangeCall i _)

theorem bringOnline (i : StationNo) (kind : BaseKind) (s : State) : Chores 0 s (bringOnline i kind s) := by
  have hidle := (onStation (s := s) (i := i) (g := fun st => { st with baseKind := kind }) rfl rfl rfl).trans
    (enterState _ i .idle)
  unfold Machine.bringOnline
  dsimp only
  split_ifs
  · exact hidle.trans (bindingAttempt _)
  · exact hidle

theorem readyRises (i : StationNo) (s : State) : Chores 0 s (readyRises i s) := by
  have hready : Chores 0 s (s.onStation i fun st => { st with ready := true }) := onStation rfl rfl rfl
  unfold Machine.readyRises
  dsimp only
  split_ifs
  · exact hready.trans (bindingAttempt _)
  · exact hready

theorem exchangeStarts (i : StationNo) (s : State) : Chores 0 s (exchangeStarts i s) := by
  unfold Machine.exchangeStarts
  split_ifs
  · exact (onStation (g := fun st => { st with exchangeExpiry := some _ }) rfl rfl rfl).trans (enterState ..)
  · exact refl s

theorem exchangeEnds (i : StationNo) (s : State) : Chores 1 s (exchangeEnds i s) := by
  have hidle := (((onStation (s := s) (i := i)
    (g := fun st => { st with exchangeExpiry := none, close := none, cause := .none }) rfl rfl rfl).trans
      (onBuild (i := i) (.clear _))).trans (enterState _ i .idle)).trans (report (.stationIdle i) _)
  unfold Machine.exchangeEnds
  dsimp only
  split_ifs
  · exact hidle.trans (bindingAttempt _)
  · exact hidle

/-! #### Lanes -/

theorem laneFault (k : LaneNo) (c : LaneCause) (s : State) : Chores 0 s (laneFault k c s) := by
  unfold Machine.laneFault
  split_ifs
  · exact ((onLane (g := fun l => { l with state := .fault, cause := c }) rfl).trans (setFlag _ k false)).trans
      (report _ _)
  · exact refl s

theorem flagIfListed (k : LaneNo) (s : State) : Chores 0 s (flagIfListed k s) := by
  unfold Machine.flagIfListed
  split_ifs
  · exact setFlag s k true
  · exact refl s

theorem laneFlushed (k : LaneNo) (s : State) : Chores 0 s (laneFlushed k s) := by
  unfold Machine.laneFlushed
  split_ifs
  · exact onLane rfl
  · exact refl s

theorem releaseTimer (k : LaneNo) (s : State) : Chores 0 s (releaseTimer k s) := by
  unfold Machine.releaseTimer
  split_ifs
  · exact (onLane (g := fun l => { l with expiry := none }) rfl).trans (laneFault k _ _)
  · exact refl s

theorem noRelease (k : LaneNo) (s : State) : Chores 0 s (noRelease k s) := by
  unfold Machine.noRelease
  split_ifs
  · exact setFlag s k true
  · exact refl s

theorem takeOutReplan (r : Replan) (s : State) : Chores 0 s (takeOutReplan r s) := of_same rfl rfl rfl rfl rfl rfl rfl rfl rfl

end Chores

end Sys2Proof.Machine
end

section
/-!
PROOFS. What the working operations that move cases do to builds, snapshots and the job (`Trims`).
-/

namespace Sys2Proof.Machine

/-! ### The tracking table -/


/-- A changed entry of the tracking table, read (R89). -/
theorem track_onTrack (s : State) (t u : Tracking) {g : Track → Track} (hg : ∀ e, (g e).tracking = e.tracking) :
    (s.onTrack t g).track u = if u = t then (s.track u).map g else s.track u := by
  unfold State.track State.onTrack
  dsimp only
  induction s.tracker.tracks with
  | nil => simp [changeFirst]
  | cons e l ih =>
    by_cases he : e.tracking = t
    · have hc : changeFirst (fun e => e.tracking == t) g (e :: l) = g e :: l := by simp [changeFirst, he]
      rw [hc, List.find?_cons, List.find?_cons, hg, he]
      by_cases hu : u = t
      · simp [hu]
      · rw [if_neg hu, beq_false_of_ne (Ne.symm hu)]
    · have hc : changeFirst (fun e => e.tracking == t) g (e :: l) = e :: changeFirst (fun e => e.tracking == t) g l := by
        simp [changeFirst, he]
      rw [hc, List.find?_cons, List.find?_cons, ih]
      by_cases hu : e.tracking = u
      · have hut : ¬u = t := hu ▸ he
        rw [hu, beq_self_eq_true]
        simp only [if_neg hut]
      · rw [beq_false_of_ne hu]

theorem track_setTrack (s : State) (t u : Tracking) (st : TrackState) :
    (s.setTrack t st).track u = if u = t then (s.track u).map fun e => { e with state := st } else s.track u :=
  track_onTrack s t u fun _ => rfl

/-- A removed entry is not found, and every other is as it was (R92). -/
theorem track_dropTrack (s : State) (t u : Tracking) :
    (s.dropTrack t).track u = if u = t then none else s.track u := by
  unfold State.track State.dropTrack
  dsimp only
  rw [List.find?_filter]
  split_ifs with h
  · rw [List.find?_eq_none]
    intro e _
    simp [h]
  · congr 1
    funext e
    by_cases he : e.tracking = u
    · simp [he, h]
    · simp [he]

/-! ### Trims of the operations that move cases -/

namespace Trims

/-- A change of all but builds, articles, cases, the job, the states of the stations, the request unit and port A. -/
theorem of_same {s t : State} (hb : t.builds = s.builds) (ha : t.tables.articles = s.tables.articles)
    (hc : t.tracker.tracks = s.tracker.tracks) (hj : t.engine.job = s.engine.job)
    (hst : ∀ i : StationNo, t.stations[i].state = s.stations[i].state) (hr : t.req = s.req)
    (hp : t.link.portA = s.link.portA) (hslot : t.link.slot = s.link.slot) : Trims 0 s t :=
  ⟨.of_same hb ha hc hj, .of_same (by rw [hp]) hslot hr hst⟩

theorem onStation (s : State) (i : StationNo) (g : Station → Station)
    (hg : (g s.stations[i]).state = s.stations[i].state) : Trims 0 s (s.onStation i g) := by
  refine of_same rfl rfl rfl rfl (fun j => ?_) rfl rfl rfl
  rcases eq_or_ne i j with rfl | hne
  · rw [onStation_get]
    exact hg
  · rw [onStation_get_ne s g hne]

theorem onLane (s : State) (k : LaneNo) (g : Lane → Lane) : Trims 0 s (s.onLane k g) :=
  of_same rfl rfl rfl rfl (fun _ => rfl) rfl rfl rfl

theorem onTrack {s : State} {t : Tracking} {g : Track → Track}
    (hg : ∀ e, (g e).tracking = e.tracking ∧ (g e).snap = e.snap ∧ (g e).weight = e.weight) :
    Trims 0 s (s.onTrack t g) where
  seen := .of_same rfl rfl rfl fun _ => rfl
  builds i := .refl _
  articles a h := .inl h
  tracks u e h := by
    rw [track_onTrack s t u fun e => (hg e).1] at h
    split_ifs at h
    · obtain ⟨x, hx, rfl⟩ := Option.map_eq_some_iff.mp h
      exact ⟨x, hx, (hg x).2⟩
    · exact ⟨e, h, rfl, rfl⟩
  snaps e h := by
    rcases mem_changeFirst h with h | ⟨y, hy, rfl⟩
    · exact ⟨e, h, rfl⟩
    · exact ⟨y, List.mem_of_find?_eq_some hy, (hg y).2.1⟩
  job j h := ⟨j, h, rfl, rfl⟩

theorem setTrack (s : State) (t : Tracking) (st : TrackState) : Trims 0 s (s.setTrack t st) :=
  onTrack fun _ => ⟨rfl, rfl, rfl⟩

theorem circulate (s : State) (t : Tracking) : Trims 0 s (s.circulate t) := setTrack ..

theorem bump (s : State) (t : Tracking) : Trims 0 s (s.bump t) := onTrack fun _ => ⟨rfl, rfl, rfl⟩

theorem dropTrack (s : State) (t : Tracking) : Trims 0 s (s.dropTrack t) where
  seen := .of_same rfl rfl rfl fun _ => rfl
  builds i := .refl _
  articles a h := .inl h
  tracks u e h := by
    rw [track_dropTrack] at h
    split_ifs at h
    exact ⟨e, h, rfl, rfl⟩
  snaps e h := ⟨e, List.mem_of_mem_filter h, rfl⟩
  job j h := ⟨j, h, rfl, rfl⟩

/-- Operations that cut no build, one after another over a list. -/
theorem foldl0 {α : Type} {op : State → α → State} (h : ∀ s a, Trims 0 s (op s a)) (l : List α) (s : State) :
    Trims 0 s (l.foldl op s) := (foldl h l s).mono (by omega)

/-! #### Orders and spurs -/

theorem issueOrder (i : StationNo) (t : Tracking) (d : OrderTarget) (fr : OrderFrameTarget) (s : State) :
    Trims 0 s (issueOrder i t d fr s) :=
  ((onStation s i _ rfl).trans (Chores.issueB ..).toTrims).trans (setTrack ..)

theorem leaveSpur (i : StationNo) (t : Tracking) (s : State) : Trims 0 s (leaveSpur i t s) := onStation s i _ rfl

theorem rejectOrder (i : StationNo) (t : Tracking) (r : RejectReason) (s : State) : Trims 0 s (rejectOrder i t r s) :=
  (leaveSpur i t s).trans (issueOrder ..)

theorem issueDiscard (i : StationNo) (s : State) : Trims 0 s (issueDiscard i s) := by
  unfold Machine.issueDiscard
  split_ifs
  · split
    · exact rejectOrder ..
    · exact refl s
  · exact refl s

theorem issueDiscards (i : StationNo) (s : State) : Trims 0 s (issueDiscards i s) :=
  (((issueDiscard i s).trans (issueDiscard i _)).trans (issueDiscard i _)).trans (issueDiscard i _)

theorem toSpur (i : StationNo) (os : List Order) (s : State) : Trims 0 s (toSpur i os s) := by
  unfold Machine.toSpur
  exact (onStation s i _ rfl).trans (foldl0 (fun s o => setTrack ..) os _)

theorem faultWorking (i : StationNo) (c : StationCause) (s : State) : Trims 1 s (faultWorking i c s) := by
  unfold Machine.faultWorking
  refine trans (n := 0) ?_ (Chores.report ..).toTrims
  refine trans (n := 0) ?_ (Chores.enterState ..).toTrims
  refine trans (n := 0) ?_ (onStation (hg := rfl) ..)
  refine trans (n := 0) ?_ (Chores.cancelReplans ..).toTrims
  refine trans (n := 0) ?_ (toSpur ..)
  refine trans (m := 0) ?_ (Chores.unplace ..).toTrims
  exact (onStation (hg := rfl) ..).trans (Chores.withdraw ..).toTrims

theorem stationFault (i : StationNo) (c : StationCause) (s : State) : Trims 1 s (stationFault i c s) := by
  unfold Machine.stationFault
  split_ifs
  · exact faultWorking i c s
  · exact (refl s).mono (Nat.zero_le 1)

theorem cutOrders (i : StationNo) (kept leaving : List Order) (named : List OrderSeq) (s : State) :
    Trims 1 s (cutOrders i kept leaving named s) :=
  ((onStation s i _ rfl).trans (Chores.unplace ..).toTrims).trans (Chores.withdraw ..).toTrims

theorem cascade (i : StationNo) (kept : List Order) (failed : Order) (later : List Order) (named : List OrderSeq)
    (s : State) : Trims 1 s (cascade i kept failed later named s) := by
  unfold Machine.cascade
  exact (((cutOrders ..).trans (toSpur ..)).trans (foldl0 (fun s o => (Chores.askReplan ..).toTrims) _ _)).trans
    (issueDiscards ..)

/-! #### The ends of orders -/

theorem doneCase (i : StationNo) (o : Order) (s : State) : Trims 0 s (doneCase i o s).1 := by
  unfold Machine.doneCase
  split
  · unfold casePlaced
    dsimp only
    split
    · exact dropTrack ..
    · exact (((Chores.onBuild (.confirm ..)).trans (Chores.placeMore ..)).toTrims.trans (dropTrack ..)).trans
        (Chores.report ..).toTrims
  · exact (dropTrack ..).trans (Chores.report ..).toTrims

theorem caseLost (i : StationNo) (o : Order) (s : State) : Trims 0 s (caseLost i o s) :=
  (dropTrack ..).trans (Chores.report ..).toTrims

theorem caseMissed (t : Tracking) (s : State) : Trims 0 s (caseMissed t s) := (bump s t).trans (circulate _ t)

theorem popOrder (i : StationNo) (s : State) : Trims 0 s (popOrder i s) := onStation s i _ rfl

theorem orderTaken (i : StationNo) (s : State) : Trims 0 s (orderTaken i s) := by
  unfold Machine.orderTaken
  exact onStation (hg := rfl) ..

theorem orderDone (i : StationNo) (o : Order) (s : State) : Trims 0 s (orderDone i o s) := by
  unfold Machine.orderDone
  have popped : Trims 0 s ((Machine.popOrder i s).onStation i fun st => { st with placeExpiry := none }) :=
    (popOrder i s).trans (onStation (hg := rfl) ..)
  exact ((((popped.trans (doneCase i o _)).trans (Chores.startTake i _).toTrims).trans (issueDiscards i _)).trans
    (Chores.closingTest i _).toTrims).trans (Chores.notice ..).toTrims

theorem orderDropped (i : StationNo) (o : Order) (s : State) : Trims 1 s (orderDropped i o s) :=
  ((cascade ..).trans (caseLost ..)).trans (Chores.closingTest ..).toTrims

theorem orderNoCase (i : StationNo) (o : Order) (s : State) : Trims 1 s (orderNoCase i o s) :=
  ((cascade ..).trans (caseMissed ..)).trans (Chores.closingTest ..).toTrims

theorem orderBlocked (i : StationNo) (o : Order) (s : State) : Trims 2 s (orderBlocked i o s) :=
  ((cutOrders ..).trans (toSpur ..)).trans (stationFault ..)

theorem replyWorking (i : StationNo) (q : OrderSeq) (out : ReplyOutcome) (s : State) :
    Trims 2 s (replyWorking i q out s) := by
  unfold Machine.replyWorking
  split
  · exact (stationFault ..).mono (by omega)
  · split_ifs
    · split
      · exact (orderTaken ..).mono (by omega)
      · exact (orderNoCase ..).mono (by omega)
      · exact (orderDone ..).mono (by omega)
      · exact (orderDropped ..).mono (by omega)
      · exact orderBlocked ..
      · exact (stationFault ..).mono (by omega)
    · exact (stationFault ..).mono (by omega)

theorem endOrder (i : StationNo) (o : Order) (s : State) : Trims 0 s (endOrder i o s) := onStation s i _ rfl

theorem headSpur (i : StationNo) (o : Order) (s : State) : Trims 0 s (headSpur i o s) :=
  (onStation s i _ rfl).trans (setTrack ..)

/-- The end of the UNKNOWN order by a DONE (R146, R148). -/
theorem unknownDone (i : StationNo) (o : Order) (s : State) :
    Trims 1 s (notice (Machine.doneCase i o (Machine.endOrder i o s)).2 (Machine.doneCase i o (Machine.endOrder i o s)).1) :=
  (((endOrder i o s).trans (doneCase i o _)).trans (Chores.notice ..).toTrims).mono (by omega)

/-- The UNKNOWN order and its case taken back (R146, R148). -/
theorem removed (i : StationNo) (o : Order) (s : State) :
    Trims 1 s (Machine.unplace i [o] (Machine.endOrder i o s)) := (endOrder i o s).trans (Chores.unplace ..).toTrims

theorem replyFault (i : StationNo) (q : OrderSeq) (out : ReplyOutcome) (s : State) :
    Trims 1 s (replyFault i q out s) := by
  unfold Machine.replyFault
  split
  · exact (refl s).mono (Nat.zero_le 1)
  · split
    · exact (refl s).mono (Nat.zero_le 1)
    · exact unknownDone ..
    · exact (removed ..).trans (caseLost ..)
    · exact (removed ..).trans (caseMissed ..)
    · exact (removed ..).trans (headSpur ..)

theorem orderReply (i : StationNo) (q : OrderSeq) (out : ReplyOutcome) (s : State) :
    Trims 2 s (orderReply i q out s) := by
  unfold Machine.orderReply
  split_ifs
  · exact (refl s).mono (by omega)
  · split
    · exact (replyFault ..).mono (by omega)
    · exact replyWorking ..
    · exact replyWorking ..
    all_goals exact (refl s).mono (by omega)

/-! #### Acknowledge and RESTART -/

theorem resolveUnknown (i : StationNo) (d : Nat) (s : State) : Trims 1 s (resolveUnknown i d s) := by
  unfold Machine.resolveUnknown
  split
  · exact (refl s).mono (Nat.zero_le 1)
  · dsimp only
    split_ifs
    · exact unknownDone ..
    · exact (removed ..).trans (caseMissed ..)

theorem keepBuild (i : StationNo) (d : Nat) (s : State) : Trims 1 s (keepBuild i d s) := by
  unfold Machine.keepBuild
  dsimp only
  refine trans (n := 0) ?_ (Chores.closingTest ..).toTrims
  refine trans (n := 0) ?_ (issueDiscards ..)
  refine trans (n := 0) ?_ (foldl0 (fun s e => (Chores.askReplan ..).toTrims) _ _)
  have settled := (resolveUnknown i d s).trans (onStation _ i (fun st => { st with cause := .none }) rfl)
  split_ifs
  · exact settled.trans ((Chores.enterState ..).trans (Chores.raiseFlags _)).toTrims
  · exact settled.trans (Chores.enterState ..).toTrims

theorem discardBuild (i : StationNo) (d : Nat) (s : State) : Trims 2 s (discardBuild i d s) := by
  unfold Machine.discardBuild
  dsimp only
  refine trans (n := 0) ?_ (Chores.closingTest ..).toTrims
  refine trans (n := 0) ?_ (issueDiscards ..)
  refine trans (n := 0) ?_ (Chores.enterState ..).toTrims
  refine trans (n := 0) ?_ (onStation (hg := rfl) ..)
  refine trans (n := 0) ?_ (Chores.closePart ..).toTrims
  refine trans (n := 0) ?_ (Chores.report ..).toTrims
  refine trans (n := 0) ?_ (foldl0 (fun s c => (Chores.revertCase ..).toTrims) _ _)
  exact (resolveUnknown i d s).trans (Chores.truncateBuild ..).toTrims

theorem restartStation (s : State) (i : StationNo) : Trims 1 s (restartStation s i) := by
  have emptied := onStation s i
    (fun st => { st with spur := [], takeExpiry := none, placeExpiry := none, orders := [] }) rfl
  unfold Machine.restartStation
  dsimp only
  split_ifs
  · split
    · exact (emptied.trans (Chores.closingTest i _).toTrims).mono (Nat.zero_le 1)
    · exact (emptied.trans (onStation (hg := rfl) ..)).mono (Nat.zero_le 1)
    all_goals exact emptied.mono (Nat.zero_le 1)
  · exact (((emptied.trans (Chores.withdraw ..).toTrims).trans (Chores.unplace ..).toTrims).trans (onStation (hg := rfl) ..)).trans
      (Chores.enterState ..).toTrims

theorem restartTracking (s : State) : Trims 0 s (restartTracking s) where
  seen := .of_same rfl rfl rfl fun _ => rfl
  builds i := .refl _
  articles a h := .inl h
  tracks u e h := by cases h
  snaps e h := by cases h
  job j h := by cases h

theorem restartLanes (s : State) : Trims 0 s (restartLanes s) := of_same rfl rfl rfl rfl (fun _ => rfl) rfl rfl rfl

/-- The supervision timer, which no reply in progress is of. -/
theorem setSup (s : State) (x : SupTimer) : Trims 0 s (s.setSup x) where
  toCarries := .of_same rfl rfl rfl rfl
  seen := ⟨rfl, ⟨rfl, rfl, rfl⟩, rfl, fun e _ _ _ _ changed he hp => ⟨changed, by rw [← hp]; exact he, id,
    fun _ _ hne => absurd rfl hne⟩⟩

theorem restartBlocks (s : State) : Trims 8 s (restartBlocks s) := by
  unfold Machine.restartBlocks armSupervision
  refine trans (n := 0) ?_ (Chores.bindingAttempt _).toTrims
  refine trans (n := 0) ?_ (setSup ..)
  refine trans (n := 0) ?_ (restartLanes _)
  refine trans (n := 0) ?_ (restartTracking _)
  exact foldl restartStation allStations s

/-! #### Lanes -/

theorem laneEntered (k : LaneNo) (t : Tracking) (s : State) : Trims 0 s (laneEntered k t s) := by
  unfold Machine.laneEntered
  split
  · exact refl s
  all_goals
    split_ifs
    · dsimp only
      split_ifs
      · exact (setTrack ..).trans (Chores.flagIfListed ..).toTrims
      · exact setTrack ..
    · exact (Chores.laneFault ..).toTrims

theorem laneReturn (k : LaneNo) (t : Tracking) (st : TrackState) (s : State) : Trims 0 s (laneReturn k t st s) := by
  have left := onLane s k fun l => { l with list := l.list.filter fun u => u != t }
  unfold Machine.laneReturn
  dsimp only
  split
  · split_ifs
    · exact left.trans (Chores.flagIfListed ..).toTrims
    · exact left
  · exact (left.trans (onLane ..)).trans (Chores.laneFault ..).toTrims
  · exact left.trans (Chores.laneFault ..).toTrims

theorem releaseHead (k : LaneNo) (t : Tracking) (s : State) : Trims 0 s (releaseHead k t s) :=
  ((Chores.issueB ..).toTrims.trans (onLane ..)).trans (setTrack ..)

theorem laneReleased (k : LaneNo) (t : Tracking) (s : State) : Trims 0 s (laneReleased k t s) := by
  unfold Machine.laneReleased
  split
  · exact refl s
  all_goals
    split_ifs
    · exact (((onLane ..).trans (bump ..)).trans (setTrack ..)).trans
        ((Chores.report ..).trans (Chores.flagIfListed ..)).toTrims
    · exact (Chores.laneFault ..).toTrims

theorem flush (k : LaneNo) (s : State) : Trims 0 s (flush k s) :=
  (((Chores.issueB ..).toTrims.trans (foldl0 (fun _ _ => setTrack ..) _ _)).trans (onLane ..)).trans
    (Chores.setFlag ..).toTrims

theorem commitLane (k : LaneNo) (t : Tracking) (s : State) : Trims 0 s (commitLane k t s) :=
  (((onLane ..).trans (setTrack ..)).trans (Chores.sendDecision ..).toTrims).trans (Chores.report ..).toTrims

/-! #### Arrivals -/

theorem lateCase (a : Arrival) (s : State) : Trims 0 s (lateCase a s) := (bump ..).trans (Chores.report ..).toTrims

theorem rejectArrival (a : Arrival) (r : RejectReason) (s : State) : Trims 0 s (rejectArrival a r s) :=
  ((Chores.sendDecision ..).toTrims.trans (dropTrack ..)).trans (Chores.report ..).toTrims

theorem passArrival (a : Arrival) (s : State) : Trims 0 s (passArrival a s) :=
  (Chores.sendDecision ..).toTrims.trans (bump ..)

theorem missedOrder (i : StationNo) (o : Order) (s : State) : Trims 1 s (missedOrder i o s) :=
  ((cascade ..).trans (caseMissed ..)).trans (Chores.closingTest ..).toTrims

theorem spurReturn (i : StationNo) (t : Tracking) (s : State) : Trims 0 s (spurReturn i t s) :=
  (((leaveSpur i t s).trans (Chores.keepReplans ..).toTrims).trans (circulate ..)).trans (Chores.closingTest ..).toTrims

theorem rearrive (t : Tracking) (st : TrackState) (s : State) : Trims 1 s (rearrive t st s) := by
  unfold Machine.rearrive
  split
  case h_3 =>
    split
    · exact missedOrder ..
    · exact (circulate ..).mono (Nat.zero_le 1)
  case h_4 => exact (spurReturn ..).mono (Nat.zero_le 1)
  case h_1 => exact (circulate ..).mono (Nat.zero_le 1)
  case h_2 => exact (circulate ..).mono (Nat.zero_le 1)
  all_goals exact ((laneReturn ..).trans (circulate ..)).mono (Nat.zero_le 1)

theorem duplicateFault (st : TrackState) (s : State) : Trims 1 s (duplicateFault st s) := by
  unfold Machine.duplicateFault
  split
  · exact stationFault ..
  all_goals exact (refl s).mono (Nat.zero_le 1)

theorem gateClosedArrival (a : Arrival) (s : State) : Trims 1 s (gateClosedArrival a s) := by
  unfold Machine.gateClosedArrival
  split
  · exact (refl s).mono (Nat.zero_le 1)
  · split_ifs
    · exact duplicateFault ..
    · exact rearrive ..

theorem untracked (a : Arrival) (s : State) : Trims 0 s (untracked a s) := by
  unfold Machine.untracked
  split_ifs
  · exact (Chores.report ..).toTrims
  · exact refl s

theorem deadlinePasses (t : Tracking) (s : State) : Trims 0 s (deadlinePasses t s) := by
  unfold Machine.deadlinePasses
  split
  · exact refl s
  · split_ifs
    · exact (dropTrack ..).trans (Chores.report ..).toTrims
    · exact refl s

theorem rejectReplan (r : Replan) (s : State) : Trims 0 s (rejectReplan r s) := by
  unfold Machine.rejectReplan
  split_ifs
  · exact rejectOrder ..
  · exact refl s

end Trims

/-! ### The line time and the loads -/

namespace Carries

theorem moveTime (s : State) (t : LineTime) : Carries 0 s (s.moveTime t) where
  builds i := .refl _
  articles a h := .inl h
  tracks u e h := by
    have hfind : (s.tracker.tracks.map (Track.reach t)).find? (fun e => e.tracking == u) = some e := h
    rw [List.find?_map] at hfind
    obtain ⟨x, hx, rfl⟩ := Option.map_eq_some_iff.mp hfind
    exact ⟨x, hx, rfl, rfl⟩
  snaps e h := by
    obtain ⟨x, hx, rfl⟩ := List.mem_map.mp (show e ∈ s.tracker.tracks.map (Track.reach t) from h)
    exact ⟨x, hx, rfl⟩
  job j h := ⟨j, h, rfl, rfl⟩

/-- An article record that passes its checks is measured (R48). -/
theorem measured_of_record {p : List Byte} (h : badArticle p = none) :
    1 ≤ (articleOf p).length ∧ 1 ≤ (articleOf p).width := by
  unfold badArticle at h
  simp only [firstBad] at h
  split_ifs at h with h1 h2 h3
  simp only [decide_eq_true_eq] at h2 h3
  exact ⟨h2.1, h3.1⟩

/-- A change of the article table by deletions and measured articles. -/
theorem setArticles {s : State} (l : List Article)
    (h : ∀ a ∈ l, a ∈ s.tables.articles ∨ (1 ≤ a.length ∧ 1 ≤ a.width)) :
    Carries 0 s { s with tables := { s.tables with articles := l } } :=
  { refl s with articles := h }

theorem takeData {s : State} {e : Exec} {gap : Timer} (p : List Byte) (he : s.req.exec = some e)
    (hp : e.phase = .loading gap) : Carries 0 s (takeData e p s) := by
  refine takeData_meets (Q := Carries 0) (fun h k => h.trans k) .of_quiet
    (fun s p hbad _ => setArticles _ fun a ha => ?_) (fun u a e' c r i res _ _ => ?_) p e s rfl rfl
    ⟨e, gap, he, rfl, hp⟩
  · rcases mem_putKey ha with rfl | ha
    · exact .inr (measured_of_record hbad)
    · exact .inl ha
  · unfold makePlan
    refine trans (n := 0) ?_ (.of_quiet (.finishLoad ..))
    refine trans (n := 0) ?_ (Chores.bindingAttempt _).toCarries
    exact of_same rfl rfl rfl rfl

end Carries

end Sys2Proof.Machine
end

section
/-!
PROOFS. Every step keeps the builds sound, the articles measured and the placement that waits fitting (R7, R9, R10, R13).
-/

namespace Sys2Proof.Machine

/-! ### What working operations keep -/

theorem Carries.buildsSound {n : Nat} {s t : State} (h : Carries n s t) (hs : BuildsSound s) : BuildsSound t :=
  fun i => (h.builds i).sound (hs i)

theorem Carries.articlesOk {n : Nat} {s t : State} (h : Carries n s t) (hs : ArticlesOk s) : ArticlesOk t := by
  obtain ⟨harts, hsnaps⟩ := hs
  refine ⟨fun a ha => (h.articles a ha).elim (harts a) id, fun e he a hsnap => ?_⟩
  obtain ⟨x, hx, eq⟩ := h.snaps e he
  exact hsnaps x hx a (eq ▸ hsnap)

/-- Fewer changes than a revision has values do not bring it back (R16). -/
theorem revision_moved {r : Revision} {k : Nat} (hk : k ≠ 0) (hlt : k < 65536) : r + BitVec.ofNat 16 k ≠ r := by
  intro e
  have h0 : BitVec.ofNat 16 k = 0 := by
    have := congrArg (fun x => x - r) e
    simpa [BitVec.add_comm r, BitVec.add_sub_cancel] using this
  have := congrArg BitVec.toNat h0
  rw [BitVec.toNat_ofNat, Nat.mod_eq_of_lt hlt] at this
  exact hk this

theorem Carries.placementsFit {n : Nat} {s t : State} (h : Carries n s t) (hn : n < 65536) (hs : PlacementsFit s)
    (hr : RevisionsMoveOn s t) : PlacementsFit t := by
  intro j p u e hj hd hu he hrev
  obtain ⟨x, hx, hwork, hdec⟩ := h.job j hj
  obtain ⟨y, hy, -, hweight⟩ := h.tracks u e he
  obtain ⟨-, k, hk, hmove, hfit⟩ := h.builds p.station
  rcases Nat.eq_zero_or_pos k with h0 | hpos
  · have hsame : t.builds[p.station].revision = s.builds[p.station].revision := by
      rw [hmove, h0]
      simp
    rw [hweight]
    exact hfit h0 _ _ (hs x p u y hx (hdec.trans hd) (hwork ▸ hu) hy (hsame ▸ hrev))
  · refine absurd hrev (hr x p hx (hdec.trans hd) ?_)
    rw [hmove]
    exact revision_moved hpos.ne' (hk.trans_lt hn)

/-- What a step has to keep of builds, articles and the placement that waits. -/
def KeepsSound (s t : State) : Prop :=
  BuildsSound s → ArticlesOk s → PlacementsFit s →
    BuildsSound t ∧ ArticlesOk t ∧ (RevisionsMoveOn s t → PlacementsFit t)

theorem Carries.keepsSound {n : Nat} {s t : State} (h : Carries n s t) (hn : n < 65536) : KeepsSound s t :=
  fun hb ha hp => ⟨h.buildsSound hb, h.articlesOk ha, h.placementsFit hn hp⟩

theorem Chores.keepsSound {s t : State} (h : Chores 0 s t) : KeepsSound s t := h.toTrims.keepsSound (by decide)

/-- No placement waits when there is no job. -/
theorem placementsFit_of_noJob {s : State} (h : s.engine.job = none) : PlacementsFit s := by
  intro j p u e hj
  simp [h] at hj

theorem Carries.noJob {n : Nat} {s t : State} (h : Carries n s t) (hs : s.engine.job = none) : t.engine.job = none := by
  rcases ht : t.engine.job with - | j
  · rfl
  · obtain ⟨x, hx, -⟩ := h.job j ht
    simp [hs] at hx

theorem endJob_noJob (ex : List StationNo) (s : State) : (endJob ex s).engine.job = none :=
  (Chores.handOver ex (s.setJob none)).toTrims.noJob rfl

/-! ### Runs and commits -/

/-- The case of a job on its placement: the article and weight that its run read. -/
theorem measured_of_track {s : State} (ha : ArticlesOk s) {u : Tracking} {e : Track} (he : s.track u = some e)
    {art : Article} (hart : e.snap = some art) : 1 ≤ art.length ∧ 1 ≤ art.width :=
  ha.2 e (List.mem_of_find?_eq_some he) art hart

/-- A job begun on a placement that fits for the weight its case has. -/
theorem placementsFit_setJob {s : State} {j : Job}
    (h : ∀ p u e, j.decision = .place p → j.work.subject = some u → s.track u = some e →
      Fits s.builds[p.station] e.weight p) : PlacementsFit (s.setJob (some j)) := by
  intro x p u e hx hd hu he _
  obtain rfl := Option.some.inj hx
  exact h p u e hd hu he

theorem acceptance_measured {s : State} (ha : ArticlesOk s) {a : Arrival} {art : Article}
    (h : acceptance s a = .ok art) : 1 ≤ art.length ∧ 1 ≤ art.width := by
  unfold acceptance at h
  split at h
  · cases h
  split at h
  · cases h
  · rename_i x hx
    split_ifs at h
    injection h with h
    exact h ▸ ha.1 x (List.mem_of_find?_eq_some hx)

theorem setSnapshot_articlesOk {s : State} (ha : ArticlesOk s) (t : Tracking) {art : Article} (w : Nat)
    (hart : 1 ≤ art.length ∧ 1 ≤ art.width) : ArticlesOk (setSnapshot t art w s) := by
  refine ⟨ha.1, fun e he a hsnap => ?_⟩
  rcases mem_changeFirst he with he | ⟨y, -, rfl⟩
  · exact ha.2 e he a hsnap
  · obtain rfl := Option.some.inj hsnap
    exact hart

/-- The arrival of a case planned with no job in progress (R95, R97, R100). -/
theorem planArrival_sound {s : State} (hb : BuildsSound s) (ha : ArticlesOk s) (hj : s.engine.job = none) (a : Arrival) :
    BuildsSound (planArrival a s) ∧ ArticlesOk (planArrival a s) ∧ PlacementsFit (planArrival a s) := by
  have ended : ∀ {t}, Trims 0 s t → BuildsSound t ∧ ArticlesOk t ∧ PlacementsFit t := fun h =>
    ⟨h.buildsSound hb, h.articlesOk ha, placementsFit_of_noJob (h.noJob hj)⟩
  unfold planArrival
  split_ifs
  · exact ended (.lateCase a s)
  · split
    · exact ended (.rejectArrival ..)
    · rename_i art hart
      obtain ⟨hl, hw⟩ := acceptance_measured ha hart
      have hb' : BuildsSound (setSnapshot a.tracking art a.weight s) := hb
      refine ⟨hb', setSnapshot_articlesOk ha _ _ ⟨hl, hw⟩, placementsFit_setJob fun p u e hp hu he => ?_⟩
      obtain rfl : a.tracking = u := Option.some.inj hu
      have hweight : e.weight = a.weight := by
        rw [setSnapshot, track_onTrack s a.tracking a.tracking (by simp), if_pos rfl] at he
        obtain ⟨x, -, rfl⟩ := Option.map_eq_some_iff.mp he
        rfl
      rw [hweight]
      exact fits_of_decideArrival hb' hl hw hp

/-- TAKING_AN_ARRIVAL (R93, R95). -/
theorem takeArrival_sound (s : State) : KeepsSound s (takeArrival s) := by
  unfold takeArrival
  split
  · exact (Trims.refl s).keepsSound (by decide)
  rename_i a rest _
  split_ifs with htakes
  · have popped : Carries 0 s { s with tracker := { s.tracker with arrivals := rest } } := .of_same rfl rfl rfl rfl
    have hj : s.engine.job = none := by
      simp only [State.takesArrival, Bool.and_eq_true, Option.isNone_iff_eq_none] at htakes
      exact htakes.1
    generalize ({ s with tracker := { s.tracker with arrivals := rest } } : State) = u at popped
    have kept : ∀ {t}, Trims 1 u t → KeepsSound s t := fun h =>
      (popped.trans h.toCarries).keepsSound (by decide)
    have planned : ∀ v : State, (BuildsSound s → ArticlesOk s → BuildsSound v ∧ ArticlesOk v) → v.engine.job = none →
        KeepsSound s (planArrival a v) := by
      intro v hv hvj hb ha _
      obtain ⟨hvb, hva⟩ := hv hb ha
      obtain ⟨h1, h2, h3⟩ := planArrival_sound hvb hva hvj a
      exact ⟨h1, h2, fun _ => h3⟩
    unfold handleArrival
    split
    · exact kept (.gateClosedArrival a u)
    split
    · split
      · exact kept ((Trims.untracked a u).mono (Nat.zero_le 1))
      · refine planned _ (fun hb ha => ⟨popped.buildsSound hb, (popped.articlesOk ha).1, fun e he x hx => ?_⟩)
          (popped.noJob hj)
        rcases mem_putKey he with rfl | he
        · cases hx
        · exact (popped.articlesOk ha).2 e he x hx
    · rename_i e _
      split_ifs
      · exact kept (((Chores.sendDecision ..).trans (Chores.report ..)).toTrims.trans (.duplicateFault ..))
      · have back := popped.trans (Trims.rearrive a.tracking e.state u).toCarries
        exact planned _ (fun hb ha => ⟨back.buildsSound hb, back.articlesOk ha⟩) (back.noJob hj)
  · exact (Trims.refl s).keepsSound (by decide)

/-- The run of a replan, with its job begun or its case rejected (R106). -/
theorem runReplan_sound {s : State} (hb : BuildsSound s) (ha : ArticlesOk s) (r : Replan) (n : Nat) :
    BuildsSound (runReplan r n s) ∧ ArticlesOk (runReplan r n s) ∧ PlacementsFit (runReplan r n s) := by
  unfold runReplan
  dsimp only
  split
  · rename_i p hp
    refine ⟨hb, ha, placementsFit_setJob fun q u e hq hu he => ?_⟩
    obtain rfl : r.tracking = u := Option.some.inj hu
    obtain rfl : p = q := by
      injection hq
    rw [he] at hp
    simp only [Option.bind_some, Option.bind_eq_some_iff, Option.map_eq_some_iff] at hp
    obtain ⟨x, ⟨art, hart, rfl⟩, hp⟩ := hp
    obtain ⟨hl, hw⟩ := measured_of_track ha he hart
    exact fits_of_decideReplan hb hl hw hp
  · have rejected := (Chores.noJob s).toTrims.trans (Trims.rejectReplan r _)
    exact ⟨rejected.buildsSound hb, rejected.articlesOk ha,
      placementsFit_of_noJob ((Trims.rejectReplan r (s.setJob none)).noJob rfl)⟩

theorem takeReplan_sound (s : State) : KeepsSound s (takeReplan s) := by
  unfold takeReplan
  split
  · exact (Trims.refl s).keepsSound (by decide)
  · rename_i r _
    dsimp only
    have taken := (Chores.takeOutReplan r s).toTrims
    split_ifs
    · exact (Trims.refl s).keepsSound (by decide)
    · intro hb ha _
      obtain ⟨h1, h2, h3⟩ := runReplan_sound (taken.buildsSound hb) (taken.articlesOk ha) r 0
      exact ⟨h1, h2, fun _ => h3⟩
    · exact taken.keepsSound (by decide)

/-- The run of a lane head makes no placement (R107). -/
theorem runHead_sound {s : State} (hb : BuildsSound s) (ha : ArticlesOk s) (k : LaneNo) (t : Tracking) (art : Article)
    (w n : Nat) :
    BuildsSound (runHead k t art w n s) ∧ ArticlesOk (runHead k t art w n s) ∧ PlacementsFit (runHead k t art w n s) := by
  unfold runHead
  dsimp only
  split
  · exact ⟨hb, ha, placementsFit_setJob fun p u e _ hu _ => by cases hu⟩
  · have ended := (Chores.endJob (decideHead s art w).2 s).toTrims
    exact ⟨ended.buildsSound hb, ended.articlesOk ha, placementsFit_of_noJob (endJob_noJob ..)⟩

theorem takeLane_sound (s : State) : KeepsSound s (takeLane s) := by
  unfold takeLane
  split
  · exact (Trims.refl s).keepsSound (by decide)
  · rename_i k _
    have lowered := (Chores.setFlag s k false).toTrims
    split_ifs
    · dsimp only
      split
      · intro hb ha _
        obtain ⟨h1, h2, h3⟩ := runHead_sound (lowered.buildsSound hb) (lowered.articlesOk ha) k _ _ _ 0
        exact ⟨h1, h2, fun _ => h3⟩
      · exact lowered.keepsSound (by decide)
    · exact (Trims.refl s).keepsSound (by decide)

/-- A state after a commit: sound builds, measured articles, and no job. -/
def Committed (t : State) : Prop := BuildsSound t ∧ ArticlesOk t ∧ t.engine.job = none

theorem Committed.keepsSound {s t : State} (h : BuildsSound s → ArticlesOk s → PlacementsFit s → Committed t) :
    KeepsSound s t := by
  intro hb ha hp
  obtain ⟨h1, h2, h3⟩ := h hb ha hp
  exact ⟨h1, h2, fun _ => placementsFit_of_noJob h3⟩

/-- A placement that fits, committed on a build that still has its revision (R10, R102). -/
theorem commitPlace_sound {s : State} (hb : BuildsSound s) (ha : ArticlesOk s) {p : Placement} {w : Nat}
    (hfit : Fits s.builds[p.station] w p) (t : Tracking) (art : Article) {send : State → State}
    (hsend : ∀ u, Chores 0 u (send u)) :
    BuildsSound (commitPlace t art w p send s) ∧ ArticlesOk (commitPlace t art w p send s) := by
  have added : ∀ c : CaseRec, c.weight = w → c.supporters = p.best.supporters → c.drop = p.drop → c.top = p.best.top →
      BuildsSound (s.onBuild p.station fun b => b.add c) := by
    intro c hw hs hd ht i
    rcases eq_or_ne p.station i with rfl | hne
    · rw [onBuild_get]
      exact (hb _).add (hw ▸ hfit) hs hd ht
    · rw [onBuild_get_ne s _ hne]
      exact hb i
  unfold commitPlace
  dsimp only
  have hadd := added (caseRecordOf art t w p s.stations[p.station].nextSeq) rfl rfl rfl rfl
  have harts : ArticlesOk (s.onBuild p.station fun b =>
    b.add (caseRecordOf art t w p s.stations[p.station].nextSeq)) := ha
  have rest : ∀ u : State, Chores 0 u (match s.builds[p.station].planId with
      | some id => planMore id p.line u
      | none => u) := by
    intro u
    split
    · exact .planMore ..
    · exact .refl u
  have work := (((Chores.raiseFlags (s.onBuild p.station fun b =>
    b.add (caseRecordOf art t w p s.stations[p.station].nextSeq))).trans (rest _)).trans (hsend _)).toTrims.trans
    (Trims.issueOrder p.station t (.place s.builds[p.station].cases.length)
      (placeFrame (caseRecordOf art t w p s.stations[p.station].nextSeq)) _)
  exact ⟨work.buildsSound hadd, work.articlesOk harts⟩

/-- A case's job re-run, or ended by its fallback (R104). -/
theorem rerun_sound {s : State} {j : Job} {again : Nat → State → State} {fallback : State → State}
    (hagain : BuildsSound s → ArticlesOk s → ∀ n, BuildsSound (again n s) ∧ ArticlesOk (again n s)
      ∧ PlacementsFit (again n s))
    (hback : Trims 0 s (fallback s)) : KeepsSound s (rerun j again fallback s) := by
  unfold rerun
  split_ifs
  · intro hb ha _
    obtain ⟨h1, h2, h3⟩ := hagain hb ha (j.reruns + 1)
    exact ⟨h1, h2, fun _ => h3⟩
  · exact (hback.trans (Chores.endJob ..).toTrims).keepsSound (by decide)

theorem placeChecks_revision {s : State} {t : Tracking} {p : Placement} (h : placeChecks s t p = true) :
    s.builds[p.station].revision = p.revision := by
  obtain ⟨htakes, -⟩ := takesAdd_of_checks h
  simp only [Build.takesAdd, Bool.and_eq_true, beq_iff_eq] at htakes
  exact htakes.1.1.2

theorem rerunArrival_sound {s : State} (hb : BuildsSound s) (ha : ArticlesOk s) {a : Arrival} {e : Track}
    (he : s.track a.tracking = some e) {art : Article} (hart : e.snap = some art) (n : Nat) :
    BuildsSound (rerunArrival a art e.weight n s) ∧ ArticlesOk (rerunArrival a art e.weight n s)
      ∧ PlacementsFit (rerunArrival a art e.weight n s) := by
  obtain ⟨hl, hw⟩ := measured_of_track ha he hart
  refine ⟨hb, ha, placementsFit_setJob fun p u x hp hu hx => ?_⟩
  obtain rfl : a.tracking = u := Option.some.inj hu
  obtain rfl : e = x := Option.some.inj (he.symm.trans hx)
  exact fits_of_decideArrival hb hl hw hp

theorem commitDecision_sound {s : State} {j : Job} (hj : s.engine.job = some j) {a : Arrival} (hw : j.work = .arrival a)
    {e : Track} (he : s.track a.tracking = some e) {art : Article} (hart : e.snap = some art) :
    KeepsSound s (commitDecision j a art e.weight s) := by
  have again := fun (hb : BuildsSound s) (ha : ArticlesOk s) n => rerunArrival_sound hb ha he hart n
  unfold commitDecision
  split
  · exact ((Trims.passArrival a s).trans (Chores.endJob ..).toTrims).keepsSound (by decide)
  · exact ((Trims.rejectArrival a _ s).trans (Chores.endJob ..).toTrims).keepsSound (by decide)
  · rename_i p hp
    split_ifs with hcheck
    · refine Committed.keepsSound fun hb ha hfit => ?_
      have fits := hfit j p a.tracking e hj hp (by rw [hw]; rfl) he (placeChecks_revision hcheck.2)
      obtain ⟨hb', ha'⟩ := commitPlace_sound hb ha fits a.tracking art
        (send := sendDecision a.tracking (.station p.station)) fun u => .sendDecision ..
      have ended := (Chores.endJob j.exhausted
        (commitPlace a.tracking art e.weight p (sendDecision a.tracking (.station p.station)) s)).toTrims
      exact ⟨ended.buildsSound hb', ended.articlesOk ha', endJob_noJob ..⟩
    · exact rerun_sound again (.passArrival a s)
  · split_ifs
    · exact ((Trims.commitLane _ _ s).trans (Chores.endJob ..).toTrims).keepsSound (by decide)
    · exact rerun_sound again (.passArrival a s)
  · exact (Chores.endJob ..).keepsSound

theorem commitArrival_sound {s : State} {j : Job} (hj : s.engine.job = some j) {a : Arrival} (hw : j.work = .arrival a) :
    KeepsSound s (commitArrival j a s) := by
  unfold commitArrival
  split
  · split_ifs
    · exact ((Trims.circulate s a.tracking).trans (Chores.endJob ..).toTrims).keepsSound (by decide)
    · exact (Chores.endJob ..).keepsSound
  · split
    · exact (Chores.endJob ..).keepsSound
    · rename_i e he
      split_ifs
      · exact ((Trims.lateCase a s).trans (Chores.endJob ..).toTrims).keepsSound (by decide)
      · exact ((Trims.rejectArrival a _ s).trans (Chores.endJob ..).toTrims).keepsSound (by decide)
      · split
        · rename_i art hart
          exact commitDecision_sound hj hw he hart
        · exact (Chores.endJob ..).keepsSound

theorem commitReplan_sound {s : State} {j : Job} (hj : s.engine.job = some j) {r : Replan} (hw : j.work = .replan r) :
    KeepsSound s (commitReplan j r s) := by
  unfold commitReplan
  split_ifs
  · exact (Chores.noJob s).keepsSound
  · split
    · rename_i p art w hp hcase
      obtain ⟨e, he, hsnap⟩ := Option.bind_eq_some_iff.mp hcase
      obtain ⟨x, hx, hxw⟩ := Option.map_eq_some_iff.mp hsnap
      obtain ⟨rfl, rfl⟩ : x = art ∧ e.weight = w := by simpa using hxw
      split_ifs with hcheck
      · refine Committed.keepsSound fun hb ha hfit => ?_
        have fits := hfit j p r.tracking e hj hp (by rw [hw]; rfl) he (placeChecks_revision hcheck)
        obtain ⟨hb', ha'⟩ := commitPlace_sound hb ha fits r.tracking x (send := id) fun u => .refl u
        have ended := (Trims.leaveSpur r.station r.tracking (commitPlace r.tracking x e.weight p id s)).trans
          (Chores.noJob _).toTrims
        exact ⟨ended.buildsSound hb', ended.articlesOk ha', rfl⟩
      · exact rerun_sound (fun hb ha n => runReplan_sound hb ha r n) (.rejectReplan r s)
    · exact (Chores.noJob s).keepsSound

theorem commitHead_sound (s : State) (j : Job) (k : LaneNo) (t : Tracking) : KeepsSound s (commitHead j k t s) := by
  have released := (Chores.noRelease k s).toTrims
  unfold commitHead
  dsimp only
  split
  · split_ifs
    · exact ((Trims.releaseHead k t s).trans (Chores.endJob ..).toTrims).keepsSound (by decide)
    · refine rerun_sound (fun hb ha n => ?_) released
      split
      · exact runHead_sound hb ha k _ _ _ n
      · have ended := released.trans (Chores.endJob j.exhausted _).toTrims
        exact ⟨ended.buildsSound hb, ended.articlesOk ha, placementsFit_of_noJob (endJob_noJob ..)⟩
    · exact (released.trans (Chores.endJob ..).toTrims).keepsSound (by decide)
  all_goals exact (Chores.endJob ..).keepsSound

theorem commitAttempt_sound (s : State) : KeepsSound s (commitAttempt s) := by
  unfold commitAttempt
  split
  · exact (Trims.refl s).keepsSound (by decide)
  · rename_i j hj
    split
    · exact commitArrival_sound hj ‹_›
    · exact commitReplan_sound hj ‹_›
    · exact commitHead_sound s j _ _

/-! ### Every step -/

theorem BuildSound.empty : BuildSound Build.empty := .ofBare rfl rfl rfl

theorem powerOn_sound (s : State) (node : Byte) : KeepsSound s (State.powerOn node) := by
  refine Committed.keepsSound fun _ _ _ => ⟨fun i => ?_, ⟨fun a ha => (by cases ha), fun e he => (by cases he)⟩, rfl⟩
  rw [powerOn_build]
  exact .empty

/-- Every operation of the blocks keeps builds sound, articles measured and placements fitting. -/
theorem sound_upheld : Upholds KeepsSound where
  quiet q := (Carries.of_quiet q).keepsSound (by decide)
  before {s t u} q h hb ha hp := by
    have chores := Carries.of_quiet q
    obtain ⟨h1, h2, h3⟩ := h (chores.buildsSound hb) (chores.articlesOk ha)
      (chores.placementsFit (by decide) hp (fun j p _ _ hne => absurd (by rw [q.builds]) hne))
    refine ⟨h1, h2, fun hr => h3 fun j p hj hd hne => ?_⟩
    rw [q.builds] at hne
    exact hr j p (q.job ▸ hj) hd hne
  behind {s t u} h q hb ha hp := by
    have chores := Carries.of_quiet q
    obtain ⟨h1, h2, h3⟩ := h hb ha hp
    refine ⟨chores.buildsSound h1, chores.articlesOk h2, fun hr => ?_⟩
    refine chores.placementsFit (by decide) (h3 fun j p hj hd hne => ?_) fun j p _ _ hne => absurd (by rw [q.builds]) hne
    rw [← q.builds] at hne ⊢
    exact hr j p hj hd hne
  powerOn := powerOn_sound
  moveTime s t := (Carries.moveTime s t).keepsSound (by decide)
  deleteArticle s p := (Carries.setArticles _ fun a ha => .inl (List.mem_of_mem_filter ha)).keepsSound (by decide)
  loadKinds s l _ := (Carries.of_same rfl rfl rfl rfl).keepsSound (n := 0) (by decide)
  openArticles s f n := (Carries.of_same rfl rfl rfl rfl).keepsSound (n := 0) (by decide)
  openPlan s f n _ := (Carries.of_same rfl rfl rfl rfl).keepsSound (n := 0) (by decide)
  takeData s e gap p he hp := (Carries.takeData p he hp).keepsSound (by decide)
  dropPlan s id := (Chores.dropPlan s id).keepsSound
  setKind s i kind := (Trims.onStation s i _ rfl).keepsSound (by decide)
  bringOnline s i kind := (Chores.bringOnline i kind s).keepsSound
  takeOffline s i := (Chores.enterState s i .offline).keepsSound
  closeStation s i := ((Chores.closePart i s).trans (Chores.enterClosing i .request _)).keepsSound
  recallExchange s i := (Chores.recallExchange i s).keepsSound
  keepBuild s i d := (Trims.keepBuild i d s).keepsSound (by decide)
  discardBuild s i d := (Trims.discardBuild i d s).keepsSound (by decide)
  flush s k := (Trims.flush k s).keepsSound (by decide)
  restart s := (Trims.restartBlocks s).keepsSound (by decide)
  queueArrival s a _ := (Carries.of_same rfl rfl rfl rfl).keepsSound (n := 0) (by decide)
  orderReply s i q out := (Trims.orderReply i q out s).keepsSound (by decide)
  readyRises s i := (Chores.readyRises i s).keepsSound
  readyFalls s i := ((Trims.onStation s i (fun st => { st with ready := false }) rfl).trans
    (Trims.stationFault i .notReady _)).keepsSound (by decide)
  exchangeStarts s i := (Chores.exchangeStarts i s).keepsSound
  exchangeEnds s i := (Chores.exchangeEnds i s).toTrims.keepsSound (by decide)
  laneEntered s k t := (Trims.laneEntered k t s).keepsSound (by decide)
  laneReleased s k t := (Trims.laneReleased k t s).keepsSound (by decide)
  laneFlushed s k := (Chores.laneFlushed k s).keepsSound
  stationFault s i c := (Trims.stationFault i c s).keepsSound (by decide)
  faultExchange s i := (Chores.faultExchange i s).keepsSound
  releaseTimer s k := (Chores.releaseTimer k s).keepsSound
  deadlinePasses s t := (Trims.deadlinePasses t s).keepsSound (by decide)
  takeArrival := takeArrival_sound
  takeReplan := takeReplan_sound
  takeLane := takeLane_sound
  commitAttempt := commitAttempt_sound

/-! ### LoadsReachTheDeck -/

/-- An added case brings its whole weight to the deck. -/
theorem pushCase_loads {b : Build} {c : CaseRec}
    (h : ∀ (i : Nat) (x : CaseRec), (b.cases ++ [c])[i]? = some x →
      (x.supporters.map (·.share)).sum = 256 ∧ x.supporters.countP (·.principal) = 1
        ∧ ∀ j ∈ x.supporters, ∀ m, j.owner = .case m → m < i) :
    (pushCase b c).deckLoad = b.deckLoad + c.weight := by
  have hu : (b.cases ++ [c.unloaded]).map CaseRec.unloaded = (b.cases ++ [c]).map CaseRec.unloaded := by
    rw [List.map_append, List.map_append]
    rfl
  have stacked : Stacked (b.cases ++ [c]) := by
    intro i x hx j hj
    obtain ⟨-, -, hlow⟩ := h i x hx
    cases ho : j.owner with
    | deck => exact Nat.zero_le i
    | case m => exact hlow j hj m ho
  have full : FullShares (b.cases ++ [c]) := by
    intro x hx
    obtain ⟨i, hi⟩ := List.getElem?_of_mem hx
    obtain ⟨h256, hone, -⟩ := h i x hi
    exact ⟨h256, hone⟩
  exact pushCase_deck (stacked.of_unloaded hu) (full.of_unloaded hu)

/-- Settles O54: the shares by their floors and remainder, the deck load by the pieces handed down, and the invariant
through every operation of the blocks. -/
theorem loadsReachTheDeck : Obligations.LoadsReachTheDeck := by
  refine ⟨fun l n hl hn h0 => ⟨sum_sharesAll hl hn h0, ?_, ?_⟩, fun b c h => ⟨pushCase_loads h, rfl⟩,
    fun s t hb ha hp e => sound_upheld.step e hb ha hp⟩
  · rw [sum_storedShares, sum_sharesAll hl hn h0]
  · rw [principals_storedShares, principals_sharesAll n hl]

end Sys2Proof.Machine
end

section
/-!
PROOFS. Where cases stand (R90, R112, R128, R129): the lane lists, the order queues and the spur lists as one family of
places, each case named at one place and tracked in the state of that place, and the changes that keep that.
-/

namespace Sys2Proof.Machine

/-! ### Places -/

/-- A list that names cases. -/
inductive Place where
  | lane (k : LaneNo)
  | queue (i : StationNo)
  | spur (i : StationNo)
  deriving DecidableEq

/-- The cases named at a place, each with the sequence of its order when the place is a queue. -/
def State.named (s : State) : Place → List (Tracking × OrderSeq)
  | .lane k => s.lanes[k].list.map fun u => (u, 0)
  | .queue i => s.stations[i].orders.map fun o => (o.tracking, o.seq)
  | .spur i => s.stations[i].spur.map fun x => (x.tracking, 0)

/-- The tracking states of a case named at a place. -/
def Place.holds : Place → OrderSeq → TrackState → Prop
  | .lane k, _, st => st = .holdPending k ∨ st = .held k ∨ st = .releasing k
  | .queue i, q, st => st = .toStation i q
  | .spur i, _, st => st = .spurHeld i

/-- A tracking state of a case on the loop before its decision. -/
def TrackState.Circulates (st : TrackState) : Prop := ∃ d, st = .circulating d

/-- The place that a tracking state belongs to. -/
def TrackState.place : TrackState → Option Place
  | .holdPending k | .held k | .releasing k => some (.lane k)
  | .toStation i _ => some (.queue i)
  | .spurHeld i => some (.spur i)
  | .circulating _ | .returning _ => none

theorem Place.of_holds {p : Place} {q : OrderSeq} {st : TrackState} (h : p.holds q st) : st.place = some p := by
  cases p with
  | lane k => rcases h with rfl | rfl | rfl <;> rfl
  | queue i =>
    obtain rfl : st = .toStation i q := h
    rfl
  | spur i =>
    obtain rfl : st = .spurHeld i := h
    rfl

theorem Place.holds_unique {p p' : Place} {q q' : OrderSeq} {st : TrackState} (h : p.holds q st) (h' : p'.holds q' st) :
    p = p' := Option.some.inj ((Place.of_holds h).symm.trans (Place.of_holds h'))

theorem Place.not_circulates {p : Place} {q : OrderSeq} {st : TrackState} (h : p.holds q st) : ¬ st.Circulates := by
  rintro ⟨d, rfl⟩
  cases p <;> simp [Place.holds] at h

/-- No case on its way back from a lane is named anywhere. -/
theorem Place.not_returning {p : Place} {q : OrderSeq} {d : Timer} : ¬ p.holds q (.returning d) := by
  cases p <;> simp [Place.holds]

/-- Every case named anywhere is named once and tracked in the state of its place. -/
structure Placed (s : State) : Prop where
  keys  : RisingKeys Track.key s.tracker.tracks
  once  : ∀ p, ((s.named p).map Prod.fst).Nodup
  state : ∀ p, ∀ x ∈ s.named p, ∃ e, s.track x.1 = some e ∧ p.holds x.2 e.state

/-- The case of an arrival's job, while it is tracked, is CIRCULATING. -/
def JobOnLoop (s : State) : Prop :=
  ∀ j a e, s.engine.job = some j → j.work = .arrival a → s.track a.tracking = some e → e.state.Circulates

/-- A case that no place names. -/
def NoPlace (s : State) (u : Tracking) : Prop := ∀ p, ∀ x ∈ s.named p, x.1 ≠ u

theorem jobOnLoop_of_noJob {s : State} (h : s.engine.job = none) : JobOnLoop s := by
  intro j a e hj
  simp [h] at hj

/-- A case whose tracking state is of no place that names it is named nowhere. -/
theorem Placed.noPlace {s : State} (h : Placed s) {u : Tracking} {e : Track} (he : s.track u = some e)
    (hno : ∀ p, ∀ x ∈ s.named p, x.1 = u → ¬ p.holds x.2 e.state) : NoPlace s u := by
  intro p x hx hu
  obtain ⟨d, hd, hold⟩ := h.state p x hx
  rw [hu, he, Option.some.injEq] at hd
  exact hno p x hx hu (hd ▸ hold)

theorem Placed.noPlace_of_untracked {s : State} (h : Placed s) {u : Tracking} (he : s.track u = none) : NoPlace s u := by
  rintro p x hx rfl
  obtain ⟨e, hd, -⟩ := h.state p x hx
  simp [he] at hd

theorem Placed.noPlace_of_circulates {s : State} (h : Placed s) {u : Tracking} {e : Track} (he : s.track u = some e)
    (hc : e.state.Circulates) : NoPlace s u :=
  h.noPlace he fun _ _ _ _ hold => Place.not_circulates hold hc

/-! ### The invariant in terms of places -/

/-- The places in the order of `placesOf`. -/
def places : List Place := allLanes.map .lane ++ allStations.map .queue ++ allStations.map .spur

theorem places_nodup : places.Nodup := by decide

theorem mem_places (p : Place) : p ∈ places := by
  have lanes : ∀ k : LaneNo, k ∈ allLanes := by decide
  have stations : ∀ i : StationNo, i ∈ allStations := by decide
  cases p <;> simp [places, lanes, stations]

theorem lanes_toList (s : State) : s.lanes.toList = allLanes.map fun k => s.lanes[k] := by
  refine List.ext_getElem (by simp [allLanes]) fun i h1 h2 => ?_
  simp only [Vector.length_toList] at h1
  interval_cases i <;> rfl

theorem stations_toList (s : State) : s.stations.toList = allStations.map fun i => s.stations[i] := by
  refine List.ext_getElem (by simp [allStations]) fun i h1 h2 => ?_
  simp only [Vector.length_toList] at h1
  interval_cases i <;> rfl

theorem placesOf_eq (s : State) : placesOf s = places.flatMap fun p => (s.named p).map Prod.fst := by
  simp [placesOf, places, lanes_toList, stations_toList, List.flatMap_map, List.flatMap_append, State.named,
    Function.comp_def]

/-- CasesOk by places. -/
theorem casesOk_iff (s : State) : CasesOk s ↔ Placed s ∧ JobOnLoop s := by
  constructor
  · rintro ⟨hkeys, hnodup, hlanes, horders, hspur, hjob⟩
    rw [placesOf_eq, List.nodup_flatMap] at hnodup
    refine ⟨⟨hkeys, fun p => hnodup.1 p (mem_places p), fun p x hx => ?_⟩, hjob⟩
    cases p with
    | lane k =>
      obtain ⟨u, hu, rfl⟩ := List.mem_map.mp hx
      exact hlanes k u hu
    | queue i =>
      obtain ⟨o, ho, rfl⟩ := List.mem_map.mp hx
      exact horders i o ho
    | spur i =>
      obtain ⟨y, hy, rfl⟩ := List.mem_map.mp hx
      exact hspur i y hy
  · rintro ⟨h, hjob⟩
    refine ⟨h.keys, ?_, fun k u hu => h.state (.lane k) _ (List.mem_map.mpr ⟨u, hu, rfl⟩),
      fun i o ho => h.state (.queue i) _ (List.mem_map.mpr ⟨o, ho, rfl⟩),
      fun i x hx => h.state (.spur i) _ (List.mem_map.mpr ⟨x, hx, rfl⟩), hjob⟩
    rw [placesOf_eq, List.nodup_flatMap]
    refine ⟨fun p _ => h.once p, places_nodup.imp fun {p p'} hne u hu hu' => ?_⟩
    obtain ⟨x, hx, rfl⟩ := List.mem_map.mp hu
    obtain ⟨y, hy, e⟩ := List.mem_map.mp hu'
    obtain ⟨a, ha, hold⟩ := h.state p x hx
    obtain ⟨b, hb, hold'⟩ := h.state p' y hy
    rw [e, ha, Option.some.injEq] at hb
    exact hne (Place.holds_unique hold (hb ▸ hold'))

/-! ### Changes that name no new case -/

/-- An arrival's job in t was one in s, and a case that is not CIRCULATING in t was not in s. -/
structure Loops (s t : State) : Prop where
  job   : ∀ j a, t.engine.job = some j → j.work = .arrival a → ∃ x, s.engine.job = some x ∧ x.work = .arrival a
  cases : ∀ u e, t.track u = some e → e.state.Circulates ∨ ∃ x, s.track u = some x ∧ ¬ x.state.Circulates

theorem Loops.jobOnLoop {s t : State} (h : Loops s t) (hs : JobOnLoop s) : JobOnLoop t := by
  intro j a e hj hw he
  obtain ⟨x, hx, hxw⟩ := h.job j a hj hw
  rcases h.cases _ e he with hc | ⟨y, hy, hn⟩
  · exact hc
  · exact absurd (hs x a y hx hxw hy) hn

/-- t names no case that s does not name, and is as sound. -/
structure Keeps (s t : State) : Prop where
  placed : Placed t
  loops  : Loops s t
  names  : ∀ u, NoPlace s u → NoPlace t u

/-- t comes from s by cases that leave their places, and by states of the cases that stay. -/
structure Less (s t : State) : Prop where
  keys  : RisingKeys Track.key s.tracker.tracks → RisingKeys Track.key t.tracker.tracks
  named : ∀ p, (t.named p).Sublist (s.named p)
  state : ∀ p, ∀ x ∈ t.named p, ∀ e, s.track x.1 = some e → p.holds x.2 e.state →
            ∃ d, t.track x.1 = some d ∧ p.holds x.2 d.state
  loops : Loops s t

namespace Less

theorem refl (s : State) : Less s s :=
  ⟨id, fun _ => .refl _, fun _ _ _ e he h => ⟨e, he, h⟩, fun j _ hj hw => ⟨j, hj, hw⟩, fun _ e he =>
    (em e.state.Circulates).imp_right fun h => ⟨e, he, h⟩⟩

theorem keeps {s t : State} (h : Less s t) (hs : Placed s) : Keeps s t := by
  refine ⟨⟨h.keys hs.keys, fun p => (hs.once p).sublist ((h.named p).map _), fun p x hx => ?_⟩, h.loops,
    fun u hu p x hx => hu p x ((h.named p).subset hx)⟩
  obtain ⟨e, he, hold⟩ := hs.state p x ((h.named p).subset hx)
  exact h.state p x hx e he hold

end Less

theorem Loops.trans {s t u : State} (h : Loops s t) (k : Loops t u) : Loops s u := by
  refine ⟨fun j a hj hw => ?_, fun v e he => ?_⟩
  · obtain ⟨x, hx, hxw⟩ := k.job j a hj hw
    exact h.job x a hx hxw
  · rcases k.cases v e he with hc | ⟨x, hx, hn⟩
    · exact .inl hc
    · exact .inr ((h.cases v x hx).resolve_left hn)

theorem Keeps.trans {s t u : State} (h : Keeps s t) (k : Placed t → Keeps t u) : Keeps s u :=
  have k := k h.placed
  ⟨k.placed, h.loops.trans k.loops, fun v hv => k.names v (h.names v hv)⟩

theorem Keeps.refl {s : State} (h : Placed s) : Keeps s s := (Less.refl s).keeps h

/-- Operations that keep, one after another over a list. -/
theorem Keeps.foldl {α : Type} {op : State → α → State} (h : ∀ s a, Placed s → Keeps s (op s a)) (l : List α) {s : State}
    (hs : Placed s) : Keeps s (l.foldl op s) := by
  induction l generalizing s with
  | nil => exact .refl hs
  | cons a l ih => exact (h s a hs).trans ih

/-! ### Places after a change of one record -/

theorem named_of_parts {s t : State} (hl : ∀ k : LaneNo, t.lanes[k].list = s.lanes[k].list)
    (ho : ∀ i : StationNo, t.stations[i].orders = s.stations[i].orders)
    (hs : ∀ i : StationNo, t.stations[i].spur = s.stations[i].spur) (p : Place) : t.named p = s.named p := by
  cases p with
  | lane k => simp only [State.named, hl]
  | queue i => simp only [State.named, ho]
  | spur i => simp only [State.named, hs]

theorem named_of_same {s t : State} (hl : t.lanes = s.lanes) (hs : t.stations = s.stations) (p : Place) :
    t.named p = s.named p :=
  named_of_parts (by simp [hl]) (by simp [hs]) (by simp [hs]) p

/-- The queue of a changed station. -/
theorem named_onStation_queue (s : State) (i j : StationNo) (g : Station → Station) :
    (s.onStation i g).named (.queue j)
      = if i = j then (g s.stations[i]).orders.map fun o => (o.tracking, o.seq) else s.named (.queue j) := by
  split_ifs with h
  · subst h
    simp [State.named]
  · simp only [State.named, onStation_get_ne s g h]

theorem named_onStation_spur (s : State) (i j : StationNo) (g : Station → Station) :
    (s.onStation i g).named (.spur j)
      = if i = j then (g s.stations[i]).spur.map fun x => (x.tracking, 0) else s.named (.spur j) := by
  split_ifs with h
  · subst h
    simp [State.named]
  · simp only [State.named, onStation_get_ne s g h]

theorem named_onLane_lane (s : State) (k j : LaneNo) (g : Lane → Lane) :
    (s.onLane k g).named (.lane j) = if k = j then (g s.lanes[k]).list.map fun u => (u, 0) else s.named (.lane j) := by
  split_ifs with h
  · subst h
    simp [State.named]
  · simp only [State.named, onLane_get_ne s g h]

@[simp] theorem named_onStation_lane (s : State) (i : StationNo) (k : LaneNo) (g : Station → Station) :
    (s.onStation i g).named (.lane k) = s.named (.lane k) := rfl

@[simp] theorem named_onLane_queue (s : State) (k : LaneNo) (i : StationNo) (g : Lane → Lane) :
    (s.onLane k g).named (.queue i) = s.named (.queue i) := rfl

@[simp] theorem named_onLane_spur (s : State) (k : LaneNo) (i : StationNo) (g : Lane → Lane) :
    (s.onLane k g).named (.spur i) = s.named (.spur i) := rfl

/-- A change of the tracking table leaves the places. -/
@[simp] theorem named_onTrack (s : State) (t : Tracking) (g : Track → Track) (p : Place) :
    (s.onTrack t g).named p = s.named p := named_of_same rfl rfl p

@[simp] theorem named_setTrack (s : State) (t : Tracking) (st : TrackState) (p : Place) :
    (s.setTrack t st).named p = s.named p := named_onTrack ..

@[simp] theorem named_dropTrack (s : State) (t : Tracking) (p : Place) :
    (s.dropTrack t).named p = s.named p := named_of_same rfl rfl p

@[simp] theorem named_addTrack (s : State) (e : Track) (p : Place) : (s.addTrack e).named p = s.named p :=
  named_of_same rfl rfl p

/-! ### The tracking table under a new entry -/

/-- An entry put into the table is found, and every other is as it was (R89). -/
theorem track_addTrack (s : State) (e : Track) (u : Tracking) :
    (s.addTrack e).track u = if u = e.tracking then some e else s.track u := by
  have key : ∀ a b : Track, Track.key a = Track.key b ↔ a.tracking = b.tracking := fun a b => by
    simp [Track.key, BitVec.toNat_inj]
  unfold State.track State.addTrack
  dsimp only
  induction s.tracker.tracks with
  | nil =>
    by_cases hu : u = e.tracking
    · simp [putKey, hu]
    · simp [putKey, hu, Ne.symm hu]
  | cons x l ih =>
    unfold putKey
    by_cases hu : u = e.tracking
    · rw [if_pos hu]
      rw [if_pos hu] at ih
      split_ifs with hlt heq
      · simp [hu]
      · simp [hu]
      · have hx : x.tracking ≠ u := fun h => heq ((key e x).mpr (hu.symm.trans h.symm))
        rw [List.find?_cons, beq_false_of_ne hx]
        exact ih
    · rw [if_neg hu]
      rw [if_neg hu] at ih
      have he : (e.tracking == u) = false := beq_false_of_ne (Ne.symm hu)
      split_ifs with hlt heq
      · rw [List.find?_cons, he]
      · have hx : (x.tracking == u) = false := beq_false_of_ne fun h => hu (((key e x).mp heq).trans h).symm
        rw [List.find?_cons, List.find?_cons, he, hx]
      · rw [List.find?_cons, List.find?_cons, ih]

/-! ### Working operations and entries -/

/-- The cases stand in t where they stand in s. -/
structure Still (s t : State) : Prop where
  tracks : t.tracker.tracks = s.tracker.tracks
  named  : ∀ p, t.named p = s.named p
  job    : ∀ j a, t.engine.job = some j → j.work = .arrival a → ∃ x, s.engine.job = some x ∧ x.work = .arrival a

namespace Still

theorem track {s t : State} (h : Still s t) (u : Tracking) : t.track u = s.track u := by
  rw [State.track, h.tracks]
  rfl

theorem trans {s t u : State} (h : Still s t) (k : Still t u) : Still s u :=
  ⟨k.tracks.trans h.tracks, fun p => (k.named p).trans (h.named p), fun j a hj hw => by
    obtain ⟨x, hx, hxw⟩ := k.job j a hj hw
    exact h.job x a hx hxw⟩

theorem less {s t : State} (h : Still s t) : Less s t := by
  refine ⟨fun hk => h.tracks ▸ hk, fun p => by rw [h.named], fun p x hx e he hold => ⟨e, (h.track _).trans he, hold⟩,
    h.job, fun u e he => ?_⟩
  rw [h.track] at he
  exact (em e.state.Circulates).imp_right fun hc => ⟨e, he, hc⟩

theorem placed {s t : State} (h : Still s t) (hs : Placed s) : Placed t := (h.less.keeps hs).placed

theorem noPlace {s t : State} (h : Still s t) {u : Tracking} (hu : NoPlace s u) : NoPlace t u := by
  intro p x hx
  rw [h.named] at hx
  exact hu p x hx

/-- A change outside the cases. -/
theorem of_same {s t : State} (hc : t.tracker.tracks = s.tracker.tracks) (hl : t.lanes = s.lanes)
    (hs : t.stations = s.stations) (hj : t.engine.job = s.engine.job) : Still s t :=
  ⟨hc, named_of_same hl hs, fun j _ h hw => ⟨j, hj ▸ h, hw⟩⟩

end Still

theorem Still.of_quiet {s t : State} (q : Quiet s t) : Still s t := .of_same (by rw [q.tracker]) q.lanes q.stations q.job

theorem Chores.still {n : Nat} {s t : State} (h : Chores n s t) : Still s t := by
  refine ⟨by rw [h.tracker], named_of_parts h.lanes h.orders h.spur, fun j a hj hw => ?_⟩
  obtain ⟨x, hx, e, -⟩ := h.job j hj
  exact ⟨x, hx, e.trans hw⟩

theorem Chores.keeps {n : Nat} {s t : State} (h : Chores n s t) (hs : Placed s) : Keeps s t := h.still.less.keeps hs

namespace Less

/-- A new state of a case: that of the place where the case is named, if it is, and CIRCULATING only if it was. -/
theorem setTrack {s : State} {u : Tracking} {st : TrackState} (hold : ∀ p, ∀ x ∈ s.named p, x.1 = u → p.holds x.2 st)
    (hc : st.Circulates ∨ ∀ e, s.track u = some e → ¬ e.state.Circulates) : Less s (s.setTrack u st) := by
  refine ⟨fun hk => hk.changeFirst fun _ _ => rfl, fun p => by rw [named_setTrack], fun p x hx e he h => ?_,
    fun j _ hj hw => ⟨j, hj, hw⟩, fun v e he => ?_⟩
  · rw [named_setTrack] at hx
    rw [track_setTrack]
    split_ifs with hu
    · exact ⟨{ e with state := st }, by rw [he]; rfl, hold p x hx hu⟩
    · exact ⟨e, he, h⟩
  · rw [track_setTrack] at he
    split_ifs at he with hu
    · obtain ⟨x, hx, rfl⟩ := Option.map_eq_some_iff.mp he
      exact hc.imp_right fun h => ⟨x, hx, h x (hu ▸ hx)⟩
    · exact (em e.state.Circulates).imp_right fun h => ⟨e, he, h⟩

/-- A case on the loop again (R91). -/
theorem circulate {s : State} {u : Tracking} (h : NoPlace s u) : Less s (s.circulate u) :=
  setTrack (fun p x hx e => absurd e (h p x hx)) (.inl ⟨_, rfl⟩)

/-- An entry changed but for its state. -/
theorem onTrack {s : State} {u : Tracking} {g : Track → Track}
    (hg : ∀ e, (g e).tracking = e.tracking ∧ (g e).state = e.state) : Less s (s.onTrack u g) := by
  have track : ∀ v e, (s.onTrack u g).track v = some e → ∃ x, s.track v = some x ∧ e.state = x.state := by
    intro v e he
    rw [track_onTrack s u v fun e => (hg e).1] at he
    split_ifs at he
    · obtain ⟨x, hx, rfl⟩ := Option.map_eq_some_iff.mp he
      exact ⟨x, hx, (hg x).2⟩
    · exact ⟨e, he, rfl⟩
  refine ⟨fun hk => hk.changeFirst fun x _ => congrArg BitVec.toNat (hg x).1, fun p => by rw [named_onTrack],
    fun p x hx e he h => ?_, fun j _ hj hw => ⟨j, hj, hw⟩, fun v e he => ?_⟩
  · rw [track_onTrack s u _ fun e => (hg e).1]
    split_ifs
    · exact ⟨g e, by rw [he]; rfl, by rw [(hg e).2]; exact h⟩
    · exact ⟨e, he, h⟩
  · obtain ⟨x, hx, e'⟩ := track v e he
    exact (em e.state.Circulates).imp_right fun hc => ⟨x, hx, e' ▸ hc⟩

theorem bump (s : State) (u : Tracking) : Less s (s.bump u) := onTrack fun _ => ⟨rfl, rfl⟩

/-- An entry removed whose case no place names (R92). -/
theorem dropTrack {s : State} {u : Tracking} (h : NoPlace s u) : Less s (s.dropTrack u) := by
  refine ⟨fun hk => hk.filter _, fun p => by rw [named_dropTrack], fun p x hx e he hold => ?_,
    fun j _ hj hw => ⟨j, hj, hw⟩, fun v e he => ?_⟩
  · rw [named_dropTrack] at hx
    rw [track_dropTrack, if_neg (h p x hx)]
    exact ⟨e, he, hold⟩
  · rw [track_dropTrack] at he
    split_ifs at he
    exact (em e.state.Circulates).imp_right fun hc => ⟨e, he, hc⟩

/-- A new entry, CIRCULATING, of a case that was not tracked (R95, step 2). -/
theorem addTrack {s : State} {x : Track} (hs : s.track x.tracking = none) (hc : x.state.Circulates) :
    Less s (s.addTrack x) := by
  refine ⟨fun hk => hk.putKey x, fun p => by rw [named_addTrack], fun p y hy e he hold => ⟨e, ?_, hold⟩,
    fun j _ hj hw => ⟨j, hj, hw⟩, fun v e he => ?_⟩
  · rw [track_addTrack, if_neg fun h => by simp [h, hs] at he]
    exact he
  · rw [track_addTrack] at he
    split_ifs at he with hv
    · exact .inl (Option.some.inj he ▸ hc)
    · exact (em e.state.Circulates).imp_right fun h => ⟨e, he, h⟩

/-- Cases that leave a station's queue and spur list. -/
theorem onStation {s : State} {i : StationNo} {g : Station → Station}
    (ho : ((g s.stations[i]).orders.map fun o => (o.tracking, o.seq)).Sublist (s.named (.queue i)))
    (hs : ((g s.stations[i]).spur.map fun x => (x.tracking, (0 : OrderSeq))).Sublist (s.named (.spur i))) :
    Less s (s.onStation i g) := by
  have still : ∀ u, (s.onStation i g).track u = s.track u := fun _ => rfl
  refine ⟨id, fun p => ?_, fun p x _ e he hold => ⟨e, (still _).trans he, hold⟩, fun j _ hj hw => ⟨j, hj, hw⟩,
    fun u e he => (em e.state.Circulates).imp_right fun hc => ⟨e, he, hc⟩⟩
  cases p with
  | lane k => exact .refl _
  | queue j =>
    rw [named_onStation_queue]
    split_ifs with h
    · exact h ▸ ho
    · exact .refl _
  | spur j =>
    rw [named_onStation_spur]
    split_ifs with h
    · exact h ▸ hs
    · exact .refl _

/-- Cases that leave a lane. -/
theorem onLane {s : State} {k : LaneNo} {g : Lane → Lane} (h : (g s.lanes[k]).list.Sublist s.lanes[k].list) :
    Less s (s.onLane k g) := by
  have still : ∀ u, (s.onLane k g).track u = s.track u := fun _ => rfl
  refine ⟨id, fun p => ?_, fun p x _ e he hold => ⟨e, (still _).trans he, hold⟩, fun j _ hj hw => ⟨j, hj, hw⟩,
    fun u e he => (em e.state.Circulates).imp_right fun hc => ⟨e, he, hc⟩⟩
  cases p with
  | lane j =>
    rw [named_onLane_lane]
    split_ifs with hkj
    · subst hkj
      exact h.map _
    · exact .refl _
  | queue i => exact .refl _
  | spur i => exact .refl _

end Less

/-! ### Changes that name cases -/

/-- Cases that no place of s names, named at place p in t and tracked in its state. -/
theorem Placed.join {s t : State} (h : Placed s) (p : Place) (l : List (Tracking × OrderSeq))
    (hkeys : RisingKeys Track.key t.tracker.tracks) (hp : (t.named p).Perm (l ++ s.named p))
    (hother : ∀ p', p' ≠ p → t.named p' = s.named p') (honce : (l.map Prod.fst).Nodup)
    (hfree : ∀ x ∈ l, NoPlace s x.1) (hstate : ∀ x ∈ l, ∃ e, t.track x.1 = some e ∧ p.holds x.2 e.state)
    (htrack : ∀ u, (∀ x ∈ l, x.1 ≠ u) → t.track u = s.track u) : Placed t := by
  have old : ∀ p', ∀ x ∈ s.named p', ∃ e, t.track x.1 = some e ∧ p'.holds x.2 e.state := by
    intro p' x hx
    obtain ⟨e, he, hold⟩ := h.state p' x hx
    exact ⟨e, (htrack x.1 fun y hy eq => hfree y hy p' x hx eq.symm).trans he, hold⟩
  refine ⟨hkeys, fun p' => ?_, fun p' x hx => ?_⟩
  · rcases eq_or_ne p' p with rfl | hne
    · rw [(hp.map Prod.fst).nodup_iff, List.map_append, List.nodup_append']
      refine ⟨honce, h.once p', fun u hu hu' => ?_⟩
      obtain ⟨x, hx, rfl⟩ := List.mem_map.mp hu
      obtain ⟨y, hy, e⟩ := List.mem_map.mp hu'
      exact hfree x hx p' y hy e
    · rw [hother p' hne]
      exact h.once p'
  · rcases eq_or_ne p' p with rfl | hne
    · rcases List.mem_append.mp (hp.mem_iff.mp hx) with hx | hx
      · exact hstate x hx
      · exact old p' x hx
    · rw [hother p' hne] at hx
      exact old p' x hx

end Sys2Proof.Machine
end

section
/-!
PROOFS. What every operation that moves cases does to their places (`Placed`, `Keeps`).
-/

namespace Sys2Proof.Machine

/-! ### States of cases over a list -/

/-- Entries put into one state, one after another, read (R90). -/
theorem track_foldl_setTrack {α : Type} (f : α → Tracking) (st : TrackState) (l : List α) (s : State) (u : Tracking) :
    (l.foldl (fun s a => s.setTrack (f a) st) s).track u
      = if u ∈ l.map f then (s.track u).map fun e => { e with state := st } else s.track u := by
  induction l generalizing s with
  | nil => simp
  | cons a l ih =>
    rw [List.foldl_cons, ih, track_setTrack]
    by_cases ha : u = f a
    · by_cases hl : u ∈ l.map f
      · rw [if_pos hl, if_pos ha, if_pos (by rw [List.map_cons]; exact List.mem_cons_of_mem _ hl), Option.map_map]
        rfl
      · rw [if_neg hl, if_pos ha, if_pos (by rw [List.map_cons, ← ha]; exact List.mem_cons_self)]
    · rw [if_neg ha]
      have : u ∈ (a :: l).map f ↔ u ∈ l.map f := by simp [ha]
      simp only [this]

@[simp] theorem named_foldl_setTrack {α : Type} (f : α → Tracking) (st : TrackState) (l : List α) (s : State) (p : Place) :
    (l.foldl (fun s a => s.setTrack (f a) st) s).named p = s.named p := by
  induction l generalizing s with
  | nil => rfl
  | cons a l ih => rw [List.foldl_cons, ih, named_setTrack]

theorem risingKeys_foldl_setTrack {α : Type} (f : α → Tracking) (st : TrackState) (l : List α) {s : State}
    (h : RisingKeys Track.key s.tracker.tracks) :
    RisingKeys Track.key (l.foldl (fun s a => s.setTrack (f a) st) s).tracker.tracks := by
  induction l generalizing s with
  | nil => exact h
  | cons a l ih => exact ih (h.changeFirst fun _ _ => rfl)

theorem job_foldl_setTrack {α : Type} (f : α → Tracking) (st : TrackState) (l : List α) (s : State) :
    (l.foldl (fun s a => s.setTrack (f a) st) s).engine.job = s.engine.job := by
  induction l generalizing s with
  | nil => rfl
  | cons a l ih => exact ih _

/-- Cases that are not on the loop, put into one state. -/
theorem loops_foldl_setTrack {α : Type} (f : α → Tracking) (st : TrackState) (l : List α) {s : State}
    (h : ∀ a ∈ l, ∀ e, s.track (f a) = some e → ¬ e.state.Circulates) :
    Loops s (l.foldl (fun s a => s.setTrack (f a) st) s) := by
  refine ⟨fun j a hj hw => ⟨j, by rwa [job_foldl_setTrack] at hj, hw⟩, fun u e he => ?_⟩
  rw [track_foldl_setTrack] at he
  split_ifs at he with hu
  · obtain ⟨a, ha, rfl⟩ := List.mem_map.mp hu
    obtain ⟨x, hx, rfl⟩ := Option.map_eq_some_iff.mp he
    exact .inr ⟨x, hx, h a ha x hx⟩
  · exact (em e.state.Circulates).imp_right fun hc => ⟨e, he, hc⟩

/-! ### Orders that leave a queue -/

/-- The case of an order with the order's sequence. -/
def Order.case (o : Order) : Tracking × OrderSeq := (o.tracking, o.seq)

/-- In v, which is as sound as s, the orders os no longer stand in the queue of station i, and their cases are tracked as
in s. -/
structure Leaves (s v : State) (i : StationNo) (os : List Order) : Prop where
  placed : Placed s
  keeps  : Keeps s v
  track  : ∀ u, v.track u = s.track u
  parted : (os.map Order.case ++ v.named (.queue i)).Subperm (s.named (.queue i))

namespace Leaves

theorem subset {s v : State} {i : StationNo} {os os' : List Order} (h : Leaves s v i os) (hs : os'.Sublist os) :
    Leaves s v i os' :=
  { h with parted := (List.Sublist.append (hs.map _) (.refl _)).subperm.trans h.parted }

/-- The orders that have left have distinct cases, none of them in the queue. -/
theorem nodup {s v : State} {i : StationNo} {os : List Order} (h : Leaves s v i os) :
    ((os.map Order.case ++ v.named (.queue i)).map Prod.fst).Nodup := by
  obtain ⟨l, hperm, hsub⟩ := h.parted
  exact (hperm.map _).nodup_iff.mp ((h.placed.once (.queue i)).sublist (hsub.map _))

theorem state {s v : State} {i : StationNo} {os : List Order} (h : Leaves s v i os) {o : Order} (ho : o ∈ os) :
    ∃ e, v.track o.tracking = some e ∧ e.state = .toStation i o.seq := by
  obtain ⟨e, he, hold⟩ := h.placed.state (.queue i) o.case
    (h.parted.subset (List.mem_append_left _ (List.mem_map_of_mem ho)))
  exact ⟨e, (h.track _).trans he, hold⟩

theorem noPlace {s v : State} {i : StationNo} {os : List Order} (h : Leaves s v i os) {o : Order} (ho : o ∈ os) :
    NoPlace v o.tracking := by
  obtain ⟨e, he, hst⟩ := h.state ho
  refine h.keeps.placed.noPlace he fun p x hx hu hold => ?_
  obtain rfl : p = .queue i := Place.holds_unique (q' := o.seq) hold hst
  have hno := h.nodup
  rw [List.map_append, List.nodup_append'] at hno
  exact hno.2.2 (List.mem_map_of_mem (List.mem_map_of_mem ho)) (List.mem_map.mpr ⟨x, hx, hu⟩)

/-- The state after a cut of the queue. -/
theorem of_cut {s v : State} {i : StationNo} {os : List Order} {g : Station → Station} (hs : Placed s)
    (hspur : (g s.stations[i]).spur = s.stations[i].spur)
    (hkept : ((g s.stations[i]).orders.map Order.case).Sublist (s.named (.queue i)))
    (hparted : (os.map Order.case ++ (g s.stations[i]).orders.map Order.case).Subperm (s.named (.queue i)))
    (hv : Still (s.onStation i g) v) : Leaves s v i os := by
  have less : Less s (s.onStation i g) := .onStation hkept (by rw [hspur]; exact .refl _)
  refine ⟨hs, (less.keeps hs).trans fun h => hv.less.keeps h, hv.track, ?_⟩
  rw [hv.named, named_onStation_queue, if_pos rfl]
  exact hparted

end Leaves

/-! ### Cases that join a spur list (R129) -/

theorem named_toSpur_spur (i : StationNo) (os : List Order) (s : State) :
    (toSpur i os s).named (.spur i) = s.named (.spur i) ++ os.map fun o => (o.tracking, 0) := by
  rw [toSpur, named_foldl_setTrack (fun o : Order => o.tracking), named_onStation_spur, if_pos rfl]
  simp [State.named]

theorem named_toSpur_ne (i : StationNo) (os : List Order) (s : State) {p : Place} (hp : p ≠ .spur i) :
    (toSpur i os s).named p = s.named p := by
  rw [toSpur, named_foldl_setTrack (fun o : Order => o.tracking)]
  cases p with
  | lane k => rfl
  | queue j =>
    rw [named_onStation_queue]
    split_ifs with h
    · simp [State.named, h]
    · rfl
  | spur j =>
    rw [named_onStation_spur, if_neg fun h => hp (by rw [h])]

theorem track_toSpur (i : StationNo) (os : List Order) (s : State) (u : Tracking) :
    (toSpur i os s).track u
      = if u ∈ os.map Order.tracking then (s.track u).map fun e => { e with state := .spurHeld i } else s.track u := by
  rw [toSpur, track_foldl_setTrack Order.tracking]
  rfl

theorem noPlace_toSpur {i : StationNo} {os : List Order} {s : State} {u : Tracking} (h : NoPlace s u)
    (hu : ∀ o ∈ os, o.tracking ≠ u) : NoPlace (toSpur i os s) u := by
  intro p x hx
  rcases eq_or_ne p (.spur i) with rfl | hne
  · rw [named_toSpur_spur, List.mem_append, List.mem_map] at hx
    rcases hx with hx | ⟨o, ho, rfl⟩
    · exact h _ x hx
    · exact hu o ho
  · rw [named_toSpur_ne i os s hne] at hx
    exact h p x hx

/-- A case named in s is not one that is named nowhere. -/
theorem Leaves.ne_of_noPlace {s v : State} {i : StationNo} {os : List Order} (h : Leaves s v i os) {u : Tracking}
    (hu : NoPlace s u) {o : Order} (ho : o ∈ os) : o.tracking ≠ u :=
  hu (.queue i) o.case (h.parted.subset (List.mem_append_left _ (List.mem_map_of_mem ho)))

/-- A change of the cases whose orders have left, from states of the queue to the spur of the station. -/
theorem Leaves.joinSpur {s v t : State} {i : StationNo} {os : List Order} (h : Leaves s v i os)
    (hkeys : RisingKeys Track.key v.tracker.tracks → RisingKeys Track.key t.tracker.tracks)
    (hspur : (t.named (.spur i)).Perm ((os.map fun o => (o.tracking, 0)) ++ v.named (.spur i)))
    (hother : ∀ p, p ≠ .spur i → t.named p = v.named p)
    (htrack : ∀ u, t.track u
      = if u ∈ os.map Order.tracking then (v.track u).map fun e => { e with state := .spurHeld i } else v.track u) :
    Placed t := by
  have hno := h.nodup
  rw [List.map_append, List.map_map, List.nodup_append'] at hno
  refine h.keeps.placed.join (.spur i) (os.map fun o => (o.tracking, 0)) (hkeys h.keeps.placed.keys) hspur hother ?_ ?_ ?_ ?_
  · rw [List.map_map]
    exact hno.1
  · intro x hx
    obtain ⟨o, ho, rfl⟩ := List.mem_map.mp hx
    exact h.noPlace ho
  · intro x hx
    obtain ⟨o, ho, rfl⟩ := List.mem_map.mp hx
    obtain ⟨e, he, -⟩ := h.state ho
    exact ⟨{ e with state := .spurHeld i }, by
      rw [htrack, if_pos (List.mem_map_of_mem ho), he]
      rfl, rfl⟩
  · intro u hu
    rw [htrack, if_neg fun hm => ?_]
    obtain ⟨o, ho, rfl⟩ := List.mem_map.mp hm
    exact hu _ (List.mem_map_of_mem (f := fun o : Order => (o.tracking, (0 : OrderSeq))) ho) rfl

/-- The cases whose orders have left go to the spur (R129, R133, R145). -/
theorem Leaves.toSpur {s v : State} {i : StationNo} {os : List Order} (h : Leaves s v i os) : Keeps s (toSpur i os v) := by
  refine ⟨h.joinSpur (fun hk => ?_) ?_ (fun p hp => named_toSpur_ne i os v hp) (track_toSpur i os v),
    h.keeps.loops.trans (.trans (t := v.onStation i fun st =>
      { st with spur := st.spur ++ os.map fun o => { tracking := o.tracking, discard := o.discards } }) ?_ ?_),
    fun u hu => noPlace_toSpur (h.keeps.names u hu) fun o ho => h.ne_of_noPlace hu ho⟩
  · exact risingKeys_foldl_setTrack Order.tracking (.spurHeld i) os hk
  · rw [named_toSpur_spur]
    exact List.perm_append_comm
  · exact ⟨fun j _ hj hw => ⟨j, hj, hw⟩, (Less.refl v).loops.cases⟩
  · refine loops_foldl_setTrack Order.tracking (.spurHeld i) os fun o ho e he => ?_
    obtain ⟨x, hx, hst⟩ := h.state ho
    obtain rfl : x = e := Option.some.inj (hx.symm.trans he)
    rw [hst]
    rintro ⟨d, hd⟩
    cases hd

/-! ### Orders that are issued (R128) -/

theorem named_issueOrder_queue (i : StationNo) (u : Tracking) (d : OrderTarget) (fr : OrderFrameTarget) (s : State) :
    (issueOrder i u d fr s).named (.queue i) = s.named (.queue i) ++ [(u, s.stations[i].nextSeq)] := by
  have e : (issueOrder i u d fr s).named (.queue i)
      = (s.onStation i fun st => st.issue u d s.takeExpiry).named (.queue i) := rfl
  rw [e, named_onStation_queue, if_pos rfl]
  simp [Station.issue, State.named]

theorem named_issueOrder_ne (i : StationNo) (u : Tracking) (d : OrderTarget) (fr : OrderFrameTarget) (s : State)
    {p : Place} (hp : p ≠ .queue i) : (issueOrder i u d fr s).named p = s.named p := by
  have e : (issueOrder i u d fr s).named p = (s.onStation i fun st => st.issue u d s.takeExpiry).named p := by
    cases p <;> rfl
  rw [e]
  cases p with
  | lane k => rfl
  | queue j => rw [named_onStation_queue, if_neg fun h => hp (by rw [h])]
  | spur j =>
    rw [named_onStation_spur]
    split_ifs with h
    · simp [Station.issue, State.named, h]
    · rfl

theorem track_issueOrder (i : StationNo) (u : Tracking) (d : OrderTarget) (fr : OrderFrameTarget) (s : State)
    (v : Tracking) :
    (issueOrder i u d fr s).track v
      = if v = u then (s.track v).map fun e => { e with state := .toStation i s.stations[i].nextSeq } else s.track v := by
  unfold issueOrder
  dsimp only
  rw [track_setTrack]
  rfl

theorem keys_issueOrder {i : StationNo} {u : Tracking} {d : OrderTarget} {fr : OrderFrameTarget} {s : State}
    (h : RisingKeys Track.key s.tracker.tracks) : RisingKeys Track.key (issueOrder i u d fr s).tracker.tracks :=
  h.changeFirst fun _ _ => rfl

/-- A tracked case that no place names gets an order. -/
theorem Placed.issueOrder {s : State} (h : Placed s) {u : Tracking} {e : Track} (he : s.track u = some e)
    (hu : NoPlace s u) (i : StationNo) (d : OrderTarget) (fr : OrderFrameTarget) : Placed (issueOrder i u d fr s) := by
  refine h.join (.queue i) [(u, s.stations[i].nextSeq)] (keys_issueOrder h.keys) ?_
    (fun p hp => named_issueOrder_ne i u d fr s hp) (by simp) (by simpa using hu) (fun x hx => ?_) fun v hv => ?_
  · rw [named_issueOrder_queue]
    exact List.perm_append_comm
  · obtain rfl := List.mem_singleton.mp hx
    refine ⟨{ e with state := .toStation i s.stations[i].nextSeq }, ?_, rfl⟩
    rw [track_issueOrder, if_pos rfl, he]
    rfl
  · rw [track_issueOrder, if_neg fun e => hv _ List.mem_cons_self e.symm]

theorem loops_issueOrder {s : State} {u : Tracking} (h : ∀ e, s.track u = some e → ¬ e.state.Circulates)
    (i : StationNo) (d : OrderTarget) (fr : OrderFrameTarget) : Loops s (Machine.issueOrder i u d fr s) := by
  refine ⟨fun j _ hj hw => ⟨j, hj, hw⟩, fun v e he => ?_⟩
  rw [track_issueOrder] at he
  split_ifs at he with hv
  · obtain ⟨x, hx, rfl⟩ := Option.map_eq_some_iff.mp he
    exact .inr ⟨x, hx, h x (hv ▸ hx)⟩
  · exact (em e.state.Circulates).imp_right fun hc => ⟨e, he, hc⟩

/-! ### Cases that leave a spur list (R129) -/

theorem Less.leaveSpur (i : StationNo) (u : Tracking) (s : State) : Less s (leaveSpur i u s) :=
  .onStation (.refl _) (List.filter_sublist.map _)

/-- A case held at a spur is named nowhere once it has left the spur list. -/
theorem noPlace_leaveSpur {s : State} (h : Placed s) {i : StationNo} {u : Tracking} {e : Track}
    (he : s.track u = some e) (hst : e.state = .spurHeld i) : NoPlace (leaveSpur i u s) u := by
  refine ((Less.leaveSpur i u s).keeps h).placed.noPlace (u := u) (e := e) he fun p x hx hu hold => ?_
  obtain rfl : p = .spur i := Place.holds_unique (q' := 0) hold hst
  rw [Machine.leaveSpur, named_onStation_spur, if_pos rfl] at hx
  obtain ⟨y, hy, rfl⟩ := List.mem_map.mp hx
  simp only [List.mem_filter, bne_iff_ne] at hy
  exact hy.2 hu

/-- A REJECT order for a case held at the spur of its station (R106, R150). -/
theorem rejectOrder_placed {s : State} (h : Placed s) {i : StationNo} {u : Tracking} {e : Track}
    (he : s.track u = some e) (hst : e.state = .spurHeld i) (r : RejectReason) :
    Placed (rejectOrder i u r s) ∧ Loops s (rejectOrder i u r s) := by
  have left := (Less.leaveSpur i u s).keeps h
  refine ⟨left.placed.issueOrder he (noPlace_leaveSpur h he hst) .., left.loops.trans (loops_issueOrder ?_ ..)⟩
  intro x hx
  obtain rfl : e = x := Option.some.inj (he.symm.trans hx)
  rw [hst]
  rintro ⟨d, hd⟩
  cases hd

theorem noPlace_rejectOrder {s : State} {i : StationNo} {u v : Tracking} (hv : NoPlace s v) (hne : u ≠ v)
    (r : RejectReason) : NoPlace (rejectOrder i u r s) v := by
  intro p x hx
  rcases eq_or_ne p (.queue i) with rfl | hp
  · rw [rejectOrder, named_issueOrder_queue, List.mem_append, List.mem_singleton] at hx
    rcases hx with hx | rfl
    · exact hv _ x (((Less.leaveSpur i u s).named _).subset hx)
    · exact hne
  · rw [rejectOrder, named_issueOrder_ne _ _ _ _ _ hp] at hx
    exact hv p x (((Less.leaveSpur i u s).named p).subset hx)

theorem Keeps.issueDiscard {s : State} (h : Placed s) (i : StationNo) : Keeps s (issueDiscard i s) := by
  unfold Machine.issueDiscard
  split_ifs
  · split
    · rename_i y hy
      have hmem : (y.tracking, (0 : OrderSeq)) ∈ s.named (.spur i) :=
        List.mem_map.mpr ⟨y, List.mem_of_find?_eq_some hy, rfl⟩
      obtain ⟨e, he, hst⟩ := h.state (.spur i) _ hmem
      obtain ⟨hp, hl⟩ := rejectOrder_placed h he hst .discard
      exact ⟨hp, hl, fun u hu => noPlace_rejectOrder hu (hu _ _ hmem) _⟩
    · exact .refl h
  · exact .refl h

theorem Keeps.issueDiscards {s : State} (h : Placed s) (i : StationNo) : Keeps s (issueDiscards i s) :=
  (((Keeps.issueDiscard h i).trans fun h => .issueDiscard h i).trans fun h => .issueDiscard h i).trans
    fun h => .issueDiscard h i

end Sys2Proof.Machine
end

section
/-!
PROOFS. The places of cases under the ends of orders, the faults, the lanes and the arrivals (R95 to R99, R112 to R121,
R128 to R151).
-/

namespace Sys2Proof.Machine

/-! ### Cases named nowhere -/

theorem Keeps.circulate {s : State} (h : Placed s) {u : Tracking} (hu : NoPlace s u) : Keeps s (s.circulate u) :=
  (Less.circulate hu).keeps h

theorem Keeps.dropTrack {s : State} (h : Placed s) {u : Tracking} (hu : NoPlace s u) : Keeps s (s.dropTrack u) :=
  (Less.dropTrack hu).keeps h

theorem Keeps.caseLost {s : State} (h : Placed s) (i : StationNo) {o : Order} (ho : NoPlace s o.tracking) :
    Keeps s (caseLost i o s) :=
  (Keeps.dropTrack h ho).trans fun h => (Chores.report ..).keeps h

theorem Keeps.caseMissed {s : State} (h : Placed s) {u : Tracking} (hu : NoPlace s u) : Keeps s (caseMissed u s) :=
  have bumped := (Less.bump s u).keeps h
  bumped.trans fun h => .circulate h (bumped.names u hu)

theorem Keeps.doneCase {s : State} (h : Placed s) (i : StationNo) {o : Order} (ho : NoPlace s o.tracking) :
    Keeps s (doneCase i o s).1 := by
  unfold Machine.doneCase
  split
  · rename_i k _
    unfold casePlaced
    dsimp only
    split
    · exact .dropTrack h ho
    · rename_i c _
      have placed := ((Chores.onBuild (s := s) (i := i) (g := fun b => b.confirm k o.tracking) (.confirm ..)).trans
        (Chores.placeMore s.builds[i].planId c.line _)).keeps h
      exact (placed.trans fun h => .dropTrack h (placed.names _ ho)).trans fun h => (Chores.report ..).keeps h
  · exact (Keeps.dropTrack h ho).trans fun h => (Chores.report ..).keeps h

/-! ### The failure cascade and the faults (R133, R145) -/

theorem Chores.cut {n : Nat} {i : StationNo} (leaving : List Order) (named : List OrderSeq) {s t : State}
    (h : Chores n s t) : Chores (n + 1) s (Machine.withdraw i named (Machine.unplace i leaving t)) :=
  (h.trans (.unplace i leaving t)).trans (.withdraw i named _)

/-- The orders that a cut takes out of the queue have left it. -/
theorem leaves_cutOrders {s : State} (h : Placed s) {i : StationNo} {kept leaving : List Order} (named : List OrderSeq)
    (hq : (kept ++ leaving).Sublist s.stations[i].orders) :
    Leaves s (cutOrders i kept leaving named s) i leaving := by
  refine .of_cut (g := fun st =>
    { st with
      orders := kept
      takeExpiry := if kept.isEmpty then none else st.takeExpiry
      placeExpiry := if kept.isEmpty then none else st.placeExpiry }) h rfl
    (((List.sublist_append_left _ _).trans hq).map _) ?_ (((Chores.refl _).cut leaving named).still)
  have hparted := (hq.map Order.case).subperm
  rw [List.map_append] at hparted
  exact (List.perm_append_comm.subperm).trans hparted

/-- After a cascade every case that stays is in its place, and the case of the failed order in none. -/
theorem Keeps.cascade {s : State} (h : Placed s) {i : StationNo} {kept later : List Order} {failed : Order}
    (named : List OrderSeq) (hq : (kept ++ failed :: later).Sublist s.stations[i].orders) :
    Keeps s (cascade i kept failed later named s) ∧ NoPlace (cascade i kept failed later named s) failed.tracking := by
  have cut := leaves_cutOrders h named hq
  have spur := (cut.subset (List.sublist_cons_self failed later)).toSpur
  have asked : ∀ u : State, Chores 0 u
      ((later.filter fun o => !o.discards).foldl (fun s o => askReplan i o.tracking s) u) :=
    fun u => .foldl (fun s (o : Order) => .askReplan i o.tracking s) _ u
  have hfailed : NoPlace (toSpur i later (cutOrders i kept (failed :: later) named s)) failed.tracking := by
    refine noPlace_toSpur (os := later) (cut.noPlace List.mem_cons_self) fun o ho e => ?_
    have hno := cut.nodup
    rw [List.map_append, List.nodup_append', List.map_cons, List.map_cons, List.nodup_cons] at hno
    exact hno.1.1 (List.mem_map.mpr ⟨o.case, List.mem_map_of_mem ho, e⟩)
  have rest := ((asked _).keeps spur.placed).trans fun h => .issueDiscards h i
  exact ⟨spur.trans fun _ => rest, rest.names _ hfailed⟩

/-- A fault leaves each order its case and its sequence (R145, step 2). -/
theorem map_case_unknownIfTaken (os : List Order) : (os.map Order.unknownIfTaken).map Order.case = os.map Order.case := by
  rw [List.map_map]
  refine List.map_congr_left fun o _ => ?_
  simp only [Function.comp_apply, Order.unknownIfTaken]
  split_ifs <;> rfl

/-- A fault parts the queue into the ISSUED orders, which leave, and the one that is UNKNOWN (R145). -/
theorem parted_unknown (os : List Order) :
    (((os.map Order.unknownIfTaken).filter fun o => o.state == .issued).map Order.case
      ++ ((os.map Order.unknownIfTaken).filter fun o => o.state != .issued).map Order.case).Perm (os.map Order.case) := by
  have parted := (List.filter_append_perm (fun o : Order => o.state == .issued) (os.map Order.unknownIfTaken)).map Order.case
  rw [map_case_unknownIfTaken, List.map_append] at parted
  exact parted

theorem Keeps.stationFault {s : State} (h : Placed s) (i : StationNo) (c : StationCause) :
    Keeps s (stationFault i c s) := by
  unfold Machine.stationFault
  split_ifs
  · unfold faultWorking
    dsimp only
    have parted := parted_unknown s.stations[i].orders
    set issued := (s.stations[i].orders.map Order.unknownIfTaken).filter fun o => o.state == .issued
    set kept := (s.stations[i].orders.map Order.unknownIfTaken).filter fun o => o.state != .issued with hkept
    have left := Leaves.of_cut (os := issued) (i := i)
      (g := fun st => { st with takeExpiry := none, placeExpiry := none, orders := kept }) h rfl ?_ parted.subperm
      (((Chores.refl _).trans (Chores.withdraw i (issued.map Order.seq) _)).trans (Chores.unplace i issued _)).still
    · refine left.toSpur.trans fun h => Chores.keeps (n := 0) ?_ h
      refine .trans (n := 0) (.trans (n := 0) (.trans (n := 0) (.cancelReplans i _) ?_) (.enterState ..)) (.report ..)
      exact .onStation rfl rfl rfl
    · have sub := (List.filter_sublist (p := fun o : Order => o.state != .issued)
        (l := s.stations[i].orders.map Order.unknownIfTaken)).map Order.case
      rw [map_case_unknownIfTaken] at sub
      exact sub
  · exact .refl h

/-! ### The ends of orders (R131, R132, R134, R135) -/

theorem Keeps.orderTaken {s : State} (h : Placed s) (i : StationNo) : Keeps s (orderTaken i s) := by
  unfold Machine.orderTaken
  refine (Less.onStation ?_ (.refl _)).keeps h
  rw [State.named]
  cases s.stations[i].orders <;> exact .refl _

/-- The oldest order leaves the queue. -/
theorem leaves_popOrder {s : State} (h : Placed s) {i : StationNo} {o : Order} {later : List Order}
    (hq : s.stations[i].orders = o :: later) {v : State}
    (hv : Still (s.onStation i fun st => { st with orders := st.orders.tail }) v) : Leaves s v i [o] := by
  refine .of_cut h rfl ?_ ?_ hv
  · exact (List.tail_sublist _).map _
  · simp only [State.named, hq]
    exact (List.Perm.refl _).subperm

theorem Keeps.orderDone {s : State} (h : Placed s) {i : StationNo} {o : Order} {later : List Order}
    (hq : s.stations[i].orders = o :: later) : Keeps s (orderDone i o s) := by
  unfold Machine.orderDone
  have popped := leaves_popOrder h hq (v := (popOrder i s).onStation i fun st => { st with placeExpiry := none })
    (Chores.onStation (s := popOrder i s) (i := i) rfl rfl rfl).still
  have done := popped.keeps.trans fun h => Keeps.doneCase h i (popped.noPlace List.mem_cons_self)
  have discarded := (done.trans fun h => (Chores.startTake i _).keeps h).trans fun h => .issueDiscards h i
  exact (discarded.trans fun h => (Chores.closingTest i _).keeps h).trans fun h => (Chores.notice ..).keeps h

/-- A queue as its oldest order and the later ones. -/
theorem sublist_of_queue {os : List Order} {o : Order} {later : List Order} (hq : os = o :: later) :
    ([] ++ o :: os.tail).Sublist os := by
  simp [hq]

theorem Keeps.orderDropped {s : State} (h : Placed s) {i : StationNo} {o : Order} {later : List Order}
    (hq : s.stations[i].orders = o :: later) : Keeps s (orderDropped i o s) := by
  obtain ⟨cut, failed⟩ := Keeps.cascade h (s.stations[i].orders.tail.map Order.seq) (sublist_of_queue hq)
  exact (cut.trans fun h => .caseLost h i failed).trans fun h => (Chores.closingTest ..).keeps h

theorem Keeps.orderNoCase {s : State} (h : Placed s) {i : StationNo} {o : Order} {later : List Order}
    (hq : s.stations[i].orders = o :: later) : Keeps s (orderNoCase i o s) := by
  obtain ⟨cut, failed⟩ := Keeps.cascade h (s.stations[i].orders.tail.map Order.seq) (sublist_of_queue hq)
  exact (cut.trans fun h => .caseMissed h failed).trans fun h => (Chores.closingTest ..).keeps h

theorem Keeps.orderBlocked {s : State} (h : Placed s) {i : StationNo} {o : Order} {later : List Order}
    (hq : s.stations[i].orders = o :: later) : Keeps s (orderBlocked i o s) := by
  have cut := leaves_cutOrders h (kept := []) (s.stations[i].orders.tail.map Order.seq) (sublist_of_queue hq)
  exact cut.toSpur.trans fun h => .stationFault h i .blocked

theorem Keeps.replyWorking {s : State} (h : Placed s) (i : StationNo) (q : OrderSeq) (out : ReplyOutcome) :
    Keeps s (replyWorking i q out s) := by
  unfold Machine.replyWorking
  split
  · exact .stationFault h i .sequence
  · rename_i hq
    split_ifs
    · split
      · exact .orderTaken h i
      · exact .orderNoCase h hq
      · exact .orderDone h hq
      · exact .orderDropped h hq
      · exact .orderBlocked h hq
      · exact .stationFault h i .sequence
    · exact .stationFault h i .sequence

/-! ### The UNKNOWN order (R146, R148) -/

/-- An order found in the queue leaves it by its sequence. -/
theorem leaves_endOrder {s : State} (h : Placed s) {i : StationNo} {o : Order} (ho : o ∈ s.stations[i].orders) {v : State}
    (hv : Still (endOrder i o s) v) : Leaves s v i [o] := by
  refine .of_cut h rfl (List.filter_sublist.map _) ?_ hv
  have hsub : ([o] ++ s.stations[i].orders.filter fun p => p.seq != o.seq).Subperm s.stations[i].orders := by
    have ho' : o ∈ s.stations[i].orders.filter fun p => !(p.seq != o.seq) := List.mem_filter.mpr ⟨ho, by simp⟩
    have hperm := List.filter_append_perm (fun p : Order => p.seq != o.seq) s.stations[i].orders
    exact ((List.singleton_sublist.mpr ho').append (.refl _)).subperm.trans (List.perm_append_comm.trans hperm).subperm
  obtain ⟨l, hperm, hl⟩ := hsub
  refine ⟨l.map Order.case, ?_, hl.map _⟩
  rw [← List.map_append]
  exact hperm.map _

/-- A case whose UNKNOWN order is DONE, with the notice after it. -/
theorem Keeps.unknownDone {s : State} (h : Placed s) {i : StationNo} {o : Order} (ho : o ∈ s.stations[i].orders) :
    Keeps s (notice (Machine.doneCase i o (endOrder i o s)).2 (Machine.doneCase i o (endOrder i o s)).1) := by
  have left := leaves_endOrder h ho (Chores.refl _).still
  exact (left.keeps.trans fun h => .doneCase h i (left.noPlace List.mem_cons_self)).trans
    fun h => (Chores.notice ..).keeps h

theorem leaves_removed {s : State} (h : Placed s) {i : StationNo} {o : Order} (ho : o ∈ s.stations[i].orders) :
    Leaves s (unplace i [o] (endOrder i o s)) i [o] := leaves_endOrder h ho (Chores.unplace ..).still

/-- A blocked case goes to the head of the spur list (R146). -/
theorem Leaves.headSpur {s v : State} {i : StationNo} {o : Order} (h : Leaves s v i [o]) : Keeps s (headSpur i o v) := by
  have named : ∀ p, (Machine.headSpur i o v).named p
      = (v.onStation i fun st => { st with spur := { tracking := o.tracking, discard := o.discards } :: st.spur }).named p :=
    fun p => named_setTrack ..
  have hspur : (Machine.headSpur i o v).named (.spur i) = (o.tracking, 0) :: v.named (.spur i) := by
    rw [named, named_onStation_spur, if_pos rfl]
    rfl
  have hother : ∀ p, p ≠ .spur i → (Machine.headSpur i o v).named p = v.named p := by
    intro p hp
    rw [named]
    cases p with
    | lane k => rfl
    | queue j =>
      rw [named_onStation_queue]
      split_ifs with e
      · simp [State.named, e]
      · rfl
    | spur j => rw [named_onStation_spur, if_neg fun e => hp (by rw [e])]
  have track : ∀ u, (Machine.headSpur i o v).track u
      = if u = o.tracking then (v.track u).map fun e => { e with state := .spurHeld i } else v.track u :=
    fun u => track_setTrack ..
  refine ⟨h.joinSpur (fun hk => hk.changeFirst fun _ _ => rfl) (by rw [hspur]; exact .refl _) hother
    (by simpa using track), h.keeps.loops.trans ⟨fun j _ hj hw => ⟨j, hj, hw⟩, fun u e he => ?_⟩, fun u hu p x hx => ?_⟩
  · rw [track] at he
    split_ifs at he with hu
    · obtain ⟨x, hx, rfl⟩ := Option.map_eq_some_iff.mp he
      obtain ⟨y, hy, hst⟩ := h.state List.mem_cons_self
      obtain rfl : y = x := Option.some.inj (hy.symm.trans (hu ▸ hx))
      exact .inr ⟨y, hx, by rw [hst]; rintro ⟨d, hd⟩; cases hd⟩
    · exact (em e.state.Circulates).imp_right fun hc => ⟨e, he, hc⟩
  · rcases eq_or_ne p (.spur i) with rfl | hp
    · rw [hspur] at hx
      rcases List.mem_cons.mp hx with rfl | hx
      · exact h.ne_of_noPlace hu List.mem_cons_self
      · exact h.keeps.names u hu _ x hx
    · rw [hother p hp] at hx
      exact h.keeps.names u hu p x hx

theorem Keeps.replyFault {s : State} (h : Placed s) (i : StationNo) (q : OrderSeq) (out : ReplyOutcome) :
    Keeps s (replyFault i q out s) := by
  unfold Machine.replyFault
  split
  · exact .refl h
  · rename_i o hfind
    have ho := List.mem_of_find?_eq_some hfind
    have removed := leaves_removed h ho
    have failed := removed.noPlace List.mem_cons_self
    split
    · exact .refl h
    · exact .unknownDone h ho
    · exact removed.keeps.trans fun h => .caseLost h i failed
    · exact removed.keeps.trans fun h => .caseMissed h failed
    · exact removed.headSpur

theorem Keeps.orderReply {s : State} (h : Placed s) (i : StationNo) (q : OrderSeq) (out : ReplyOutcome) :
    Keeps s (orderReply i q out s) := by
  unfold Machine.orderReply
  split_ifs
  · exact .refl h
  · split
    · exact .replyFault h i q out
    · exact .replyWorking h i q out
    · exact .replyWorking h i q out
    all_goals exact .refl h

/-! ### Acknowledge (R148, R149) -/

theorem Keeps.resolveUnknown {s : State} (h : Placed s) (i : StationNo) (d : Nat) : Keeps s (resolveUnknown i d s) := by
  unfold Machine.resolveUnknown
  split
  · exact .refl h
  · rename_i o hfind
    have ho := List.mem_of_find?_eq_some hfind
    dsimp only
    split_ifs
    · exact .unknownDone h ho
    · have removed := leaves_removed h ho
      exact removed.keeps.trans fun h => .caseMissed h (removed.noPlace List.mem_cons_self)

theorem Keeps.keepBuild {s : State} (h : Placed s) (i : StationNo) (d : Nat) : Keeps s (keepBuild i d s) := by
  unfold Machine.keepBuild
  dsimp only
  refine .trans ?_ fun h => (Chores.closingTest ..).keeps h
  refine .trans ?_ fun h => .issueDiscards h i
  refine .trans ?_ fun h => (Chores.foldl (fun s e => .askReplan ..) _ _).keeps h
  have settled := (Keeps.resolveUnknown h i d).trans fun h =>
    (Chores.onStation (i := i) (g := fun st => { st with cause := .none }) rfl rfl rfl).keeps h
  split_ifs
  · exact settled.trans fun h => ((Chores.enterState ..).trans (Chores.raiseFlags _)).keeps h
  · exact settled.trans fun h => (Chores.enterState ..).keeps h

theorem Keeps.discardBuild {s : State} (h : Placed s) (i : StationNo) (d : Nat) : Keeps s (discardBuild i d s) := by
  unfold Machine.discardBuild
  dsimp only
  refine .trans ?_ fun h => (Chores.closingTest ..).keeps h
  refine .trans ?_ fun h => .issueDiscards h i
  refine .trans ?_ fun h => (Chores.enterState ..).keeps h
  refine .trans ?_ fun h => (Less.onStation (.refl _) ?_).keeps h
  · refine .trans ?_ fun h => (Chores.closePart ..).keeps h
    refine .trans ?_ fun h => (Chores.report ..).keeps h
    refine .trans ?_ fun h => (Chores.foldl (fun s c => .revertCase ..) _ _).keeps h
    exact (Keeps.resolveUnknown h i d).trans fun h => (Chores.truncateBuild ..).keeps h
  · simp [State.named, Function.comp_def]

end Sys2Proof.Machine
end

section
/-!
PROOFS. The places of cases under the lanes, the arrivals, the commits and RESTART, and every step (R159).
-/

namespace Sys2Proof.Machine

/-! ### Lanes (R112 to R121) -/

/-- A case is named at one place. -/
theorem Placed.place_unique {s : State} (h : Placed s) {p p' : Place} {x x' : Tracking × OrderSeq} (hx : x ∈ s.named p)
    (hx' : x' ∈ s.named p') (e : x.1 = x'.1) : p = p' := by
  obtain ⟨a, ha, hold⟩ := h.state p x hx
  obtain ⟨b, hb, hold'⟩ := h.state p' x' hx'
  rw [e, hb, Option.some.injEq] at ha
  exact Place.holds_unique hold (ha ▸ hold')

/-- A case named at a place is not on the loop. -/
theorem Placed.not_circulates {s : State} (h : Placed s) {p : Place} {x : Tracking × OrderSeq} (hx : x ∈ s.named p)
    {e : Track} (he : s.track x.1 = some e) : ¬ e.state.Circulates := by
  obtain ⟨d, hd, hold⟩ := h.state p x hx
  obtain rfl : e = d := Option.some.inj (he.symm.trans hd)
  exact Place.not_circulates hold

theorem mem_named_lane {s : State} {k : LaneNo} {u : Tracking} (h : u ∈ s.lanes[k].list) :
    (u, (0 : OrderSeq)) ∈ s.named (.lane k) := List.mem_map.mpr ⟨u, h, rfl⟩

/-- A listed case gets another state of its lane. -/
theorem Keeps.setInLane {s : State} (h : Placed s) {k : LaneNo} {u : Tracking} (hu : u ∈ s.lanes[k].list)
    {st : TrackState} (hst : Place.holds (.lane k) 0 st) : Keeps s (s.setTrack u st) := by
  have hmem := mem_named_lane hu
  refine (Less.setTrack (fun p x hx e => ?_) (.inr fun e he => h.not_circulates hmem he)).keeps h
  obtain rfl : p = .lane k := h.place_unique hx hmem e
  exact hst

theorem Keeps.laneEntered {s : State} (h : Placed s) (k : LaneNo) (u : Tracking) : Keeps s (laneEntered k u s) := by
  unfold Machine.laneEntered
  split
  · exact .refl h
  all_goals
    split_ifs with hold
    · have entered := Keeps.setInLane h (List.mem_of_find?_eq_some hold) (st := .held k) (.inr (.inl rfl))
      dsimp only
      split_ifs
      · exact entered.trans fun h => (Chores.flagIfListed ..).keeps h
      · exact entered
    · exact (Chores.laneFault ..).keeps h

/-- A case taken out of a lane's list is named nowhere when its state is of that lane. -/
theorem noPlace_of_leftLane {s : State} (h : Placed s) {k : LaneNo} {u : Tracking} {e : Track} (he : s.track u = some e)
    (hst : Place.holds (.lane k) 0 e.state) (hu : u ∉ s.lanes[k].list) : NoPlace s u := by
  refine h.noPlace he fun p x hx e' hold => ?_
  obtain rfl : p = .lane k := Place.holds_unique (q' := 0) hold hst
  obtain ⟨v, hv, rfl⟩ := List.mem_map.mp hx
  exact hu (e' ▸ hv)

/-- A listed case back past the scan tunnel leaves its lane (R115). -/
theorem Keeps.laneReturn {s : State} (h : Placed s) {k : LaneNo} {u : Tracking} {e : Track} (he : s.track u = some e)
    (hst : Place.holds (.lane k) 0 e.state) :
    Keeps s (laneReturn k u e.state s) ∧ NoPlace (laneReturn k u e.state s) u := by
  have left := (Less.onLane (s := s) (k := k) (g := fun l => { l with list := l.list.filter fun v => v != u })
    List.filter_sublist).keeps h
  have hu := noPlace_of_leftLane (k := k) left.placed he hst (by simp)
  have both : ∀ {t}, Chores 0 (s.onLane k fun l => { l with list := l.list.filter fun v => v != u }) t →
      Keeps s t ∧ NoPlace t u := fun c =>
    have kept := c.keeps left.placed
    ⟨left.trans fun _ => kept, kept.names u hu⟩
  unfold Machine.laneReturn
  dsimp only
  split
  · split_ifs
    · exact both (.flagIfListed ..)
    · exact both (.refl _)
  · exact both ((Chores.onLane (k := k) (g := fun l => { l with inFlight := none, expiry := none }) rfl).trans
      (.laneFault ..))
  · exact both (.laneFault ..)

theorem Keeps.releaseHead {s : State} (h : Placed s) {k : LaneNo} {u : Tracking} (hu : s.lanes[k].list.head? = some u) :
    Keeps s (releaseHead k u s) := by
  unfold Machine.releaseHead
  dsimp only
  have sent := Chores.issueB s.req.settings.laneNode (.laneRelease k u) s
  refine (sent.keeps h).trans fun h => ?_
  have hlist := List.mem_of_head? ((congrArg List.head? (sent.lanes k)).trans hu)
  generalize issueB s.req.settings.laneNode (.laneRelease k u) s = v at h hlist
  refine .trans ((Chores.onLane (g := fun l =>
    { l with inFlight := some u, expiry := some (after v.link.time v.req.settings.releaseTimeout) }) rfl).keeps h)
    fun h => .setInLane (k := k) h ?_ (.inr (.inr rfl))
  rw [onLane_get]
  exact hlist

theorem Keeps.headLeaves {s : State} (h : Placed s) {k : LaneNo} {u : Tracking} (hu : s.lanes[k].list.head? = some u) :
    Keeps s (headLeaves k u s) := by
  have hmem := mem_named_lane (List.mem_of_head? hu)
  obtain ⟨e, he, hst⟩ := h.state (.lane k) _ hmem
  unfold Machine.headLeaves
  dsimp only
  have left := (Less.onLane (s := s) (k := k) (g := fun l => { l with list := l.list.tail, inFlight := none, expiry := none })
    (List.tail_sublist _)).keeps h
  have hno : NoPlace (s.onLane k fun l => { l with list := l.list.tail, inFlight := none, expiry := none }) u := by
    refine noPlace_of_leftLane (k := k) left.placed he hst ?_
    have hnodup := h.once (.lane k)
    obtain ⟨rest, hrest⟩ := List.head?_eq_some_iff.mp hu
    simp only [State.named, hrest, List.map_map, List.map_cons, Function.comp_def, List.nodup_cons] at hnodup
    rw [onLane_get]
    simp only [hrest, List.tail_cons]
    simpa using hnodup.1
  have bumped := (Less.bump _ u).keeps left.placed
  have hno' := bumped.names u hno
  have back := left.trans fun _ => bumped
  refine (back.trans fun h => (Less.setTrack (fun p x hx e => absurd e (hno' p x hx)) (.inr ?_)).keeps h).trans
    fun h => ((Chores.report ..).trans (Chores.flagIfListed ..)).keeps h
  intro d hd
  rw [State.bump, track_onTrack _ _ _ (by simp), if_pos rfl] at hd
  obtain ⟨x, hx, rfl⟩ := Option.map_eq_some_iff.mp hd
  obtain rfl : e = x := Option.some.inj (he.symm.trans hx)
  exact Place.not_circulates hst

theorem Keeps.laneReleased {s : State} (h : Placed s) (k : LaneNo) (u : Tracking) : Keeps s (laneReleased k u s) := by
  unfold Machine.laneReleased
  split
  · exact .refl h
  all_goals
    split_ifs with hhead
    · exact .headLeaves h hhead.2
    · exact (Chores.laneFault ..).keeps h

/-- The deadline of a flush is the same for all its cases (R121). -/
theorem foldl_returning (l : List Tracking) {s v : State} (h : s.returnDeadline = v.returnDeadline) :
    l.foldl (fun s t => s.setTrack t (.returning s.returnDeadline)) s
      = l.foldl (fun s t => s.setTrack t (.returning v.returnDeadline)) s := by
  induction l generalizing s with
  | nil => rfl
  | cons u l ih =>
    rw [List.foldl_cons, List.foldl_cons, h]
    exact ih h

/-- Every case of a lane sent back, and the list emptied. -/
theorem Less.sendBack {v : State} (h : Placed v) (k : LaneNo) (d : Timer) {g : Lane → Lane} (hg : ∀ l, (g l).list = []) :
    Less v ((v.lanes[k].list.foldl (fun s t => s.setTrack t (.returning d)) v).onLane k g) := by
  have named := named_foldl_setTrack id (.returning d) v.lanes[k].list v
  have track := track_foldl_setTrack id (.returning d) v.lanes[k].list v
  have loops : Loops v (v.lanes[k].list.foldl (fun s t => s.setTrack t (.returning d)) v) :=
    loops_foldl_setTrack id (.returning d) v.lanes[k].list fun u hu e he => h.not_circulates (mem_named_lane hu) he
  have keys := risingKeys_foldl_setTrack id (.returning d) v.lanes[k].list h.keys
  simp only [id, List.map_id] at named track keys
  generalize v.lanes[k].list.foldl (fun s t => s.setTrack t (.returning d)) v = w at named track loops keys
  have emptied : Less w (w.onLane k g) := .onLane (by rw [hg]; exact List.nil_sublist _)
  refine ⟨fun _ => keys, fun p => named p ▸ emptied.named p, fun p x hx e he hold => ?_, loops.trans emptied.loops⟩
  have hx' : x ∈ v.named p := named p ▸ (emptied.named p).subset hx
  have hnot : x.1 ∉ v.lanes[k].list := by
    intro hl
    obtain rfl : p = .lane k := h.place_unique hx' (mem_named_lane hl) rfl
    rw [named_onLane_lane, if_pos rfl, hg] at hx
    cases hx
  exact ⟨e, (track x.1).trans ((if_neg hnot).trans he), hold⟩

theorem Keeps.flush {s : State} (h : Placed s) (k : LaneNo) : Keeps s (flush k s) := by
  unfold Machine.flush
  dsimp only
  refine .trans ?_ fun h => (Chores.setFlag ..).keeps h
  have sent := Chores.issueB s.req.settings.laneNode (.laneFlush k) s
  refine (sent.keeps h).trans fun h => ?_
  rw [← sent.lanes k, foldl_returning _ rfl]
  exact (Less.sendBack h k _ fun _ => rfl).keeps h

end Sys2Proof.Machine
end

section
/-!
PROOFS. The places of cases under arrivals, commits, RESTART and the line time, and every step: the capacities and the places
are kept (R159).
-/

namespace Sys2Proof.Machine

/-! ### Re-arrivals (R98, R99, R115, R136) -/

/-- The first order of a case parts a queue into the older orders, itself and the later ones (R136). -/
theorem parted_at {os : List Order} {u : Tracking} {o : Order} (h : os.find? (fun o => o.tracking == u) = some o) :
    o.tracking = u ∧ (os.takeWhile fun p => p.tracking != o.tracking)
      ++ o :: (os.dropWhile fun p => p.tracking != o.tracking).tail = os := by
  obtain ⟨hu, as, bs, rfl, has⟩ := List.find?_eq_some_iff_append.mp h
  obtain rfl : o.tracking = u := by simpa using hu
  refine ⟨rfl, ?_⟩
  have hbefore : ∀ p ∈ as, (p.tracking != o.tracking) = true := has
  rw [List.takeWhile_append_of_pos hbefore, List.dropWhile_append_of_pos hbefore]
  simp

theorem Keeps.missedOrder {s : State} (h : Placed s) {i : StationNo} {u : Tracking} {o : Order}
    (ho : s.orderOf i u = some o) :
    Keeps s (missedOrder i o s) ∧ ∀ x, (missedOrder i o s).track u = some x → x.state.Circulates := by
  obtain ⟨rfl, parted⟩ := parted_at ho
  unfold Machine.missedOrder
  dsimp only
  have sub : ((s.stations[i].orders.takeWhile fun p => p.tracking != o.tracking)
      ++ o :: (s.stations[i].orders.dropWhile fun p => p.tracking != o.tracking).tail).Sublist s.stations[i].orders := by
    rw [parted]
  obtain ⟨cut, failed⟩ := Keeps.cascade h _ sub
  refine ⟨(cut.trans fun h => .caseMissed h failed).trans fun h => (Chores.closingTest ..).keeps h, fun x hx => ?_⟩
  rw [(Chores.closingTest ..).still.track, Machine.caseMissed, State.circulate, track_setTrack, if_pos rfl] at hx
  obtain ⟨y, -, rfl⟩ := Option.map_eq_some_iff.mp hx
  exact ⟨_, rfl⟩

theorem circulates_circulate {s : State} {u : Tracking} {x : Track} (h : (s.circulate u).track u = some x) :
    x.state.Circulates := by
  rw [State.circulate, track_setTrack, if_pos rfl] at h
  obtain ⟨y, -, rfl⟩ := Option.map_eq_some_iff.mp h
  exact ⟨_, rfl⟩

theorem Keeps.spurReturn {s : State} (h : Placed s) {i : StationNo} {u : Tracking} {e : Track}
    (he : s.track u = some e) (hst : e.state = .spurHeld i) :
    Keeps s (spurReturn i u s) ∧ ∀ x, (spurReturn i u s).track u = some x → x.state.Circulates := by
  unfold Machine.spurReturn
  have left := (Less.leaveSpur i u s).keeps h
  have kept := (Chores.keepReplans (fun r => r.tracking != u) (leaveSpur i u s)).keeps left.placed
  have hno := kept.names u (noPlace_leaveSpur h he hst)
  refine ⟨((left.trans fun _ => kept).trans fun h => .circulate h hno).trans fun h => (Chores.closingTest ..).keeps h,
    fun x hx => ?_⟩
  rw [(Chores.closingTest ..).still.track] at hx
  exact circulates_circulate hx

/-- A re-arrival leaves its place and is CIRCULATING. -/
theorem Keeps.rearrive {s : State} (h : Placed s) {u : Tracking} {e : Track} (he : s.track u = some e) :
    Keeps s (rearrive u e.state s) ∧ ∀ x, (rearrive u e.state s).track u = some x → x.state.Circulates := by
  have loop : NoPlace s u → Keeps s (s.circulate u) ∧ ∀ x, (s.circulate u).track u = some x → x.state.Circulates :=
    fun hu => ⟨.circulate h hu, fun x => circulates_circulate⟩
  have lane : ∀ {k}, Place.holds (.lane k) 0 e.state → Keeps s ((Machine.laneReturn k u e.state s).circulate u)
      ∧ ∀ x, ((Machine.laneReturn k u e.state s).circulate u).track u = some x → x.state.Circulates := fun hst =>
    have ⟨back, hu⟩ := Keeps.laneReturn h he hst
    ⟨back.trans fun h => .circulate h hu, fun x => circulates_circulate⟩
  unfold Machine.rearrive
  split
  case h_1 hst => exact loop (h.noPlace_of_circulates he ⟨_, hst⟩)
  case h_2 hst => exact loop (h.noPlace he fun p x _ _ hold => Place.not_returning (hst ▸ hold))
  case h_3 i q hst =>
    split
    · rename_i o ho
      exact Keeps.missedOrder h ho
    · rename_i hnone
      refine loop (h.noPlace he fun p x hx hu hold => ?_)
      obtain rfl : p = .queue i := Place.holds_unique (q' := q) hold hst
      obtain ⟨o, ho, rfl⟩ := List.mem_map.mp hx
      exact absurd (beq_iff_eq.mpr hu) (List.find?_eq_none.mp hnone o ho)
  case h_4 i hst => exact Keeps.spurReturn h he hst
  case h_5 hst => exact lane (.inl hst)
  case h_6 hst => exact lane (.inr (.inl hst))
  case h_7 hst => exact lane (.inr (.inr hst))

theorem Keeps.duplicateFault {s : State} (h : Placed s) (st : TrackState) : Keeps s (duplicateFault st s) := by
  unfold Machine.duplicateFault
  split
  · exact .stationFault h ..
  all_goals exact .refl h

/-! ### Cases in their places, with the job's case on the loop -/

/-- CasesOk by places (`casesOk_iff`). -/
def CasesIn (s : State) : Prop := Placed s ∧ JobOnLoop s

theorem Keeps.casesIn {s t : State} (k : Keeps s t) (hs : CasesIn s) : CasesIn t := ⟨k.placed, k.loops.jobOnLoop hs.2⟩

theorem Still.casesIn {s t : State} (h : Still s t) (hs : CasesIn s) : CasesIn t := (h.less.keeps hs.1).casesIn hs

/-- A change outside the cases. -/
theorem casesIn_of_same {s t : State} (hs : CasesIn s) (hc : t.tracker.tracks = s.tracker.tracks) (hl : t.lanes = s.lanes)
    (hst : t.stations = s.stations) (hj : t.engine.job = s.engine.job) : CasesIn t :=
  (Still.of_same hc hl hst hj).casesIn hs

theorem Keeps.noJob {s t : State} (k : Keeps s t) (hs : s.engine.job = none) : JobOnLoop t :=
  k.loops.jobOnLoop (jobOnLoop_of_noJob hs)

theorem Placed.setJob {s : State} (h : Placed s) (j : Option Job) : Placed (s.setJob j) := by
  have named : ∀ p, (s.setJob j).named p = s.named p := named_of_same rfl rfl
  refine ⟨h.keys, fun p => by rw [named]; exact h.once p, fun p x hx => ?_⟩
  rw [named] at hx
  exact h.state p x hx

theorem CasesIn.endJob {s : State} (h : Placed s) (ex : List StationNo) : CasesIn (endJob ex s) :=
  ⟨(Chores.endJob ex s).still.placed h, jobOnLoop_of_noJob (endJob_noJob ex s)⟩

theorem CasesIn.noJob {s : State} (h : Placed s) : CasesIn (s.setJob none) := ⟨h.setJob none, jobOnLoop_of_noJob rfl⟩

/-- A job that is not an arrival's. -/
theorem CasesIn.setJob {s : State} (h : Placed s) {j : Job} (hj : ∀ a, j.work ≠ .arrival a) : CasesIn (s.setJob (some j)) :=
  ⟨h.setJob _, fun x a e hx hw => by
    obtain rfl := Option.some.inj hx
    exact absurd hw (hj a)⟩

/-! ### Arrivals (R95 to R97) -/

theorem Keeps.lateCase {s : State} (h : Placed s) (a : Arrival) : Keeps s (lateCase a s) :=
  ((Less.bump ..).keeps h).trans fun h => (Chores.report ..).keeps h

theorem Keeps.passArrival {s : State} (h : Placed s) (a : Arrival) : Keeps s (passArrival a s) :=
  ((Chores.sendDecision ..).keeps h).trans fun h => (Less.bump ..).keeps h

/-- An arrival's case, tracked only as CIRCULATING, is named nowhere. -/
theorem Placed.noPlace_of_loop {s : State} (h : Placed s) {u : Tracking}
    (hu : ∀ e, s.track u = some e → e.state.Circulates) : NoPlace s u := by
  cases he : s.track u with
  | none => exact h.noPlace_of_untracked he
  | some e => exact h.noPlace_of_circulates he (hu e he)

theorem Keeps.rejectArrival {s : State} (h : Placed s) {a : Arrival}
    (ha : ∀ e, s.track a.tracking = some e → e.state.Circulates) (r : RejectReason) : Keeps s (rejectArrival a r s) := by
  have sent := (Chores.sendDecision a.tracking (.reject r) s).keeps h
  exact (sent.trans fun h => .dropTrack h (sent.names _ (Placed.noPlace_of_loop ‹Placed s› ha))).trans
    fun h => (Chores.report ..).keeps h

theorem planArrival_casesIn {s : State} (h : Placed s) (hj : s.engine.job = none) {a : Arrival}
    (ha : ∀ e, s.track a.tracking = some e → e.state.Circulates) : CasesIn (planArrival a s) := by
  unfold planArrival
  split
  · exact (Keeps.lateCase h a).casesIn ⟨h, jobOnLoop_of_noJob hj⟩
  split
  · exact (Keeps.rejectArrival h ha _).casesIn ⟨h, jobOnLoop_of_noJob hj⟩
  · rename_i art _
    have snapped : Less s (setSnapshot a.tracking art a.weight s) := .onTrack fun _ => ⟨rfl, rfl⟩
    refine ⟨(snapped.keeps h).placed.setJob _, fun j b e hjob hw he => ?_⟩
    obtain rfl := Option.some.inj hjob
    obtain rfl : a = b := by injection hw
    have he' : (setSnapshot a.tracking art a.weight s).track a.tracking = some e := he
    rw [setSnapshot, track_onTrack s a.tracking a.tracking (by simp), if_pos rfl] at he'
    obtain ⟨x, hx, rfl⟩ := Option.map_eq_some_iff.mp he'
    exact ha x hx

theorem takeArrival_casesIn {s : State} (hs : CasesIn s) : CasesIn (takeArrival s) := by
  unfold takeArrival
  split
  · exact hs
  rename_i a rest _
  split_ifs with htakes
  · have popped : Still s { s with tracker := { s.tracker with arrivals := rest } } := .of_same rfl rfl rfl rfl
    have hj : s.engine.job = none := by
      simp only [State.takesArrival, Bool.and_eq_true, Option.isNone_iff_eq_none] at htakes
      exact htakes.1
    have hju : ({ s with tracker := { s.tracker with arrivals := rest } } : State).engine.job = none := hj
    have h := popped.placed hs.1
    generalize ({ s with tracker := { s.tracker with arrivals := rest } } : State) = u at h hju
    have kept : ∀ {t}, Keeps u t → CasesIn t := fun k => k.casesIn ⟨h, jobOnLoop_of_noJob hju⟩
    unfold handleArrival
    split
    · unfold gateClosedArrival
      split
      · exact ⟨h, jobOnLoop_of_noJob hju⟩
      · rename_i e he
        split_ifs
        · exact kept (.duplicateFault h _)
        · exact kept (Keeps.rearrive h he).1
    split
    · rename_i hnone
      split
      · exact kept ((show Chores 0 u (untracked a u) by
          unfold untracked
          split_ifs
          · exact .report ..
          · exact .refl u).keeps h)
      · refine planArrival_casesIn ((Less.addTrack hnone ⟨_, rfl⟩).keeps h).placed hju fun e he => ?_
        have hnew : (u.addTrack (newTrack a.tracking u.returnDeadline)).track a.tracking = some _ :=
          (track_addTrack ..).trans (if_pos rfl)
        obtain rfl := Option.some.inj (hnew.symm.trans he)
        exact ⟨_, rfl⟩
    · rename_i e he
      split_ifs
      · exact kept (((Chores.sendDecision ..).trans (Chores.report ..)).keeps h |>.trans fun h => .duplicateFault h _)
      · obtain ⟨back, circ⟩ := Keeps.rearrive h he
        exact planArrival_casesIn back.placed ((Trims.rearrive a.tracking e.state u).noJob hju) circ
  · exact hs

/-! ### Replans and lane heads (R106, R107) -/

theorem onSpur_iff (s : State) (i : StationNo) (u : Tracking) :
    s.onSpur i u = true ↔ ∃ e, s.track u = some e ∧ e.state = .spurHeld i := by
  unfold State.onSpur
  split <;> simp_all

/-- A replan's case gets its REJECT order (R106). -/
theorem rejectReplan_casesIn {s : State} (hs : CasesIn s) {r : Replan} (hr : s.onSpur r.station r.tracking = true) :
    CasesIn (rejectReplan r s) := by
  unfold rejectReplan
  split_ifs
  · obtain ⟨e, he, hst⟩ := (onSpur_iff ..).mp hr
    obtain ⟨hp, hl⟩ := rejectOrder_placed hs.1 he hst .noPlace
    exact ⟨hp, hl.jobOnLoop hs.2⟩
  · exact hs

theorem runReplan_casesIn {s : State} (hs : CasesIn s) {r : Replan} (hr : s.onSpur r.station r.tracking = true) (n : Nat) :
    CasesIn (runReplan r n s) := by
  unfold runReplan
  dsimp only
  split
  · exact .setJob hs.1 fun a => by simp
  · exact rejectReplan_casesIn (.noJob hs.1) hr

theorem takeReplan_casesIn {s : State} (hs : CasesIn s) : CasesIn (takeReplan s) := by
  unfold takeReplan
  split
  · exact hs
  · rename_i r _
    dsimp only
    have taken := ((Chores.takeOutReplan r s).keeps hs.1).casesIn hs
    split_ifs with _ hspur
    · exact hs
    · exact runReplan_casesIn taken (Bool.and_eq_true_iff.mp hspur).1 0
    · exact taken

theorem runHead_casesIn {s : State} (hs : CasesIn s) (k : LaneNo) (t : Tracking) (art : Article) (w n : Nat) :
    CasesIn (runHead k t art w n s) := by
  unfold runHead
  dsimp only
  split
  · exact .setJob hs.1 fun a => by simp
  · exact .endJob hs.1 _

theorem takeLane_casesIn {s : State} (hs : CasesIn s) : CasesIn (takeLane s) := by
  unfold takeLane
  split
  · exact hs
  · rename_i k _
    have lowered := ((Chores.setFlag s k false).keeps hs.1).casesIn hs
    split_ifs
    · dsimp only
      split
      · exact runHead_casesIn lowered ..
      · exact lowered
    · exact hs

/-! ### Commits (R101 to R104) -/

/-- A committed station decision issues an order, in a state with every case in its place. -/
theorem commitPlace_issues (t : Tracking) (art : Article) (w : Nat) (p : Placement) {send : State → State}
    (hsend : ∀ u, Chores 0 u (send u)) (s : State) :
    ∃ v d fr, Still s v ∧ commitPlace t art w p send s = issueOrder p.station t d fr v := by
  refine ⟨_, _, _, ?_, rfl⟩
  have added : Still s (s.onBuild p.station fun b =>
    b.add (caseRecordOf art t w p s.stations[p.station].nextSeq)) := .of_same rfl rfl rfl rfl
  refine .trans ?_ (hsend _).still
  refine (added.trans (Chores.raiseFlags _).still).trans ?_
  split
  · exact (Chores.planMore ..).still
  · exact (Chores.refl _).still

theorem Placed.commitPlace {s : State} (h : Placed s) {t : Tracking} {e : Track} (he : s.track t = some e)
    (hu : NoPlace s t) (art : Article) (w : Nat) (p : Placement) {send : State → State}
    (hsend : ∀ u, Chores 0 u (send u)) : Placed (commitPlace t art w p send s) := by
  obtain ⟨v, d, fr, still, eq⟩ := commitPlace_issues t art w p hsend s
  rw [eq]
  exact (still.placed h).issueOrder ((still.track t).trans he) (still.noPlace hu) ..

@[simp] theorem named_leaveSpur_queue (i : StationNo) (u : Tracking) (s : State) (j : StationNo) :
    (leaveSpur i u s).named (.queue j) = s.named (.queue j) := by
  rw [leaveSpur, named_onStation_queue]
  split_ifs with h
  · rw [h]
    rfl
  · rfl

/-- What a spur list names once a case has left it depends on what it named before. -/
theorem named_leaveSpur_congr (i : StationNo) (u : Tracking) {s t : State} {p : Place} (h : s.named p = t.named p) :
    (leaveSpur i u s).named p = (leaveSpur i u t).named p := by
  have spur : ∀ (x : State) (j : StationNo), (leaveSpur i u x).named (.spur j)
      = if i = j then (x.named (.spur j)).filter fun y => y.1 != u else x.named (.spur j) := by
    intro x j
    rw [leaveSpur, named_onStation_spur]
    split_ifs with hij
    · rw [← hij, State.named, List.filter_map]
      rfl
    · rfl
  cases p with
  | lane k => exact h
  | queue j => rw [named_leaveSpur_queue, named_leaveSpur_queue, h]
  | spur j => rw [spur, spur, h]

/-- The replan of a case on the spur, committed: the case leaves the spur list for a queue (R106). -/
theorem Placed.commitReplan {s : State} (h : Placed s) {i : StationNo} {u : Tracking} {e : Track}
    (he : s.track u = some e) (hst : e.state = .spurHeld i) (art : Article) (w : Nat) (p : Placement) :
    Placed (leaveSpur i u (Machine.commitPlace u art w p id s)) := by
  obtain ⟨v, d, fr, still, eq⟩ := commitPlace_issues u art w p (send := id) (fun u => .refl u) s
  rw [eq]
  have hv := still.placed h
  have hev : v.track u = some e := (still.track u).trans he
  have left := ((Less.leaveSpur i u v).keeps hv).placed
  refine left.join (.queue p.station) [(u, v.stations[p.station].nextSeq)] (keys_issueOrder hv.keys) ?_
    (fun q hq => named_leaveSpur_congr i u (named_issueOrder_ne _ _ _ _ _ hq)) (by simp)
    (by simpa using noPlace_leaveSpur hv hev hst) (fun x hx => ?_) fun y hy => ?_
  · rw [named_leaveSpur_queue, named_issueOrder_queue, named_leaveSpur_queue]
    exact List.perm_append_comm
  · obtain rfl := List.mem_singleton.mp hx
    refine ⟨{ e with state := .toStation p.station v.stations[p.station].nextSeq }, ?_, rfl⟩
    refine (track_issueOrder ..).trans ?_
    rw [if_pos rfl, hev]
    rfl
  · exact (track_issueOrder ..).trans (if_neg fun e => hy _ List.mem_cons_self e.symm)

/-- A hold commits: the case joins the lane's list (R113). -/
theorem Placed.commitLane {s : State} (h : Placed s) {u : Tracking} {e : Track} (he : s.track u = some e)
    (hu : NoPlace s u) (k : LaneNo) : Placed (commitLane k u s) := by
  refine ((Chores.sendDecision ..).trans (Chores.report ..)).still.placed ?_
  have named : ∀ q, (holdEntry k u s).named q = (s.onLane k fun l => { l with list := l.list ++ [u] }).named q :=
    fun q => named_setTrack ..
  have track : ∀ v, (holdEntry k u s).track v
      = if v = u then (s.track v).map fun e => { e with state := .holdPending k } else s.track v :=
    fun v => track_setTrack ..
  refine h.join (.lane k) [(u, 0)] (h.keys.changeFirst fun _ _ => rfl) ?_ (fun q hq => ?_) (by simp) (by simpa using hu)
    (fun x hx => ?_) fun v hv => ?_
  · rw [named, named_onLane_lane, if_pos rfl, List.map_append]
    exact List.perm_append_comm
  · rw [named]
    cases q with
    | lane j => rw [named_onLane_lane, if_neg fun e => hq (by rw [e])]
    | queue j => rfl
    | spur j => rfl
  · obtain rfl := List.mem_singleton.mp hx
    exact ⟨{ e with state := .holdPending k }, by rw [track, if_pos rfl, he]; rfl, .inl rfl⟩
  · rw [track, if_neg fun e => hv _ List.mem_cons_self e.symm]

theorem rerun_casesIn {s : State} {j : Job} {again : Nat → State → State} {fallback : State → State}
    (hagain : ∀ n, CasesIn (again n s)) (hback : Placed (fallback s)) : CasesIn (rerun j again fallback s) := by
  unfold rerun
  split_ifs
  · exact hagain _
  · exact .endJob hback _

theorem commitDecision_casesIn {s : State} (h : Placed s) {j : Job} {a : Arrival} {e : Track}
    (he : s.track a.tracking = some e) (hc : e.state.Circulates) (art : Article) (w : Nat) :
    CasesIn (commitDecision j a art w s) := by
  have hno := h.noPlace_of_circulates he hc
  have loop : ∀ x, s.track a.tracking = some x → x.state.Circulates := fun x hx => by
    rwa [Option.some.inj (hx.symm.trans he)]
  have again : ∀ n, CasesIn (rerunArrival a art w n s) := fun n => by
    refine ⟨h.setJob _, fun x b d hx hw hd => ?_⟩
    obtain rfl := Option.some.inj hx
    obtain rfl : a = b := by injection hw
    exact loop d hd
  unfold commitDecision
  split
  · exact .endJob (Keeps.passArrival h a).placed _
  · exact .endJob (Keeps.rejectArrival h loop _).placed _
  · split_ifs
    · exact .endJob (h.commitPlace he hno art w _ fun u => .sendDecision ..) _
    · exact rerun_casesIn again (Keeps.passArrival h a).placed
  · split_ifs
    · exact .endJob (h.commitLane he hno _) _
    · exact rerun_casesIn again (Keeps.passArrival h a).placed
  · exact .endJob h _

theorem commitArrival_casesIn {s : State} (hs : CasesIn s) {j : Job} (hj : s.engine.job = some j) {a : Arrival}
    (hw : j.work = .arrival a) : CasesIn (commitArrival j a s) := by
  obtain ⟨h, hjob⟩ := hs
  have loop : ∀ e, s.track a.tracking = some e → e.state.Circulates := fun e he => hjob j a e hj hw he
  unfold commitArrival
  split
  · split_ifs
    · exact .endJob (Keeps.circulate h (h.noPlace_of_loop loop)).placed _
    · exact .endJob h _
  · split
    · exact .endJob h _
    · rename_i e he
      split_ifs
      · exact .endJob (Keeps.lateCase h a).placed _
      · exact .endJob (Keeps.rejectArrival h loop _).placed _
      · split
        · exact commitDecision_casesIn h he (loop e he) ..
        · exact .endJob h _

theorem commitReplan_casesIn {s : State} (hs : CasesIn s) (j : Job) (r : Replan) : CasesIn (commitReplan j r s) := by
  unfold commitReplan
  split_ifs with hstop
  · exact .noJob hs.1
  · simp only [Bool.or_eq_true, not_or, Bool.not_eq_true, Bool.not_eq_false'] at hstop
    obtain ⟨⟨-, hspur⟩, -⟩ := hstop
    obtain ⟨e, he, hst⟩ := (onSpur_iff ..).mp hspur
    split
    · split_ifs
      · exact .noJob (hs.1.commitReplan he hst ..)
      · exact rerun_casesIn (fun n => runReplan_casesIn hs hspur n) (rejectReplan_casesIn hs hspur).1
    · exact .noJob hs.1

theorem commitHead_casesIn {s : State} (hs : CasesIn s) (j : Job) (k : LaneNo) (t : Tracking) :
    CasesIn (commitHead j k t s) := by
  have released := ((Chores.noRelease k s).keeps hs.1).placed
  unfold commitHead
  dsimp only
  split
  · split_ifs with hgo
    · simp only [Bool.and_eq_true, beq_iff_eq] at hgo
      obtain ⟨⟨⟨⟨-, -, hhead⟩, -⟩, -⟩, -⟩ := hgo
      exact .endJob (Keeps.releaseHead hs.1 hhead).placed _
    · refine rerun_casesIn (fun n => ?_) released
      split
      · exact runHead_casesIn hs ..
      · exact .endJob released _
    · exact .endJob released _
  all_goals exact .endJob hs.1 _

theorem commitAttempt_casesIn {s : State} (hs : CasesIn s) : CasesIn (commitAttempt s) := by
  unfold commitAttempt
  split
  · exact hs
  · rename_i j hj
    split
    · exact commitArrival_casesIn hs hj ‹_›
    · exact commitReplan_casesIn hs j _
    · exact commitHead_casesIn hs j ..

/-! ### The line time, deadlines and RESTART -/

theorem holds_reach (p : Place) (q : OrderSeq) (t : LineTime) (st : TrackState) : p.holds q (st.reach t) ↔ p.holds q st := by
  cases p <;> cases st <;> simp [Place.holds, TrackState.reach]

theorem circulates_reach (t : LineTime) (st : TrackState) : (st.reach t).Circulates ↔ st.Circulates := by
  cases st <;> simp [TrackState.Circulates, TrackState.reach]

theorem Less.moveTime (s : State) (t : LineTime) : Less s (s.moveTime t) := by
  have track : ∀ u, (s.moveTime t).track u = (s.track u).map (Track.reach t) := fun u => by
    show (s.tracker.tracks.map (Track.reach t)).find? _ = _
    rw [List.find?_map]
    rfl
  have lanes : ∀ k : LaneNo, (s.moveTime t).lanes[k].list = s.lanes[k].list := fun k => by
    show (s.lanes.map (Lane.reach t))[k].list = _
    simp [Lane.reach]
  have stations : ∀ i : StationNo, (s.moveTime t).stations[i] = s.stations[i].reach t := fun i => by
    show (s.stations.map (Station.reach t))[i] = _
    simp
  have named := named_of_parts (s := s) (t := s.moveTime t) lanes (fun i => by rw [stations]; rfl)
    (fun i => by rw [stations]; rfl)
  refine ⟨fun hk => ?_, fun p => by rw [named], fun p x _ e he hold => ⟨e.reach t, by rw [track, he]; rfl,
    (holds_reach ..).mpr hold⟩, fun j _ hj hw => ⟨j, hj, hw⟩, fun u e he => ?_⟩
  · exact List.pairwise_map.mpr (hk.imp fun h => h)
  · rw [track] at he
    obtain ⟨x, hx, rfl⟩ := Option.map_eq_some_iff.mp he
    exact (em x.state.Circulates).imp (circulates_reach t x.state).mpr fun hc => ⟨x, hx, hc⟩

/-- Only a case on the loop has a deadline (R91). -/
theorem Keeps.deadlinePasses {s : State} (h : Placed s) (u : Tracking) : Keeps s (deadlinePasses u s) := by
  unfold Machine.deadlinePasses
  split
  · exact .refl h
  · rename_i e he
    split_ifs with hdue
    · have hno : NoPlace s u := by
        refine h.noPlace he fun p x _ _ hold => ?_
        cases hst : e.state with
        | circulating d => exact Place.not_circulates hold ⟨d, hst⟩
        | returning d => exact Place.not_returning (hst ▸ hold)
        | _ => simp [hst, TrackState.deadline, State.expired] at hdue
      exact (Keeps.dropTrack h hno).trans fun h => (Chores.report ..).keeps h
    · exact .refl h

/-- A station after RESTART has neither orders nor a spur list (R151). -/
theorem restartStation_stations (s : State) (i j : StationNo) :
    (restartStation s i).stations[j].orders = (if i = j then [] else s.stations[j].orders)
      ∧ (restartStation s i).stations[j].spur = (if i = j then [] else s.stations[j].spur) := by
  have emptied : ∀ {n t}, Chores n (s.onStation i fun st =>
        { st with spur := [], takeExpiry := none, placeExpiry := none, orders := [] }) t →
      t.stations[j].orders = (if i = j then [] else s.stations[j].orders)
        ∧ t.stations[j].spur = (if i = j then [] else s.stations[j].spur) := by
    intro n t h
    rw [h.orders, h.spur]
    split_ifs with e
    · subst e
      simp
    · rw [onStation_get_ne s _ e]
      exact ⟨rfl, rfl⟩
  unfold restartStation
  dsimp only
  split_ifs
  · split
    · exact emptied (.closingTest ..)
    · exact emptied (.onStation rfl rfl rfl)
    all_goals exact emptied (.refl _)
  · refine emptied (.trans (m := 1) ?_ (.enterState ..))
    refine .trans (m := 1) ?_ (.onStation (g := fun st => { st with cause := .restart }) rfl rfl rfl)
    exact (Chores.withdraw ..).trans (Chores.unplace ..)

theorem restartStations_empty (l : List StationNo) (s : State) (j : StationNo) :
    j ∈ l ∨ (s.stations[j].orders = [] ∧ s.stations[j].spur = []) →
      (l.foldl restartStation s).stations[j].orders = [] ∧ (l.foldl restartStation s).stations[j].spur = [] := by
  induction l generalizing s with
  | nil => simp
  | cons i l ih =>
    intro h
    rw [List.foldl_cons]
    refine ih _ ?_
    obtain ⟨ho, hs⟩ := restartStation_stations s i j
    rw [ho, hs]
    rcases h with h | ⟨h1, h2⟩
    · rcases List.mem_cons.mp h with rfl | h
      · exact .inr ⟨if_pos rfl, if_pos rfl⟩
      · exact .inl h
    · refine .inr ⟨?_, ?_⟩
      all_goals
        split_ifs
        · rfl
        · assumption

/-- With no orders and no spur lists, the tracker and the lanes emptied leave no case (R111, R124). -/
theorem restartLanes_placed {s : State} (h : ∀ i : StationNo, s.stations[i].orders = [] ∧ s.stations[i].spur = []) :
    Placed (restartLanes (restartTracking s)) := by
  have named : ∀ p, (restartLanes (restartTracking s)).named p = [] := by
    intro p
    cases p with
    | lane k =>
      show (s.lanes.map Lane.restarted)[k].list.map _ = []
      rw [Fin.getElem_fin, Vector.getElem_map, Lane.restarted]
      split_ifs with hempty
      · simpa using hempty.2.1
      · rfl
    | queue i =>
      show s.stations[i].orders.map _ = []
      rw [(h i).1, List.map_nil]
    | spur i =>
      show s.stations[i].spur.map _ = []
      rw [(h i).2, List.map_nil]
  refine ⟨List.Pairwise.nil, fun p => by simp [named], fun p x hx => ?_⟩
  rw [named] at hx
  cases hx

/-- After RESTART no case is named and none is tracked (R111, R124, R151). -/
theorem restart_casesIn (s : State) : CasesIn (restartBlocks s) := by
  have all : ∀ i : StationNo, i ∈ allStations := by decide
  have placed := restartLanes_placed fun i => restartStations_empty allStations s i (.inl (all i))
  unfold restartBlocks
  generalize allStations.foldl restartStation s = v at placed
  have rest := (Still.of_quiet (.setSup ..)).trans
    (Chores.bindingAttempt (armSupervision (restartLanes (restartTracking v)))).still
  exact ⟨rest.placed placed, (rest.less.keeps placed).noJob rfl⟩

/-! ### Every step -/

theorem powerOn_casesIn (node : Byte) : CasesIn (State.powerOn node) := by
  have named : ∀ p, (State.powerOn node).named p = [] := by
    intro p
    cases p <;> simp only [State.named, powerOn_station, powerOn_lane] <;> rfl
  refine ⟨⟨List.Pairwise.nil, fun p => by simp [named], fun p x hx => ?_⟩, jobOnLoop_of_noJob rfl⟩
  rw [named] at hx
  cases hx

theorem takeData_casesIn {s : State} {e : Exec} {gap : Timer} (p : List Byte) (he : s.req.exec = some e)
    (hp : e.phase = .loading gap) (hs : CasesIn s) : CasesIn (takeData e p s) := by
  refine takeData_meets (Q := fun s t => CasesIn s → CasesIn t) (fun h k hs => k (h hs))
    (fun q hs => (Still.of_quiet q).casesIn hs) (fun s p _ _ hs => casesIn_of_same hs rfl rfl rfl rfl)
    (fun u a e' c r i res _ _ hs => ?_) p e s rfl rfl ⟨e, gap, he, rfl, hp⟩ hs
  refine ((Chores.bindingAttempt _).still.trans (.of_quiet (.finishLoad ..))).casesIn ?_
  exact casesIn_of_same hs rfl rfl rfl rfl

/-- Every operation of the blocks keeps every case in its place. -/
theorem cases_upheld : Upholds fun s t => CasesIn s → CasesIn t where
  quiet q hs := (Still.of_quiet q).casesIn hs
  before q h hs := h ((Still.of_quiet q).casesIn hs)
  behind h q hs := (Still.of_quiet q).casesIn (h hs)
  powerOn _ node _ := powerOn_casesIn node
  moveTime s t hs := ((Less.moveTime s t).keeps hs.1).casesIn hs
  deleteArticle _ _ hs := casesIn_of_same hs rfl rfl rfl rfl
  loadKinds _ _ _ hs := casesIn_of_same hs rfl rfl rfl rfl
  openArticles _ _ _ hs := casesIn_of_same hs rfl rfl rfl rfl
  openPlan _ _ _ _ hs := casesIn_of_same hs rfl rfl rfl rfl
  takeData _ _ _ p he hp := takeData_casesIn p he hp
  dropPlan s id hs := Still.casesIn (Chores.dropPlan s id).still hs
  setKind _ _ _ hs := Still.casesIn (Chores.onStation rfl rfl rfl).still hs
  bringOnline s i kind hs := Still.casesIn (Chores.bringOnline i kind s).still hs
  takeOffline s i hs := Still.casesIn (Chores.enterState s i .offline).still hs
  closeStation s i hs := Still.casesIn ((Chores.closePart i s).trans (Chores.enterClosing i .request _)).still hs
  recallExchange s i hs := Still.casesIn (Chores.recallExchange i s).still hs
  keepBuild _ i d hs := (Keeps.keepBuild hs.1 i d).casesIn hs
  discardBuild _ i d hs := (Keeps.discardBuild hs.1 i d).casesIn hs
  flush _ k hs := (Keeps.flush hs.1 k).casesIn hs
  restart s _ := restart_casesIn s
  queueArrival _ _ _ hs := casesIn_of_same hs rfl rfl rfl rfl
  orderReply _ i q out hs := (Keeps.orderReply hs.1 i q out).casesIn hs
  readyRises s i hs := Still.casesIn (Chores.readyRises i s).still hs
  readyFalls _ i hs := (((Chores.onStation (i := i) (g := fun st => { st with ready := false }) rfl rfl rfl).keeps hs.1).trans
    fun h => .stationFault h i .notReady).casesIn hs
  exchangeStarts s i hs := Still.casesIn (Chores.exchangeStarts i s).still hs
  exchangeEnds s i hs := Still.casesIn (Chores.exchangeEnds i s).still hs
  laneEntered _ k t hs := (Keeps.laneEntered hs.1 k t).casesIn hs
  laneReleased _ k t hs := (Keeps.laneReleased hs.1 k t).casesIn hs
  laneFlushed s k hs := Still.casesIn (Chores.laneFlushed k s).still hs
  stationFault _ i c hs := (Keeps.stationFault hs.1 i c).casesIn hs
  faultExchange s i hs := Still.casesIn (Chores.faultExchange i s).still hs
  releaseTimer s k hs := Still.casesIn (Chores.releaseTimer k s).still hs
  deadlinePasses _ t hs := (Keeps.deadlinePasses hs.1 t).casesIn hs
  takeArrival _ := takeArrival_casesIn
  takeReplan _ := takeReplan_casesIn
  takeLane _ := takeLane_casesIn
  commitAttempt _ := commitAttempt_casesIn

/-- Settles O58: the capacities by `capacities_upheld` and the places of cases by `cases_upheld`, one operation of the
blocks at a time. -/
theorem capacitiesAreKept : Obligations.CapacitiesAreKept :=
  ⟨fun _ _ h e => capacities_upheld.step e h,
    fun s t h e => (casesOk_iff t).mpr (cases_upheld.step e ((casesOk_iff s).mp h))⟩

end Sys2Proof.Machine
end

section
/-!
PROOFS. The plan queue and a binding attempt (R70 to R72, R116).
-/

namespace Sys2Proof.Machine

/-! ### The plan queue (R70) -/

theorem planBefore_iff (p q : Plan) :
    planBefore p q = true ↔ p.due < q.due ∨ p.due = q.due ∧ p.admission.toNat < q.admission.toNat := by
  simp [planBefore]

/-- What comes before a plan that does not come behind another comes before the other too. -/
theorem planBefore_of_not {p q r : Plan} (h : planBefore p q = true) (hr : planBefore r q = false) :
    planBefore r p = false := by
  rw [Bool.eq_false_iff, Ne, planBefore_iff] at hr ⊢
  rw [planBefore_iff] at h
  omega

theorem mem_queuePlan {p x : Plan} {l : List Plan} : x ∈ queuePlan p l ↔ x = p ∨ x ∈ l := by
  induction l with
  | nil => simp [queuePlan]
  | cons q l ih =>
    unfold queuePlan
    split_ifs
    · simp
    · rw [List.mem_cons, ih, List.mem_cons]
      tauto

/-- A list of plans in queue order. -/
def InOrder (l : List Plan) : Prop := l.Pairwise fun p q => planBefore q p = false

theorem InOrder.queuePlan {l : List Plan} (h : InOrder l) (p : Plan) : InOrder (queuePlan p l) := by
  induction l with
  | nil => simp [Machine.queuePlan, InOrder]
  | cons q l ih =>
    obtain ⟨hq, hl⟩ := List.pairwise_cons.mp h
    unfold Machine.queuePlan
    split_ifs with hp
    · refine List.pairwise_cons.mpr ⟨fun x hx => ?_, h⟩
      rcases List.mem_cons.mp hx with rfl | hx
      · rw [Bool.eq_false_iff, Ne, planBefore_iff]
        rw [planBefore_iff] at hp
        omega
      · exact planBefore_of_not hp (hq x hx)
    · refine List.pairwise_cons.mpr ⟨fun x hx => ?_, ih hl⟩
      rcases mem_queuePlan.mp hx with rfl | hx
      · simpa using hp
      · exact hq x hx

theorem planQueue_inOrder (ps : List Plan) : InOrder (planQueue ps) := by
  have fold : ∀ (l q : List Plan), InOrder q → InOrder (l.foldl (fun q p => queuePlan p q) q) := by
    intro l
    induction l with
    | nil => exact fun q h => h
    | cons p l ih => exact fun q h => ih _ (h.queuePlan p)
  exact fold _ [] .nil

theorem mem_planQueue {ps : List Plan} {p : Plan} : p ∈ planQueue ps ↔ p ∈ ps ∧ p.state = .queued := by
  have fold : ∀ (l q : List Plan), p ∈ l.foldl (fun q p => queuePlan p q) q ↔ p ∈ l ∨ p ∈ q := by
    intro l
    induction l with
    | nil => simp
    | cons x l ih =>
      intro q
      rw [List.foldl_cons, ih, mem_queuePlan, List.mem_cons]
      tauto
  rw [planQueue, fold]
  simp

/-! ### The plan for a station (R71) -/

/-- A QUEUED plan of the station's base kind with an open line. -/
def Suits (s : State) (i : StationNo) (p : Plan) : Prop :=
  p ∈ s.plans.plans ∧ p.state = .queued ∧ p.baseKind = s.stations[i].baseKind ∧ ∃ l ∈ p.lines, l.planned < l.required

theorem hasOpen_iff (p : Plan) : p.hasOpen = true ↔ ∃ l ∈ p.lines, l.planned < l.required := by
  simp [Plan.hasOpen, PlanLine.isOpen]

theorem suits_iff (s : State) (i : StationNo) (p : Plan) :
    Suits s i p ↔ p ∈ planQueue s.plans.plans ∧ (p.baseKind == s.stations[i].baseKind && p.hasOpen) = true := by
  rw [mem_planQueue, Bool.and_eq_true, beq_iff_eq, hasOpen_iff, Suits, and_assoc]

/-- The plan for a station is a first of those that suit it. -/
theorem planFor_first {s : State} {i : StationNo} {p : Plan} (h : planFor s i = some p) :
    Suits s i p ∧ ∀ q, Suits s i q → ¬ (q.due < p.due ∨ q.due = p.due ∧ q.admission.toNat < p.admission.toNat) := by
  obtain ⟨hp, before, after, hq, hbefore⟩ := List.find?_eq_some_iff_append.mp h
  refine ⟨(suits_iff s i p).mpr ⟨hq ▸ by simp, hp⟩, fun q hs => ?_⟩
  obtain ⟨hmem, hsuit⟩ := (suits_iff s i q).mp hs
  rw [← planBefore_iff, Bool.not_eq_true]
  have order := planQueue_inOrder s.plans.plans
  rw [hq] at hmem order
  obtain ⟨-, hlater, -⟩ := List.pairwise_append.mp order
  rcases List.mem_append.mp hmem with hmem | hmem
  · have hnot : (!(q.baseKind == s.stations[i].baseKind && q.hasOpen)) = true := hbefore q hmem
    rw [hsuit] at hnot
    cases hnot
  · rcases List.mem_cons.mp hmem with rfl | hmem
    · rw [Bool.eq_false_iff, Ne, planBefore_iff]
      omega
    · exact (List.pairwise_cons.mp hlater).1 q hmem

theorem planFor_isSome (s : State) (i : StationNo) : (∃ p, planFor s i = some p) ↔ ∃ p, Suits s i p := by
  rw [← Option.isSome_iff_exists, planFor, List.find?_isSome]
  exact exists_congr fun p => (suits_iff s i p).symm

/-! ### A binding (R71, R72) -/

/-- The flags that are raised (R116). -/
theorem raiseFlags_eq (s : State) : ∃ v : Vector Bool 4,
    raiseFlags s = { s with engine := { s.engine with flags := v } }
      ∧ ∀ k : LaneNo, v[k] = (s.engine.flags[k] || s.lanes[k].flaggable) := by
  have fold : ∀ (l : List LaneNo) (u : State), ∃ v : Vector Bool 4,
      l.foldl (fun s k => if s.lanes[k].flaggable then s.setFlag k true else s) u
          = { u with engine := { u.engine with flags := v } }
        ∧ ∀ k : LaneNo, v[k] = (u.engine.flags[k] || (decide (k ∈ l) && u.lanes[k].flaggable)) := by
    intro l
    induction l with
    | nil => exact fun u => ⟨u.engine.flags, rfl, fun k => by simp⟩
    | cons j l ih =>
      intro u
      rw [List.foldl_cons]
      by_cases hj : u.lanes[j].flaggable = true
      · rw [if_pos hj]
        obtain ⟨v, e, hv⟩ := ih (u.setFlag j true)
        refine ⟨v, e, fun k => ?_⟩
        rw [hv]
        by_cases hk : k = j
        · subst hk
          have hj' : u.lanes[k.val].flaggable = true := hj
          simp [hj']
        · have hne : j.val ≠ k.val := fun e => hk (Fin.ext e.symm)
          simp [hk, hne]
      · rw [if_neg hj]
        obtain ⟨v, e, hv⟩ := ih u
        refine ⟨v, e, fun k => ?_⟩
        rw [hv]
        by_cases hk : k = j
        · subst hk
          have hj' : u.lanes[k.val].flaggable = false := Bool.eq_false_iff.mpr hj
          simp [hj']
        · simp [hk]
  obtain ⟨v, e, hv⟩ := fold allLanes s
  have all : ∀ k : LaneNo, k ∈ allLanes := by decide
  exact ⟨v, e, fun k => by rw [hv]; simp [all]⟩

/-- What binding a plan at a station that is not BUILDING makes of the state. -/
theorem bindPlan_eq {s : State} {i : StationNo} (p : Plan) (e : BaseEntry) (h : s.stations[i].state ≠ .building) :
    ∃ v : Vector Bool 4,
      bindPlan i p e s =
        { s with
          builds := s.builds.set i (s.builds[i].bind p.id p.part s.stations[i].baseKind e)
          plans := { s.plans with
            plans := changeFirst (fun q => q.id == p.id) (fun q => { q with state := .building, bound := some i })
              s.plans.plans }
          stations := s.stations.set i { s.stations[i] with state := .building }
          req := { s.req with exec := s.req.exec.map (Exec.note i) }
          engine := { s.engine with flags := v } }
      ∧ ∀ k : LaneNo, v[k] = (s.engine.flags[k] || s.lanes[k].flaggable) := by
  unfold bindPlan
  dsimp only
  have hstate : (((s.onBuild i fun b => b.bind p.id p.part s.stations[i].baseKind e).onPlan p.id fun q =>
      { q with state := .building, bound := some i }).stations[i].state = .building) = False := eq_false h
  unfold State.enterState
  rw [if_neg (by rw [hstate]; exact id)]
  obtain ⟨v, e, hv⟩ := raiseFlags_eq _
  exact ⟨v, e, hv⟩

/-- The turn of a station that takes a plan. -/
theorem offerPlan_binds {s : State} {i : StationNo} {p : Plan} {e : BaseEntry} (hidle : s.stations[i].state = .idle)
    (hready : s.stations[i].ready = true) (hfree : s.builds[i].free = true) (hp : planFor s i = some p)
    (he : s.tables.bases[s.stations[i].baseKind] = some e) : offerPlan s i = bindPlan i p e s := by
  unfold offerPlan
  rw [if_pos ⟨hidle, hready, hfree⟩]
  simp only [hp, he]

theorem free_iff (b : Build) : b.free = true ↔ b.binding = none ∧ b.cases = [] := by
  simp [Build.free]

/-- A turn with no plan taken changes nothing. -/
theorem offerPlan_same {s : State} {i : StationNo}
    (h : s.stations[i].state ≠ .idle ∨ s.stations[i].ready = false ∨ (¬ ∃ p, Suits s i p) ∨ s.builds[i].binding ≠ none
      ∨ s.builds[i].cases ≠ [] ∨ s.tables.bases[s.stations[i].baseKind] = none) : offerPlan s i = s := by
  unfold offerPlan
  split_ifs with hturn
  · obtain ⟨hidle, hready, hfree⟩ := hturn
    rw [free_iff] at hfree
    split
    · rename_i p e hp he
      rcases h with h | h | h | h | h | h
      · exact absurd hidle h
      · exact absurd (hready.symm.trans h) (by decide)
      · exact absurd ⟨p, (planFor_first hp).1⟩ h
      · exact absurd hfree.1 h
      · exact absurd hfree.2 h
      · exact absurd (he.symm.trans h) (by simp)
    · rfl
  · rfl

/-- A turn is a binding, or changes nothing. -/
theorem offerPlan_cases (s : State) (i : StationNo) :
    offerPlan s i = s ∨ ∃ p e, s.stations[i].state = .idle ∧ s.stations[i].ready = true ∧ s.builds[i].free = true
      ∧ planFor s i = some p ∧ offerPlan s i = bindPlan i p e s := by
  unfold offerPlan
  split_ifs with hturn
  · obtain ⟨hidle, hready, hfree⟩ := hturn
    split
    · rename_i p e hp _
      exact .inr ⟨p, e, hidle, hready, hfree, hp, rfl⟩
    · exact .inl rfl
  · exact .inl rfl

/-- The parts that a binding changes. -/
theorem bindPlan_keeps {s : State} {i : StationNo} (p : Plan) (e : BaseEntry) (h : s.stations[i].state ≠ .building) :
    KeepsAllBut [.plans, .stations, .builds, .flags, .exec] s (bindPlan i p e s) := by
  obtain ⟨v, eq, -⟩ := bindPlan_eq p e h
  rw [eq]
  refine ⟨rfl, rfl, fun q hq => ?_⟩
  cases q <;> simp [Part.Same] at hq ⊢

theorem offerPlan_keeps (s : State) (i : StationNo) :
    KeepsAllBut [.plans, .stations, .builds, .flags, .exec] s (offerPlan s i) := by
  rcases offerPlan_cases s i with h | ⟨p, e, hidle, -, -, -, h⟩
  · rw [h]
    exact (KeepsAllBut.refl s).mono (by simp)
  · rw [h]
    exact bindPlan_keeps p e (by rw [hidle]; decide)

theorem bindingAttempt_keeps (s : State) :
    KeepsAllBut [.plans, .stations, .builds, .flags, .exec] s (bindingAttempt s) := by
  have fold : ∀ (l : List StationNo) (u : State),
      KeepsAllBut [.plans, .stations, .builds, .flags, .exec] u (l.foldl offerPlan u) := by
    intro l
    induction l with
    | nil => exact fun u => (KeepsAllBut.refl u).mono (by simp)
    | cons i l ih => exact fun u => (offerPlan_keeps u i).trans (ih _)
  exact fold _ s

/-- A plan of a store with rising ids is found by its id. -/
theorem plan_of_mem {s : State} (h : RisingKeys Plan.key s.plans.plans) {p : Plan} (hp : p ∈ s.plans.plans) :
    s.plan p.id = some p := by
  unfold State.plan
  generalize s.plans.plans = l at h hp
  induction l with
  | nil => cases hp
  | cons q l ih =>
    obtain ⟨hq, hl⟩ := List.pairwise_cons.mp h
    rcases List.mem_cons.mp hp with rfl | hp
    · simp
    · have hne : q.id ≠ p.id := fun e => by
        have hlt : q.id.toNat < p.id.toNat := hq p hp
        exact absurd hlt (by rw [e]; exact lt_irrefl _)
      rw [List.find?_cons, beq_false_of_ne hne]
      exact ih hl hp

/-- The plan of an id after a change that keeps its id. -/
theorem find?_changeFirst {α : Type} {p : α → Bool} {g : α → α} (hg : ∀ x, p x = true → p (g x) = true) (l : List α) :
    (changeFirst p g l).find? p = (l.find? p).map g := by
  induction l with
  | nil => rfl
  | cons x l ih =>
    unfold changeFirst
    split_ifs with h
    · rw [List.find?_cons_of_pos (hg x h), List.find?_cons_of_pos h]
      rfl
    · rw [List.find?_cons_of_neg h, List.find?_cons_of_neg h, ih]

/-- Settles O35: the queue in order gives the first plan that suits, and a binding written out. -/
theorem bindingTakesTheFirstPlan : Obligations.BindingTakesTheFirstPlan := by
  refine ⟨fun s i p e hkeys hidle hready hbind hcases hp he => ?_, fun s i => planFor_isSome s i,
    fun s i h => offerPlan_same h, fun s => rfl⟩
  have hfirst := planFor_first hp
  have hne : s.stations[i].state ≠ .building := by rw [hidle]; decide
  have hkeep := bindPlan_keeps p e hne
  obtain ⟨v, eq, hv⟩ := bindPlan_eq p e hne
  rw [offerPlan_binds hidle hready ((free_iff _).mpr ⟨hbind, hcases⟩) hp he]
  refine ⟨hfirst, ?_, ?_, ?_, fun j hj => ?_, fun j hj => ?_, fun k => ?_, hkeep⟩
  · simp [eq]
  · have hplan := plan_of_mem hkeys hfirst.1.1
    rw [eq]
    refine (find?_changeFirst (by simp) s.plans.plans).trans ?_
    rw [show s.plans.plans.find? (fun q => q.id == p.id) = some p from hplan]
    rfl
  · simp [eq, Build.bind]
  · have hval : i.val ≠ j.val := fun e => hj (Fin.ext e.symm)
    simp [eq, hval]
  · have hval : i.val ≠ j.val := fun e => hj (Fin.ext e.symm)
    simp [eq, hval]
  · rw [eq]
    show v[k] = true ↔ s.engine.flags[k] = true ∨ _
    rw [hv, Bool.or_eq_true, Lane.flaggable]
    simp

end Sys2Proof.Machine
end

section
/-!
PROOFS. EXCHANGE START and EXCHANGE DONE (R143, R144): the effect of each, a report of a served device with the changes
beside it, and what a binding attempt reads.
-/

namespace Sys2Proof.Machine

/-! ### Noted transitions -/

theorem replying_note (i : StationNo) (o : Option Exec) : replying (o.map (Exec.note i)) = replying o := by
  cases o with
  | none => rfl
  | some e =>
    unfold Exec.note
    cases hp : e.phase <;> simp [replying, hp]

/-- Working operations begin and end no reply, and hold back no frame of it. -/
theorem Works.replying {s t : State} (w : Works s t) :
    Machine.replying t.req.exec = Machine.replying s.req.exec ∧ t.req.late = s.req.late := by
  obtain ⟨is, h⟩ := w.req
  rw [h]
  refine ⟨?_, rfl⟩
  dsimp only
  clear h
  generalize s.req.exec = o
  induction is generalizing o with
  | nil => rfl
  | cons i is ih => exact (ih _).trans (replying_note i o)

/-! ### Served devices -/

/-- The effect of a command that notes transitions at most and leaves what the service of the ports reads. -/
theorem Served.noted {s u : State} (h : Served s) {ps : List Part} (hk : KeepsAllBut ps s u)
    (hps : Part.portA ∉ ps ∧ Part.portB ∉ ps ∧ Part.reports ∉ ps) (hx : replying u.req.exec = replying s.req.exec)
    (hl : u.req.late = s.req.late) : Served u := by
  obtain ⟨hA, hB, hr⟩ := hps
  refine h.of_same (hk.2.2 .portA hA) (hk.2.2 .portB hB) (fun hs l => hx ▸ (h.slot hs).2.2 l) hl fun hs => ?_
  rw [(hk.2.2 .reports hr).1]
  exact (h.idleA hs).2.2.1

/-- A part that an effect and the service both keep. -/
theorem KeepsAllBut.but {p : Part} {ps : List Part} {s t : State} (h : KeepsAllBut (p :: ps) s t) (hp : p.Same s t) :
    KeepsAllBut ps s t := by
  refine ⟨h.1, h.2.1, fun q hq => ?_⟩
  by_cases e : q = p
  · exact e ▸ hp
  · exact h.2.2 q fun hm => (List.mem_cons.mp hm).elim e hq

/-- A served device with one report queued and changes that the service of the ports does not read. -/
theorem settle_reported {s x : State} {b : ReportBody} {ps : List Part} (h : Served s) (hk : KeepsAllBut ps s x)
    (hps : ∀ p ∈ ps, p ≠ .time ∧ p ≠ .ownNode ∧ p ≠ .portA ∧ p ≠ .portB ∧ p ≠ .settings ∧ p ≠ .levels)
    (hx : replying x.req.exec = replying s.req.exec) (hl : x.req.late = s.req.late)
    (hr : x.reports = (report b s).reports) :
    Reported b s (settle x) ∧ Part.Same s (settle x) .portB ∧ (settle x).req = x.req := by
  have same : ∀ p : Part, p = .time ∨ p = .ownNode ∨ p = .portA ∨ p = .portB ∨ p = .settings ∨ p = .levels → p.Same s x :=
    fun p hp => hk.2.2 p fun hm => by
      obtain ⟨h1, h2, h3, h4, h5, h6⟩ := hps p hm
      tauto
  have htime : x.link.time = s.link.time := same .time (by simp)
  have hnode : x.link.ownNode = s.link.ownNode := same .ownNode (by simp)
  have hset : x.req.settings = s.req.settings := same .settings (by simp)
  obtain ⟨a1, a2, a3, a4, a5⟩ := same .portA (by simp)
  obtain ⟨b1, b2, b3, b4⟩ := same .portB (by simp)
  have hw : Served { x with reports := s.reports } := by
    refine h.of_same (same .portA (by simp)) (same .portB (by simp)) (fun hs l => hx ▸ (h.slot hs).2.2 l) hl
      fun hs => (h.idleA hs).2.2.1
  have hnow : reportNow { x with reports := s.reports } b = reportNow s b := by
    simp [reportNow, htime]
  have hrep : report b { x with reports := s.reports } = x := by
    have hlevel : ({ x with reports := s.reports } : State).levelOf b = s.levelOf b := rfl
    have hfull : report b { x with reports := s.reports } = { x with reports := (report b s).reports } := by
      unfold report
      rw [hlevel]
      split_ifs
      · rfl
      · simp [htime]
    rw [hfull, ← hr]
  obtain ⟨hrepd, hB, hreq⟩ := settle_report b hw
  rw [hrep] at hrepd hB hreq
  refine ⟨?_, ⟨hB.1.trans b1, hB.2.1.trans b2, hB.2.2.1.trans b3, hB.2.2.2.trans b4⟩, hreq⟩
  unfold Reported at hrepd ⊢
  rw [hnow] at hrepd
  simpa only [a1, a2, a3, a4, a5, hset, hnode] using hrepd

/-! ### What a binding attempt reads -/

theorem planFor_congr {s u : State} {i : StationNo} (hp : u.plans.plans = s.plans.plans) (hs : u.stations = s.stations) :
    planFor u i = planFor s i := by
  unfold planFor
  rw [hp, hs]

/-- The parts that a binding attempt neither reads nor passes on. -/
def Aside (ps : List Part) : Prop :=
  Part.plans ∉ ps ∧ Part.stations ∉ ps ∧ Part.builds ∉ ps ∧ Part.flags ∉ ps ∧ Part.lanes ∉ ps ∧ Part.bases ∉ ps
    ∧ Part.exec ∈ ps

theorem bindPlan_congr {ps : List Part} (hps : Aside ps) {s u : State} (h : KeepsAllBut ps s u) {i : StationNo}
    (p : Plan) (e : BaseEntry) (hne : s.stations[i].state ≠ .building) :
    KeepsAllBut ps (bindPlan i p e s) (bindPlan i p e u) := by
  obtain ⟨hplans, hstations, hbuilds, hflags, hlanes, -, hexec⟩ := hps
  have eplans : u.plans.plans = s.plans.plans := h.2.2 .plans hplans
  have estations : u.stations = s.stations := h.2.2 .stations hstations
  have ebuilds : u.builds = s.builds := h.2.2 .builds hbuilds
  have eflags : u.engine.flags = s.engine.flags := h.2.2 .flags hflags
  have elanes : u.lanes = s.lanes := h.2.2 .lanes hlanes
  obtain ⟨v, es, hv⟩ := bindPlan_eq p e hne
  obtain ⟨w, eu, hw⟩ := bindPlan_eq (s := u) (i := i) p e (by rw [estations]; exact hne)
  have hvw : w = v := by
    refine Vector.ext fun k hk => ?_
    have := hw ⟨k, hk⟩
    rw [eflags, elanes] at this
    exact this.trans (hv ⟨k, hk⟩).symm
  rw [es, eu, hvw]
  simp only [estations, ebuilds, eplans]
  refine ⟨h.1, h.2.1, fun q hq => ?_⟩
  have hsame := h.2.2 q hq
  cases q
  case exec => exact absurd hexec hq
  case plans => rfl
  case stations => rfl
  case builds => rfl
  case flags => rfl
  all_goals exact hsame

theorem offerPlan_congr {ps : List Part} (hps : Aside ps) {s u : State} (h : KeepsAllBut ps s u) (i : StationNo) :
    KeepsAllBut ps (offerPlan s i) (offerPlan u i) := by
  obtain ⟨hplans, hstations, hbuilds, -, -, hbases, -⟩ := id hps
  have estations : u.stations = s.stations := h.2.2 .stations hstations
  have ebuilds : u.builds = s.builds := h.2.2 .builds hbuilds
  have ebases : u.tables.bases = s.tables.bases := h.2.2 .bases hbases
  have efor := planFor_congr (i := i) (h.2.2 .plans hplans) estations
  unfold offerPlan
  simp only [estations, ebuilds, efor, ebases]
  split_ifs with hturn
  · rcases planFor s i with - | p
    · exact h
    · rcases s.tables.bases[s.stations[i].baseKind] with - | e
      · exact h
      · exact bindPlan_congr hps h p e (by rw [hturn.1]; decide)
  · exact h

theorem bindingAttempt_congr {ps : List Part} (hps : Aside ps) {s u : State} (h : KeepsAllBut ps s u) :
    KeepsAllBut ps (bindingAttempt s) (bindingAttempt u) := by
  have fold : ∀ (l : List StationNo) (s u : State), KeepsAllBut ps s u →
      KeepsAllBut ps (l.foldl offerPlan s) (l.foldl offerPlan u) := by
    intro l
    induction l with
    | nil => exact fun _ _ h => h
    | cons i l ih => exact fun s u h => ih _ _ (offerPlan_congr hps h i)
  exact fold _ s u h

/-- What a binding attempt may do to a station and to its build. -/
structure MayBind (s t : State) (i : StationNo) : Prop where
  station : t.stations[i] = s.stations[i]
    ∨ s.stations[i].state = .idle ∧ t.stations[i] = { s.stations[i] with state := .building }
  build   : t.builds[i].cases = s.builds[i].cases ∧ t.builds[i].revision = s.builds[i].revision

theorem MayBind.trans {s t u : State} {i : StationNo} (h : MayBind s t i) (k : MayBind t u i) : MayBind s u i := by
  obtain ⟨hs, hc, hr⟩ := h
  obtain ⟨ks, kc, kr⟩ := k
  refine ⟨?_, kc.trans hc, kr.trans hr⟩
  rcases hs with hs | ⟨hidle, hs⟩
  · rwa [hs] at ks
  · rw [hs] at ks
    exact .inr ⟨hidle, ks.elim id fun k => k.2⟩

theorem offerPlan_mayBind (s : State) (j i : StationNo) : MayBind s (offerPlan s j) i := by
  rcases offerPlan_cases s j with h | ⟨p, e, hidle, -, -, -, h⟩
  · rw [h]
    exact ⟨.inl rfl, rfl, rfl⟩
  · obtain ⟨v, eq, -⟩ := bindPlan_eq (s := s) (i := j) p e (by rw [hidle]; decide)
    rw [h, eq]
    by_cases hji : j = i
    · subst hji
      exact ⟨.inr ⟨hidle, by simp⟩, by simp [Build.bind]⟩
    · have hval : j.val ≠ i.val := fun e => hji (Fin.ext e)
      exact ⟨.inl (by simp [hval]), by simp [hval]⟩

theorem bindingAttempt_mayBind (s : State) (i : StationNo) : MayBind s (bindingAttempt s) i := by
  have fold : ∀ (l : List StationNo) (u : State), MayBind u (l.foldl offerPlan u) i := by
    intro l
    induction l with
    | nil => exact fun u => ⟨.inl rfl, rfl, rfl⟩
    | cons j l ih => exact fun u => (offerPlan_mayBind u j i).trans (ih _)
  exact fold _ s

/-! ### EXCHANGE START (R143) -/

theorem setSup_keeps (s : State) (x : SupTimer) : KeepsAllBut [.sup] s (s.setSup x) := by
  refine ⟨rfl, rfl, fun p hp => ?_⟩
  cases p <;> simp_all [Part.Same, State.setSup]

/-- A partner frame that changes nothing but the supervision timer. -/
theorem partner_idle {k : Byte} {act : List Byte → State → State} {f : RxFrame} {s : State} (h : FromPartner k f s)
    (hact : ∀ u : State, KeepsAllBut [.sup] s u → act f.payload u = u) :
    ∃ t, live (receive k f (partner k act f)) s = .next t ∧ t.req.sup = fedTimer f.src s ∧ KeepsAllBut [.sup] s t := by
  have hfed := setSup_keeps s (fedTimer f.src s)
  have same := hact _ hfed
  have served : Served (s.setSup (fedTimer f.src s)) := h.toRunning.served'.noted hfed (by simp) rfl rfl
  refine ⟨s.setSup (fedTimer f.src s), ?_, rfl, hfed⟩
  rw [partner_served h (same.symm ▸ served), same]

/-- A station entering another state, written out (R125). -/
theorem enterState_eq {s : State} {i : StationNo} {n : StationState} (h : s.stations[i].state ≠ n) :
    s.enterState i n = { s with
      stations := s.stations.set i { s.stations[i] with state := n }
      req := { s.req with exec := s.req.exec.map (Exec.note i) } } := by
  unfold State.enterState
  rw [if_neg h]
  rfl

theorem exchangeStarts_eq {s : State} {i : StationNo} (h : s.stations[i].state = .awaitExchange) :
    exchangeStarts i s = { s with
      stations := s.stations.set i
        { s.stations[i] with
          state := .exchanging
          exchangeExpiry := some (after s.link.time s.req.settings.exchangeTimeout) }
      req := { s.req with exec := s.req.exec.map (Exec.note i) } } := by
  unfold exchangeStarts
  rw [if_pos h]
  dsimp only
  rw [enterState_eq (by rw [onStation_get]; dsimp only; rw [h]; decide)]
  simp [State.onStation]

/-! ### EXCHANGE DONE (R144) -/

/-- The station after its exchange. -/
def Station.exchanged (st : Station) : Station :=
  { st with state := .idle, exchangeExpiry := none, close := none, cause := .none }

/-- The exchange ended, before its report and the binding attempt. -/
def exchanged (i : StationNo) (s : State) : State :=
  { s with
    stations := s.stations.set i s.stations[i].exchanged
    builds := s.builds.set i s.builds[i].clear
    req := { s.req with exec := s.req.exec.map (Exec.note i) } }

theorem exchangeEnds_eq {s : State} {i : StationNo} (h : s.stations[i].state ≠ .idle) :
    exchangeEnds i s =
      if s.stations[i].ready = true then bindingAttempt (report (.stationIdle i) (exchanged i s))
      else report (.stationIdle i) (exchanged i s) := by
  have hstate : ((s.onStation i fun st => { st with exchangeExpiry := none, close := none, cause := .none }).onBuild i
      Build.clear).enterState i .idle = exchanged i s := by
    rw [enterState_eq]
    · simp [exchanged, Station.exchanged, State.onStation, State.onBuild]
    · simpa using h
  have hready : (report (.stationIdle i) (exchanged i s)).stations[i].ready = s.stations[i].ready := by
    rw [(Quiet.report ..).stations]
    simp [exchanged, Station.exchanged]
  unfold exchangeEnds
  dsimp only
  rw [hstate, hready]

theorem exchanged_keeps (i : StationNo) (s : State) : KeepsAllBut [.stations, .builds, .exec] s (exchanged i s) := by
  refine ⟨rfl, rfl, fun p hp => ?_⟩
  cases p <;> simp_all [Part.Same, exchanged]

/-- A report is of the levels and the time only. -/
theorem report_reports_congr {s u : State} (b : ReportBody) (hr : u.reports = s.reports) (ht : u.link.time = s.link.time) :
    (report b u).reports = (report b s).reports := by
  have hl : u.levelOf b = s.levelOf b := by rw [State.levelOf, State.levelOf, hr]
  unfold report
  rw [hl]
  split_ifs
  · exact hr
  · simp [hr, ht]

theorem report_keeps (b : ReportBody) (s : State) : KeepsAllBut [.reports] s (report b s) := by
  refine ⟨(Works.report b s).inReset, (Works.report b s).pending, fun p hp => ?_⟩
  unfold report
  split_ifs
  · exact Part.Same.refl s p
  · cases p <;> simp_all [Part.Same]

/-- The parts that the end of an exchange may change besides ports and reports. -/
def exchangeParts : List Part := [.sup, .exec, .plans, .flags, .builds, .stations]

/-- The exchange ended and reported, in a state whose supervision timer has been fed. -/
def idled (i : StationNo) (sup : SupTimer) (s : State) : State := report (.stationIdle i) (exchanged i (s.setSup sup))

/-- The records that a binding attempt at the end of an exchange starts from (R144). -/
def exchangedRecords (i : StationNo) (s : State) : State :=
  { s with
    stations := s.stations.set i s.stations[i].exchanged
    builds := s.builds.set i s.builds[i].clear }

/-- What the end of an exchange makes of a state. -/
structure Exchanged (i : StationNo) (sup : SupTimer) (s x : State) : Prop where
  keeps   : KeepsAllBut (.reports :: exchangeParts) s x
  works   : replying x.req.exec = replying s.req.exec ∧ x.req.late = s.req.late
  sup     : x.req.sup = sup
  reports : x.reports = (report (.stationIdle i) s).reports
  build   : x.builds[i].cases = [] ∧ x.builds[i].revision = s.builds[i].revision + 1

/-- The exchange ended in a state with the supervision timer fed, before the service of the ports. -/
theorem exchanged_effect (i : StationNo) (s : State) (sup : SupTimer) :
    Exchanged i sup s (idled i sup s) ∧ Exchanged i sup s (bindingAttempt (idled i sup s)) := by
  have hu : KeepsAllBut exchangeParts s (exchanged i (s.setSup sup)) :=
    ((setSup_keeps s sup).mono (by simp [exchangeParts])).trans
      ((exchanged_keeps i (s.setSup sup)).mono (by simp [exchangeParts]))
  have hv : KeepsAllBut (.reports :: exchangeParts) s (idled i sup s) :=
    (hu.mono (by simp +contextual)).trans ((report_keeps (.stationIdle i) (exchanged i (s.setSup sup))).mono (by simp))
  have hreply : replying (exchanged i (s.setSup sup)).req.exec = replying s.req.exec := replying_note i s.req.exec
  have hrep : (idled i sup s).reports = (report (.stationIdle i) s).reports := report_reports_congr _ rfl rfl
  have hvw : Works (exchanged i (s.setSup sup)) (idled i sup s) := .report ..
  have hsup : (idled i sup s).req.sup = sup := hvw.sup
  have hbuild : (idled i sup s).builds[i].cases = [] ∧ (idled i sup s).builds[i].revision = s.builds[i].revision + 1 := by
    rw [idled, (Quiet.report ..).builds]
    simp [exchanged, Build.clear, Build.empty]
  generalize idled i sup s = v at *
  have bound := bindingAttempt_mayBind v i
  have attempt := bindingAttempt_keeps v
  refine ⟨⟨hv, ⟨hvw.replying.1.trans hreply, hvw.replying.2⟩, hsup, hrep, hbuild⟩, hv.trans (attempt.mono (by simp [exchangeParts])),
    ⟨(Works.bindingAttempt v).replying.1.trans (hvw.replying.1.trans hreply),
      (Works.bindingAttempt v).replying.2.trans hvw.replying.2⟩, (Works.bindingAttempt v).sup.trans hsup, ?_, bound.build.1.trans hbuild.1,
    bound.build.2.trans hbuild.2⟩
  rw [← hrep]
  have hl : (bindingAttempt v).reports.levels = v.reports.levels := attempt.2.2 .levels (by simp)
  obtain ⟨hq, hlost⟩ := attempt.2.2 .reports (by simp)
  rcases h1 : (bindingAttempt v).reports with ⟨a, b, c⟩
  rcases h2 : v.reports with ⟨a', b', c'⟩
  simp_all

theorem takeTransport_at {act : StationNo → State → State} {p : List Byte} {i : StationNo} (h : stationAt p = some i)
    (s : State) : takeTransport act p s = act i s := by
  simp only [takeTransport, h]

theorem takeTransport_none {act : StationNo → State → State} {p : List Byte} (h : stationAt p = none) (s : State) :
    takeTransport act p s = s := by
  simp only [takeTransport, h]

/-- EXCHANGE START in AWAIT_EXCHANGE (R143). -/
theorem exchangeStart_taken {f : RxFrame} {s : State} {i : StationNo} (h : FromPartner 0x70 f s)
    (hi : stationAt f.payload = some i) (hst : s.stations[i].state = .awaitExchange) :
    ∃ t, exec (.exchangeStart f) s = .next t ∧ t.req.sup = fedTimer f.src s ∧ KeepsAllBut [.sup, .stations, .exec] s t
      ∧ OtherStations i s t
      ∧ t.stations[i] =
          { s.stations[i] with
            state := .exchanging
            exchangeExpiry := some (after s.link.time s.req.settings.exchangeTimeout) } := by
  have eq := exchangeStarts_eq (s := s.setSup (fedTimer f.src s)) (i := i) hst
  have keeps : KeepsAllBut [.sup, .stations, .exec] s (exchangeStarts i (s.setSup (fedTimer f.src s))) := by
    rw [eq]
    refine ⟨rfl, rfl, fun p hp => ?_⟩
    cases p <;> simp_all [Part.Same]
  have served : Served (exchangeStarts i (s.setSup (fedTimer f.src s))) :=
    h.toRunning.served'.noted keeps (by simp) (by rw [eq]; exact replying_note ..) (by rw [eq]; rfl)
  have hact := takeTransport_at (act := exchangeStarts) hi (s.setSup (fedTimer f.src s))
  refine ⟨_, partner_served h (hact.symm ▸ served), ?_⟩
  rw [hact, eq]
  rw [eq] at keeps
  refine ⟨rfl, keeps, fun j hj => ?_, by simp⟩
  have hval : i.val ≠ j.val := fun e => hj (Fin.ext e.symm)
  simp [hval]

/-- A served device after the end of an exchange: the report beside the changes. -/
structure ExchangeServed (i : StationNo) (sup : SupTimer) (s x t : State) : Prop where
  reported : Reported (.stationIdle i) s t
  keeps    : KeepsAllBut (.portA :: .reports :: exchangeParts) s t
  service  : KeepsAllBut [.portA, .exec, .reports] x t
  sup      : t.req.sup = sup
  build    : t.builds[i].cases = [] ∧ t.builds[i].revision = s.builds[i].revision + 1

theorem Exchanged.settled {i : StationNo} {sup : SupTimer} {s x : State} (h : Exchanged i sup s x) (hs : Served s) :
    ExchangeServed i sup s x (settle x) := by
  obtain ⟨reported, hB, hreq⟩ := settle_reported hs h.keeps (by simp [exchangeParts]) h.works.1 h.works.2 h.reports
  have service := settle_services x
  have hB' : Part.Same x (settle x) .portB := by
    have hBx : Part.Same s x .portB := h.keeps.2.2 .portB (by simp [exchangeParts])
    obtain ⟨a, b, c, d⟩ := hB
    obtain ⟨a', b', c', d'⟩ := hBx
    exact ⟨a.trans a'.symm, b.trans b'.symm, c.trans c'.symm, d.trans d'.symm⟩
  have kept : KeepsAllBut [.portA, .exec, .reports] x (settle x) := .but (service.keeps.mono (by simp)) hB'
  refine ⟨reported, (h.keeps.mono (by simp +contextual)).trans (kept.mono (by simp [exchangeParts])), kept, ?_, ?_⟩
  · rw [hreq, h.sup]
  · rw [service.builds]
    exact h.build

/-- The record of station i and its build in the state that a binding attempt starts from. -/
theorem exchanged_records (i : StationNo) (s : State) (sup : SupTimer) :
    KeepsAllBut [.sup, .exec, .reports] (exchangedRecords i s) (idled i sup s) := by
  refine .trans (t := exchanged i (s.setSup sup)) ⟨rfl, rfl, fun p hp => ?_⟩
    ((report_keeps (.stationIdle i) (exchanged i (s.setSup sup))).mono (by simp))
  cases p <;> simp_all [Part.Same, exchanged, exchangedRecords]

theorem exchangedRecords_keeps (i : StationNo) (s : State) :
    KeepsAllBut [.stations, .builds] s (exchangedRecords i s) := by
  refine ⟨rfl, rfl, fun p hp => ?_⟩
  cases p <;> simp_all [Part.Same, exchangedRecords]

/-- The records of the stations and the builds after the end of an exchange. -/
theorem exchangedRecords_same (i : StationNo) {s t : State} (hs : t.stations = (exchangedRecords i s).stations)
    (hb : t.builds = (exchangedRecords i s).builds) :
    t.stations[i] = s.stations[i].exchanged ∧ t.builds[i] = s.builds[i].clear ∧ OtherStations i s t ∧ OtherBuilds i s t := by
  refine ⟨by simp [hs, exchangedRecords], by simp [hb, exchangedRecords], fun j hj => ?_, fun j hj => ?_⟩
  all_goals
    have hval : i.val ≠ j.val := fun e => hj (Fin.ext e.symm)
    simp [hs, hb, exchangedRecords, hval]

/-- The effect of EXCHANGE DONE in EXCHANGING, or in FAULT with cause EXCHANGE_TIMEOUT (R144). -/
theorem exchangeDone_exec {f : RxFrame} {s : State} {i : StationNo} (h : FromPartner 0x71 f s)
    (hi : stationAt f.payload = some i)
    (htaken : s.stations[i].state = .exchanging ∨ s.stations[i].state = .fault ∧ s.stations[i].cause = .exchangeTimeout) :
    exec (.exchangeDone f) s
      = .next (settle (if s.stations[i].ready = true then bindingAttempt (idled i (fedTimer f.src s) s)
          else idled i (fedTimer f.src s) s)) := by
  have ended : exchangeDone i (s.setSup (fedTimer f.src s))
      = if s.stations[i].ready = true then bindingAttempt (idled i (fedTimer f.src s) s)
        else idled i (fedTimer f.src s) s := by
    refine (if_pos htaken).trans (exchangeEnds_eq fun hidle => ?_)
    have hidle' : s.stations[i].state = .idle := hidle
    rw [hidle'] at htaken
    simp at htaken
  refine (live_directed h.toDirected _).trans ?_
  rw [handleExchangeDone, partner_taken h, takeTransport_at hi, ended]

/-- With the station not ready nothing is bound (R144). -/
theorem ExchangeServed.notReady {i : StationNo} {sup : SupTimer} {s t : State}
    (h : ExchangeServed i sup s (idled i sup s) t) :
    t.stations[i] = s.stations[i].exchanged ∧ t.builds[i] = s.builds[i].clear ∧ OtherStations i s t ∧ OtherBuilds i s t
      ∧ KeepsAllBut [.portA, .sup, .exec, .builds, .stations, .reports] s t := by
  have records : KeepsAllBut [.portA, .sup, .exec, .reports] (exchangedRecords i s) t :=
    ((exchanged_records i s sup).mono (by simp)).trans (h.service.mono (by simp))
  obtain ⟨hst, hb, hstations, hbuilds⟩ := exchangedRecords_same i (s := s) (t := t) (records.2.2 .stations (by simp))
    (records.2.2 .builds (by simp))
  exact ⟨hst, hb, hstations, hbuilds, ((exchangedRecords_keeps i s).mono (by simp)).trans (records.mono (by simp))⟩

/-- A ready station takes part in a binding attempt (R144). -/
theorem ExchangeServed.ready {i : StationNo} {sup : SupTimer} {s t : State}
    (h : ExchangeServed i sup s (bindingAttempt (idled i sup s)) t) :
    (t.stations[i] = s.stations[i].exchanged ∨ t.stations[i] = { s.stations[i].exchanged with state := .building })
      ∧ KeepsAllBut [.portA, .sup, .exec, .reports] (bindingAttempt (exchangedRecords i s)) t := by
  have records := exchanged_records i s sup
  have hst : (idled i sup s).stations[i] = s.stations[i].exchanged :=
    (exchangedRecords_same i (t := idled i sup s) (records.2.2 .stations (by simp)) (records.2.2 .builds (by simp))).1
  have hsame : t.stations = (bindingAttempt (idled i sup s)).stations := h.service.2.2 .stations (by simp)
  have bound := (bindingAttempt_mayBind (idled i sup s) i).station
  rw [← hsame, hst] at bound
  have attempt := bindingAttempt_congr (by simp [Aside]) records
  exact ⟨bound.imp_right And.right, (attempt.mono (by simp)).trans (h.service.mono (by simp))⟩

/-- Settles O44: the effect of each frame written out, the report beside it, and what the binding attempt reads. -/
theorem exchangesComplete : Obligations.ExchangesComplete := by
  refine ⟨fun f s i h hi => ⟨exchangeStart_taken h hi, fun hst => ?_⟩,
    fun f s i h hi => ⟨fun htaken => ?_, fun hnot => ?_⟩, fun f s hnone => ⟨fun h => ?_, fun h => ?_⟩⟩
  · refine partner_idle h fun u hu => ?_
    have hsame : u.stations = s.stations := hu.2.2 .stations (by simp)
    rw [takeTransport_at hi]
    simp only [exchangeStarts, hsame, if_neg hst]
  · have done := exchangeDone_exec h hi htaken
    have served := h.toRunning.served'
    obtain ⟨bare, tried⟩ := exchanged_effect i s (fedTimer f.src s)
    by_cases hready : s.stations[i].ready = true
    · rw [if_pos hready] at done
      have after := tried.settled served
      exact ⟨_, done, after.sup, after.keeps.mono (by simp [exchangeParts]), after.reported, after.build.1, after.build.2,
        fun hnot => absurd (hready.symm.trans hnot) (by decide), fun _ => after.ready⟩
    · rw [if_neg hready] at done
      have after := bare.settled served
      exact ⟨_, done, after.sup, after.keeps.mono (by simp [exchangeParts]), after.reported, after.build.1, after.build.2,
        fun _ => after.notReady, fun hyes => absurd hyes hready⟩
  · refine partner_idle h fun u hu => ?_
    have hsame : u.stations = s.stations := hu.2.2 .stations (by simp)
    simp only [takeTransport_at hi, exchangeDone, hsame]
    exact if_neg hnot
  · exact partner_idle h fun u _ => takeTransport_none hnone u
  · exact partner_idle h fun u _ => takeTransport_none hnone u

end Sys2Proof.Machine
end

section
/-!
PROOFS. A reply in several frames on its way out of port A (R156, R167, R168): the service of the ports neither loses nor
reorders a frame of it.
-/

namespace Sys2Proof.Machine

/-! ### The frames of a reply -/

/-- A segment to send, and the frames after it (R167). -/
theorem replyFrames_cons (own : Byte) (e : Exec) (seg : List Item) (rest : List (List Item)) (n : Nat) (r : ResultFields)
    (watch : List StationNo) (changed : Bool) :
    replyFrames own { e with phase := .replying (seg :: rest) n r watch changed }
      = e.frame own (.responseData n rest.isEmpty seg) false
        :: replyFrames own { e with phase := .replying rest (n + 1) r watch changed } := by
  have last : (0 + 1 == rest.length + 1) = rest.isEmpty := by cases rest <;> simp
  have later : ∀ i : Nat, (i + 1 + 1 == rest.length + 1) = (i + 1 == rest.length) := fun i => by simp
  have number : ∀ i : Nat, n + (i + 1) = n + 1 + i := fun i => by omega
  simp only [replyFrames, List.mapIdx_cons, List.cons_append, Exec.frame, List.length_cons, Nat.add_zero, last, later]
  refine congrArg (_ :: · ++ _) (congrArg (List.mapIdx · rest) ?_)
  funext i seg
  rw [number]

/-- A reply has a frame to send until it ends. -/
theorem replyFrames_ne_nil (own : Byte) {e : Exec} {segments : List (List Item)} {n : Nat} {r : ResultFields}
    {watch : List StationNo} {changed : Bool} (h : e.phase = .replying segments n r watch changed) :
    replyFrames own e ≠ [] := by
  simp [replyFrames, h]

theorem replyFrames_ending (own : Byte) {e : Exec} (h : e.phase = .ending) : replyFrames own e = [] := by
  simp [replyFrames, h]

/-! ### The service of the ports -/

theorem outA_moveUp (s : State) : outA (moveUp s) = outA s := by
  have eq : ∀ u : State, outA u = sentOwnA u ++ u.link.slot.toList ++ u.req.waiting.toList ++ u.req.heldFinal.toList
      ++ replyLeft u := fun u => rfl
  unfold moveUp
  split
  all_goals
    rename_i hslot hwait
    simp [eq, sentOwnA, replyLeft, hslot, hwait]

/-- A frame of the reply moves from the request unit into the slot. -/
theorem outA_produceReply {s : State} (hs : s.link.slot = none) (hw : s.req.waiting = none)
    (hh : s.req.heldFinal = none) : outA (produceReply s) = outA s := by
  unfold produceReply
  split
  · rfl
  · rename_i e he
    split
    · rename_i seg rest n r watch changed hp
      have hframes := replyFrames_cons s.link.ownNode e seg rest n r watch changed
      have hsame : { e with phase := .replying (seg :: rest) n r watch changed } = e := by rw [← hp]
      rw [hsame] at hframes
      simp [outA, sentOwnA, replyLeft, hs, hw, hh, he, hframes]
    · rename_i n r watch changed hp
      simp [outA, sentOwnA, replyLeft, hs, hw, hh, he, replyFrames, hp, Exec.frame]
    all_goals rfl

theorem outA_fillSlot (s : State) : outA (fillSlot s) = outA s := by
  have filled : (moveUp s).link.slot = none → (moveUp s).req.waiting = none → (moveUp s).req.heldFinal = none := by
    unfold moveUp
    split
    all_goals
      rename_i hslot hwait
      simp [hslot, hwait]
  unfold fillSlot
  dsimp only
  split_ifs with h
  · simp only [Bool.and_eq_true, Option.isNone_iff_eq_none] at h
    obtain ⟨⟨hs, hw⟩, -⟩ := h
    rw [outA_produceReply hs hw (filled hs hw), outA_moveUp]
  · exact outA_moveUp s

/-- Port A is busy, or no report waits: a turn of port A sends no report. -/
def NoReport (s : State) : Prop := s.link.portA.sending ≠ none ∨ s.reports.queue = []

theorem startA_noReport {s : State} (h : NoReport s) :
    NoReport (startA s) ∧ outA (startA s) = outA s ∧ (startA s).reports = s.reports
      ∧ (startA s).req = s.req := by
  unfold startA
  split_ifs with hbusy
  · exact ⟨h, rfl, rfl, rfl⟩
  · have hidle : s.link.portA.sending = none := by simpa using hbusy
    have hq : s.reports.queue = [] := h.resolve_left fun hn => hn hidle
    split
    · unfold sendForwardA
      split
      · exact ⟨h, rfl, rfl, rfl⟩
      · exact ⟨.inr hq, by simp [outA, sentOwnA, replyLeft, hidle], rfl, rfl⟩
    · unfold sendOwnA
      split
      · rename_i hslot
        exact ⟨.inr hq, by simp [outA, sentOwnA, replyLeft, hidle, hslot], rfl, rfl⟩
      · unfold sendReport
        rw [hq]
        exact ⟨h, rfl, rfl, rfl⟩
    · exact ⟨h, rfl, rfl, rfl⟩

theorem outA_startB (s : State) : outA (startB s) = outA s := by
  obtain ⟨⟨hA, -, hslot, hw, hh⟩, hreq, -⟩ := startB_sideA s
  have hnode : (startB s).link.ownNode = s.link.ownNode := (startB_portA s.link).2.2.2.2
  simp only [outA, sentOwnA, replyLeft, hA, hslot, hreq, hnode]

/-- With no report to send, the service of the ports keeps what is on its way out of port A. -/
theorem outA_settle {s : State} (h : NoReport s) : outA (settle s) = outA s ∧ (settle s).reports = s.reports := by
  have all : NoReport (settle s) ∧ outA (settle s) = outA s ∧ (settle s).reports = s.reports := by
    refine settle_keeps (P := fun v => NoReport v ∧ outA v = outA s ∧ v.reports = s.reports) (fun v hv => ?_)
      (fun v hv => ?_) (fun v l n hv => hv) (fun v hv => ?_) s ⟨h, rfl, rfl⟩
    · obtain ⟨hn, ho, hr⟩ := hv
      obtain ⟨hA, -, hrep⟩ := fillSlot_portA v
      exact ⟨by rwa [NoReport, hA, hrep], (outA_fillSlot v).trans ho, hrep.trans hr⟩
    · obtain ⟨hn, ho, hr⟩ := hv
      obtain ⟨kn, ko, kr, -⟩ := startA_noReport hn
      exact ⟨kn, ko.trans ho, kr.trans hr⟩
    · obtain ⟨hn, ho, hr⟩ := hv
      obtain ⟨⟨hA, -⟩, -, hrep⟩ := startB_sideA v
      exact ⟨by rwa [NoReport, hA, hrep], (outA_startB v).trans ho, hrep.trans hr⟩
  exact all.2

/-! ### A reply that begins -/

/-- The request e replies, watching the stations of `watch` while it has frames to send, and then ends. -/
def Replies (e : Exec) (watch : List StationNo) (s : State) : Prop :=
  ∃ phase, s.req.exec = some { e with phase := phase }
    ∧ (phase = .ending ∨ ∃ segments n r, phase = .replying segments n r watch false)

theorem Replies.produceReply {e : Exec} {watch : List StationNo} {s : State} (h : Replies e watch s) :
    Replies e watch (produceReply s) := by
  obtain ⟨phase, he, hp⟩ := h
  unfold Machine.produceReply
  rw [he]
  rcases hp with rfl | ⟨_ | ⟨seg, rest⟩, n, r, rfl⟩
  · exact ⟨_, he, .inl rfl⟩
  · exact ⟨_, rfl, .inl rfl⟩
  · exact ⟨_, rfl, .inr ⟨rest, n + 1, r, rfl⟩⟩

theorem Replies.settle {e : Exec} {watch : List StationNo} {s : State} (h : Replies e watch s) :
    Replies e watch (settle s) := by
  have same : ∀ {u v : State}, v.req.exec = u.req.exec → Replies e watch u → Replies e watch v := by
    intro u v hx hu
    rwa [Replies, hx]
  refine settle_keeps (P := Replies e watch) (fun v hv => ?_) (fun v hv => same ?_ hv) (fun v _ _ hv => same rfl hv)
    (fun v hv => same rfl hv) s h
  · have hm : Replies e watch (moveUp v) := by
      refine same ?_ hv
      unfold moveUp
      split <;> rfl
    unfold fillSlot
    dsimp only
    split_ifs
    · exact hm.produceReply
    · exact hm
  · unfold startA sendForwardA sendOwnA sendReport
    split_ifs
    · rfl
    · split
      · split <;> rfl
      · split
        · rfl
        · split <;> rfl
      · rfl

/-- The service of port A leaves a port B that has nothing to send. -/
theorem settle_portB {s : State} (h : s.link.portB.sending = none → s.link.fwdB = [] ∧ s.link.ownB = []) :
    Part.Same s (settle s) .portB := by
  have hA := ((fillSlot_portB s).portB_trans (turnA_portB _)).portB_trans (fillSlot_portB _)
  rw [settle_eq, startB_quiet]
  · exact hA
  · obtain ⟨a, b, c, -⟩ := hA
    rw [a, b, c]
    exact h

/-- A request that begins its reply in a served device (R167). -/
theorem reply_begun {s : State} (h : Served s) (hexec : s.req.exec = none) (sup : SupTimer) {e : Exec}
    {segments : List (List Item)} {r : ResultFields} {watch : List StationNo}
    (hp : e.phase = .replying segments 0 r watch false) {u : State}
    (hu : u = { s with req := { s.req with sup := sup, exec := some e } }) :
    (settle u).req.sup = sup ∧ KeepsAllBut [.portA, .exec, .sup] s (settle u) ∧ ReplyBegun e watch s (settle u) := by
  have hquiet : NoReport u := by
    rw [hu]
    by_cases hs : s.link.portA.sending = none
    · exact .inr (h.idleA hs).2.2.1
    · exact .inl hs
  obtain ⟨hout, hrep⟩ := outA_settle hquiet
  have service := settle_services u
  have hB := settle_portB (s := u) (by rw [hu]; exact h.idleB)
  have hnode : (settle u).link.ownNode = s.link.ownNode := by rw [service.ownNode, hu]
  refine ⟨by rw [service.sup, hu], ?_, ?_, ?_⟩
  · have set : KeepsAllBut [.exec, .sup] s u := by
      rw [hu]
      refine ⟨rfl, rfl, fun p hp => ?_⟩
      cases p <;> simp_all [Part.Same]
    have kept : KeepsAllBut [.portA, .exec] u (settle u) := by
      have reports : Part.Same u (settle u) .reports := ⟨by rw [hrep], by rw [hrep]⟩
      exact .but (p := .reports) (.but (p := .portB) (service.keeps.mono (by simp)) hB) reports
    exact (set.mono (by simp)).trans (kept.mono (by simp))
  · rw [hout, hu]
    simp [outA, sentOwnA, replyLeft, hexec]
  · have replies : Replies e watch (settle u) :=
      Replies.settle ⟨e.phase, by rw [hu], .inr ⟨segments, 0, r, hp⟩⟩
    obtain ⟨phase, he, hphase⟩ := replies
    have left : replyLeft (settle u) = replyFrames s.link.ownNode { e with phase := phase } := by
      rw [replyLeft, he, hnode]
    refine ⟨phase, he, fun hne => hphase.resolve_left fun hend => hne ?_, fun hnil => hphase.resolve_right ?_⟩
    · rw [left, replyFrames_ending _ hend]
    · rintro ⟨segs, n, res, hrepl⟩
      rw [left] at hnil
      exact replyFrames_ne_nil _ hrepl hnil

end Sys2Proof.Machine
end

section
/-!
PROOFS. A reply in progress sees every change of a station that it watches (R168): the work of the engine, frame by frame
and command by command.
-/

namespace Sys2Proof.Machine

/-! ### The engine -/

namespace Seen

/-- A change of cases and of the engine. -/
theorem of_engine {s t : State} (hl : t.link = s.link) (hr : t.req = s.req) (hs : t.stations = s.stations) : Seen s t :=
  .of_same (by rw [hl]) (by rw [hl]) hr fun i => by rw [hs]

theorem setJob (s : State) (j : Option Job) : Seen s (s.setJob j) := of_engine rfl rfl rfl

theorem onBuild (s : State) (i : StationNo) (g : Build → Build) : Seen s (s.onBuild i g) := of_engine rfl rfl rfl

theorem planArrival (a : Arrival) (s : State) : Seen s (planArrival a s) := by
  unfold Machine.planArrival
  split_ifs
  · exact (Trims.lateCase a s).seen
  · split
    · exact (Trims.rejectArrival a _ s).seen
    · exact of_engine rfl rfl rfl

theorem handleArrival (a : Arrival) (s : State) : Seen s (handleArrival a s) := by
  unfold Machine.handleArrival
  by_cases hgate : (!s.engine.gate) = true
  · rw [if_pos hgate]
    exact (Trims.gateClosedArrival a s).seen
  · rw [if_neg hgate]
    split
    · split_ifs
      · exact (Trims.untracked a s).seen
      · refine trans ?_ (planArrival a (s.addTrack (newTrack a.tracking s.returnDeadline)))
        exact of_engine rfl rfl rfl
    · split_ifs
      · exact ((Chores.sendDecision ..).trans (Chores.report ..)).seen.trans (Trims.duplicateFault ..).seen
      · exact (Trims.rearrive ..).seen.trans (planArrival a _)

theorem takeArrival (s : State) : Seen s (takeArrival s) := by
  unfold Machine.takeArrival
  split
  · exact refl s
  · split_ifs
    · refine trans ?_ (handleArrival ..)
      exact of_engine rfl rfl rfl
    · exact refl s

theorem runReplan (r : Replan) (n : Nat) (s : State) : Seen s (runReplan r n s) := by
  unfold Machine.runReplan
  dsimp only
  split
  · exact setJob s _
  · exact (setJob s none).trans (Trims.rejectReplan ..).seen

theorem takeReplan (s : State) : Seen s (takeReplan s) := by
  unfold Machine.takeReplan
  split
  · exact refl s
  · dsimp only
    split_ifs
    · exact refl s
    · exact (Chores.takeOutReplan ..).seen.trans (runReplan ..)
    · exact (Chores.takeOutReplan ..).seen

theorem runHead (k : LaneNo) (t : Tracking) (art : Article) (w n : Nat) (s : State) :
    Seen s (runHead k t art w n s) := by
  unfold Machine.runHead
  dsimp only
  split
  · exact setJob s _
  · exact (Chores.endJob ..).seen

theorem takeLane (s : State) : Seen s (takeLane s) := by
  unfold Machine.takeLane
  split
  · exact refl s
  · split_ifs
    · dsimp only
      split
      · exact (Chores.setFlag ..).seen.trans (runHead ..)
      · exact (Chores.setFlag ..).seen
    · exact refl s

/-! #### The commit attempt -/

theorem commitPlace (t : Tracking) (art : Article) (w : Nat) (p : Placement) {send : State → State}
    (hsend : ∀ u, Seen u (send u)) (s : State) : Seen s (commitPlace t art w p send s) := by
  have added : Seen s (addCase p.station (caseRecordOf art t w p s.stations[p.station].nextSeq) s) :=
    (onBuild ..).trans (Chores.raiseFlags _).seen
  unfold Machine.commitPlace
  refine trans ?_ (Trims.issueOrder ..).seen
  refine trans ?_ (hsend _)
  split
  · exact added.trans (Chores.planMore ..).seen
  · exact added

theorem rerun {s : State} {j : Job} {again : Nat → State → State} {fallback : State → State}
    (hagain : ∀ n, Seen s (again n s)) (hback : Seen s (fallback s)) : Seen s (rerun j again fallback s) := by
  unfold Machine.rerun
  split_ifs
  · exact hagain _
  · exact hback.trans (Chores.endJob ..).seen

theorem commitDecision (j : Job) (a : Arrival) (art : Article) (w : Nat) (s : State) :
    Seen s (commitDecision j a art w s) := by
  have passed := (Trims.passArrival a s).seen
  have again : ∀ n, Seen s (rerunArrival a art w n s) := fun n => setJob s _
  unfold Machine.commitDecision
  split
  · exact passed.trans (Chores.endJob ..).seen
  · exact (Trims.rejectArrival a _ s).seen.trans (Chores.endJob ..).seen
  · split_ifs
    · exact (commitPlace _ _ _ _ (fun u => (Chores.sendDecision ..).seen) s).trans (Chores.endJob ..).seen
    · exact rerun again passed
  · split_ifs
    · exact (Trims.commitLane ..).seen.trans (Chores.endJob ..).seen
    · exact rerun again passed
  · exact (Chores.endJob ..).seen

theorem commitArrival (j : Job) (a : Arrival) (s : State) : Seen s (commitArrival j a s) := by
  have ended := (Chores.endJob j.exhausted s).seen
  unfold Machine.commitArrival
  split
  · split_ifs
    · exact (Trims.circulate ..).seen.trans (Chores.endJob ..).seen
    · exact ended
  · split
    · exact ended
    · split_ifs
      · exact (Trims.lateCase ..).seen.trans (Chores.endJob ..).seen
      · exact (Trims.rejectArrival ..).seen.trans (Chores.endJob ..).seen
      · split
        · exact commitDecision ..
        · exact ended

theorem commitReplan (j : Job) (r : Replan) (s : State) : Seen s (commitReplan j r s) := by
  unfold Machine.commitReplan
  split_ifs
  · exact setJob s none
  · split
    · split_ifs
      · exact ((commitPlace _ _ _ _ (send := id) (fun u => refl u) s).trans (Trims.leaveSpur ..).seen).trans
          (setJob _ none)
      · exact rerun (fun n => runReplan r n s) (Trims.rejectReplan r s).seen
    · exact setJob s none

theorem commitHead (j : Job) (k : LaneNo) (t : Tracking) (s : State) : Seen s (commitHead j k t s) := by
  have released := (Chores.noRelease k s).seen
  unfold Machine.commitHead
  dsimp only
  split
  · split_ifs
    · exact (Trims.releaseHead ..).seen.trans (Chores.endJob ..).seen
    · refine rerun (fun n => ?_) released
      split
      · exact runHead ..
      · exact released.trans (Chores.endJob ..).seen
    · exact released.trans (Chores.endJob ..).seen
  all_goals exact (Chores.endJob ..).seen

theorem commitAttempt (s : State) : Seen s (commitAttempt s) := by
  unfold Machine.commitAttempt
  split
  · exact refl s
  · split
    · exact commitArrival ..
    · exact commitReplan ..
    · exact commitHead ..

/-! ### Frames of the partners -/

theorem readyFalls (i : StationNo) (s : State) : Seen s (readyFalls i s) :=
  (Trims.onStation s i (fun st => { st with ready := false }) rfl).seen.trans (Trims.stationFault ..).seen

theorem setSup (s : State) (x : SupTimer) : Seen s (s.setSup x) := (Trims.setSup s x).seen

theorem supervise (src : Byte) (s : State) : Seen s (supervise src s) := by
  rw [supervise_eq]
  exact setSup s _

theorem forward (k : Byte) (f : RxFrame) (s : State) : Seen s (forward k f s) := by
  unfold Machine.forward
  split
  all_goals
    split_ifs
    · exact .of_same rfl rfl rfl fun _ => rfl
    · exact refl s

theorem partner {k : Byte} {act : List Byte → State → State} (ha : ∀ p s, Seen s (act p s)) (f : RxFrame) (s : State) :
    Seen s (partner k act f s) := by
  unfold Machine.partner
  split_ifs
  · exact refl s
  · exact supervise f.src s
  · exact (supervise f.src s).trans (ha _ _)

theorem arrival (p : List Byte) (s : State) : Seen s (arrival p s) := by
  unfold Machine.arrival
  dsimp only
  split_ifs
  · exact refl s
  · exact of_engine rfl rfl rfl

theorem takeReply (p : List Byte) (s : State) : Seen s (takeReply p s) := by
  unfold Machine.takeReply
  split
  · exact (Trims.orderReply ..).seen
  · exact refl s

theorem takeReady (p : List Byte) (s : State) : Seen s (takeReady p s) := by
  unfold Machine.takeReady
  split
  · exact refl s
  · split_ifs
    · exact (Chores.readyRises ..).seen
    · exact readyFalls ..
    · exact refl s

theorem exchangeDone (i : StationNo) (s : State) : Seen s (exchangeDone i s) := by
  unfold Machine.exchangeDone
  split_ifs
  · exact (Chores.exchangeEnds ..).seen
  · exact refl s

theorem takeTransport {act : StationNo → State → State} (ha : ∀ s i, Seen s (act i s)) (p : List Byte) (s : State) :
    Seen s (takeTransport act p s) := by
  unfold Machine.takeTransport
  split
  · exact ha ..
  · exact refl s

theorem takeLaneFrame {act : LaneNo → Tracking → State → State} (ha : ∀ s k t, Seen s (act k t s)) (p : List Byte)
    (s : State) : Seen s (takeLaneFrame act p s) := by
  unfold Machine.takeLaneFrame
  split
  · exact ha ..
  · exact refl s

/-! ### Timers -/

theorem takeTimer (i : StationNo) (s : State) : Seen s (takeTimer i s) := by
  unfold Machine.takeTimer
  split_ifs
  · exact (Trims.stationFault ..).seen
  · exact refl s

theorem placeTimer (i : StationNo) (s : State) : Seen s (placeTimer i s) := by
  unfold Machine.placeTimer
  split_ifs
  · exact (Trims.stationFault ..).seen
  · exact refl s

theorem exchangeTimer (i : StationNo) (s : State) : Seen s (exchangeTimer i s) := by
  unfold Machine.exchangeTimer
  split_ifs
  · exact (Chores.faultExchange ..).seen
  · exact refl s

end Seen

/-! ### Frames -/

/-- No station changes its state. -/
def SameStates (s t : State) : Prop := ∀ i : StationNo, t.stations[i].state = s.stations[i].state

theorem SameStates.of_stations {s t : State} (h : t.stations = s.stations) : SameStates s t := fun i => by rw [h]

theorem SameStates.trans {s t u : State} (h : SameStates s t) (k : SameStates t u) : SameStates s u :=
  fun i => (k i).trans (h i)

/-- Either no station changes its state, or a reply in progress sees the change. -/
def Shows (s t : State) : Prop := SameStates s t ∨ Seen s t

theorem Shows.of_quiet {s t : State} (q : Quiet s t) : Shows s t := .inl (.of_stations q.stations)

/-- Behind a change that no station takes part in. -/
theorem Shows.after {s t u : State} (h : Seen s t) (hs : t.stations = s.stations) (k : Shows t u) : Shows s u :=
  k.imp (SameStates.of_stations hs).trans h.trans

theorem supervise_stations (src : Byte) (s : State) : (supervise src s).stations = s.stations :=
  (Quiet.supervise src s).stations

/-- A request met by a request unit in EXECUTION is discarded, or refused with BUSY (R152). -/
theorem request_busy {k : Byte} {n : Nat} {bad : List Byte → Option Nat} {act : RxFrame → State → State} {f : RxFrame}
    {s : State} (h : s.req.exec ≠ none) (hk : k ≠ 0x11) :
    (request k n bad act f s).stations = s.stations := by
  unfold request
  rw [supervise_eq]
  dsimp only
  have fails : requestFails k n bad f (s.setSup (fedTimer f.src s)) = some (.busy, 0) := by
    refine if_pos (Bool.and_eq_true_iff.mpr ⟨?_, ?_⟩)
    · exact Option.isSome_iff_ne_none.mpr h
    · exact bne_iff_ne.mpr hk
  split_ifs
  · rfl
  · unfold takeRequest
    split_ifs
    · rfl
    · rw [fails]
      exact (Quiet.refuse ..).stations

theorem handleReadState_stations (f : RxFrame) (s : State) : (handleReadState f s).stations = s.stations := by
  unfold handleReadState request takeRequest
  dsimp only
  split_ifs
  · exact supervise_stations ..
  · exact supervise_stations ..
  · split
    · exact (Quiet.refuse ..).stations.trans (supervise_stations ..)
    · exact (Quiet.answerDone ..).stations.trans (supervise_stations ..)

theorem moveTime_states (s : State) (t : LineTime) : SameStates s (s.moveTime t) := by
  intro i
  show (s.stations.map (Station.reach t))[i].state = _
  simp [Station.reach]

theorem handleSetTime_states (f : RxFrame) (s : State) : SameStates s (handleSetTime f s) := by
  refine SameStates.trans ?_ (SameStates.of_stations (supervise_stations ..))
  unfold takeRequest
  split_ifs
  · exact .of_stations rfl
  · split
    · exact .of_stations (Quiet.refuse ..).stations
    · exact (moveTime_states s _).trans (.of_stations (Quiet.answerDone ..).stations)

theorem handleSetSettings_stations {f : RxFrame} {s : State} (h : s.req.exec ≠ none) :
    (handleSetSettings f s).stations = s.stations := by
  have fails : requestFails 0x13 84 noFields f s = some (.busy, 0) :=
    if_pos (Bool.and_eq_true_iff.mpr ⟨Option.isSome_iff_ne_none.mpr h, by decide⟩)
  unfold handleSetSettings
  rw [fails]
  simp only [Option.isNone_some, Bool.and_false, Bool.false_eq_true, if_false]
  exact request_busy h (by decide)

theorem handleReserved_stations (k : Byte) (f : RxFrame) (s : State) : (handleReserved k f s).stations = s.stations := by
  unfold handleReserved
  dsimp only
  split_ifs
  · exact supervise_stations ..
  · exact (Quiet.refuse ..).stations.trans (supervise_stations ..)

/-- A DATA frame with no load open (R166). -/
theorem handleData_stations {f : RxFrame} {s : State} (h : ∀ e gap, s.req.exec = some e → e.phase ≠ .loading gap) :
    (handleData f s).stations = s.stations := by
  unfold handleData
  rw [supervise_eq]
  dsimp only
  split
  · rfl
  · rename_i e he
    have stray : e.takesData f = false := by
      unfold Exec.takesData
      split
      · rename_i gap hp
        exact absurd hp (h e gap he)
      all_goals rfl
    rw [stray, Bool.and_false]
    rfl

theorem consume_shows {s : State} {e : Exec} {segments : List (List Item)} {n : Nat} {r : ResultFields}
    {watch : List StationNo} {changed : Bool} (he : s.req.exec = some e)
    (hp : e.phase = .replying segments n r watch changed) (k : Byte) (f : RxFrame) : Shows s (consumeByKind k f s) := by
  have busy : s.req.exec ≠ none := by simp [he]
  have same : ∀ {u : State}, u.stations = s.stations → Shows s u := fun h => .inl (.of_stations h)
  generalize hg : consumeByKind k f = g
  unfold consumeByKind at hg
  split at hg
  case h_31 =>
    split_ifs at hg <;> subst hg
    · exact same (handleReserved_stations k f s)
    · exact same (supervise_stations ..)
  all_goals subst hg
  case h_2 => exact same (handleReadState_stations f s)
  case h_3 => exact .inl (handleSetTime_states f s)
  case h_4 => exact same (handleSetSettings_stations busy)
  case h_22 =>
    refine same (handleData_stations fun x gap hx hphase => ?_)
    obtain rfl := Option.some.inj (hx.symm.trans he)
    rw [hp] at hphase
    cases hphase
  case h_23 => exact .inr (.partner Seen.arrival f s)
  case h_24 => exact .inr (.partner Seen.takeReply f s)
  case h_25 => exact .inr (.partner Seen.takeReady f s)
  case h_26 => exact .inr (.partner (Seen.takeLaneFrame fun s k t => (Trims.laneEntered k t s).seen) f s)
  case h_27 => exact .inr (.partner (Seen.takeLaneFrame fun s k t => (Trims.laneReleased k t s).seen) f s)
  case h_28 => exact .inr (.partner (Seen.takeLaneFrame fun s k _ => (Chores.laneFlushed k s).seen) f s)
  case h_29 => exact .inr (.partner (Seen.takeTransport fun s i => (Chores.exchangeStarts i s).seen) f s)
  case h_30 => exact .inr (.partner (Seen.takeTransport fun s i => Seen.exchangeDone i s) f s)
  all_goals exact same (request_busy busy (by decide))

end Sys2Proof.Machine
end

section
/-!
PROOFS. READ BUILD, READ PLAN and READ LANE (R167, R168).
-/

namespace Sys2Proof.Machine

/-! ### Every command -/

section InProgress

variable {s : State} {e : Exec} {segments : List (List Item)} {n : Nat} {r : ResultFields} {watch : List StationNo}
  {changed : Bool}

theorem receive_shows (he : s.req.exec = some e) (hp : e.phase = .replying segments n r watch changed) (k : Byte)
    (f : RxFrame) : Shows s (receive k f (consumeByKind k f) s) := by
  have forwarded := Quiet.forward k f s
  have sameExec : (forward k f s).req = s.req := by
    unfold forward
    split <;> split_ifs <;> rfl
  unfold receive
  split_ifs
  · exact .of_quiet (.refl s)
  · exact .after (.forward k f s) forwarded.stations (consume_shows (by rw [sameExec, he]) hp k f)
  · exact consume_shows he hp k f
  · exact .of_quiet forwarded

/-- With a reply in progress the wait for DATA is over (R164). -/
theorem gapExpired_replying (he : s.req.exec = some e) (hp : e.phase = .replying segments n r watch changed) :
    gapExpired s = s := by
  simp [gapExpired, he, hp]

theorem live_shows (h : Running s) {effect : State → State} (hs : Shows s (effect s)) {t : State}
    (ht : live effect s = .next t) : ∃ u, Shows s u ∧ t = settle u := by
  rw [live_running h] at ht
  injection ht with ht
  exact ⟨_, hs, ht.symm⟩

/-- A command to a running device other than a power-on reset is a change that a reply in progress sees, and the service
of the ports. -/
theorem exec_shows {c : Instr} (hc : c ≠ .powerOnReset) (h : Running s) (he : s.req.exec = some e)
    (hp : e.phase = .replying segments n r watch changed) {t : State} (ht : exec c s = .next t) :
    ∃ u, Shows s u ∧ t = settle u := by
  have received := fun k f => receive_shows he hp k f
  cases c with
  | powerOnReset => exact absurd rfl hc
  | resetEnd pins =>
    rw [show exec (.resetEnd pins) s = .next s by simp [exec, execResetEnd, h.noReset]] at ht
    injection ht with ht
    exact ⟨s, .inr (.refl s), by rw [settle_of_served h.served', ht]⟩
  | passThrough p raw =>
    refine live_shows h ?_ ht
    unfold receiveRaw
    split
    · exact .inr (.refl s)
    · exact received ..
  | dataGapExpiry => exact live_shows h (by rw [gapExpired_replying he hp]; exact .inr (.refl s)) ht
  | supervisionExpiry => exact live_shows h (.of_quiet (.supervisionExpires s)) ht
  | takeTimerExpiry i => exact live_shows h (.inr (.takeTimer i s)) ht
  | placeTimerExpiry i => exact live_shows h (.inr (.placeTimer i s)) ht
  | exchangeTimerExpiry i => exact live_shows h (.inr (.exchangeTimer i s)) ht
  | releaseTimerExpiry k => exact live_shows h (.inr (Chores.releaseTimer k s).seen) ht
  | returnDeadline t => exact live_shows h (.inr (Trims.deadlinePasses t s).seen) ht
  | takingAnArrival => exact live_shows h (.inr (.takeArrival s)) ht
  | replanJob => exact live_shows h (.inr (.takeReplan s)) ht
  | laneHeadJob => exact live_shows h (.inr (.takeLane s)) ht
  | probeJob => exact live_shows h (.of_quiet (.takeProbe s)) ht
  | commitAttempt => exact live_shows h (.inr (.commitAttempt s)) ht
  | frameSent p => exact live_shows h (.of_quiet (.frameSent p s)) ht
  | lineTimeTick => exact live_shows h (.inl (moveTime_states s _)) ht
  | unknownKind k f => exact live_shows h (received k f) ht
  | discardedKindFrame k f => exact live_shows h (received k f) ht
  | describe f => exact live_shows h (received 0x10 f) ht
  | readState f => exact live_shows h (received 0x11 f) ht
  | setTime f => exact live_shows h (received 0x12 f) ht
  | setSettings f => exact live_shows h (received 0x13 f) ht
  | loadArticles f => exact live_shows h (received 0x14 f) ht
  | deleteArticle f => exact live_shows h (received 0x15 f) ht
  | loadBase f => exact live_shows h (received 0x16 f) ht
  | loadKinds f => exact live_shows h (received 0x17 f) ht
  | loadLevels f => exact live_shows h (received 0x18 f) ht
  | admitPlan f => exact live_shows h (received 0x19 f) ht
  | withdrawPlan f => exact live_shows h (received 0x1A f) ht
  | setStation f => exact live_shows h (received 0x1B f) ht
  | closeStation f => exact live_shows h (received 0x1C f) ht
  | acknowledgeFault f => exact live_shows h (received 0x1D f) ht
  | flushLane f => exact live_shows h (received 0x1E f) ht
  | probe f => exact live_shows h (received 0x1F f) ht
  | readBuild f => exact live_shows h (received 0x20 f) ht
  | readPlan f => exact live_shows h (received 0x21 f) ht
  | readLane f => exact live_shows h (received 0x22 f) ht
  | setGate f => exact live_shows h (received 0x23 f) ht
  | restart f => exact live_shows h (received 0x24 f) ht
  | data f => exact live_shows h (received 0x28 f) ht
  | arrival f => exact live_shows h (received 0x40 f) ht
  | orderReply f => exact live_shows h (received 0x52 f) ht
  | readyChange f => exact live_shows h (received 0x53 f) ht
  | exchangeStart f => exact live_shows h (received 0x70 f) ht
  | exchangeDone f => exact live_shows h (received 0x71 f) ht
  | laneEntered f => exact live_shows h (received 0x62 f) ht
  | laneReleased f => exact live_shows h (received 0x63 f) ht
  | laneFlushed f => exact live_shows h (received 0x64 f) ht

/-- In a served device with a reply in progress port A is busy, and its service waits. -/
theorem Seen.settle_exec {t : State} (h : Seen s t) (hs : Served s) (he : s.req.exec = some e)
    (hp : e.phase = .replying segments n r watch changed) : (settle t).req.exec = t.req.exec := by
  have reply : replying s.req.exec = true := by simp [he, hp, replying]
  have busy : s.link.portA.sending ≠ none := fun hidle => by
    rw [hs.no_reply hidle] at reply
    cases reply
  obtain ⟨hslot, hwaiting, hheld⟩ := h.places
  have slotNotFree : s.link.slot = none → s.req.late = true := fun hfree => by
    by_contra hlate
    rw [(hs.slot hfree).2.2 (by simpa using hlate)] at reply
    cases reply
  have filled : Filled t := by
    refine ⟨fun hfree => ?_, fun hw => ?_⟩
    · rw [hslot] at hfree
      rw [hwaiting, hheld, h.late, slotNotFree hfree]
      exact ⟨(hs.slot hfree).1, (hs.slot hfree).2.1, fun hl => by cases hl⟩
    · rw [hheld]
      exact hs.waiting (hwaiting ▸ hw)
  rw [settle_onlyB filled fun hidle => absurd (h.sending ▸ hidle) busy]
  rfl

end InProgress

/-! ### The requests -/

/-- A taken request that begins a reply in several frames (R167). -/
theorem request_replies {k : Byte} {bytes : Nat} {bad : List Byte → Option Nat} {act : RxFrame → State → State}
    {f : RxFrame} {s : State} (h : TakenAt k bytes f s) (hb : bad f.payload = none) {items : List Item}
    {result : ResultFields} {watch : List StationNo}
    (hact : act f (s.setSup (fedTimer f.src s)) = beginReply k f items result watch (s.setSup (fedTimer f.src s))) :
    ∃ t, live (receive k f (request k bytes bad act f)) s = .next t ∧ t.req.sup = fedTimer f.src s
      ∧ KeepsAllBut [.portA, .exec, .sup] s t
      ∧ ReplyBegun
          { kind := k, tag := f.tag, source := f.src, counts := none
            phase := .replying (packItems items) 0 result watch false } watch s t := by
  refine ⟨_, live_directed h.toDirected _, ?_⟩
  rw [request_taken h hb, hact]
  exact reply_begun h.toRunning.served' h.ready (fedTimer f.src s) rfl rfl

/-- READ PLAN of a plan that is not held. -/
theorem readPlan_refused {f : RxFrame} {s : State} (h : TakenAt 0x21 2 f s) (hb : badPlanId f.payload = none)
    (hplan : s.plan (planIdOf f.payload) = none) :
    ∃ t, exec (.readPlan f) s = .next t ∧ AnsweredRefused 0x21 f .notFound 0 s t ∧ KeepsAllBut [.portA, .sup] s t := by
  have hact : readPlan f (s.setSup (fedTimer f.src s)) = refuse 0x21 .notFound 0 f (s.setSup (fedTimer f.src s)) := by
    unfold readPlan
    rw [show (s.setSup (fedTimer f.src s)).plan (planIdOf f.payload) = none from hplan]
  obtain ⟨t, ht, hput, hkeeps, hafter⟩ := request_answered h hb hact (setSup_keeps s (fedTimer f.src s)) (by simp)
  have hsup : t.req.sup = fedTimer f.src s := hafter.2.2 .sup (by simp)
  exact ⟨t, ht, ⟨hput, hsup⟩, hkeeps⟩

/-- Settles O24: a request begins its reply by `request_replies`, and a station of the watched ones that changes its
state is seen by `exec_shows`. -/
theorem readsBeginTheirReplies : Obligations.ReadsBeginTheirReplies := by
  refine ⟨fun f s h hb => request_replies h hb rfl, fun f s h hb => ?_, fun f s h hb => request_replies h hb rfl,
    fun c s t e segments n r watch changed h he hp hc ht hchange => ?_, fun s e n r watch changed hp => ?_⟩
  · split
    · exact readPlan_refused h hb ‹_›
    · rename_i p hplan
      refine request_replies (act := readPlan) h hb ?_
      unfold readPlan
      rw [show (s.setSup (fedTimer f.src s)).plan (planIdOf f.payload) = some p from hplan]
      rfl
  · obtain ⟨i, hi, hne⟩ := hchange
    obtain ⟨u, hu, rfl⟩ := exec_shows hc h he hp ht
    have stations : (settle u).stations = u.stations := (settle_services u).stations
    rw [stations] at hne
    rcases hu with same | seen
    · exact absurd (same i) hne
    · obtain ⟨mark, hmark, -, hwatch⟩ := seen.reply e segments n r watch changed he hp
      rw [seen.settle_exec h.served' he hp, hmark, hwatch i hi hne]
  · simp [replyFrames, hp]

end Sys2Proof.Machine
end

section
/-!
PROOFS. The candidates of an evaluation (R21 to R24) and the best among them (R34, R35).
-/

namespace Sys2Proof.Machine

/-! ### Candidates (R22 to R24) -/

/-- The entries of a grid listed row by row. -/
theorem getElem?_rows {α : Type} (m k : Nat) (f : Nat → Nat → α) (n : Nat) (v : α) :
    ((List.range m).flatMap fun y => (List.range k).map fun x => f x y)[n]? = some v
      ↔ ∃ x y, x < k ∧ y < m ∧ n = y * k + x ∧ v = f x y := by
  induction m generalizing n with
  | zero => simp
  | succ m ih =>
    have size : ((List.range m).flatMap fun y => (List.range k).map fun x => f x y).length = m * k := by simp
    rw [List.range_succ, List.flatMap_append, List.getElem?_append, size]
    split_ifs with h
    · rw [ih]
      constructor
      · rintro ⟨x, y, hx, hy, e⟩
        exact ⟨x, y, hx, by omega, e⟩
      · rintro ⟨x, y, hx, hy, rfl, e⟩
        refine ⟨x, y, hx, ?_, rfl, e⟩
        by_contra hm
        obtain rfl : y = m := by omega
        omega
    · simp only [List.flatMap_cons, List.flatMap_nil, List.append_nil, List.getElem?_map, Option.map_eq_some_iff,
        List.getElem?_eq_some_iff, List.length_range, List.getElem_range]
      constructor
      · rintro ⟨x, ⟨hx, rfl⟩, rfl⟩
        exact ⟨n - m * k, m, hx, by omega, by omega, rfl⟩
      · rintro ⟨x, y, hx, hy, rfl, rfl⟩
        obtain rfl : y = m := by
          by_contra hm
          have : (y + 1) * k ≤ m * k := Nat.mul_le_mul_right k (by omega)
          have : (y + 1) * k = y * k + k := Nat.succ_mul y k
          omega
        exact ⟨x, ⟨by omega, by omega⟩, rfl⟩

/-- The anchors of one orientation, each at its place in the scan (R22, R24). -/
theorem getElem?_anchors {cols rows a b n x y a' b' : Nat} {t t' : Bool} :
    (anchors cols rows a b t)[n]? = some (x, y, t', a', b')
      ↔ x + a ≤ cols ∧ y + b ≤ rows ∧ t' = t ∧ a' = a ∧ b' = b ∧ n = y * (cols - a + 1) + x := by
  unfold anchors
  split_ifs with h
  · simp only [getElem?_rows, Prod.mk.injEq]
    constructor
    · rintro ⟨x, y, hx, hy, rfl, rfl, rfl, rfl, rfl, rfl⟩
      exact ⟨by omega, by omega, rfl, rfl, rfl, rfl⟩
    · rintro ⟨hx, hy, rfl, rfl, rfl, rfl⟩
      exact ⟨x, y, by omega, by omega, rfl, rfl, rfl, rfl, rfl, rfl⟩
  · simp only [List.getElem?_nil, reduceCtorEq, false_iff]
    rintro ⟨hx, hy, -⟩
    exact h ⟨by omega, by omega⟩

theorem length_anchors (cols rows a b : Nat) (t : Bool) :
    (anchors cols rows a b t).length = if a ≤ cols ∧ b ≤ rows then (cols - a + 1) * (rows - b + 1) else 0 := by
  unfold anchors
  split_ifs
  · simp [Nat.mul_comm]
  · rfl

theorem getElem?_append_eq_some {α : Type} {l m : List α} {n : Nat} {v : α} :
    (l ++ m)[n]? = some v ↔ l[n]? = some v ∨ ∃ k, n = l.length + k ∧ m[k]? = some v := by
  rw [List.getElem?_append]
  split_ifs with h
  · refine ⟨.inl, fun e => e.resolve_right ?_⟩
    rintro ⟨k, rfl, -⟩
    omega
  · have out : l[n]? = none := List.getElem?_eq_none (by omega)
    simp only [out, reduceCtorEq, false_or]
    constructor
    · exact fun e => ⟨n - l.length, by omega, e⟩
    · rintro ⟨k, rfl, e⟩
      rwa [Nat.add_sub_cancel_left]

/-- The anchors of both orientations that an article has on a build (R23, R24). -/
def anchorsOf (art : Article) (b : Build) : List (Nat × Nat × Bool × Nat × Nat) :=
  anchors b.cols b.rows (cellsOf art.length) (cellsOf art.width) false
    ++ if art.rotateOk && cellsOf art.length != cellsOf art.width
        then anchors b.cols b.rows (cellsOf art.width) (cellsOf art.length) true else []

theorem candidates_full {art : Article} {b : Build} (h : 96 ≤ b.cases.length) : candidates art b = [] := if_pos h

theorem getElem?_candidates {art : Article} {b : Build} (h : b.cases.length < 96) (n : Nat) :
    (candidates art b)[n]? = (anchorsOf art b)[n]?.map fun e =>
      { x := e.1, y := e.2.1, turned := e.2.2.1, a := e.2.2.2.1, b := e.2.2.2.2, scan := n } := by
  have full : ¬ Config.buildCapacity ≤ b.cases.length := Nat.not_le.mpr h
  rw [candidates, if_neg full, List.getElem?_mapIdx]
  rfl

/-- Each candidate stands at the place of its scan index (R24). -/
theorem scan_of_getElem? {art : Article} {b : Build} {n : Nat} {c : Candidate} (h : (candidates art b)[n]? = some c) :
    c.scan = n := by
  by_cases full : 96 ≤ b.cases.length
  · rw [candidates_full full] at h
    simp at h
  · rw [getElem?_candidates (by omega)] at h
    obtain ⟨e, -, rfl⟩ := Option.map_eq_some_iff.mp h
    rfl

theorem mem_candidates {art : Article} {b : Build} (h : b.cases.length < 96) {c : Candidate} :
    c ∈ candidates art b ↔ (anchorsOf art b)[c.scan]? = some (c.x, c.y, c.turned, c.a, c.b) := by
  constructor
  · intro hc
    obtain ⟨n, hn⟩ := List.mem_iff_getElem?.mp hc
    rw [getElem?_candidates h] at hn
    obtain ⟨e, he, rfl⟩ := Option.map_eq_some_iff.mp hn
    exact he
  · intro hc
    refine List.mem_of_getElem? (i := c.scan) ?_
    rw [getElem?_candidates h, hc]
    rfl

/-- The straight anchors and then the turned ones (R23). -/
theorem getElem?_anchorsOf {art : Article} {b : Build} {n x y a' b' : Nat} {t : Bool} :
    let a₀ := cellsOf art.length
    let b₀ := cellsOf art.width
    let straight := if a₀ ≤ b.cols ∧ b₀ ≤ b.rows then (b.cols - a₀ + 1) * (b.rows - b₀ + 1) else 0
    (anchorsOf art b)[n]? = some (x, y, t, a', b') ↔
      x + a' ≤ b.cols ∧ y + b' ≤ b.rows
        ∧ (t = false ∧ a' = a₀ ∧ b' = b₀ ∧ n = y * (b.cols - a₀ + 1) + x
          ∨ t = true ∧ art.rotateOk = true ∧ a₀ ≠ b₀ ∧ a' = b₀ ∧ b' = a₀
            ∧ n = straight + y * (b.cols - b₀ + 1) + x) := by
  intro a₀ b₀ straight
  have turned : ∀ k : Nat, (if art.rotateOk && a₀ != b₀ then anchors b.cols b.rows b₀ a₀ true else [])[k]?
        = some (x, y, t, a', b')
      ↔ (art.rotateOk = true ∧ a₀ ≠ b₀) ∧ (anchors b.cols b.rows b₀ a₀ true)[k]? = some (x, y, t, a', b') := by
    intro k
    split_ifs with h
    · simp [show art.rotateOk = true ∧ a₀ ≠ b₀ by simpa using h]
    · simp [show ¬ (art.rotateOk = true ∧ a₀ ≠ b₀) by simpa using h]
  rw [anchorsOf, getElem?_append_eq_some, length_anchors, getElem?_anchors]
  simp only [← show a₀ = cellsOf art.length from rfl, ← show b₀ = cellsOf art.width from rfl, turned,
    getElem?_anchors]
  constructor
  · rintro (⟨hx, hy, rfl, rfl, rfl, rfl⟩ | ⟨k, rfl, ⟨hr, hne⟩, hx, hy, rfl, rfl, rfl, rfl⟩)
    · exact ⟨hx, hy, .inl ⟨rfl, rfl, rfl, rfl⟩⟩
    · exact ⟨hx, hy, .inr ⟨rfl, hr, hne, rfl, rfl, (Nat.add_assoc ..).symm⟩⟩
  · rintro ⟨hx, hy, ⟨rfl, rfl, rfl, rfl⟩ | ⟨rfl, hr, hne, rfl, rfl, rfl⟩⟩
    · exact .inl ⟨hx, hy, rfl, rfl, rfl, rfl⟩
    · exact .inr ⟨_, Nat.add_assoc .., ⟨hr, hne⟩, hx, hy, rfl, rfl, rfl, rfl⟩

/-! ### The best candidate (R34, R35) -/

/-- What the outcome of a candidate shows of it: a feasible one keeps its scan index, with a support ratio of at most
256 (R26, R34), and of the failures only CRUSH names a case (R31). -/
def Verdict.Judges (c : Candidate) : Verdict → Prop
  | .feasible x => x.scan = c.scan ∧ x.q ≤ 256
  | .failed r k => r ≠ .crush → k = none

theorem supportRatio_le {s f : Nat} (h : s ≤ f) : supportRatio s f ≤ 256 :=
  Nat.div_le_of_le_mul (Nat.mul_comm f 256 ▸ Nat.mul_le_mul_left 256 h)

theorem judge_judges (inp : EvalInput) (c : Candidate) : (judge inp c).Judges c := by
  have cells : (footprint inp.build.cols c).length = c.a * c.b := by simp [footprint, Nat.mul_comm]
  unfold judge
  dsimp only
  split
  · exact fun _ => rfl
  split
  · exact fun _ => rfl
  split
  · exact fun _ => rfl
  split
  · exact fun _ => rfl
  split
  · exact fun _ => rfl
  split
  · exact fun hr => absurd rfl hr
  split
  · exact fun _ => rfl
  split
  · exact fun _ => rfl
  exact ⟨rfl, supportRatio_le (cells ▸ List.length_filter_le ..)⟩

theorem feasible_scan_q {inp : EvalInput} {c : Candidate} {x : Best} (h : judge inp c = .feasible x) :
    x.scan = c.scan ∧ x.q ≤ 256 := by
  have := judge_judges inp c
  rwa [h] at this

theorem crushCase_none {inp : EvalInput} {c : Candidate} {r : FailReason} {k : Option Nat}
    (h : judge inp c = .failed r k) : r ≠ .crush → k = none := by
  have := judge_judges inp c
  rwa [h] at this

/-- The key of R35, in the lexicographic order of its terms. -/
def Best.rank (p : Best) : Nat ×ₗ Nat ×ₗ Nat ×ₗ Nat :=
  toLex (p.rest, toLex (256 - p.q, toLex (p.disturb, p.scan)))

theorem keyLt_iff {p q : Best} (hp : p.q ≤ 256) (hq : q.q ≤ 256) : keyLt p q = true ↔ p.rank < q.rank := by
  simp only [Best.rank, Prod.Lex.toLex_lt_toLex]
  unfold keyLt
  split_ifs
  all_goals
    simp only [decide_eq_true_eq]
    omega

theorem better_feasible_ne_none (acc : Option Best) (b : Best) : better acc (.feasible b) ≠ none := by
  cases acc with
  | none => simp [better]
  | some p =>
    simp only [better]
    split_ifs <;> simp

/-- There is a best candidate exactly when one is feasible (R34, R35). -/
theorem best_eq_none {vs : List Verdict} : vs.foldl better none = none ↔ ∀ x, .feasible x ∉ vs := by
  induction vs using List.reverseRecOn with
  | nil => simp
  | append_singleton vs v ih =>
    rw [List.foldl_append, List.foldl_cons, List.foldl_nil]
    cases v with
    | failed r k => simp [better, ih]
    | feasible b =>
      simp only [better_feasible_ne_none, false_iff, not_forall, not_not]
      exact ⟨b, by simp⟩

/-- No feasible candidate has a lesser key than the best one (R35). -/
theorem best_least {vs : List Verdict} (hq : ∀ y, .feasible y ∈ vs → y.q ≤ 256) {x : Best}
    (h : vs.foldl better none = some x) {y : Best} (hy : .feasible y ∈ vs) : x.rank ≤ y.rank := by
  induction vs using List.reverseRecOn generalizing x with
  | nil => simp at hy
  | append_singleton vs v ih =>
    have hq' : ∀ y, .feasible y ∈ vs → y.q ≤ 256 := fun y hy => hq y (List.mem_append_left _ hy)
    rw [List.foldl_append, List.foldl_cons, List.foldl_nil] at h
    cases v with
    | failed r k => exact ih hq' h (by simpa using hy)
    | feasible b =>
      have hy : .feasible y ∈ vs ∨ y = b := by simpa using hy
      rcases hacc : vs.foldl better none with - | p
      · obtain rfl : b = x := by simpa [hacc, better] using h
        rcases hy with hy | rfl
        · exact absurd hy (best_eq_none.mp hacc y)
        · exact le_rfl
      · have hp : .feasible p ∈ vs := (best_feasible hacc).resolve_left (by simp)
        have least : .feasible y ∈ vs → p.rank ≤ y.rank := ih hq' hacc
        have key := keyLt_iff (hq b (by simp)) (hq' p hp)
        rw [hacc, better] at h
        split_ifs at h with hlt
        · obtain rfl : b = x := Option.some.inj h
          rcases hy with hy | rfl
          · exact (key.mp hlt).le.trans (least hy)
          · exact le_rfl
        · obtain rfl : p = x := Option.some.inj h
          rcases hy with hy | rfl
          · exact least hy
          · exact not_lt.mp fun hl => hlt (key.mpr hl)

/-- Feasible candidates of one key are one: the scan index tells them apart (R24, R35). -/
theorem feasible_eq_of_rank {inp : EvalInput} {c d : Candidate} (hc : c ∈ candidates inp.article inp.build)
    (hd : d ∈ candidates inp.article inp.build) {x y : Best} (hx : judge inp c = .feasible x)
    (hy : judge inp d = .feasible y) (h : x.rank = y.rank) : x = y := by
  have scans : x.scan = y.scan := by
    simp only [Best.rank, toLex_inj, Prod.mk.injEq] at h
    obtain ⟨-, -, -, scans⟩ := h
    exact scans
  obtain ⟨m, hm⟩ := List.mem_iff_getElem?.mp hc
  obtain ⟨n, hn⟩ := List.mem_iff_getElem?.mp hd
  have index : m = n := by
    rw [← scan_of_getElem? hm, ← scan_of_getElem? hn, ← (feasible_scan_q hx).1, ← (feasible_scan_q hy).1, scans]
  obtain rfl : c = d := Option.some.inj (hm.symm.trans (index ▸ hn))
  exact Verdict.feasible.inj (hx.symm.trans hy)

theorem mem_verdicts {inp : EvalInput} {v : Verdict} :
    v ∈ verdicts inp ↔ ∃ c ∈ candidates inp.article inp.build, judge inp c = v := List.mem_map

theorem evaluate_best_none {inp : EvalInput} {i : StationNo} {line : Option Nat} :
    (evaluate inp i line).best = none ↔ ∀ c ∈ candidates inp.article inp.build, ∀ x, judge inp c ≠ .feasible x := by
  refine best_eq_none.trans ⟨fun h c hc x hx => h x (mem_verdicts.mpr ⟨c, hc, hx⟩), fun h x hx => ?_⟩
  obtain ⟨c, hc, hj⟩ := mem_verdicts.mp hx
  exact h c hc x hj

theorem evaluate_best_mem {inp : EvalInput} {i : StationNo} {line : Option Nat} {x : Best}
    (h : (evaluate inp i line).best = some x) : ∃ c ∈ candidates inp.article inp.build, judge inp c = .feasible x :=
  mem_verdicts.mp ((best_feasible (acc := none) h).resolve_left (by simp))

theorem evaluate_best_lt {inp : EvalInput} {i : StationNo} {line : Option Nat} {x : Best}
    (h : (evaluate inp i line).best = some x) {c : Candidate} (hc : c ∈ candidates inp.article inp.build) {y : Best}
    (hy : judge inp c = .feasible y) (hne : y ≠ x) : x.rank < y.rank := by
  have le : x.rank ≤ y.rank := by
    refine best_least (fun z hz => ?_) h (mem_verdicts.mpr ⟨c, hc, hy⟩)
    obtain ⟨d, -, hd⟩ := mem_verdicts.mp hz
    exact (feasible_scan_q hd).2
  refine lt_of_le_of_ne le fun heq => hne ?_
  obtain ⟨d, hd, hx⟩ := evaluate_best_mem h
  exact (feasible_eq_of_rank hd hc hx hy heq).symm

/-! ### The outcome counts (R34) -/

/-- Each verdict is counted once. -/
theorem outcomeCounts_sum (vs : List Verdict) : (outcomeCounts vs).sum = vs.length := by
  induction vs with
  | nil => rfl
  | cons v vs ih =>
    have one : (outcomeCounts (v :: vs)).sum = (outcomeCounts vs).sum + 1 := by
      cases v with
      | feasible b =>
        simp [outcomeCounts, countFeasible, countFailed]
        omega
      | failed r k =>
        cases r <;> simp [outcomeCounts, countFeasible, countFailed] <;> omega
    rw [one, ih, List.length_cons]

end Sys2Proof.Machine
end

section
/-!
PROOFS. The stages C to I of an evaluation in the terms of the rules (R25 to R33), and the shares of stage G (R29).
-/

namespace Sys2Proof.Machine

/-! ### Stages C to F (R25 to R28) -/

/-- The rest is the largest height of the footprint (R25). -/
theorem restOf_eq {bd : Build} {cells : List Nat} {rest : Nat} (hrest : ∃ n ∈ cells, bd.heightMap.getD n 0 = rest)
    (hmax : ∀ n ∈ cells, bd.heightMap.getD n 0 ≤ rest) : restOf bd cells = rest := by
  obtain ⟨n, hn, e⟩ := hrest
  have hmem := maxHeight_mem (l := cells.map fun i => bd.heightMap.getD i 0) (by
    simpa using List.ne_nil_of_mem hn)
  obtain ⟨m, hm, em⟩ := List.mem_map.mp hmem
  refine le_antisymm ?_ ?_
  · rw [restOf, ← em]
    exact hmax m hm
  · rw [← e]
    exact le_maxHeight (List.mem_map_of_mem hn)

/-- A cell supports when it is no more than the level tolerance below the rest (R26). -/
theorem supportCells_eq (bd : Build) (cells : List Nat) (rest tol : Nat) :
    supportCells bd cells rest tol = cells.filter fun n => decide (rest ≤ bd.heightMap.getD n 0 + tol) := by
  refine List.filter_congr fun n _ => decide_eq_decide.mpr ?_
  omega

/-- The owners by first appearance, each with the number of its cells (R27). -/
theorem tally_eq (os : List Owner) : tally os = os.eraseDups.map fun o => (o, os.count o) := by
  induction os using List.reverseRecOn with
  | nil => rfl
  | append_singleton os o ih =>
    rw [tally, List.foldl_append, List.foldl_cons, List.foldl_nil, ← show tally os = os.foldl tallyOne [] from rfl, ih,
      List.eraseDups_append]
    have seen : (os.eraseDups.map fun o => (o, os.count o)).any (fun e => e.1 == o) = true ↔ o ∈ os := by
      simp
    unfold tallyOne
    simp only [seen]
    split_ifs with h
    · have old : [o].removeAll os = [] := by simp [List.removeAll, h]
      rw [old, List.eraseDups_nil, List.append_nil, List.map_map]
      refine List.map_congr_left fun p _ => ?_
      by_cases hp : p = o
      · simp [hp]
      · simp [hp, Ne.symm hp]
    · have new : [o].removeAll os = [o] := by simp [List.removeAll, h]
      have first : os.count o = 0 := List.count_eq_zero.mpr h
      rw [new, List.map_append]
      refine congrArg₂ (· ++ ·) (List.map_congr_left fun p hp => ?_) ?_
      · have : o ≠ p := fun e => h (e ▸ List.mem_eraseDups.mp hp)
        simp [this]
      · simp [List.eraseDups_cons, first]

/-- Why a supporter refuses the case, when it does; the deck never does (R28). -/
def refusal (inp : EvalInput) : Owner → Option FailReason
  | .deck => none
  | .case m => inp.build.cases[m]?.bind (compatCase inp)

theorem compatCase_eq (inp : EvalInput) (y : CaseRec) : compatCase inp y =
    if y.topOnly = true then some .topOnly
    else if inp.mayRest inp.article.kind y.kind = false then some .kind
    else if y.drop < inp.drop then some .drop
    else none := by
  simp only [compatCase, Bool.not_eq_true']

/-- Stage F: the first refusal over the supporters in their order (R28). -/
theorem compat_eq (inp : EvalInput) (count : Owner → Nat) (os : List Owner) :
    compat inp (os.map fun o => (o, count o)) = os.findSome? (refusal inp) := by
  induction os with
  | nil => rfl
  | cons o os ih =>
    cases o with
    | deck => simp [compat, List.findSome?_cons, refusal, ih]
    | case m =>
      rcases hm : inp.build.cases[m]? with - | y
      · simp [compat, refusal, ih, hm]
      · rcases hy : compatCase inp y with - | r <;> simp [compat, refusal, ih, hm, hy]

/-! ### Stages H and I (R30 to R33) -/

theorem dist_eq (m n : Nat) : dist m n = (m - n) + (n - m) := by
  unfold dist
  split_ifs <;> omega

theorem tilts_iff {inp : EvalInput} {c : Candidate} : tilts inp c = true ↔
    inp.base.threshold ≤ newWeight inp
      ∧ (inp.base.boundX * newWeight inp < tiltX inp c ∨ inp.base.boundY * newWeight inp < tiltY inp c) := by
  simp [tilts]

/-! ### Shares (R29) -/

theorem length_sharesAll (l : List (Owner × Nat)) (n : Nat) : (sharesAll l n).length = l.length := by
  simp [sharesAll]

/-- The principal is the first supporter of the largest count (R29). -/
theorem eq_principalAt {l : List (Owner × Nat)} {i : Nat} {o : Owner} {m : Nat} (h : l[i]? = some (o, m)) :
    i = principalAt l ↔ (∀ e ∈ l, e.2 ≤ m) ∧ ∀ e ∈ l.take i, e.2 < m := by
  obtain ⟨hi, hat⟩ := List.getElem?_eq_some_iff.mp h
  have hm : m ∈ l.map (·.2) := List.mem_map.mpr ⟨(o, m), List.mem_of_getElem? h, rfl⟩
  have largest : m = maxHeight (l.map (·.2)) ↔ ∀ e ∈ l, e.2 ≤ m := by
    constructor
    · exact fun e x hx => e ▸ le_maxHeight (List.mem_map_of_mem hx)
    · intro hle
      obtain ⟨e, he, eq⟩ := List.mem_map.mp (maxHeight_mem (List.ne_nil_of_mem hm))
      exact le_antisymm (le_maxHeight hm) (eq ▸ hle e he)
  rw [eq_comm, principalAt, List.findIdx_eq hi, hat]
  simp only [beq_iff_eq, beq_eq_false_iff_ne, largest]
  refine and_congr_right fun hle => ?_
  rw [← largest.mpr hle]
  constructor
  · intro hne e he
    obtain ⟨j, hj, rfl⟩ := List.mem_take_iff_getElem.mp he
    exact lt_of_le_of_ne (hle _ (List.getElem_mem _)) (hne j (by omega))
  · exact fun hlt j hj => (hlt _ (List.mem_take_iff_getElem.mpr ⟨j, by omega, rfl⟩)).ne

/-- The share of each supporter: its floor, and the remainder on top for the principal (R29). -/
theorem getElem?_sharesAll {l : List (Owner × Nat)} (n : Nat) {i : Nat} {o : Owner} {m : Nat}
    (h : l[i]? = some (o, m)) : ∃ j, (sharesAll l n)[i]? = some j ∧ j.owner = o
      ∧ (j.principal = true ↔ (∀ e ∈ l, e.2 ≤ m) ∧ ∀ e ∈ l.take i, e.2 < m)
      ∧ j.share = 256 * m / n + if j.principal = true then 256 - (l.map fun e => 256 * e.2 / n).sum else 0 := by
  rw [sharesAll, List.getElem?_mapIdx, h]
  exact ⟨_, rfl, rfl, beq_iff_eq.trans (eq_principalAt h), rfl⟩

end Sys2Proof.Machine
end

section
/-!
PROOFS. The runs of the planning engine (R37 to R41): the order of stations and of open lines, and what a run takes.
-/

namespace Sys2Proof.Machine

/-! ### Lists built by insertion -/

section Insertion

variable {α : Type} {r P : α → α → Prop} [DecidableRel r]

/-- An entry put before the entries that it precedes keeps the order P of a list, where those before it stand to it as P
asks. -/
theorem pairwise_orderedInsert {x : α} {l : List α} (hl : l.Pairwise P) (hfront : ∀ y ∈ l, r x y → P x y)
    (hback : ∀ y ∈ l, ¬ r x y → P y x) (hmono : ∀ y z, r x y → P y z → r x z) : (l.orderedInsert r x).Pairwise P := by
  induction l with
  | nil => simp
  | cons y l ih =>
    obtain ⟨hy, hl⟩ := List.pairwise_cons.mp hl
    by_cases h : r x y
    · rw [List.orderedInsert_cons_of_le r l h]
      refine List.pairwise_cons.mpr ⟨fun z hz => ?_, List.pairwise_cons.mpr ⟨hy, hl⟩⟩
      rcases List.mem_cons.mp hz with rfl | hz
      · exact hfront z List.mem_cons_self h
      · exact hfront z (List.mem_cons_of_mem _ hz) (hmono y z h (hy z hz))
    · rw [List.orderedInsert_of_not_le r l h]
      refine List.pairwise_cons.mpr ⟨fun z hz => ?_, ih hl
        (fun z hz => hfront z (List.mem_cons_of_mem _ hz)) fun z hz => hback z (List.mem_cons_of_mem _ hz)⟩
      rcases (List.mem_orderedInsert r).mp hz with rfl | hz
      · exact hback y List.mem_cons_self h
      · exact hy z hz

theorem foldl_orderedInsert_perm (l : List α) : (l.foldl (fun acc x => acc.orderedInsert r x) []).Perm l := by
  rw [← List.foldr_reverse]
  exact (List.perm_insertionSort r l.reverse).trans l.reverse_perm

/-- Entries inserted one by one stand in the order P, when P holds of any two of them as r places the later one. -/
theorem pairwise_foldl_orderedInsert {l : List α}
    (hl : l.Pairwise fun y x => (r x y → P x y) ∧ (¬ r x y → P y x)) (hmono : ∀ x y z, r x y → P y z → r x z) :
    (l.foldl (fun acc x => acc.orderedInsert r x) []).Pairwise P := by
  induction l using List.reverseRecOn with
  | nil => simp
  | append_singleton l x ih =>
    obtain ⟨hl, -, hx⟩ := List.pairwise_append.mp hl
    rw [List.foldl_append, List.foldl_cons, List.foldl_nil]
    have old : ∀ y ∈ l.foldl (fun acc x => acc.orderedInsert r x) [], y ∈ l := fun y =>
      (foldl_orderedInsert_perm l).mem_iff.mp
    exact pairwise_orderedInsert (ih hl) (fun y hy => (hx y (old y hy) x (by simp)).1)
      (fun y hy => (hx y (old y hy) x (by simp)).2) (hmono x)

end Insertion

/-! ### Stations by due and number (R38) -/

theorem insertStation_eq (s : State) (i : StationNo) (l : List StationNo) :
    insertStation s i l = l.orderedInsert (fun j k => s.dueAt j < s.dueAt k) i := by
  induction l with
  | nil => rfl
  | cons j l ih => rw [insertStation, List.orderedInsert_cons, ih]

theorem byDue_eq (s : State) (is : List StationNo) :
    byDue s is = is.foldl (fun acc i => acc.orderedInsert (fun j k => s.dueAt j < s.dueAt k) i) [] :=
  congrArg (fun g => is.foldl g []) (funext fun l => funext fun i => insertStation_eq s i l)

theorem mem_byDue {s : State} {is : List StationNo} {i : StationNo} : i ∈ byDue s is ↔ i ∈ is := by
  rw [byDue_eq]
  exact (foldl_orderedInsert_perm is).mem_iff

theorem pairwise_byDue {s : State} {is : List StationNo} (h : is.Pairwise (· < ·)) :
    (byDue s is).Pairwise fun i j => s.dueAt i < s.dueAt j ∨ s.dueAt i = s.dueAt j ∧ i < j := by
  rw [byDue_eq]
  refine pairwise_foldl_orderedInsert (h.imp ?_) ?_
  · refine fun {j i} hji => ⟨.inl, fun hle => ?_⟩
    rcases (not_lt.mp hle).lt_or_eq with hlt | heq
    · exact .inl hlt
    · exact .inr ⟨heq, hji⟩
  · rintro i j k hij (hlt | ⟨heq, -⟩)
    · exact hij.trans hlt
    · exact heq ▸ hij

theorem dueAt_eq (s : State) (i : StationNo) : s.dueAt i = ((s.planNamed i).map (·.due)).getD 0 := by
  unfold State.dueAt
  cases s.planNamed i <;> rfl

theorem isCandidate_iff {s : State} {code : ArticleCode} {i : StationNo} : isCandidate s code i = true ↔
    s.stations[i].state = .building ∧ s.stations[i].ready = true ∧ s.stations[i].orders.length < 4
      ∧ ∃ p, s.planNamed i = some p ∧ ∃ l ∈ p.lines, l.planned < l.required ∧ l.code = code := by
  unfold isCandidate
  cases s.planNamed i with
  | none => simp
  | some p =>
    simp only [PlanLine.isOpen, Bool.and_eq_true, beq_iff_eq, decide_eq_true_eq, List.any_eq_true,
      Option.some.injEq, exists_eq_left', and_assoc]
    rfl

/-! ### Open lines (R39) -/

theorem insertOpen_eq (x : Nat × PlanLine) (l : List (Nat × PlanLine)) :
    insertOpen x l = l.orderedInsert (fun y z => z.2.drop < y.2.drop) x := by
  induction l with
  | nil => rfl
  | cons y l ih => rw [insertOpen, List.orderedInsert_cons, ih]

/-- The open lines for an article with their indices, in plan order. -/
def Plan.wanting (p : Plan) (code : ArticleCode) : List (Nat × PlanLine) :=
  (p.lines.mapIdx fun j l => (j, l)).filter fun x => x.2.isOpen && x.2.code == code

theorem openLines_eq (p : Plan) (code : ArticleCode) : p.openLines code =
    (p.wanting code).foldl (fun acc x => acc.orderedInsert (fun y z => z.2.drop < y.2.drop) x) [] :=
  congrArg (fun g => (p.wanting code).foldl g []) (funext fun l => funext fun x => insertOpen_eq x l)

theorem openLines_perm (p : Plan) (code : ArticleCode) : (p.openLines code).Perm (p.wanting code) := by
  rw [openLines_eq]
  exact foldl_orderedInsert_perm _

theorem mem_openLines {p : Plan} {code : ArticleCode} {x : Nat × PlanLine} : x ∈ p.openLines code ↔
    p.lines[x.1]? = some x.2 ∧ x.2.planned < x.2.required ∧ x.2.code = code := by
  rw [(openLines_perm p code).mem_iff, Plan.wanting, List.mem_filter, List.mem_mapIdx]
  simp only [PlanLine.isOpen, Bool.and_eq_true, decide_eq_true_eq, beq_iff_eq]
  refine and_congr_left fun _ => ?_
  rw [List.getElem?_eq_some_iff]
  exact ⟨by rintro ⟨j, hj, rfl⟩; exact ⟨hj, rfl⟩, fun ⟨hj, e⟩ => ⟨x.1, hj, by rw [e]⟩⟩

theorem nodup_openLines (p : Plan) (code : ArticleCode) : (p.openLines code).Nodup := by
  refine (openLines_perm p code).nodup_iff.mpr (List.Nodup.filter _ ?_)
  refine List.nodup_iff_getElem?_ne_getElem?.mpr fun j k hjk hk => ?_
  simp at hk
  simp [List.getElem?_mapIdx, List.getElem?_eq_getElem hk, List.getElem?_eq_getElem (hjk.trans hk), hjk.ne]

/-- The highest drop first (R39). -/
theorem pairwise_openLines (p : Plan) (code : ArticleCode) :
    (p.openLines code).Pairwise fun x y => y.2.drop ≤ x.2.drop := by
  rw [openLines_eq]
  exact pairwise_foldl_orderedInsert
    (List.pairwise_of_forall fun y x => ⟨le_of_lt, not_lt.mp⟩) fun x y z h k => k.trans_lt h

theorem openLines_eq_nil {p : Plan} {code : ArticleCode} :
    p.openLines code = [] ↔ ∀ l ∈ p.lines, l.code = code → l.required ≤ l.planned := by
  rw [List.eq_nil_iff_forall_not_mem]
  simp only [mem_openLines, Prod.forall, not_and]
  constructor
  · intro h l hl hcode
    obtain ⟨j, hj⟩ := List.mem_iff_getElem?.mp hl
    exact not_lt.mp fun hopen => h j l hj hopen hcode
  · exact fun h j l hj hopen hcode => absurd hopen (not_lt.mpr (h l (List.mem_of_getElem? hj) hcode))

/-! ### The lines tried at a station (R39, R40) -/

section Lines

variable {ev : Nat × PlanLine → EvalResult}

theorem tryLines_append {before : List (Nat × PlanLine)} (h : ∀ y ∈ before, (ev y).best = none)
    (l : List (Nat × PlanLine)) : tryLines ev (before ++ l) = before.map ev ++ tryLines ev l := by
  induction before with
  | nil => rfl
  | cons y before ih =>
    obtain ⟨hy, hb⟩ := List.forall_mem_cons.mp h
    simp [tryLines, hy, ih hb]

/-- Lines of which none has a feasible candidate are all tried. -/
theorem tryLines_failing {l : List (Nat × PlanLine)} (h : ∀ y ∈ l, (ev y).best = none) : tryLines ev l = l.map ev := by
  simpa [tryLines] using tryLines_append h []

/-- The last line tried is the first that has a feasible candidate, or the last of all. -/
theorem getLast?_tryLines {before later : List (Nat × PlanLine)} {x : Nat × PlanLine}
    (h : ∀ y ∈ before, (ev y).best = none) (hx : (ev x).best ≠ none ∨ later = []) :
    (tryLines ev (before ++ x :: later)).getLast? = some (ev x) := by
  have stop : tryLines ev (x :: later) = [ev x] := by
    unfold tryLines
    split_ifs with hf
    · rfl
    · obtain rfl := hx.resolve_left fun hne => hf (Option.isSome_iff_ne_none.mpr hne)
      rfl
  rw [tryLines_append h, stop, List.getLast?_concat]

theorem getLast?_tryLines_isSome {l : List (Nat × PlanLine)} (h : l ≠ []) : ∃ r, (tryLines ev l).getLast? = some r := by
  obtain ⟨x, l, rfl⟩ := List.exists_cons_of_ne_nil h
  refine ⟨_, List.getLast?_eq_some_getLast ?_⟩
  unfold tryLines
  split_ifs <;> simp

/-- The placement among the results is that of the first line with a feasible candidate. -/
theorem placementIn_tryLines (hp : ∀ x, (ev x).placement = none ↔ (ev x).best = none) (l : List (Nat × PlanLine)) :
    placementIn (tryLines ev l) = l.findSome? fun x => (ev x).placement := by
  induction l with
  | nil => rfl
  | cons x l ih =>
    unfold tryLines
    rcases hb : (ev x).best with - | b
    · have hn := (hp x).mpr hb
      simpa [placementIn, hn] using ih
    · have hne : (ev x).placement ≠ none := fun hn => Option.some_ne_none b (hb.symm.trans ((hp x).mp hn))
      obtain ⟨q, hq⟩ := Option.ne_none_iff_exists'.mp hne
      simp [placementIn, hq]

end Lines

theorem placement_evalLine (s : State) (i : StationNo) (e : BaseEntry) (art : Article) (w : Nat) (x : Nat × PlanLine) :
    (evalLine s i e art w x).placement =
      (evaluate (evalInput s i e art w x.2.drop) i (some x.1)).best.map fun y =>
        { station := i, line := x.1, drop := x.2.drop, revision := s.builds[i].revision, best := y } := by
  unfold EvalResult.placement evalLine
  cases (evaluate (evalInput s i e art w x.2.drop) i (some x.1)).best <;> rfl

theorem placement_evalLine_none {s : State} {i : StationNo} {e : BaseEntry} {art : Article} {w : Nat}
    (x : Nat × PlanLine) :
    (evalLine s i e art w x).placement = none ↔ (evalLine s i e art w x).best = none := by
  rw [placement_evalLine, Option.map_eq_none_iff]
  rfl

theorem evalStation_some {s : State} {i : StationNo} {art : Article} {w : Nat} {p : Plan} {e : BaseEntry}
    (hp : s.planNamed i = some p) (he : s.baseOfBuild i = some e) :
    evalStation s i art w = some (tryLines (evalLine s i e art w) (p.openLines art.code)) := by
  rw [evalStation, hp, he]

theorem evalStation_none {s : State} {i : StationNo} {art : Article} {w : Nat}
    (h : s.planNamed i = none ∨ s.baseOfBuild i = none) : evalStation s i art w = none := by
  unfold evalStation
  rcases h with h | h
  · rw [h]
  · rw [h]
    cases s.planNamed i <;> rfl

/-- What a station yields: the best candidate of the first of its open lines that has one (R39, R40). -/
theorem decideReplan_eq {s : State} {i : StationNo} {p : Plan} {e : BaseEntry} (art : Article) (w : Nat)
    (hp : s.planNamed i = some p) (he : s.baseOfBuild i = some e) :
    decideReplan s i art w = (p.openLines art.code).findSome? fun x => (evalLine s i e art w x).placement := by
  rw [decideReplan, evalStation_some hp he, Option.bind_some, placementIn_tryLines placement_evalLine_none]

theorem decideReplan_none {s : State} {i : StationNo} {art : Article} {w : Nat}
    (h : s.planNamed i = none ∨ s.baseOfBuild i = none) : decideReplan s i art w = none := by
  rw [decideReplan, evalStation_none h, Option.bind_none]

/-! ### Exhausted stations (R41) -/

theorem countFailed_pos {vs : List Verdict} {r : FailReason} :
    0 < countFailed vs r ↔ ∃ k, .failed r k ∈ vs := by
  rw [countFailed, List.countP_pos_iff]
  constructor
  · rintro ⟨v, hv, h⟩
    cases v with
    | feasible b => cases h
    | failed r' k =>
      obtain rfl : r' = r := eq_of_beq h
      exact ⟨k, hv⟩
  · rintro ⟨k, hk⟩
    exact ⟨_, hk, beq_self_eq_true r⟩

theorem topped_evaluate {inp : EvalInput} {i : StationNo} {line : Option Nat} :
    (evaluate inp i line).topped = true ↔ ∃ c ∈ candidates inp.article inp.build,
      judge inp c = .failed .height none ∨ judge inp c = .failed .overload none := by
  have met : ∀ r : FailReason, r ≠ .crush → (0 < countFailed (verdicts inp) r
      ↔ ∃ c ∈ candidates inp.article inp.build, judge inp c = .failed r none) := by
    intro r hr
    rw [countFailed_pos]
    constructor
    · rintro ⟨k, hk⟩
      obtain ⟨c, hc, e⟩ := mem_verdicts.mp hk
      exact ⟨c, hc, crushCase_none e hr ▸ e⟩
    · rintro ⟨c, hc, e⟩
      exact ⟨none, mem_verdicts.mpr ⟨c, hc, e⟩⟩
  have counts : (evaluate inp i line).topped = true
      ↔ 0 < countFailed (verdicts inp) .height ∨ 0 < countFailed (verdicts inp) .overload := by
    simp [EvalResult.topped, evaluate, outcomeCounts]
  rw [counts, met .height (by decide), met .overload (by decide)]
  simp only [and_or_left, exists_or]

/-- A station that yields nothing is exhausted when a candidate failed HEIGHT or OVERLOAD there and its top height has
come to the close height (R41). -/
theorem isExhausted_iff {s : State} {i : StationNo} {art : Article} {w : Nat} {p : Plan} {e : BaseEntry}
    (hp : s.planNamed i = some p) (he : s.baseOfBuild i = some e) (hn : decideReplan s i art w = none) :
    isExhausted s i (tryLines (evalLine s i e art w) (p.openLines art.code)) = true
      ↔ e.closeHeight ≤ s.builds[i].topHeight ∧ ∃ x ∈ p.openLines art.code, ∃ c ∈ candidates art s.builds[i],
        judge (evalInput s i e art w x.2.drop) c = .failed .height none
          ∨ judge (evalInput s i e art w x.2.drop) c = .failed .overload none := by
  rw [decideReplan_eq art w hp he, List.findSome?_eq_none_iff] at hn
  rw [tryLines_failing fun x hx => (placement_evalLine_none x).mp (hn x hx), isExhausted, he]
  rw [Bool.and_comm]
  simp only [Bool.and_eq_true, decide_eq_true_eq, List.any_map, List.any_eq_true, Function.comp_apply]
  refine and_congr_right fun _ => exists_congr fun x => and_congr_right fun _ => ?_
  exact topped_evaluate (inp := evalInput s i e art w x.2.drop)

/-! ### The run over the stations (R38 to R41) -/

section Run

variable {s : State} {art : Article} {w : Nat} {i : StationNo} {rs : List EvalResult}

theorem chooseFrom_skips (h : evalStation s i art w = none) (is : List StationNo) :
    chooseFrom s art w (i :: is) = chooseFrom s art w is := by
  rw [chooseFrom, h]

theorem chooseFrom_takes (h : evalStation s i art w = some rs) {p : Placement} (hp : placementIn rs = some p)
    (is : List StationNo) : chooseFrom s art w (i :: is) = (some p, []) := by
  rw [chooseFrom, h]
  simp only [hp]

theorem chooseFrom_passes (h : evalStation s i art w = some rs) (hp : placementIn rs = none) (is : List StationNo) :
    chooseFrom s art w (i :: is) = ((chooseFrom s art w is).1,
      if isExhausted s i rs then i :: (chooseFrom s art w is).2 else (chooseFrom s art w is).2) := by
  rw [chooseFrom, h]
  simp only [hp]

end Run

theorem chooseFrom_fst (s : State) (art : Article) (w : Nat) (is : List StationNo) :
    (chooseFrom s art w is).1 = is.findSome? fun i => decideReplan s i art w := by
  induction is with
  | nil => rfl
  | cons i is ih =>
    rw [List.findSome?_cons, decideReplan]
    rcases hi : evalStation s i art w with - | rs
    · rw [chooseFrom_skips hi, ih, Option.bind_none]
    · rw [Option.bind_some]
      rcases hp : placementIn rs with - | p
      · rw [chooseFrom_passes hi hp, ih]
      · rw [chooseFrom_takes hi hp]

/-- An entry of a list such that P holds of it and of every entry before it. -/
def Reached {α : Type} (P : α → Prop) (l : List α) (i : α) : Prop :=
  ∃ before later, l = before ++ i :: later ∧ ∀ j ∈ before ++ [i], P j

theorem not_reached_nil {α : Type} (P : α → Prop) (i : α) : ¬ Reached P [] i := by
  rintro ⟨before, later, h, -⟩
  simp at h

theorem reached_cons {α : Type} {P : α → Prop} {a : α} {l : List α} {i : α} :
    Reached P (a :: l) i ↔ P a ∧ (i = a ∨ Reached P l i) := by
  constructor
  · rintro ⟨- | ⟨b, before⟩, later, h, hp⟩
    · obtain ⟨rfl, rfl⟩ := List.cons.inj h
      exact ⟨hp _ (by simp), .inl rfl⟩
    · obtain ⟨rfl, rfl⟩ := List.cons.inj h
      exact ⟨hp _ (by simp), .inr ⟨before, later, rfl, fun j hj => hp j (List.mem_cons_of_mem _ hj)⟩⟩
  · rintro ⟨ha, rfl | ⟨before, later, rfl, hp⟩⟩
    · exact ⟨[], l, rfl, by simpa using ha⟩
    · exact ⟨a :: before, later, rfl, List.forall_mem_cons.mpr ⟨ha, hp⟩⟩

/-- The stations that a run finds exhausted stand before any that yields a placement (R41). -/
theorem mem_chooseFrom_snd {s : State} {art : Article} {w : Nat} {is : List StationNo} {i : StationNo} :
    i ∈ (chooseFrom s art w is).2 ↔ Reached (fun j => decideReplan s j art w = none) is i
      ∧ ∃ rs, evalStation s i art w = some rs ∧ isExhausted s i rs = true := by
  induction is with
  | nil => simp [chooseFrom, not_reached_nil]
  | cons j is ih =>
    rw [reached_cons, decideReplan]
    rcases hj : evalStation s j art w with - | rs
    · rw [chooseFrom_skips hj, ih, Option.bind_none]
      constructor
      · exact fun ⟨hr, hex⟩ => ⟨⟨rfl, .inr hr⟩, hex⟩
      · rintro ⟨⟨-, rfl | hr⟩, rs, hrs, hex⟩
        · exact absurd (hj.symm.trans hrs) (by simp)
        · exact ⟨hr, rs, hrs, hex⟩
    · rw [Option.bind_some]
      rcases hp : placementIn rs with - | p
      · rw [chooseFrom_passes hj hp]
        have listed : i ∈ (if isExhausted s j rs then j :: (chooseFrom s art w is).2 else (chooseFrom s art w is).2)
            ↔ i = j ∧ isExhausted s j rs = true ∨ i ∈ (chooseFrom s art w is).2 := by
          split_ifs with hex <;> simp [hex]
        rw [listed, ih]
        constructor
        · rintro (⟨rfl, hex⟩ | ⟨hr, h⟩)
          · exact ⟨⟨rfl, .inl rfl⟩, rs, hj, hex⟩
          · exact ⟨⟨rfl, .inr hr⟩, h⟩
        · rintro ⟨⟨-, rfl | hr⟩, h⟩
          · obtain ⟨rs', hrs, hex⟩ := h
            obtain rfl := Option.some.inj (hj.symm.trans hrs)
            exact .inl ⟨rfl, hex⟩
          · exact .inr ⟨hr, h⟩
      · rw [chooseFrom_takes hj hp]
        simp

theorem stationChoice_eq (s : State) (art : Article) (w : Nat) :
    stationChoice s art w = chooseFrom s art w (byDue s (allStations.filter (isCandidate s art.code))) := rfl

/-- The stations that a run finds exhausted, by the rule's own conditions (R41). -/
theorem mem_exhausted {s : State} {art : Article} {w : Nat} {is : List StationNo} {i : StationNo} :
    i ∈ (chooseFrom s art w is).2 ↔
      ∃ before later p e, is = before ++ i :: later ∧ (∀ j ∈ before ++ [i], decideReplan s j art w = none)
        ∧ s.planNamed i = some p ∧ s.baseOfBuild i = some e ∧ e.closeHeight ≤ s.builds[i].topHeight
        ∧ ∃ x ∈ p.openLines art.code, ∃ c ∈ candidates art s.builds[i],
          judge (evalInput s i e art w x.2.drop) c = .failed .height none
            ∨ judge (evalInput s i e art w x.2.drop) c = .failed .overload none := by
  rw [mem_chooseFrom_snd]
  constructor
  · rintro ⟨⟨before, later, his, hnone⟩, rs, hrs, hex⟩
    have evaluated : ¬ (s.planNamed i = none ∨ s.baseOfBuild i = none) := fun h => by
      rw [evalStation_none h] at hrs
      cases hrs
    obtain ⟨hp, he⟩ := not_or.mp evaluated
    obtain ⟨p, hp⟩ := Option.ne_none_iff_exists'.mp hp
    obtain ⟨e, he⟩ := Option.ne_none_iff_exists'.mp he
    obtain rfl := Option.some.inj ((evalStation_some hp he).symm.trans hrs)
    have := (isExhausted_iff hp he (hnone i (by simp))).mp hex
    exact ⟨before, later, p, e, his, hnone, hp, he, this⟩
  · rintro ⟨before, later, p, e, his, hnone, hp, he, hex⟩
    exact ⟨⟨before, later, his, hnone⟩, _, evalStation_some hp he, (isExhausted_iff hp he (hnone i (by simp))).mpr hex⟩

theorem decideHead_eq (s : State) (art : Article) (w : Nat) :
    (decideHead s art w).2 = (stationChoice s art w).2
      ∧ (decideHead s art w).1 =
        match (stationChoice s art w).1 with
          | some p => some (.release (some (p.station, p.revision)))
          | none => if s.openQuantity art.code = 0 then some (.release none) else none := by
  unfold decideHead
  rcases stationChoice s art w with ⟨_ | p, exhausted⟩ <;> exact ⟨rfl, rfl⟩

end Sys2Proof.Machine
end

section
/-!
PROOFS. The evaluation and the runs, with the clauses of the statement each from its lemma.
-/

namespace Sys2Proof.Machine

/-- Settles O56: the candidates by `getElem?_anchorsOf`, the best by the order of `Best.rank`, the outcomes by one
equation for each stage, and the run over the stations by `chooseFrom_fst` and `mem_exhausted`. -/
theorem evaluationHasOneBest : Obligations.EvaluationHasOneBest := by
  refine ⟨fun art b => ?_, fun inp i line => ?_, ?_, fun l n => ?_, ?_⟩
  · exact ⟨candidates_full, fun h c => (mem_candidates h).trans getElem?_anchorsOf, fun n c => scan_of_getElem?⟩
  · exact ⟨List.length_map .., outcomeCounts_sum _, evaluate_best_none, fun x hx => ⟨evaluate_best_mem hx,
      fun c hc y hy hne => evaluate_best_lt hx hc hy hne⟩⟩
  · intro inp c rest b height cells support q owners supporters refuses shares loads total far dx dy hrest hmax
    have rest_eq : restOf inp.build (footprint inp.build.cols c) = rest := restOf_eq hrest hmax
    have support_eq : supportCells inp.build (footprint inp.build.cols c) rest inp.levelTol = support :=
      supportCells_eq ..
    have owners_eq : tally (support.map fun n => inp.build.ownerMap.getD n .deck)
        = supporters.map fun o => (o, owners.count o) := tally_eq owners
    have refuses_eq : refusal inp = refuses := by
      funext o
      cases o with
      | deck => rfl
      | case m => simp only [refusal, refuses, b, funext (compatCase_eq inp)]
    have dx_eq : tiltX inp c = dx := dist_eq ..
    have dy_eq : tiltY inp c = dy := dist_eq ..
    unfold judge
    simp only [rest_eq, support_eq, owners_eq, List.length_map, compat_eq, refuses_eq, tilts_iff, dx_eq, dy_eq,
      Bool.and_eq_true, bne_iff_ne]
    rfl
  · exact ⟨rfl, length_sharesAll l n, fun i o m h => getElem?_sharesAll n h⟩
  · intro s art w wants stops due yields
    have due_eq : s.dueAt = due := funext (dueAt_eq s)
    refine ⟨fun i => isCandidate_iff, fun i => ?_, ?_, fun p => ⟨pairwise_openLines p _, nodup_openLines p _, fun x =>
      mem_openLines⟩, fun i p e hp he => ?_, fun i => decideReplan_none, chooseFrom_fst .., fun i => mem_exhausted,
      decideHead_eq s art w⟩
    · rw [mem_byDue, List.mem_filter]
      exact and_iff_right (by revert i; decide)
    · rw [← due_eq]
      exact pairwise_byDue (List.Pairwise.filter _ (by decide))
    · exact (decideReplan_eq art w hp he).trans (congrArg (fun g => List.findSome? g _) (funext fun x =>
        placement_evalLine s i e art w x))

end Sys2Proof.Machine
end

section
/-!
PROOFS. PROBE and PROBE_JOB (R44 to R46, R169).
-/

namespace Sys2Proof.Machine

/-! ### The entry of a station (R45, R46) -/

theorem baseOfBuild_eq_none {s : State} {i : StationNo} : s.baseOfBuild i = none ↔
    s.builds[i].binding = none ∨ ∃ g, s.builds[i].binding = some g ∧ s.tables.bases[g.baseKind] = none := by
  unfold State.baseOfBuild
  cases s.builds[i].binding <;> simp

section Entry

variable {s : State} {p : ProbeReq} {i : StationNo}

theorem probeStation_unbound (h : s.baseOfBuild i = none) : probeStation s p i = (.notEvaluated, none) := by
  rw [probeStation, h]

section Bound

variable {base : BaseEntry} (h : s.baseOfBuild i = some base)
include h

theorem probeStation_fixed (hd : p.drop ≠ 0) :
    probeStation s p i = (.evaluated, some (evaluate (evalInput s i base p.article p.load p.drop) i none)) := by
  rw [probeStation, h]
  exact if_neg hd

theorem probeStation_lineless (hd : p.drop = 0)
    (hl : ∀ plan, s.planNamed i = some plan → plan.openLines p.article.code = []) :
    probeStation s p i = (.noLine, none) := by
  rw [probeStation, h]
  simp only [hd, if_true]
  rcases hp : s.planNamed i with - | plan
  · rfl
  · simp [hl plan hp, tryLines]

theorem probeStation_tried (hd : p.drop = 0) {plan : Plan} (hp : s.planNamed i = some plan) {r : EvalResult}
    (hr : (tryLines (evalLine s i base p.article p.load) (plan.openLines p.article.code)).getLast? = some r) :
    probeStation s p i = (.evaluated, some r) := by
  rw [probeStation, h]
  simp only [hd, if_true, hp, hr]

/-- A station with a bound build and, for drop 0, an open line for the article is evaluated. -/
theorem probeStation_evaluated
    (hl : ¬ (p.drop = 0 ∧ ∀ plan, s.planNamed i = some plan → plan.openLines p.article.code = [])) :
    (probeStation s p i).1 = .evaluated := by
  by_cases hd : p.drop = 0
  · obtain ⟨plan, hp, hopen⟩ : ∃ plan, s.planNamed i = some plan ∧ plan.openLines p.article.code ≠ [] := by
      simpa [hd] using hl
    obtain ⟨r, hr⟩ := getLast?_tryLines_isSome (ev := evalLine s i base p.article p.load) hopen
    rw [probeStation_tried h hd hp hr]
  · rw [probeStation_fixed h hd]

end Bound

end Entry

/-! ### The probe slot and the request in execution -/

/-- The probe slot set. -/
def State.setProbe (s : State) (p : Option ProbeReq) : State := { s with engine := { s.engine with probe := p } }

/-- The request in execution set. -/
def State.setExec (s : State) (e : Option Exec) : State := { s with req := { s.req with exec := e } }

theorem setProbe_keeps (s : State) (p : Option ProbeReq) : KeepsAllBut [.probe] s (s.setProbe p) := by
  refine ⟨rfl, rfl, fun q hq => ?_⟩
  cases q <;> simp_all [Part.Same, State.setProbe]

theorem setExec_keeps (s : State) (e : Option Exec) : KeepsAllBut [.exec] s (s.setExec e) := by
  refine ⟨rfl, rfl, fun q hq => ?_⟩
  cases q <;> simp_all [Part.Same, State.setExec]

theorem setProbe_setExec_keeps (s : State) (p : Option ProbeReq) (e : Option Exec) :
    KeepsAllBut [.exec, .probe] s ((s.setProbe p).setExec e) :=
  ((setProbe_keeps s p).mono (by simp)).trans ((setExec_keeps _ e).mono (by simp))

/-- The ports of a served device stay served under a request that has no frame of a reply to send. -/
theorem Served.setExec {s : State} (h : Served s) (p : Option ProbeReq) {e : Option Exec} (he : replying e = false) :
    Served ((s.setProbe p).setExec e) :=
  h.of_same ⟨rfl, rfl, rfl, rfl, rfl⟩ ⟨rfl, rfl, rfl, rfl⟩ (fun _ _ => he) rfl fun hi => (h.idleA hi).2.2.1

/-! ### PROBE (R44, R169) -/

section Request

variable {f : RxFrame} {s : State}

/-- The probe that a PROBE puts into the slot (R44). -/
def probeOf (f : RxFrame) (art : Article) : ProbeReq :=
  { article := art, weight := u16At f.payload 4, drop := u8At f.payload 6, stations := stationSet (u8At f.payload 7) }

/-- The request in execution that a PROBE begins (R155). -/
def probingExec (f : RxFrame) : Exec :=
  { kind := 0x1F, tag := f.tag, source := f.src, counts := none, phase := .probing }

theorem probe_notHeld
    (h : s.tables.articles.find? (fun a => a.code == BitVec.ofNat 32 (u32At f.payload 0)) = none) :
    probe f s = refuse 0x1F .notFound 0 f s := by
  unfold probe
  dsimp only
  rw [h]

theorem probe_held {art : Article}
    (h : s.tables.articles.find? (fun a => a.code == BitVec.ofNat 32 (u32At f.payload 0)) = some art) :
    probe f s = (s.setProbe (some (probeOf f art))).setExec (some (probingExec f)) := by
  unfold probe
  dsimp only
  rw [h]
  rfl

theorem probe_refused (h : TakenAt 0x1F 8 f s) (hb : badProbe f.payload = none)
    (hart : s.tables.articles.find? (fun a => a.code == BitVec.ofNat 32 (u32At f.payload 0)) = none) :
    ∃ t, exec (.probe f) s = .next t ∧ AnsweredRefused 0x1F f .notFound 0 s t ∧ KeepsAllBut [.portA, .sup] s t := by
  obtain ⟨t, ht, hput, hkeeps, hafter⟩ :=
    request_answered h hb (probe_notHeld hart) (setSup_keeps s (fedTimer f.src s)) (by simp)
  exact ⟨t, ht, ⟨hput, hafter.2.2 .sup (by simp)⟩, hkeeps⟩

theorem probe_waits (h : TakenAt 0x1F 8 f s) (hb : badProbe f.payload = none) {art : Article}
    (hart : s.tables.articles.find? (fun a => a.code == BitVec.ofNat 32 (u32At f.payload 0)) = some art) :
    ∃ t, exec (.probe f) s = .next t ∧ t.req.sup = fedTimer f.src s ∧ KeepsAllBut [.exec, .probe, .sup] s t
      ∧ t.engine.probe = some (probeOf f art) ∧ t.req.exec = some (probingExec f) := by
  let fed := s.setSup (fedTimer f.src s)
  let t := (fed.setProbe (some (probeOf f art))).setExec (some (probingExec f))
  have hfed : KeepsAllBut [.sup] s fed := setSup_keeps ..
  have served : Served fed := h.toRunning.served'.effect (hfed.mono (by simp))
  have run : exec (.probe f) s = .next t := by
    refine (live_directed h.toDirected (request 0x1F 8 badProbe probe f)).trans ?_
    rw [request_taken h hb, probe_held (s := fed) hart, settle_of_served (served.setExec _ rfl)]
  have kept : KeepsAllBut [.exec, .probe, .sup] s t :=
    (hfed.mono (by simp)).trans ((setProbe_setExec_keeps ..).mono (by simp))
  exact ⟨t, run, rfl, kept, rfl, rfl⟩

end Request

/-! ### PROBE_JOB (R93, R169) -/

/-- The request in execution when the engine has handed it the result of a probe (R169). -/
def probedExec (s : State) (p : ProbeReq) (e : Exec) : Exec :=
  { e with
    phase := .replying (probeSegments s p) 0 (.probed p.stations.length (probeChoice s p).isSome) p.stations false }

theorem takeProbe_eq {s : State} {p : ProbeReq} {e : Exec} (hp : s.engine.probe = some p) (ht : s.takesProbe = true)
    (he : s.req.exec = some e) : takeProbe s =
      (s.setProbe none).setExec (some (probedExec s p e)) := by
  unfold takeProbe
  simp only [hp, ht, he, if_true, Option.map_some]
  rfl

theorem exec_probeJob {s : State} (h : Running s) {p : ProbeReq} {e : Exec} (hp : s.engine.probe = some p)
    (ht : s.takesProbe = true) (he : s.req.exec = some e) :
    exec .probeJob s = .next (settle ((s.setProbe none).setExec (some (probedExec s p e)))) :=
  (live_running h takeProbe).trans (by rw [takeProbe_eq hp ht he])

/-- The request in execution, with no frame of a reply left to send, goes on to reply (R169): to the ports it is a
request that begins its reply. -/
theorem reply_resumed {s : State} (h : Served s) (hleft : replyLeft s = []) {e : Exec} {segments : List (List Item)}
    {r : ResultFields} {watch : List StationNo} (hp : e.phase = .replying segments 0 r watch false) :
    KeepsAllBut [.portA, .exec, .probe] s (settle ((s.setProbe none).setExec (some e)))
      ∧ ReplyBegun e watch s (settle ((s.setProbe none).setExec (some e))) := by
  have set := setProbe_setExec_keeps s none none
  obtain ⟨hsup, hkeeps, hout, hphase⟩ :=
    reply_begun (h.setExec none (e := none) rfl) rfl s.req.sup hp (u := (s.setProbe none).setExec (some e)) rfl
  refine ⟨?_, ?_, hphase⟩
  · have kept := KeepsAllBut.but (p := .sup) (ps := [.portA, .exec]) (hkeeps.mono (by simp)) hsup
    exact (set.mono (by simp)).trans (kept.mono (by simp))
  · have out : outA ((s.setProbe none).setExec none) = outA s := by
      simp only [outA, hleft]
      rfl
    rw [hout, out]
    rfl

/-- Settles O25: the request by its two outcomes, the job by `reply_resumed`, the entries by the cases of `probeStation`
and the choice by `chooseFrom_fst`. -/
theorem probeCompletes : Obligations.ProbeCompletes := by
  refine ⟨fun f s h hb => ?_, fun s p e h hp ht he hleft => ?_, fun s p i => ?_, fun s p => ?_⟩
  · split
    · exact probe_refused h hb ‹_›
    · exact probe_waits h hb ‹_›
  · have left : replyLeft s = [] := by simp only [replyLeft, he, hleft]
    refine ⟨_, exec_probeJob h hp ht he, ?_, reply_resumed h.served' left rfl⟩
    rw [(settle_services _).engine]
    rfl
  · intro e unbound lineless weight
    have unbound_iff : unbound ↔ s.baseOfBuild i = none := baseOfBuild_eq_none.symm
    have lineless_iff : lineless
        ↔ p.drop = 0 ∧ ∀ plan, s.planNamed i = some plan → plan.openLines p.article.code = [] := by
      simp only [openLines_eq_nil, lineless]
    have bound : ¬ unbound → ∃ base, s.baseOfBuild i = some base := fun h =>
      Option.ne_none_iff_exists'.mp (mt unbound_iff.mpr h)
    have when_unbound : unbound → probeStation s p i = (.notEvaluated, none) := fun h =>
      probeStation_unbound (unbound_iff.mp h)
    have when_lineless : ¬ unbound → lineless → probeStation s p i = (.noLine, none) := fun h hl => by
      obtain ⟨base, hbase⟩ := bound h
      obtain ⟨hd, hnil⟩ := lineless_iff.mp hl
      exact probeStation_lineless hbase hd hnil
    have when_evaluated : ¬ unbound → ¬ lineless → (probeStation s p i).1 = .evaluated := fun h hl => by
      obtain ⟨base, hbase⟩ := bound h
      exact probeStation_evaluated hbase (mt lineless_iff.mpr hl)
    refine ⟨rfl, rfl, rfl, rfl, fun h => congrArg Prod.fst (when_unbound h),
      fun h hl => congrArg Prod.fst (when_lineless h hl), when_evaluated, fun hne => ?_, fun base hbase hd => ?_,
      fun base plan before x later hbase hd hplan => ?_⟩
    · by_cases h : unbound
      · exact congrArg Prod.snd (when_unbound h)
      by_cases hl : lineless
      · exact congrArg Prod.snd (when_lineless h hl)
      exact absurd (when_evaluated h hl) hne
    · exact congrArg Prod.snd (probeStation_fixed hbase hd)
    · intro tried hlines hbefore hx
      refine congrArg Prod.snd (probeStation_tried hbase hd hplan ?_)
      rw [hlines]
      exact getLast?_tryLines hbefore hx
  · intro stops due
    have due_eq : s.dueAt = due := funext (dueAt_eq s)
    refine ⟨fun hd => if_neg hd, fun hd => ?_, fun i => ?_, fun hs => ?_⟩
    · rw [probeChoice, if_pos hd]
      exact chooseFrom_fst ..
    · rw [mem_byDue, List.mem_filter]
    · rw [← due_eq]
      exact pairwise_byDue (hs.filter _)

end Sys2Proof.Machine
end

section
/-!
PROOFS. The settings that a SET SETTINGS stores (R58, R59, R62).
-/

namespace Sys2Proof.Machine

/-! ### The record of 21 values -/

/-- A record made of 21 values holds these values, when the action is 0 or 1. -/
theorem values_ofValues {vs : List Nat} (hlen : vs.length = 21) (haction : vs.getD 8 0 ≤ 1) :
    (Settings.ofValues vs).values = vs := by
  have stored : (Settings.ofValues vs).supAction = if vs.getD 8 0 = 0 then .report else .stop := rfl
  have action : (if (Settings.ofValues vs).supAction = .report then 0 else 1) = vs.getD 8 0 := by
    rcases Nat.le_one_iff_eq_zero_or_eq_one.mp haction with h | h <;> simp only [stored, h] <;> rfl
  refine List.ext_getElem (by rw [hlen]; rfl) fun i hi hi' => ?_
  have read : vs[i] = vs.getD i 0 := by simp [hi']
  rw [hlen] at hi'
  rw [read]
  by_cases h8 : i = 8
  · subst h8
    exact action
  · unfold Settings.values
    interval_cases i <;> first | rfl | exact absurd rfl h8

theorem values_interval (st : Settings) : st.values.getD 7 0 = st.supInterval := rfl

theorem values_action (st : Settings) : st.values.getD 8 0 = if st.supAction = .report then 0 else 1 := rfl

/-! ### The values stored -/

theorem length_storedSettings (latch : Bool) (p : List Byte) :
    (storedSettings latch (carriedSettings p)).length = 21 := by
  simp [storedSettings, carriedSettings]

theorem storedSettings_getD (latch : Bool) (p : List Byte) {i : Nat} (hi : i < 21) :
    (storedSettings latch (carriedSettings p)).getD i 0 = storedSetting latch i (u32At p (4 * i)) := by
  simp [storedSettings, carriedSettings, hi]

/-- A clamp to a range that is none too narrow (R59). -/
theorem clampTo_eq {r : Nat × Nat} (h : r.1 ≤ r.2) (v : Nat) : clampTo r v = max r.1 (min r.2 v) := by
  unfold clampTo
  split_ifs <;> omega

/-- No range of R58 is empty. -/
theorem settingRange_le {i : Nat} (hi : i < 21) :
    (settingRange.getD i (0, 0)).1 ≤ (settingRange.getD i (0, 0)).2 := by
  interval_cases i <;> decide

theorem storedSetting_interval (latch : Bool) (v : Nat) :
    storedSetting latch 7 v = if v = 0 then 0 else max 1000 (min 600000 v) := by
  rw [storedSetting, if_pos rfl, clampTo_eq (Nat.zero_le _)]
  split_ifs <;> omega

theorem storedSetting_action (latch : Bool) (v : Nat) :
    storedSetting latch 8 v = if latch = true then 1 else min 1 v := by
  rw [storedSetting, if_neg (by decide), if_pos rfl, clampTo_eq (Nat.zero_le _), Nat.zero_max]

theorem storedSetting_plain (latch : Bool) {i : Nat} (hi : i < 21) (h7 : i ≠ 7) (h8 : i ≠ 8) (v : Nat) :
    storedSetting latch i v
      = max (settingRange.getD i (0, 0)).1 (min (settingRange.getD i (0, 0)).2 v) := by
  rw [storedSetting, if_neg h7, if_neg h8, clampTo_eq (settingRange_le hi)]

/-- The value stored for a value carried, by its index (R59, R62). -/
theorem storedSetting_eq (latch : Bool) {i : Nat} (hi : i < 21) (v : Nat) :
    storedSetting latch i v =
      if i = 7 then (if v = 0 then 0 else max 1000 (min 600000 v))
      else if i = 8 then (if latch = true then 1 else min 1 v)
      else max (settingRange.getD i (0, 0)).1 (min (settingRange.getD i (0, 0)).2 v) := by
  by_cases h7 : i = 7
  · subst h7
    exact storedSetting_interval latch v
  rw [if_neg h7]
  by_cases h8 : i = 8
  · subst h8
    exact storedSetting_action latch v
  rw [if_neg h8]
  exact storedSetting_plain latch hi h7 h8 v

/-- A value stored lies in its range (R59). -/
theorem storedSetting_range (latch : Bool) {i : Nat} (hi : i < 21) (h7 : i ≠ 7) (v : Nat) :
    (settingRange.getD i (0, 0)).1 ≤ storedSetting latch i v
      ∧ storedSetting latch i v ≤ (settingRange.getD i (0, 0)).2 := by
  by_cases h8 : i = 8
  · subst h8
    rw [storedSetting_action]
    refine ⟨Nat.zero_le _, ?_⟩
    show _ ≤ 1
    split_ifs <;> omega
  · have := settingRange_le hi
    rw [storedSetting_plain latch hi h7 h8]
    omega

/-! ### The settings record after a SET SETTINGS -/

/-- The settings record and the STOP latch replaced. -/
def State.setRecord (s : State) (st : Settings) (latch : Bool) : State :=
  { s with req := { s.req with settings := st, latch := latch } }

theorem setRecord_link (s : State) (st : Settings) (latch : Bool) : (s.setRecord st latch).link = s.link := rfl

theorem setRecord_reports (s : State) (st : Settings) (latch : Bool) : (s.setRecord st latch).reports = s.reports := rfl

theorem setRecord_req (s : State) (st : Settings) (latch : Bool) :
    (s.setRecord st latch).req = { s.req with settings := st, latch := latch } := rfl

theorem setRecord_keeps (s : State) (st : Settings) (latch : Bool) :
    KeepsAllBut [.settings, .latch] s (s.setRecord st latch) := by
  refine ⟨rfl, rfl, fun p hp => ?_⟩
  cases p <;> simp_all [Part.Same, State.setRecord]

/-- The record that a SET SETTINGS stores, and the latch that a stored STOP sets. -/
theorem storeSettings_eq (f : RxFrame) (s : State) : storeSettings f s =
    s.setRecord (.ofValues (storedSettings s.req.latch (carriedSettings f.payload)))
      (s.req.latch
        || (Settings.ofValues (storedSettings s.req.latch (carriedSettings f.payload))).supAction == .stop) := rfl

/-- The 21 values that a SET SETTINGS stores are the record's. -/
theorem storeSettings_values (f : RxFrame) (s : State) :
    (storeSettings f s).req.settings.values = storedSettings s.req.latch (carriedSettings f.payload) := by
  rw [storeSettings_eq, setRecord_req]
  refine values_ofValues (length_storedSettings ..) ?_
  rw [storedSettings_getD _ _ (by decide)]
  exact (storedSetting_range _ (by decide) (by decide) _).2

theorem storeSettings_value (f : RxFrame) (s : State) {i : Nat} (hi : i < 21) :
    (storeSettings f s).req.settings.values.getD i 0 = storedSetting s.req.latch i (u32At f.payload (4 * i)) := by
  rw [storeSettings_values, storedSettings_getD _ _ hi]

/-- Storing STOP sets the latch (R62). -/
theorem storeSettings_latch (f : RxFrame) (s : State) :
    (storeSettings f s).req.latch = true
      ↔ s.req.latch = true ∨ (storeSettings f s).req.settings.supAction = .stop := by
  rw [storeSettings_eq, setRecord_req]
  simp

/-- REPORT is stored as STOP while the latch is set (R62). -/
theorem storeSettings_stop {f : RxFrame} {s : State} (h : s.req.latch = true) :
    (storeSettings f s).req.settings.supAction = .stop := by
  have action := storeSettings_value f s (i := 8) (by decide)
  rw [values_action, storedSetting_action, if_pos h] at action
  cases hs : (storeSettings f s).req.settings.supAction with
  | stop => rfl
  | report => simp [hs] at action

/-- The supervision timer behind a taken SET SETTINGS (R170, rows 2 and 3). -/
theorem superviseSettings_eq (control : Nat) (src : Byte) (s : State) :
    superviseSettings control src s = s.setSup
      (if src.toNat = control then
         if s.req.settings.supInterval = 0 then .stopped else .running (after s.link.time s.req.settings.supInterval)
       else if s.req.settings.supInterval = 0 then .stopped else s.req.sup) := by
  unfold superviseSettings armSupervision
  split_ifs <;> rfl

end Sys2Proof.Machine
end

section
/-!
PROOFS. What a step may do to the report unit, the link queues and the settings, said once (`UnitMove`), and that every
step keeps their rules (R58, R62, R172, R174, R177, R183, R187).
-/

namespace Sys2Proof.Machine

/-! ### Frame commands -/

/-- A command that carries a frame is that frame received (R184). -/
theorem exec_frame {c : Instr} {k : Byte} {f : RxFrame} (h : frameOf c = some (k, f)) (s : State) :
    exec c s = live (receive k f (consumeByKind k f)) s := by
  cases c with
  | passThrough p raw =>
    have cut : receiveRaw p raw = receive k f (consumeByKind k f) := by
      funext u
      unfold receiveRaw
      rw [show cutFrame p raw = some (k, f) from h]
    exact congrArg (live · s) cut
  | _ => cases h <;> rfl

/-! ### Moves of the units -/

/-- What the rules of the report unit, the link queues and the settings speak of. -/
structure Units where
  reports  : ReportUnit
  fwdA     : List (List Byte)
  fwdB     : List (List Byte)
  ownB     : List OwnFrame
  waitB    : List OwnFrame
  settings : Settings
  latch    : Bool
  sup      : SupTimer

/-- The units of a device. -/
def State.units (s : State) : Units where
  reports := s.reports
  fwdA := s.link.fwdA
  fwdB := s.link.fwdB
  ownB := s.link.ownB
  waitB := s.link.waitB
  settings := s.req.settings
  latch := s.req.latch
  sup := s.req.sup

/-- What a step may do to the units at once. -/
inductive UnitMove : State → State → Prop
  | same {s t : State} (h : t.units = s.units) : UnitMove s t
  | works {s t : State} (w : Works s t) : UnitMove s t
  | settle (s : State) : UnitMove s (settle s)
  | powerOn (s : State) (node : Byte) : UnitMove s (State.powerOn node)
  | moveTime (s : State) (t : LineTime) : UnitMove s (s.moveTime t)
  | forward (k : Byte) (f : RxFrame) (s : State) : UnitMove s (forward k f s)
  | arm (s : State) : UnitMove s (armSupervision s)
  | rearm (s : State) {e : Timer} (h : s.req.sup = .running e) (x : Timer) : UnitMove s (s.setSup (.running x))
  | halt (s : State) : UnitMove s (s.setSup .halted)
  | setSettings (control : Nat) (f : RxFrame) (s : State) :
      UnitMove s (superviseSettings control f.src (storeSettings f s))
  | unlatch (s : State) : UnitMove s { s with req := { s.req with latch := false } }
  | setLevels (s : State) (levels : List Nat) (hlen : levels.length = 15) (hle : ∀ v ∈ levels, v ≤ 7) :
      UnitMove s { s with reports := { s.reports with levels := levels } }
  | clearReports (s : State) : UnitMove s { s with reports := { s.reports with queue := [], lost := 0 } }

/-- The moves of a step, one after the other. -/
abbrev UnitMoves : State → State → Prop := Many UnitMove

namespace UnitMoves

theorem same {s t : State} (h : t.units = s.units) : UnitMoves s t := .single (.same h)

theorem works {s t : State} (w : Works s t) : UnitMoves s t := .single (.works w)

/-- Moves behind a change that the units take no part in. -/
theorem behind {s t u : State} (h : UnitMoves t u) (e : t.units = s.units) : UnitMoves s u := (same e).trans h

/-! ### Responses -/

theorem placeResponse (fr : OwnFrame) (s : State) : UnitMoves s (placeResponse fr s) := by
  unfold Machine.placeResponse
  split_ifs <;> exact same rfl

theorem answer (f : RxFrame) (r : Response) (s : State) : UnitMoves s (answer f r s) := by
  unfold Machine.answer
  split_ifs
  · exact .refl
  · exact placeResponse _ s

theorem answerDone (k : Byte) (f : RxFrame) (r : ResultFields) (s : State) : UnitMoves s (answerDone k f r s) :=
  answer f _ s

theorem answerStation (k : Byte) (f : RxFrame) (i : StationNo) (s : State) : UnitMoves s (answerStation k f i s) :=
  answer f _ s

theorem refuse (k : Byte) (r : Reason) (i : Nat) (f : RxFrame) (s : State) : UnitMoves s (refuse k r i f s) :=
  answer f _ s

/-! ### The supervision timer (R170) -/

theorem supervise (src : Byte) (s : State) : UnitMoves s (supervise src s) := by
  unfold Machine.supervise
  split_ifs
  · exact .single (.arm s)
  · exact .refl

/-- The expiry of the supervision timer (R171). -/
theorem supervisionExpires (s : State) : UnitMoves s (supervisionExpires s) := by
  unfold Machine.supervisionExpires
  split
  · rename_i e hrunning
    split_ifs
    · have w := Works.report (.supervision s.req.settings.supAction s.req.settings.supInterval s.link.time) s
      refine (works w).trans ?_
      dsimp only
      split
      · exact .single (.rearm _ (w.sup.trans hrunning) _)
      · exact behind (.single (.halt _)) rfl
    · exact .refl
  · exact .refl
  · exact .refl

/-! ### Requests -/

/-- A request is discarded, refused or taken, behind the feeding of the supervision timer (R152, R170). -/
theorem request {k : Byte} {n : Nat} {bad : List Byte → Option Nat} {act : RxFrame → State → State} (f : RxFrame)
    (ha : ∀ s, UnitMoves s (act f s)) (s : State) : UnitMoves s (request k n bad act f s) := by
  refine (supervise f.src s).trans ?_
  unfold Machine.request
  dsimp only
  split_ifs
  · exact .refl
  · unfold takeRequest
    split_ifs
    · exact .refl
    · split
      · exact refuse ..
      · exact ha _

theorem handleSetTime (f : RxFrame) (s : State) : UnitMoves s (handleSetTime f s) := by
  refine Relation.ReflTransGen.trans ?_ (supervise f.src _)
  unfold takeRequest
  split_ifs
  · exact .refl
  · split
    · exact refuse ..
    · exact (Relation.ReflTransGen.single (.moveTime s _)).trans (answerDone ..)

theorem handleSetSettings (f : RxFrame) (s : State) : UnitMoves s (handleSetSettings f s) := by
  unfold Machine.handleSetSettings
  split_ifs
  · exact (Relation.ReflTransGen.single (.setSettings s.req.settings.controlNode f s)).trans (answerDone ..)
  · exact request f (fun _ => .refl) s

theorem deleteArticle (f : RxFrame) (s : State) : UnitMoves s (deleteArticle f s) := by
  unfold Machine.deleteArticle
  dsimp only
  split_ifs
  · exact behind (answerDone ..) rfl
  · exact refuse ..

theorem loadBase (f : RxFrame) (s : State) : UnitMoves s (loadBase f s) := by
  unfold Machine.loadBase
  dsimp only
  generalize (s.stations.toList.any _) = blocked
  cases blocked
  case true => exact refuse ..
  case false =>
    rw [if_neg Bool.false_ne_true]
    exact behind (answerDone ..) rfl

theorem loadKinds (f : RxFrame) (s : State) : UnitMoves s (loadKinds f s) := by
  unfold Machine.loadKinds
  exact behind (answerDone ..) rfl

/-- A level above 7 is stored as 7 (R178). -/
theorem loadLevels (f : RxFrame) (s : State) : UnitMoves s (loadLevels f s) := by
  refine (Relation.ReflTransGen.single (.setLevels s ((carriedLevels f.payload).map (min 7)) ?_ ?_)).trans
    (answerDone ..)
  · simp [carriedLevels]
  · simp

theorem admitPlan (f : RxFrame) (s : State) : UnitMoves s (admitPlan f s) := by
  unfold Machine.admitPlan
  split_ifs
  · exact refuse ..
  · exact same rfl

theorem withdrawPlan (f : RxFrame) (s : State) : UnitMoves s (withdrawPlan f s) := by
  unfold Machine.withdrawPlan
  split
  · exact refuse ..
  · split_ifs
    · exact behind (answerDone ..) rfl
    · exact refuse ..

/-- A binding attempt that a condition asks for. -/
theorem bindingAttemptIf (c : Bool) (s : State) : UnitMoves s (if c then bindingAttempt s else s) := by
  cases c with
  | true => exact works (.bindingAttempt s)
  | false => exact .refl

theorem bringOnline (i : StationNo) (kind : BaseKind) (s : State) : UnitMoves s (bringOnline i kind s) := by
  unfold Machine.bringOnline
  exact behind ((works (.enterState _ i .idle)).trans (bindingAttemptIf ..)) rfl

theorem setStation (f : RxFrame) (s : State) : UnitMoves s (setStation f s) := by
  unfold Machine.setStation
  dsimp only
  split
  case h_1 =>
    split_ifs
    · exact (bringOnline ..).trans (answerStation ..)
    · exact refuse ..
    · exact behind (answerStation ..) rfl
  case h_2 =>
    split_ifs
    · exact answerStation ..
    · exact refuse ..
    · exact (works (.enterState ..)).trans (answerStation ..)
  all_goals exact refuse ..

theorem closeStation (f : RxFrame) (s : State) : UnitMoves s (closeStation f s) := by
  unfold Machine.closeStation
  dsimp only
  split_ifs
  · exact (works ((Works.closePart ..).trans (.enterClosing ..))).trans (answerDone ..)
  · exact refuse ..

theorem recallExchange (i : StationNo) (s : State) : UnitMoves s (recallExchange i s) := by
  unfold Machine.recallExchange
  exact behind (works ((Works.enterState ..).trans (.exchangeCall ..))) rfl

theorem acknowledgeFault (f : RxFrame) (s : State) : UnitMoves s (acknowledgeFault f s) := by
  unfold Machine.acknowledgeFault
  dsimp only
  split_ifs
  · exact refuse ..
  · exact (recallExchange ..).trans (answerStation ..)
  · exact refuse ..
  · exact refuse ..
  · exact (works (.keepBuild ..)).trans (answerStation ..)
  · exact (works (.discardBuild ..)).trans (answerStation ..)

theorem flushLane (f : RxFrame) (s : State) : UnitMoves s (flushLane f s) := by
  unfold Machine.flushLane
  dsimp only
  split_ifs
  · exact refuse ..
  · exact (works (.flush ..)).trans (answerDone ..)

theorem setGate (f : RxFrame) (s : State) : UnitMoves s (setGate f s) := by
  unfold Machine.setGate
  exact behind (answerDone ..) rfl

theorem readPlan (f : RxFrame) (s : State) : UnitMoves s (readPlan f s) := by
  unfold Machine.readPlan
  split
  · exact refuse ..
  · exact same rfl

theorem probe (f : RxFrame) (s : State) : UnitMoves s (probe f s) := by
  unfold Machine.probe
  dsimp only
  split
  · exact refuse ..
  · exact same rfl

/-- RESTART: the reports emptied, STARTED queued, the latch dropped, and each block by its own rule (R162). -/
theorem restart (f : RxFrame) (s : State) : UnitMoves s (restart f s) := by
  have started : ∀ u, UnitMoves u (restartReports u) := fun u =>
    (Relation.ReflTransGen.single (.clearReports u)).trans (works (.report ..))
  have stations : ∀ u, UnitMoves u (allStations.foldl restartStation u) := fun u =>
    works (.foldl restartStation Works.restartStation allStations u)
  have lanes : ∀ u, UnitMoves u (restartLanes (restartTracking u)) := fun u =>
    behind (works (.restartLanes (restartTracking u))) rfl
  refine (answerDone 0x24 f .empty s).trans ((started _).trans (.trans (.single (.unlatch _)) ?_))
  exact (stations _).trans ((lanes _).trans (.trans (.single (.arm _)) (works (.bindingAttempt _))))

theorem handleReserved (k : Byte) (f : RxFrame) (s : State) : UnitMoves s (handleReserved k f s) := by
  refine (supervise f.src s).trans ?_
  unfold Machine.handleReserved
  dsimp only
  split_ifs
  · exact .refl
  · exact refuse ..

/-! ### Loads (R163 to R165) -/

theorem finishLoad (e : Exec) (c : Completion) (r : Reason) (i : Nat) (res : ResultFields) (s : State) :
    UnitMoves s (finishLoad e c r i res s) := by
  unfold Machine.finishLoad
  exact behind (placeResponse ..) rfl

theorem endLoad (e : Exec) (r : Reason) (i : Nat) (s : State) : UnitMoves s (endLoad e r i s) := by
  unfold Machine.endLoad
  refine Relation.ReflTransGen.trans ?_ (finishLoad ..)
  split_ifs <;> exact same rfl

theorem takeArticle {e : Exec} {p : List Byte} {s t : State} {o : RecordEnd} (h : takeArticle e p s = (t, o)) :
    UnitMoves s t := by
  rcases hbad : badArticle p with _ | i
  · rw [Machine.takeArticle, hbad] at h
    dsimp only at h
    split_ifs at h <;> obtain ⟨rfl, -⟩ := Prod.mk.inj h
    · exact behind (finishLoad ..) rfl
    · exact same rfl
    · exact endLoad ..
  · rw [Machine.takeArticle, hbad] at h
    obtain ⟨rfl, -⟩ := Prod.mk.inj h
    exact endLoad ..

theorem takeLine {e : Exec} {p : List Byte} {s t : State} {o : RecordEnd} (h : takeLine e p s = (t, o)) :
    UnitMoves s t := by
  have made : ∀ a, UnitMoves s (makePlan a s) := fun a => by
    unfold makePlan
    exact behind (works (.bindingAttempt _)) rfl
  unfold Machine.takeLine at h
  split at h
  · obtain ⟨rfl, -⟩ := Prod.mk.inj h
    exact endLoad ..
  · rename_i a _
    split at h
    · obtain ⟨rfl, -⟩ := Prod.mk.inj h
      exact endLoad ..
    · dsimp only at h
      generalize ({ a with lines := a.lines ++ [lineOf p] } : Admission) = a' at h
      split_ifs at h <;> obtain ⟨rfl, -⟩ := Prod.mk.inj h
      · exact (made a').trans (finishLoad ..)
      · exact same rfl

theorem takeRecord {e : Exec} {p : List Byte} {s t : State} {o : RecordEnd} (h : takeRecord e p s = (t, o)) :
    UnitMoves s t := by
  unfold Machine.takeRecord at h
  split_ifs at h
  · exact takeArticle h
  · exact takeLine h

theorem takeRecords (records : List (List Byte)) (e : Exec) (s : State) : UnitMoves s (takeRecords e records s) := by
  induction records generalizing e s with
  | nil => exact same rfl
  | cons p records ih =>
    unfold Machine.takeRecords
    split
    · exact takeRecord ‹_›
    · exact (takeRecord ‹_›).trans (ih _ _)

theorem handleData (f : RxFrame) (s : State) : UnitMoves s (handleData f s) := by
  refine (supervise f.src s).trans ?_
  unfold Machine.handleData
  dsimp only
  split
  · exact .refl
  · split_ifs
    · unfold takeData
      split_ifs
      · exact endLoad ..
      · exact takeRecords ..
    · exact .refl

theorem gapExpired (s : State) : UnitMoves s (gapExpired s) := by
  unfold Machine.gapExpired
  split
  · exact .refl
  · split
    · split_ifs
      · exact endLoad ..
      · exact .refl
    all_goals exact .refl

/-! ### Partner frames -/

theorem partner {k : Byte} {act : List Byte → State → State} (ha : ∀ p s, UnitMoves s (act p s)) (f : RxFrame)
    (s : State) : UnitMoves s (partner k act f s) := by
  unfold Machine.partner
  split_ifs
  · exact .refl
  · exact supervise f.src s
  · exact (supervise f.src s).trans (ha ..)

theorem arrival (p : List Byte) (s : State) : UnitMoves s (arrival p s) := by
  unfold Machine.arrival
  dsimp only
  split_ifs
  · exact .refl
  · exact same rfl

theorem takeReply (p : List Byte) (s : State) : UnitMoves s (takeReply p s) := by
  unfold Machine.takeReply
  split
  · exact works (.orderReply ..)
  · exact .refl

theorem readyRises (i : StationNo) (s : State) : UnitMoves s (readyRises i s) := by
  unfold Machine.readyRises
  dsimp only
  split_ifs
  · exact behind (works (.bindingAttempt _)) rfl
  · exact same rfl

theorem takeReady (p : List Byte) (s : State) : UnitMoves s (takeReady p s) := by
  unfold Machine.takeReady
  split
  · exact .refl
  · split_ifs
    · exact readyRises ..
    · unfold readyFalls
      exact behind (works (.stationFault ..)) rfl
    · exact .refl

theorem exchangeStarts (i : StationNo) (s : State) : UnitMoves s (exchangeStarts i s) := by
  unfold Machine.exchangeStarts
  dsimp only
  split_ifs
  · exact behind (works (.enterState ..)) rfl
  · exact .refl

theorem exchangeDone (i : StationNo) (s : State) : UnitMoves s (exchangeDone i s) := by
  unfold Machine.exchangeDone
  split_ifs
  · unfold exchangeEnds
    exact behind ((works ((Works.enterState _ i .idle).trans (.report (.stationIdle i) _))).trans
      (bindingAttemptIf ..)) rfl
  · exact .refl

theorem takeTransport {act : StationNo → State → State} (ha : ∀ i s, UnitMoves s (act i s)) (p : List Byte)
    (s : State) : UnitMoves s (takeTransport act p s) := by
  unfold Machine.takeTransport
  split
  · exact ha ..
  · exact .refl

theorem takeLaneFrame {act : LaneNo → Tracking → State → State} (ha : ∀ k t s, Works s (act k t s))
    (p : List Byte) (s : State) : UnitMoves s (takeLaneFrame act p s) := by
  unfold Machine.takeLaneFrame
  split
  · exact works (ha ..)
  · exact .refl

/-! ### Frames -/

/-- A frame consumed by its kind (R184). -/
theorem consume (k : Byte) (f : RxFrame) (s : State) : UnitMoves s (consumeByKind k f s) := by
  generalize hg : consumeByKind k f = g
  unfold consumeByKind at hg
  split at hg
  case h_31 =>
    split_ifs at hg <;> subst hg
    · exact handleReserved k f s
    · exact supervise f.src s
  all_goals subst hg
  · exact request f (act := describe) (fun s => answerDone 0x10 f _ s) s
  · exact request f (act := readState) (fun s => answerDone 0x11 f _ s) s
  · exact handleSetTime f s
  · exact handleSetSettings f s
  · exact request f (act := loadArticles) (fun _ => same rfl) s
  · exact request f (deleteArticle f) s
  · exact request f (loadBase f) s
  · exact request f (loadKinds f) s
  · exact request f (loadLevels f) s
  · exact request f (admitPlan f) s
  · exact request f (withdrawPlan f) s
  · exact request f (setStation f) s
  · exact request f (closeStation f) s
  · exact request f (acknowledgeFault f) s
  · exact request f (flushLane f) s
  · exact request f (probe f) s
  · exact request f (act := readBuild) (fun _ => same rfl) s
  · exact request f (readPlan f) s
  · exact request f (act := readLane) (fun _ => same rfl) s
  · exact request f (setGate f) s
  · exact request f (restart f) s
  · exact handleData f s
  · exact partner arrival f s
  · exact partner takeReply f s
  · exact partner takeReady f s
  · exact partner (takeLaneFrame Works.laneEntered) f s
  · exact partner (takeLaneFrame Works.laneReleased) f s
  · exact partner (takeLaneFrame fun k _ => Works.laneFlushed k) f s
  · exact partner (takeTransport exchangeStarts) f s
  · exact partner (takeTransport exchangeDone) f s

/-- A frame received: discarded, forwarded, consumed, or the last two (R182, R183). -/
theorem receive (k : Byte) (f : RxFrame) (s : State) : UnitMoves s (receive k f (consumeByKind k f) s) := by
  have forwarded : UnitMoves s (Machine.forward k f s) := .single (.forward k f s)
  unfold Machine.receive
  split_ifs
  · exact .refl
  · exact forwarded.trans (consume ..)
  · exact consume k f s
  · exact forwarded

/-! ### Every step -/

theorem live {effect : State → State} (he : ∀ s, UnitMoves s (effect s)) {s t : State}
    (e : live effect s = .next t) : UnitMoves s t := by
  unfold Machine.live at e
  injection e with e
  subst e
  split_ifs
  · exact .refl
  · exact .trans (.single (.settle s)) ((he _).trans (.single (.settle _)))

theorem takeProbe (s : State) : UnitMoves s (takeProbe s) := by
  unfold Machine.takeProbe
  split
  · exact .refl
  · split_ifs
    · exact same rfl
    · exact .refl

theorem frameSent (p : Port) (s : State) : UnitMoves s (frameSent p s) := by
  cases p with
  | b => exact same rfl
  | a =>
    show UnitMoves s (frameSentA s)
    unfold frameSentA
    split
    · exact .refl
    · dsimp only
      split
      · split_ifs <;> exact same rfl
      · exact same rfl

theorem takeArrival (s : State) : UnitMoves s (takeArrival s) := by
  rcases takeArrival_works s with e | ⟨a, rest, -, w⟩
  · rw [e]
  · exact behind (works w) rfl

/-- A change of the working operations that a condition asks for. -/
theorem worksIf {c : Prop} [Decidable c] {s t : State} (w : Works s t) : UnitMoves s (if c then t else s) := by
  split_ifs
  · exact works w
  · exact .refl

theorem deadlinePasses (t : Tracking) (s : State) : UnitMoves s (deadlinePasses t s) := by
  unfold Machine.deadlinePasses
  split
  · exact .refl
  · exact worksIf ((Works.dropTrack s t).trans (.report ..))

theorem exec {c : Instr} {s t : State} (e : exec c s = .next t) : UnitMoves s t := by
  rcases hf : frameOf c with _ | ⟨k, f⟩
  case some => exact live (receive k f) (exec_frame hf s ▸ e)
  cases c with
  | powerOnReset =>
    injection e with e
    subst e
    exact .trans (.single (.powerOn s s.link.ownNode)) (same rfl)
  | resetEnd pins =>
    injection e with e
    subst e
    split_ifs
    · have started : State.started (nodeOf pins)
          = report (.started .powerOn (nodeOf pins)) (State.powerOn (nodeOf pins)) := rfl
      rw [started]
      have queued := works (.report (.started .powerOn (nodeOf pins)) (State.powerOn (nodeOf pins)))
      exact .trans (.single (.powerOn s (nodeOf pins))) (queued.trans (behind (.single (.settle _)) rfl))
    · exact .refl
  | passThrough p raw =>
    refine live (fun u => ?_) e
    unfold receiveRaw
    rw [show cutFrame p raw = none from hf]
  | dataGapExpiry => exact live gapExpired e
  | supervisionExpiry => exact live supervisionExpires e
  | takeTimerExpiry i => exact live (fun u => worksIf (.stationFault ..)) e
  | placeTimerExpiry i => exact live (fun u => worksIf (.stationFault ..)) e
  | exchangeTimerExpiry i => exact live (fun u => worksIf (.faultExchange ..)) e
  | releaseTimerExpiry k =>
    exact live (fun u => worksIf ((Works.onLaneSame rfl).trans (.laneFault ..))) e
  | returnDeadline t => exact live (deadlinePasses t) e
  | takingAnArrival => exact live takeArrival e
  | replanJob => exact live (fun u => works (.takeReplan u)) e
  | laneHeadJob => exact live (fun u => works (.takeLane u)) e
  | probeJob => exact live takeProbe e
  | commitAttempt => exact live (fun u => works (.commitAttempt u)) e
  | frameSent p => exact live (frameSent p) e
  | lineTimeTick => exact live (fun u => .single (.moveTime u _)) e
  | _ => cases hf

/-- What a step does to the units is moves. -/
theorem step {s t : State} (e : step s = .next t) : UnitMoves s t := by
  unfold Machine.step at e
  split at e
  · injection e with e
    exact e ▸ .refl
  · exact behind (exec e) rfl

end UnitMoves

/-! ### What the moves keep -/

/-- The report unit after a move that is not its own. -/
theorem ReportsOk.of_same {s t : State} (h : ReportsOk s) (e : t.reports = s.reports) : ReportsOk t := by
  unfold ReportsOk
  rw [e]
  exact h

/-- The link queues after a move that is not their own. -/
theorem LinkOk.of_same {s t : State} (h : LinkOk s) (e : t.link = s.link) : LinkOk t := by
  unfold LinkOk
  rw [e]
  exact h

/-- The settings after a move that is not their own. -/
theorem SettingsOk.of_same {s t : State} (h : SettingsOk s) (e : t.req = s.req) : SettingsOk t := by
  unfold SettingsOk
  rw [e]
  exact h

theorem UnitMove.reportsOk {s t : State} (m : UnitMove s t) (h : ReportsOk s) : ReportsOk t := by
  cases m with
  | same e => exact h.of_same (congrArg Units.reports e)
  | works w => exact w.reportsOk h
  | settle => exact settle_reportsOk h
  | powerOn =>
    have range : ∀ v ∈ defaultLevels, v ≤ 7 := by decide
    exact ⟨rfl, range, Nat.zero_le _, fun r hr => (List.not_mem_nil hr).elim, Nat.zero_le _⟩
  | setSettings => exact h.of_same (by rw [superviseSettings_eq, setSup_reports, storeSettings_eq, setRecord_reports])
  | forward k f =>
    refine h.of_same ?_
    unfold Machine.forward
    split <;> split_ifs <;> rfl
  | setLevels _ levels hlen hle =>
    obtain ⟨-, -, hrest⟩ := h
    exact ⟨hlen, hle, hrest⟩
  | clearReports =>
    obtain ⟨hlen, hle, -⟩ := h
    exact ⟨hlen, hle, Nat.zero_le _, fun r hr => (List.not_mem_nil hr).elim, Nat.zero_le _⟩
  | moveTime | arm | rearm | halt | unlatch => exact h

/-- A frame joins the forward queue of the other port, or is dropped when it is full (R183). -/
theorem forward_linkOk (k : Byte) (f : RxFrame) {s : State} (h : LinkOk s) : LinkOk (forward k f s) := by
  obtain ⟨hA, hB, hown⟩ := id h
  unfold forward
  split
  · split_ifs with hroom
    · exact ⟨hA, by simpa using hroom, hown⟩
    · exact h
  · split_ifs with hroom
    · exact ⟨by simpa using hroom, hB, hown⟩
    · exact h

theorem UnitMove.linkOk {s t : State} (m : UnitMove s t) (h : LinkOk s) : LinkOk t := by
  cases m with
  | same e =>
    unfold LinkOk
    rw [show t.link.fwdA = s.link.fwdA from congrArg Units.fwdA e,
      show t.link.fwdB = s.link.fwdB from congrArg Units.fwdB e,
      show t.link.ownB = s.link.ownB from congrArg Units.ownB e,
      show t.link.waitB = s.link.waitB from congrArg Units.waitB e]
    exact h
  | works w => exact w.linkOk h
  | settle => exact settle_linkOk h
  | powerOn =>
    exact ⟨Nat.zero_le _, Nat.zero_le _, Nat.zero_le _, List.Pairwise.nil, fun hne => absurd rfl hne⟩
  | setSettings => exact h.of_same (by rw [superviseSettings_eq, setSup_link, storeSettings_eq, setRecord_link])
  | forward k f => exact forward_linkOk k f h
  | moveTime | arm | rearm | halt | unlatch | setLevels | clearReports => exact h

/-- The interval of 0, or 1000 to 600000, that a SET SETTINGS stores (R59). -/
theorem storeSettings_interval (f : RxFrame) (s : State) :
    (storeSettings f s).req.settings.supInterval = 0
      ∨ (1000 ≤ (storeSettings f s).req.settings.supInterval
        ∧ (storeSettings f s).req.settings.supInterval ≤ 600000) := by
  rw [← values_interval, storeSettings_value f s (by decide), storedSetting_interval]
  split_ifs <;> omega

/-- A record that keeps its rules keeps them with the timer of a taken SET SETTINGS, which an interval of 0 stops
(R170). -/
theorem superviseSettings_settingsOk {u : State}
    (range : ∀ i : Fin 21, i.val ≠ 7 →
      (settingRange.getD i (0, 0)).1 ≤ u.req.settings.values.getD i 0
        ∧ u.req.settings.values.getD i 0 ≤ (settingRange.getD i (0, 0)).2)
    (interval : u.req.settings.supInterval = 0
      ∨ (1000 ≤ u.req.settings.supInterval ∧ u.req.settings.supInterval ≤ 600000))
    (stop : u.req.latch = true → u.req.settings.supAction = .stop) (control : Nat) (src : Byte) :
    SettingsOk (superviseSettings control src u) := by
  rw [superviseSettings_eq]
  refine ⟨range, interval, stop, fun e he hzero => ?_⟩
  rw [setSup_req] at he hzero
  dsimp only at he hzero
  simp [hzero] at he

/-- A SET SETTINGS brings every setting into its range, whatever stood there (R59, R62). -/
theorem setSettings_settingsOk (control : Nat) (f : RxFrame) (s : State) :
    SettingsOk (superviseSettings control f.src (storeSettings f s)) := by
  refine superviseSettings_settingsOk (fun i h7 => ?_) (storeSettings_interval f s) (fun hlatch => ?_) control f.src
  · rw [storeSettings_value f s i.isLt]
    exact storedSetting_range _ i.isLt h7 _
  · exact ((storeSettings_latch f s).mp hlatch).elim storeSettings_stop id

theorem UnitMove.settingsOk {s t : State} (m : UnitMove s t) (h : SettingsOk s) : SettingsOk t := by
  obtain ⟨hrange, hinterval, hstop, hrunning⟩ := id h
  cases m with
  | same e =>
    unfold SettingsOk
    rw [show t.req.settings = s.req.settings from congrArg Units.settings e,
      show t.req.latch = s.req.latch from congrArg Units.latch e,
      show t.req.sup = s.req.sup from congrArg Units.sup e]
    exact h
  | works w => exact w.settingsOk h
  | settle => exact settle_settingsOk h
  | powerOn =>
    have range : ∀ i : Fin 21, i.val ≠ 7 →
        (settingRange.getD i (0, 0)).1 ≤ Settings.default.values.getD i 0
          ∧ Settings.default.values.getD i 0 ≤ (settingRange.getD i (0, 0)).2 := by decide
    exact ⟨range, .inl rfl, fun hl => (Bool.false_ne_true hl).elim, fun e he => by cases he⟩
  | moveTime => exact moveTime_settingsOk _ h
  | forward k f =>
    refine h.of_same ?_
    unfold Machine.forward
    split <;> split_ifs <;> rfl
  | arm =>
    refine ⟨hrange, hinterval, hstop, fun e he (hzero : s.req.settings.supInterval = 0) => ?_⟩
    rw [show (armSupervision s).req.sup = if s.req.settings.supInterval = 0 then .stopped
      else .running (after s.link.time s.req.settings.supInterval) from rfl, if_pos hzero] at he
    cases he
  | rearm _ hold _ => exact ⟨hrange, hinterval, hstop, fun _ _ => hrunning _ hold⟩
  | halt => exact ⟨hrange, hinterval, hstop, fun e he => by cases he⟩
  | setSettings => exact setSettings_settingsOk ..
  | unlatch => exact ⟨hrange, hinterval, fun hl => (Bool.false_ne_true hl).elim, hrunning⟩
  | setLevels | clearReports => exact h

/-- Settles O59: a step is moves of the units (`UnitMoves.step`), and each move keeps each of their rules. -/
theorem unitsAreKept : Obligations.UnitsAreKept :=
  ⟨fun _ _ h e => (UnitMoves.step e).keeps (fun _ _ m => m.reportsOk) h,
    fun _ _ h e => (UnitMoves.step e).keeps (fun _ _ m => m.linkOk) h,
    fun _ _ h e => (UnitMoves.step e).keeps (fun _ _ m => m.settingsOk) h⟩

end Sys2Proof.Machine
end

section
/-!
PROOFS. The request checks in their order (R152), and the field checks by their conditions (R48, R54, R57, R66, R67,
R158, R168, R169).
-/

namespace Sys2Proof.Machine

/-! ### The first failing field -/

theorem firstBad_cons (i : Nat) (ok : Bool) (rest : List (Nat × Bool)) :
    firstBad ((i, ok) :: rest) = if ok = false then some i else firstBad rest := by
  cases ok <;> rfl

theorem firstBad_eq_find? (l : List (Nat × Bool)) : firstBad l = (l.find? fun x => !x.2).map (·.1) := by
  induction l with
  | nil => rfl
  | cons x l ih =>
    obtain ⟨i, ok⟩ := x
    cases ok
    · rfl
    · exact ih

section FieldChecks

variable (p : List Byte)

theorem badStation_eq : badStation p = if u8At p 0 ≤ 7 then none else some 1 := by
  simp [badStation, firstBad]

theorem badLane_eq : badLane p = if u8At p 0 ≤ 3 then none else some 1 := by
  simp [badLane, firstBad]

theorem badGate_eq : badGate p = if u8At p 0 ≤ 1 then none else some 1 := by
  simp [badGate, firstBad]

theorem badPlanId_eq : badPlanId p = if u16At p 0 = 0 then some 1 else none := by
  simp [badPlanId, firstBad]

theorem badArticleCode_eq : badArticleCode p = if u32At p 0 = 0 then some 1 else none := by
  simp [badArticleCode, firstBad]

theorem badSetStation_eq : badSetStation p =
    (if 7 < u8At p 0 then some 1 else if 1 < u8At p 1 then some 2 else if 3 < u8At p 2 then some 3 else none) := by
  simp only [badSetStation, firstBad_cons, decide_eq_false_iff_not, not_le]
  rfl

theorem badAcknowledge_eq : badAcknowledge p =
    (if 7 < u8At p 0 then some 1 else if 1 < u8At p 1 then some 2 else if 2 < u8At p 2 then some 3 else none) := by
  simp only [badAcknowledge, firstBad_cons, decide_eq_false_iff_not, not_le]
  rfl

theorem badProbe_eq : badProbe p =
    (if u32At p 0 = 0 then some 1 else if 15 < u8At p 6 then some 3 else if u8At p 7 = 0 then some 4 else none) := by
  simp only [badProbe, firstBad_cons, decide_eq_false_iff_not, not_le, bne_eq_false_iff_eq]
  rfl

theorem badArticle_eq : badArticle p =
    (if u32At p 0 = 0 then some 1 else if u16At p 4 = 0 ∨ 2000 < u16At p 4 then some 2
     else if u16At p 6 = 0 ∨ 2000 < u16At p 6 then some 3 else if u16At p 8 = 0 ∨ 2000 < u16At p 8 then some 4
     else if u16At p 10 = 0 then some 5 else if 50 < u8At p 12 then some 6 else if 7 < u8At p 15 then some 8
     else if 256 < u16At p 16 then some 9 else if 7 < u8At p 18 then some 10 else none) := by
  simp only [badArticle, firstBad_cons, decide_eq_false_iff_not, not_and_or, not_le, Nat.lt_one_iff,
    bne_eq_false_iff_eq]
  rfl

/-- The fields 3 to 10 of an absent entry are not checked (R54). -/
theorem badBase_eq : badBase p =
    (if 3 < u8At p 0 then some 1 else if 1 < u8At p 1 then some 2 else if u8At p 1 = 0 then none
     else if u8At p 2 < 4 ∨ 24 < u8At p 2 then some 3 else if u8At p 3 < 4 ∨ 20 < u8At p 3 then some 4
     else if u16At p 4 < 200 ∨ 2600 < u16At p 4 then some 5 else if u16At p 4 < u16At p 6 then some 6
     else if u32At p 8 = 0 ∨ 6291360 < u32At p 8 then some 7 else if 48 < u8At p 12 then some 8
     else if 48 < u8At p 13 then some 9 else if 6291360 < u32At p 14 then some 10 else none) := by
  by_cases absent : u8At p 1 = 0
  · simp only [badBase, absent, beq_self_eq_true, if_true, firstBad_cons, decide_eq_false_iff_not, not_le]
    rfl
  · have present : (u8At p 1 == 0) = false := beq_false_of_ne absent
    simp only [badBase, present, Bool.false_eq_true, if_false, absent, List.cons_append, List.nil_append, firstBad_cons,
      decide_eq_false_iff_not, not_and_or, not_le, Nat.lt_one_iff]
    rfl

theorem badKinds_eq_find? :
    badKinds p = ((List.range 64).find? fun i => decide (1 < u8At p i)).map (· + 1) := by
  have failing : ((fun x : Nat × Bool => !x.2) ∘ fun i => (i + 1, decide (u8At p i ≤ 1)))
      = fun i => decide (1 < u8At p i) := by
    funext i
    simp only [Function.comp, ← decide_not, not_le]
  rw [badKinds, firstBad_eq_find?, List.find?_map, failing, Option.map_map]
  rfl

theorem badKinds_eq_none : badKinds p = none ↔ ∀ i, i < 64 → u8At p i ≤ 1 := by
  rw [badKinds_eq_find?, Option.map_eq_none_iff, List.find?_eq_none]
  simp

theorem badKinds_eq_some {i : Nat} (hi : i < 64) (hbad : 1 < u8At p i) (hfirst : ∀ j, j < i → u8At p j ≤ 1) :
    badKinds p = some (i + 1) := by
  have first : (List.range 64).find? (fun i => decide (1 < u8At p i)) = some i :=
    List.find?_range_eq_some.mpr ⟨by simpa using hbad, by simpa using hi, by simpa using hfirst⟩
  rw [badKinds_eq_find?, first]
  rfl

end FieldChecks

/-! ### The header of ADMIT PLAN (R66) -/

theorem badHeader_eq (s : State) (p : List Byte) : s.badHeader p =
    (if (BitVec.ofNat 16 (u16At p 0) : PlanId) = 0 ∨ s.plan (BitVec.ofNat 16 (u16At p 0)) ≠ none
          ∨ ∃ i : StationNo, s.builds[i].planId = some (BitVec.ofNat 16 (u16At p 0)) then some 1
     else if 3 < u8At p 4 then some 3
     else if u8At p 5 = 0 ∨ 48 < u8At p 5 then some 4
     else none) := by
  have free : (s.builds.toList.all fun b => b.planId != some (BitVec.ofNat 16 (u16At p 0))) = false
      ↔ ∃ i : StationNo, s.builds[i].planId = some (BitVec.ofNat 16 (u16At p 0)) := by
    simp [Fin.exists_iff]
  simp only [State.badHeader, firstBad_cons, decide_eq_false_iff_not, not_and_or, not_le, Nat.lt_one_iff,
    Bool.and_eq_false_iff, bne_eq_false_iff_eq, free, or_assoc, Option.isNone_eq_false_iff, Option.isSome_iff_ne_none]
  rfl

/-! ### A plan line record (R67) -/

theorem nodup_eraseDups {α : Type} [BEq α] [LawfulBEq α] (l : List α) : l.eraseDups.Nodup := by
  induction h : l.length using Nat.strongRecOn generalizing l with
  | ind n ih =>
    cases l with
    | nil => simp
    | cons a l =>
      rw [List.eraseDups_cons]
      have shorter : (l.filter fun b => !b == a).length < n := by
        rw [← h]
        exact Nat.lt_succ_of_le (List.length_filter_le ..)
      exact List.nodup_cons.mpr ⟨by simp [List.mem_eraseDups], ih _ shorter _ rfl⟩

/-- The number of distinct drops. -/
theorem length_dropsOf (ls : List LineRec) : (dropsOf ls).length = (ls.map (·.drop)).toFinset.card := by
  have same : (dropsOf ls).toFinset = (ls.map (·.drop)).toFinset := by
    ext d
    simp only [List.mem_toFinset]
    exact List.mem_eraseDups
  rw [← same]
  exact (List.toFinset_card_of_nodup (nodup_eraseDups _)).symm

theorem badLine_eq (ls : List LineRec) (p : List Byte) : badLine ls p =
    (if u8At p 0 = 0 ∨ 15 < u8At p 0
          ∨ u8At p 0 ∉ ls.map (·.drop) ∧ 8 ≤ (ls.map (·.drop)).toFinset.card then some 1
     else if (BitVec.ofNat 32 (u32At p 1) : ArticleCode) = 0
          ∨ ∃ l ∈ ls, l.drop = u8At p 0 ∧ l.code = BitVec.ofNat 32 (u32At p 1) then some 2
     else if u8At p 5 = 0 then some 3
     else none) := by
  have known : (dropsOf ls).contains (u8At p 0) = false ↔ u8At p 0 ∉ ls.map (·.drop) := by
    rw [← Bool.not_eq_true, List.contains_iff_mem]
    exact not_congr List.mem_eraseDups
  have again : (!(ls.any fun l => l.drop == u8At p 0 && l.code == BitVec.ofNat 32 (u32At p 1))) = false
      ↔ ∃ l ∈ ls, l.drop = u8At p 0 ∧ l.code = BitVec.ofNat 32 (u32At p 1) := by
    simp
  simp only [badLine, firstBad_cons, Bool.and_eq_false_iff, Bool.or_eq_false_iff, decide_eq_false_iff_not, not_and_or,
    not_le, not_lt, Nat.lt_one_iff, bne_eq_false_iff_eq, known, again, length_dropsOf, or_assoc]
  rfl

/-! ### The result fields of a refused request (R153, R165) -/

theorem refusedFields_other {k : Byte} (h14 : k ≠ 0x14) (h19 : k ≠ 0x19) (p : List Byte) :
    refusedFields k p = .empty := by
  rw [refusedFields, if_neg h14, if_neg h19]

theorem refusedFields_articles {p : List Byte} (h : p.length = 1) :
    refusedFields 0x14 p = .remaining (countOf (u8At p 0)) := by
  rw [refusedFields, if_pos rfl, if_pos h]

theorem refusedFields_plan {p : List Byte} (h : p.length = 6) :
    refusedFields 0x19 p = .remaining (countOf (u8At p 5)) := by
  rw [refusedFields, if_neg (by decide), if_pos rfl, if_pos h]

/-- The remaining count of a refused load is one of 0 to 256, whether its payload carries it or not (log 5). -/
theorem refusedFields_load {k : Byte} (h : k = 0x14 ∨ k = 0x19) (p : List Byte) :
    ∃ n, n ≤ 256 ∧ refusedFields k p = .remaining n := by
  have carried : ∀ i, countOf (u8At p i) ≤ 256 := fun i => by
    have : u8At p i < 256 := (p.getD i 0).isLt
    unfold countOf
    split_ifs <;> omega
  have free : (Config.refusedLoadCount p).val ≤ 256 := Nat.le_of_lt_succ (Config.refusedLoadCount p).isLt
  rcases h with rfl | rfl
  · rw [refusedFields, if_pos rfl]
    exact ⟨_, by split_ifs <;> simp [carried, free], rfl⟩
  · rw [refusedFields, if_neg (by decide), if_pos rfl]
    exact ⟨_, by split_ifs <;> simp [carried, free], rfl⟩

/-! ### Refusals (R152) -/

/-- Feeding the supervision timer and placing a RESPONSE do not meet. -/
theorem supervise_placeResponse (src : Byte) (fr : OwnFrame) (s : State) :
    supervise src (placeResponse fr s) = placeResponse fr (supervise src s) := by
  have fed : fedTimer src (placeResponse fr s) = fedTimer src s := by
    unfold placeResponse
    split_ifs <;> rfl
  rw [supervise_eq, supervise_eq, fed]
  unfold placeResponse
  rw [setSup_link, setSup_req]
  split_ifs <;> rfl

theorem supervise_answer (src : Byte) (f : RxFrame) (r : Response) (s : State) :
    supervise src (answer f r s) = answer f r (supervise src s) := by
  unfold answer
  split_ifs
  · rfl
  · rw [supervise_placeResponse, supervise_eq src s]
    rfl

section Refused

variable {k : Byte} {f : RxFrame} {s : State} {r : Reason} {i : Nat}

/-- A request refused, the supervision timer fed. -/
theorem answered_refused (h : Directed k f s) (hroom : s.placesFull = false) (r : Reason) (i : Nat) :
    AnsweredRefused k f r i s (settle (refuse k r i f (s.setSup (fedTimer f.src s))))
      ∧ KeepsAllBut [.portA, .sup] s (settle (refuse k r i f (s.setSup (fedTimer f.src s)))) := by
  have fed := setSup_keeps s (fedTimer f.src s)
  obtain ⟨hput, hkeeps⟩ := answered f
    { kind := k, completion := .refused, reason := r, field := i, result := refusedFields k f.payload }
    h.served' h.single (fed.2.2 .portA (by simp)) (fed.2.2 .portB (by simp)) (fed.2.2 .ownNode (by simp)) hroom
    (fun hidle => h.served'.no_reply hidle)
  exact ⟨⟨hput, hkeeps.2.2 .sup (by simp)⟩, (fed.mono (by simp)).trans (hkeeps.mono (by simp))⟩

theorem takeRequest_refused {n : Nat} {bad : List Byte → Option Nat} {act : RxFrame → State → State}
    (hroom : s.placesFull = false) (hf : requestFails k n bad f s = some (r, i)) :
    takeRequest k n bad act f s = refuse k r i f s := by
  simp [takeRequest, hroom, hf]

theorem request_refused {n : Nat} {bad : List Byte → Option Nat} {act : RxFrame → State → State}
    (h : Directed k f s) (hroom : s.placesFull = false) (hf : requestFails k n bad f s = some (r, i)) :
    request k n bad act f s = refuse k r i f (s.setSup (fedTimer f.src s)) := by
  unfold request
  rw [supervise_eq, h.single]
  exact takeRequest_refused hroom hf

theorem handleSetTime_refused (hroom : s.placesFull = false)
    (hf : requestFails 0x12 4 noFields f s = some (r, i)) :
    handleSetTime f s = refuse 0x12 r i f (s.setSup (fedTimer f.src s)) := by
  unfold handleSetTime
  rw [takeRequest_refused hroom hf, ← supervise_eq]
  exact supervise_answer ..

theorem handleSetSettings_refused (h : Directed 0x13 f s) (hroom : s.placesFull = false)
    (hf : requestFails 0x13 84 noFields f s = some (r, i)) :
    handleSetSettings f s = refuse 0x13 r i f (s.setSup (fedTimer f.src s)) := by
  unfold handleSetSettings
  rw [hf, Option.isNone_some, Bool.and_false]
  exact request_refused h hroom hf

/-- A request that fails one of checks 2 to 4 is refused (R152). -/
theorem exec_refused {c : Instr} {row : RequestRow} (hrow : requestRow s c = some row)
    (h : Directed row.kind row.frame s) (hroom : s.placesFull = false)
    (hf : requestFails row.kind row.bytes row.check row.frame s = some (r, i)) :
    ∃ t, exec c s = .next t ∧ AnsweredRefused row.kind row.frame r i s t ∧ KeepsAllBut [.portA, .sup] s t := by
  refine ⟨_, ?_, answered_refused h hroom r i⟩
  have carried : ∀ {act : State → State},
      act s = refuse row.kind r i row.frame (s.setSup (fedTimer row.frame.src s)) →
      live (receive row.kind row.frame act) s
        = .next (settle (refuse row.kind r i row.frame (s.setSup (fedTimer row.frame.src s)))) := fun e => by
    rw [live_directed h, e]
  cases c with
  | setTime f => cases hrow; exact carried (handleSetTime_refused hroom hf)
  | setSettings f => cases hrow; exact carried (handleSetSettings_refused h hroom hf)
  | _ => cases hrow <;> exact carried (request_refused h hroom hf)

/-- A frame of a reserved kind is met by check 1 alone (R152, R184). -/
theorem consume_reserved (h : isReservedKind k = true) (f : RxFrame) : consumeByKind k f = handleReserved k f := by
  have range : (0x25 ≤ k.toNat ∧ k.toNat ≤ 0x27) ∨ (0x29 ≤ k.toNat ∧ k.toNat ≤ 0x2F) := by
    simpa [isReservedKind] using h
  unfold consumeByKind
  split
  case h_31 => exact if_pos h
  all_goals omega

/-- A reserved kind is refused, in READY and in EXECUTING (R152, check 1). -/
theorem reserved_refused (hk : isReservedKind k = true) (h : Directed k f s) (hroom : s.placesFull = false) :
    ∃ t, exec (.unknownKind k f) s = .next t ∧ AnsweredRefused k f .unknownKind 0 s t
      ∧ KeepsAllBut [.portA, .sup] s t := by
  refine ⟨_, ?_, answered_refused h hroom .unknownKind 0⟩
  have room : (s.setSup (fedTimer f.src s)).placesFull = false := hroom
  have handled : handleReserved k f s = refuse k .unknownKind 0 f (s.setSup (fedTimer f.src s)) := by
    unfold handleReserved
    simp only [supervise_eq, h.single, room, Bool.or_self, Bool.false_eq_true, if_false]
  rw [← handled, ← consume_reserved hk]
  exact live_directed h _

/-! ### Checks 2 to 4 (R152) -/

variable {n : Nat} {bad : List Byte → Option Nat}

theorem requestFails_busy (hexec : s.req.exec.isSome = true) (hk : k ≠ 0x11) :
    requestFails k n bad f s = some (.busy, 0) :=
  if_pos (Bool.and_eq_true_iff.mpr ⟨hexec, bne_iff_ne.mpr hk⟩)

/-- READ STATE is taken in EXECUTING too. -/
theorem requestFails_free (h : s.req.exec = none ∨ k = 0x11) :
    requestFails k n bad f s
      = if f.payload.length ≠ n then some (.badLength, 0) else (bad f.payload).map fun i => (.badField, i) := by
  rcases h with h | h <;> simp [requestFails, h]

end Refused

/-- Settles O17: a failing check refuses by `exec_refused`, and each field check is the conditions of its fields, the
lowest index first, by `firstBad_cons`. -/
theorem firstFailingCheckRefuses : Obligations.FirstFailingCheckRefuses := by
  refine ⟨fun k f s hk h hroom => reserved_refused hk h hroom, fun c row s hrow h hroom => ⟨fun hexec hk => ?_,
    fun hfree hlen => ?_, fun i hfree hlen hbad => ?_⟩, badHeader_eq, badLine_eq,
    fun p => ⟨badKinds_eq_none p, fun i hi hbad hfirst => badKinds_eq_some p hi hbad hfirst⟩,
    fun k p => ⟨fun h14 h19 => refusedFields_other h14 h19 p, refusedFields_articles, refusedFields_plan,
      fun h => refusedFields_load h p⟩,
    fun p => ⟨badBase_eq p, badArticle_eq p, badStation_eq p, badLane_eq p, badGate_eq p, badPlanId_eq p,
      badArticleCode_eq p, badSetStation_eq p, badAcknowledge_eq p, badProbe_eq p⟩⟩
  · exact exec_refused hrow h hroom (requestFails_busy hexec hk)
  · exact exec_refused hrow h hroom (by rw [requestFails_free hfree, if_pos hlen])
  · exact exec_refused hrow h hroom (by rw [requestFails_free hfree, if_neg (not_not.mpr hlen), hbad]; rfl)

end Sys2Proof.Machine
end

section
/-!
PROOFS. SET SETTINGS, DELETE ARTICLE, LOAD KINDS, LOAD LEVELS and LOAD BASE (R50, R54, R55, R57, R59, R62, R170, R178).
-/

namespace Sys2Proof.Machine

/-! ### One part replaced -/

theorem withArticles_keeps (s : State) (l : List Article) :
    KeepsAllBut [.articles] s { s with tables := { s.tables with articles := l } } := by
  refine ⟨rfl, rfl, fun p hp => ?_⟩
  cases p <;> simp_all [Part.Same]

theorem withBases_keeps (s : State) (v : Vector (Option BaseEntry) 4) :
    KeepsAllBut [.bases] s { s with tables := { s.tables with bases := v } } := by
  refine ⟨rfl, rfl, fun p hp => ?_⟩
  cases p <;> simp_all [Part.Same]

theorem withKinds_keeps (s : State) (l : List Bool) :
    KeepsAllBut [.kinds] s { s with tables := { s.tables with kinds := l } } := by
  refine ⟨rfl, rfl, fun p hp => ?_⟩
  cases p <;> simp_all [Part.Same]

theorem withLevels_keeps (s : State) (l : List Nat) :
    KeepsAllBut [.levels] s { s with reports := { s.reports with levels := l } } := by
  refine ⟨rfl, rfl, fun p hp => ?_⟩
  cases p <;> simp_all [Part.Same]

/-! ### Requests that complete at once -/

section Completes

variable {k : Byte} {n : Nat} {bad : List Byte → Option Nat} {act : RxFrame → State → State} {f : RxFrame}
  {s : State}

/-- A taken request that its act answers DONE from a state `u`. -/
theorem request_done (h : TakenAt k n f s) (hb : bad f.payload = none) {u : State} {ps : List Part}
    {result : ResultFields} (hact : act f (s.setSup (fedTimer f.src s)) = answerDone k f result u)
    (hk : KeepsAllBut ps (s.setSup (fedTimer f.src s)) u)
    (hps : Part.portA ∉ ps ∧ Part.portB ∉ ps ∧ Part.exec ∉ ps ∧ Part.ownNode ∉ ps ∧ Part.sup ∉ ps) :
    ∃ t, live (receive k f (request k n bad act f)) s = .next t ∧ AnsweredDone k f result s t
      ∧ KeepsAllBut (.portA :: .sup :: ps) s t ∧ KeepsAllBut [.portA] u t := by
  obtain ⟨hA, hB, hexec, hnode, hsup⟩ := hps
  have changed : KeepsAllBut (.sup :: ps) s u :=
    ((setSup_keeps ..).mono (by simp)).trans (hk.mono (by simp +contextual))
  obtain ⟨t, ht, hput, hkeeps, hafter⟩ := request_answered h hb hact changed (by simp [hA, hB, hexec, hnode])
  have fed : Part.Same (s.setSup (fedTimer f.src s)) t .sup := (hk.2.2 .sup hsup).trans (hafter.2.2 .sup (by simp))
  exact ⟨t, ht, ⟨hput, fed⟩, hkeeps, hafter⟩

/-- A taken request that its act refuses. -/
theorem request_declined (h : TakenAt k n f s) (hb : bad f.payload = none) {r : Reason} {i : Nat}
    (hact : act f (s.setSup (fedTimer f.src s)) = refuse k r i f (s.setSup (fedTimer f.src s))) :
    ∃ t, live (receive k f (request k n bad act f)) s = .next t ∧ AnsweredRefused k f r i s t
      ∧ KeepsAllBut [.portA, .sup] s t := by
  obtain ⟨t, ht, hput, hkeeps, hafter⟩ := request_answered h hb hact (setSup_keeps ..) (by simp)
  exact ⟨t, ht, ⟨hput, hafter.2.2 .sup (by simp)⟩, hkeeps⟩

end Completes

/-! ### SET SETTINGS (R59, R62, R170) -/

/-- The clamp mask marks each value stored that differs from the value carried (R59). -/
theorem clampMask_eq (f : RxFrame) (s : State) :
    clampMask (carriedSettings f.payload) (storedSettings s.req.latch (carriedSettings f.payload))
      = (List.range 21).map fun i =>
          u32At f.payload (4 * i) != (storeSettings f s).req.settings.values.getD i 0 := by
  rw [storeSettings_values]
  refine List.ext_getElem (by simp [clampMask, carriedSettings, storedSettings]) fun i hi _ => ?_
  have hi' : i < 21 := by simpa [clampMask, carriedSettings, storedSettings] using hi
  simp [clampMask, carriedSettings, storedSettings, hi']

/-- The supervision timer that a taken SET SETTINGS of the record `st` leaves (R170, rows 2 and 3). -/
def settingsTimer (src : Byte) (s : State) (st : Settings) : SupTimer :=
  if src.toNat = s.req.settings.controlNode then
    if st.supInterval = 0 then .stopped else .running (after s.link.time st.supInterval)
  else if st.supInterval = 0 then .stopped else s.req.sup

theorem superviseSettings_stored (f : RxFrame) (s : State) :
    superviseSettings s.req.settings.controlNode f.src (storeSettings f s)
      = (storeSettings f s).setSup (settingsTimer f.src s (storeSettings f s).req.settings) := by
  have time : (storeSettings f s).link.time = s.link.time := by rw [storeSettings_eq, setRecord_link]
  have sup : (storeSettings f s).req.sup = s.req.sup := by rw [storeSettings_eq, setRecord_req]
  rw [superviseSettings_eq, time, sup]
  rfl

/-- A taken SET SETTINGS: stored, the timer moved, answered with mask and record. -/
theorem setSettings_eq (f : RxFrame) (s : State) :
    setSettings f s = answerDone 0x13 f
      (.settings
        ((List.range 21).map fun i => u32At f.payload (4 * i) != (storeSettings f s).req.settings.values.getD i 0)
        (storeSettings f s).req.settings)
      ((storeSettings f s).setSup (settingsTimer f.src s (storeSettings f s).req.settings)) := by
  rw [setSettings, superviseSettings_stored, clampMask_eq f s, setSup_req]

/-- A SET SETTINGS that passes its checks is taken. -/
theorem handleSetSettings_taken {f : RxFrame} {s : State} (h : TakenAt 0x13 84 f s) :
    handleSetSettings f s = setSettings f s := by
  have passes : requestFails 0x13 84 noFields f s = none := by simp [requestFails, h.ready, h.size, noFields]
  unfold handleSetSettings
  rw [h.single, h.room, passes]
  exact if_pos rfl

/-- A record stored in `u` and answered, the supervision timer moved: the RESPONSE goes out of port A, and the record
and the latch stay as stored. -/
theorem settings_answered {f : RxFrame} {s u t : State} {mask : List Bool} (h : TakenAt 0x13 84 f s)
    (stored : KeepsAllBut [.settings, .latch] s u)
    (ht : t = settle (answerDone 0x13 f (.settings mask u.req.settings)
      (u.setSup (settingsTimer f.src s u.req.settings)))) :
    KeepsAllBut [.portA, .settings, .latch, .sup] s t ∧ t.req.settings = u.req.settings ∧ t.req.latch = u.req.latch
      ∧ t.req.sup = settingsTimer f.src s u.req.settings
      ∧ PutOnA (responseFrame s f
          { kind := 0x13, completion := .done, reason := .none, field := 0, result := .settings mask u.req.settings })
          s t := by
  have changed : KeepsAllBut [.settings, .latch, .sup] s (u.setSup (settingsTimer f.src s u.req.settings)) :=
    (stored.mono (by simp)).trans ((setSup_keeps ..).mono (by simp))
  obtain ⟨hput, hkeeps⟩ := answered f
    { kind := 0x13, completion := .done, reason := .none, field := 0, result := .settings mask u.req.settings }
    h.served' h.single (changed.2.2 .portA (by simp)) (changed.2.2 .portB (by simp)) (changed.2.2 .ownNode (by simp))
    h.room (fun hidle => (changed.2.2 .exec (by simp)).1 ▸ h.served'.no_reply hidle)
  subst ht
  exact ⟨(changed.mono (by simp)).trans (hkeeps.mono (by simp)), hkeeps.2.2 .settings (by simp),
    hkeeps.2.2 .latch (by simp), hkeeps.2.2 .sup (by simp), hput⟩

/-- Settles O26: the values stored are those of `storeSettings_value`, and the RESPONSE goes by `settings_answered`. -/
theorem setSettingsCompletes : Obligations.SetSettingsCompletes := by
  intro f s h
  have stored : KeepsAllBut [.settings, .latch] s (storeSettings f s) := by
    rw [storeSettings_eq]
    exact setRecord_keeps ..
  refine ⟨settle (handleSetSettings f s), live_directed h.toDirected _, ?_⟩
  obtain ⟨hkeeps, hsettings, hlatch, hsup, hput⟩ := settings_answered h stored
    (congrArg settle ((handleSetSettings_taken h).trans (setSettings_eq f s)))
  rw [hsettings, hlatch, hsup]
  exact ⟨hkeeps, fun i => (storeSettings_value f s i.isLt).trans (storedSetting_eq _ i.isLt _),
    storeSettings_latch f s, rfl, hput⟩

/-! ### DELETE ARTICLE (R50) -/

theorem deleteArticle_held {f : RxFrame} {s : State}
    (h : ∃ a ∈ s.tables.articles, a.code = BitVec.ofNat 32 (u32At f.payload 0)) :
    deleteArticle f s = answerDone 0x15 f
      (.entryCount (s.tables.articles.filter fun a => a.code != BitVec.ofNat 32 (u32At f.payload 0)).length)
      { s with tables := { s.tables with
        articles := s.tables.articles.filter fun a => a.code != BitVec.ofNat 32 (u32At f.payload 0) } } := by
  unfold deleteArticle
  exact if_pos (by simpa using h)

theorem deleteArticle_notHeld {f : RxFrame} {s : State}
    (h : ¬ ∃ a ∈ s.tables.articles, a.code = BitVec.ofNat 32 (u32At f.payload 0)) :
    deleteArticle f s = refuse 0x15 .notFound 0 f s := by
  unfold deleteArticle
  exact if_neg (by simpa using h)

theorem deleteArticle_completes {f : RxFrame} {s : State} (h : TakenAt 0x15 4 f s) (hcode : u32At f.payload 0 ≠ 0) :
    ∃ t, exec (.deleteArticle f) s = .next t
      ∧ t.tables.articles = s.tables.articles.filter (fun a => a.code != BitVec.ofNat 32 (u32At f.payload 0))
      ∧ KeepsAllBut [.portA, .sup, .articles] s t
      ∧ if (∃ a ∈ s.tables.articles, a.code = BitVec.ofNat 32 (u32At f.payload 0)) then
          AnsweredDone 0x15 f (.entryCount t.tables.articles.length) s t
        else AnsweredRefused 0x15 f .notFound 0 s t := by
  have hb : badArticleCode f.payload = none := by rw [badArticleCode_eq, if_neg hcode]
  by_cases held : ∃ a ∈ s.tables.articles, a.code = BitVec.ofNat 32 (u32At f.payload 0)
  · obtain ⟨t, ht, hdone, hkeeps, hafter⟩ := request_done h hb
      (deleteArticle_held (s := s.setSup (fedTimer f.src s)) held) (withArticles_keeps ..) (by simp)
    have kept : t.tables.articles = _ := hafter.2.2 .articles (by simp)
    refine ⟨t, ht, kept, hkeeps, ?_⟩
    rw [if_pos held, kept]
    exact hdone
  · obtain ⟨t, ht, hrefused, hkeeps⟩ := request_declined h hb
      (deleteArticle_notHeld (s := s.setSup (fedTimer f.src s)) held)
    have same : t.tables.articles = s.tables.articles := hkeeps.2.2 .articles (by simp)
    have nothing : s.tables.articles.filter (fun a => a.code != BitVec.ofNat 32 (u32At f.payload 0))
        = s.tables.articles := List.filter_eq_self.mpr fun a ha => bne_iff_ne.mpr fun e => held ⟨a, ha, e⟩
    refine ⟨t, ht, by rw [same, nothing], hkeeps.mono (by simp), ?_⟩
    rw [if_neg held]
    exact hrefused

/-! ### LOAD KINDS and LOAD LEVELS (R57, R178) -/

theorem loadKinds_completes {f : RxFrame} {s : State} (h : TakenAt 0x17 64 f s) (hb : badKinds f.payload = none) :
    ∃ t, exec (.loadKinds f) s = .next t ∧ AnsweredDone 0x17 f .empty s t ∧ KeepsAllBut [.portA, .sup, .kinds] s t
      ∧ ∀ i j : PackKind, t.tables.mayRest i j = (u8At f.payload (8 * i.val + j.val) == 1) := by
  obtain ⟨t, ht, hdone, hkeeps, hafter⟩ := request_done h hb (act := loadKinds) rfl (withKinds_keeps ..) (by simp)
  refine ⟨t, ht, hdone, hkeeps, fun i j => ?_⟩
  have kinds : t.tables.kinds = (List.range 64).map fun i => u8At f.payload i == 1 := hafter.2.2 .kinds (by simp)
  have inside : 8 * i.val + j.val < 64 := by omega
  simp [Tables.mayRest, kinds, inside]

/-- A level differs from the level stored when it is above 7 (R178). -/
theorem clampMask_levels (l : List Nat) : clampMask l (l.map (min 7)) = l.map fun v => decide (7 < v) := by
  have differs : ∀ v : Nat, (v != min 7 v) = decide (7 < v) := fun v => by
    rw [Bool.eq_iff_iff, bne_iff_ne, decide_eq_true_iff]
    omega
  induction l with
  | nil => rfl
  | cons v l ih => exact congrArg₂ List.cons (differs v) ih

theorem loadLevels_completes {f : RxFrame} {s : State} (h : TakenAt 0x18 15 f s) :
    ∃ t, exec (.loadLevels f) s = .next t ∧ t.reports.levels = (carriedLevels f.payload).map (min 7)
      ∧ AnsweredDone 0x18 f
          (.levels ((carriedLevels f.payload).map fun v => decide (7 < v)) ((carriedLevels f.payload).map (min 7))) s t
      ∧ KeepsAllBut [.portA, .sup, .levels] s t := by
  obtain ⟨t, ht, hdone, hkeeps, hafter⟩ :=
    request_done h (bad := noFields) rfl (act := loadLevels) rfl (withLevels_keeps ..) (by simp)
  rw [clampMask_levels] at hdone
  exact ⟨t, ht, hafter.2.2 .levels (by simp), hdone, hkeeps⟩

/-- Settles O27: one request each. -/
theorem tableRequestsComplete : Obligations.TableRequestsComplete :=
  ⟨fun _ _ h hcode => deleteArticle_completes h hcode, fun _ _ h hb => loadKinds_completes h hb,
    fun _ _ h => loadLevels_completes h⟩

/-! ### LOAD BASE (R55) -/

/-- A station of the kind stands in the way of the entry's change (R55). -/
def BaseBlocked (s : State) (kind : BaseKind) (present : Bool) : Prop :=
  ∃ i : StationNo, s.stations[i].baseKind = kind ∧
    if present = true then
      s.stations[i].state = .building ∨ s.stations[i].state = .closing ∨ s.stations[i].state = .fault
    else s.stations[i].state ≠ .offline

theorem blocksBase_iff (present : Bool) (st : StationState) : blocksBase present st = true ↔
    if present = true then st = .building ∨ st = .closing ∨ st = .fault else st ≠ .offline := by
  cases present <;> simp [blocksBase, or_assoc]

theorem baseBlocked_iff (s : State) (kind : BaseKind) (present : Bool) :
    (s.stations.toList.any fun st => st.baseKind == kind && blocksBase present st.state) = true
      ↔ BaseBlocked s kind present := by
  rw [Vector.any_toList, Vector.any_eq_true]
  simp [BaseBlocked, blocksBase_iff, Fin.exists_iff]

theorem loadBase_blocked {f : RxFrame} {s : State}
    (h : BaseBlocked s (Fin.ofNat 4 (u8At f.payload 0)) (u8At f.payload 1 == 1)) :
    loadBase f s = refuse 0x16 .wrongState 0 f s := by
  unfold loadBase
  exact if_pos ((baseBlocked_iff ..).mpr h)

theorem loadBase_free {f : RxFrame} {s : State}
    (h : ¬ BaseBlocked s (Fin.ofNat 4 (u8At f.payload 0)) (u8At f.payload 1 == 1)) :
    loadBase f s = answerDone 0x16 f .empty
      { s with tables := { s.tables with
        bases := s.tables.bases.set (Fin.ofNat 4 (u8At f.payload 0))
          (if u8At f.payload 1 == 1 then some (baseOf f.payload) else none) } } := by
  unfold loadBase
  exact if_neg (mt (baseBlocked_iff ..).mp h)

/-- Settles O28: `loadBase_blocked` and `loadBase_free`. -/
theorem loadBaseCompletes : Obligations.LoadBaseCompletes := by
  intro f s h hb kind present blocked
  have blocked_iff : BaseBlocked s kind (u8At f.payload 1 == 1) ↔ blocked := by
    simp only [BaseBlocked, beq_iff_eq]
    rfl
  refine ⟨fun hblocked => ?_, fun hfree => ?_⟩
  · exact request_declined h hb (loadBase_blocked (s := s.setSup (fedTimer f.src s)) (blocked_iff.mpr hblocked))
  · obtain ⟨t, ht, hdone, hkeeps, hafter⟩ := request_done h hb
      (loadBase_free (s := s.setSup (fedTimer f.src s)) (mt blocked_iff.mp hfree)) (withBases_keeps ..) (by simp)
    have bases : t.tables.bases = s.tables.bases.set kind
        (if u8At f.payload 1 == 1 then some (baseOf f.payload) else none) := hafter.2.2 .bases (by simp)
    have entry : t.tables.bases[kind] = if u8At f.payload 1 == 1 then some (baseOf f.payload) else none := by
      simp only [bases, Fin.getElem_fin, Vector.getElem_set_self]
    refine ⟨t, ht, hdone, hkeeps, fun k hk => ?_, fun habsent => ?_, fun hpresent => ?_⟩
    · have other : kind.val ≠ k.val := fun e => hk (Fin.ext e.symm)
      simp only [bases, Fin.getElem_fin, Vector.getElem_set_ne _ _ other]
    · rw [entry, if_neg (by simpa using habsent)]
    · rw [entry, if_pos (by simpa using hpresent)]
      rfl

end Sys2Proof.Machine
end

section
/-!
PROOFS. DATA in an open LOAD ARTICLES (R49, R156, R163 to R165).
-/

namespace Sys2Proof.Machine

/-! ### The records of a payload (R193) -/

theorem length_flatten_records {n : Nat} {recs : List (List Byte)} (h : ∀ p ∈ recs, p.length = n) :
    recs.flatten.length = recs.length * n := by
  rw [List.length_flatten, List.sum_eq_card_nsmul _ n (by simpa using h), List.length_map, smul_eq_mul]

/-- A payload of whole records is cut into these records. -/
theorem cutRecords_flatten {n : Nat} (hn : 0 < n) {recs : List (List Byte)} (h : ∀ p ∈ recs, p.length = n)
    {fuel : Nat} (hf : recs.length ≤ fuel) : cutRecords n fuel recs.flatten = recs := by
  induction recs generalizing fuel with
  | nil => cases fuel <;> rfl
  | cons p recs ih =>
    obtain ⟨hp, hrest⟩ := List.forall_mem_cons.mp h
    obtain ⟨fuel, rfl⟩ : ∃ m, fuel = m + 1 := ⟨fuel - 1, by rw [List.length_cons] at hf; omega⟩
    have nonempty : (p ++ recs.flatten).isEmpty = false := by
      rw [List.isEmpty_eq_false_iff_exists_mem]
      exact ⟨p[0], List.mem_append_left _ (List.getElem_mem (by omega))⟩
    rw [List.flatten_cons, cutRecords, nonempty, List.take_left' hp, List.drop_left' hp,
      ih hrest (Nat.le_of_succ_le_succ hf)]
    rfl

/-! ### Articles stored (R49) -/

theorem length_le_putKey {α : Type} (key : α → Nat) (x : α) (l : List α) :
    l.length ≤ (putKey key x l).length := by
  induction l with
  | nil => exact Nat.zero_le _
  | cons y l ih => unfold putKey; split_ifs <;> simp [ih]

/-- An entry of a new key is one entry more. -/
theorem length_putKey_of_new {α : Type} {key : α → Nat} {x : α} {l : List α} (h : ∀ y ∈ l, key y ≠ key x) :
    (putKey key x l).length = l.length + 1 := by
  induction l with
  | nil => rfl
  | cons y l ih =>
    obtain ⟨hy, hl⟩ := List.forall_mem_cons.mp h
    unfold putKey
    split_ifs with hlt heq
    · rfl
    · exact absurd heq.symm hy
    · simp [ih hl]

/-- The article table after these records. -/
def storeRecords (recs : List (List Byte)) (l : List Article) : List Article :=
  (recs.map articleOf).foldl (fun l a => putKey Article.key a l) l

theorem storeRecords_append (recs more : List (List Byte)) (l : List Article) :
    storeRecords (recs ++ more) l = storeRecords more (storeRecords recs l) := by
  unfold storeRecords
  rw [List.map_append, List.foldl_append]

theorem length_le_storeRecords (recs : List (List Byte)) (l : List Article) :
    l.length ≤ (storeRecords recs l).length := by
  induction recs generalizing l with
  | nil => exact le_rfl
  | cons p recs ih => exact (length_le_putKey ..).trans (ih _)

/-- The article table of a device replaced. -/
def State.setArticles (s : State) (l : List Article) : State := { s with tables := { s.tables with articles := l } }

/-- A record finds room when the table that holds it fits the table store: its code is known, or a place is free. -/
theorem hasRoom_of_stored {art : Article} {l : List Article}
    (h : (putKey Article.key art l).length ≤ Config.articleCapacity) :
    ((l.any fun a => a.code == art.code) || decide (l.length < Config.articleCapacity)) = true := by
  by_cases known : ∃ a ∈ l, a.code = art.code
  · simp [known]
  · have new : ∀ a ∈ l, Article.key a ≠ Article.key art := fun a ha e =>
      known ⟨a, ha, BitVec.eq_of_toNat_eq e⟩
    rw [length_putKey_of_new new] at h
    simp [Nat.lt_of_succ_le h]

/-! ### The records of an open LOAD ARTICLES (R48, R49, R163) -/

section Records

variable {e : Exec} {n r : Nat} {s : State}

theorem less_eq (hc : e.counts = some (n, r)) : e.less = { e with counts := some (n, r - 1) } := by
  rw [Exec.less, hc]
  rfl

theorem takeRecord_stores (hk : e.kind = 0x14) (hc : e.counts = some (n, r)) {p : List Byte} (hp : badArticle p = none)
    (hroom : (putKey Article.key (articleOf p) s.tables.articles).length ≤ Config.articleCapacity) :
    takeRecord e p s =
      if r - 1 = 0 then
        (finishLoad e.less .done .none 0 (loadResult e.less
            (s.setArticles (putKey Article.key (articleOf p) s.tables.articles)))
          (s.setArticles (putKey Article.key (articleOf p) s.tables.articles)), .ended)
      else (s.setArticles (putKey Article.key (articleOf p) s.tables.articles), .more e.less) := by
  have remaining : e.less.remaining = r - 1 := by rw [less_eq hc, Exec.remaining]
  rw [takeRecord, if_pos hk, takeArticle, hp]
  dsimp only
  rw [if_pos (hasRoom_of_stored hroom), remaining]
  rfl

/-- Valid records before the last one are stored, and the load goes on. -/
theorem takeRecords_stores (more : List (List Byte)) {recs : List (List Byte)} (hk : e.kind = 0x14)
    (hc : e.counts = some (n, r)) (hgood : ∀ p ∈ recs, badArticle p = none) (hlen : recs.length < r)
    (hroom : (storeRecords recs s.tables.articles).length ≤ Config.articleCapacity) :
    takeRecords e (recs ++ more) s = takeRecords { e with counts := some (n, r - recs.length) } more
      (s.setArticles (storeRecords recs s.tables.articles)) := by
  induction recs generalizing e r s with
  | nil =>
    show takeRecords e more s = takeRecords { e with counts := some (n, r) } more s
    rw [← hc]
  | cons p recs ih =>
    obtain ⟨hp, hrest⟩ := List.forall_mem_cons.mp hgood
    rw [List.length_cons] at hlen
    have first := takeRecord_stores (s := s) hk hc hp ((length_le_storeRecords recs _).trans hroom)
    rw [if_neg (by omega), less_eq hc] at first
    rw [List.cons_append, takeRecords, first]
    dsimp only
    have rest := ih (e := { e with counts := some (n, r - 1) })
      (s := s.setArticles (putKey Article.key (articleOf p) s.tables.articles)) hk rfl hrest (by omega) hroom
    rw [rest, List.length_cons, show r - 1 - recs.length = r - (recs.length + 1) by omega]
    rfl

/-- With its last record a load ends DONE, and records after it are not read. -/
theorem takeRecords_ends (more : List (List Byte)) {recs : List (List Byte)} (hne : recs ≠ []) (hk : e.kind = 0x14)
    (hc : e.counts = some (n, r)) (hgood : ∀ p ∈ recs, badArticle p = none) (hlen : recs.length = r)
    (hroom : (storeRecords recs s.tables.articles).length ≤ Config.articleCapacity) :
    takeRecords e (recs ++ more) s =
      finishLoad { e with counts := some (n, 0) } .done .none 0
        (.articlesLoaded 0 (storeRecords recs s.tables.articles).length)
        (s.setArticles (storeRecords recs s.tables.articles)) := by
  obtain ⟨init, last, rfl⟩ : ∃ init last, recs = init ++ [last] :=
    ⟨recs.dropLast, recs.getLast hne, (List.dropLast_append_getLast hne).symm⟩
  rw [List.length_append, List.length_singleton] at hlen
  rw [storeRecords_append] at hroom ⊢
  have before := takeRecords_stores (s := s) (last :: more) hk hc (fun p hp => hgood p (by simp [hp])) (by omega)
    ((length_le_storeRecords [last] _).trans hroom)
  have final := takeRecord_stores (e := { e with counts := some (n, 1) })
    (s := s.setArticles (storeRecords init s.tables.articles)) hk rfl (hgood last (by simp)) hroom
  rw [if_pos rfl] at final
  rw [List.append_assoc, List.singleton_append, before, show r - init.length = 1 by omega, takeRecords, final]
  dsimp only
  rw [loadResult, less_eq rfl, if_pos hk]
  rfl

end Records

/-! ### The final RESPONSE of a load (R155, R156) -/

/-- A RESPONSE held behind the slot and the waiting place. -/
theorem held_served {s u : State} (fr : OwnFrame) (h : Served s) (hA : Part.Same s u .portA)
    (hB : Part.Same s u .portB) (hfull : s.placesFull = true) :
    Served { u with req := { u.req with heldFinal := some fr } } := by
  obtain ⟨sendA, -, slot, waiting, -⟩ := hA
  obtain ⟨sendB, fwdB, ownB, -⟩ := hB
  obtain ⟨hslot, hwaiting⟩ : s.link.slot ≠ none ∧ s.req.waiting ≠ none := by
    simpa [State.placesFull, Option.isSome_iff_ne_none] using hfull
  refine ⟨⟨fun e => ?_, fun e => ?_⟩, fun e => ?_, fun e => ?_⟩
  · exact absurd (slot ▸ e) hslot
  · exact absurd (waiting ▸ e) hwaiting
  · exact absurd (h.idleA (sendA ▸ e)).2.1 hslot
  · dsimp only
    rw [fwdB, ownB]
    exact h.idleB (sendB ▸ e)

theorem withHeldFinal_keeps (s : State) (fr : Option OwnFrame) :
    KeepsAllBut [.portA] s { s with req := { s.req with heldFinal := fr } } := by
  refine ⟨rfl, rfl, fun p hp => ?_⟩
  cases p <;> simp_all [Part.Same]

/-- The final RESPONSE of a load on its way out of port A, or held; the service changes nothing else. -/
theorem final_placed {s u : State} (fr : OwnFrame) (h : Served s) (hA : Part.Same s u .portA)
    (hB : Part.Same s u .portB) (hx : replying u.req.exec = false) :
    FinalPlaced fr s (settle (placeResponse fr u)) ∧ KeepsAllBut [.portA] u (settle (placeResponse fr u)) := by
  obtain ⟨sendA, fwdA, slot, waiting, held⟩ := id hA
  by_cases hfull : s.placesFull = true
  · have holds : placeResponse fr u = { u with req := { u.req with heldFinal := some fr } } := by
      obtain ⟨hslot, hwaiting⟩ : s.link.slot ≠ none ∧ s.req.waiting ≠ none := by
        simpa [State.placesFull, Option.isSome_iff_ne_none] using hfull
      unfold placeResponse
      rw [slot, waiting]
      simp [hslot, hwaiting]
    rw [holds, settle_of_served (held_served fr h hA hB hfull), FinalPlaced, if_pos hfull]
    exact ⟨⟨sendA, fwdA, slot, waiting, rfl⟩, withHeldFinal_keeps ..⟩
  · obtain ⟨hput, portB, exec, reports⟩ := settle_put fr h hA hB (by simpa using hfull) fun _ => hx
    have placed : Services u (placeResponse fr u) := by
      unfold placeResponse
      split_ifs <;> exact ⟨rfl, rfl, rfl, rfl, rfl, rfl, rfl, rfl, rfl, rfl, rfl, rfl, rfl, rfl, rfl⟩
    obtain ⟨a, b, c, d⟩ := hB
    obtain ⟨a', b', c', d'⟩ := portB
    rw [FinalPlaced, if_neg hfull]
    exact ⟨hput, (placed.trans (settle_services _)).keeps_but_A
      ⟨a'.trans a.symm, b'.trans b.symm, c'.trans c.symm, d'.trans d.symm⟩ exec reports⟩

/-! ### DATA (R163) -/

/-- A DATA frame of the open load is taken into it. -/
theorem handleData_taken {f : RxFrame} {s : State} {e : Exec} {gap : Timer} (h : Directed 0x28 f s)
    (hexec : s.req.exec = some e) (htag : e.tag = f.tag) (hsource : e.source = f.src)
    (hphase : e.phase = .loading gap) :
    handleData f s = takeData e f.payload (s.setSup (fedTimer f.src s)) := by
  have takes : e.takesData f = true := by simp [Exec.takesData, hphase, htag, hsource]
  unfold handleData
  rw [supervise_eq]
  dsimp only [setSup_req]
  rw [hexec]
  dsimp only
  rw [h.single, takes]
  rfl

/-- A payload of whole article records is taken record by record. -/
theorem takeData_records {e : Exec} {s : State} {recs : List (List Byte)} (hk : e.kind = 0x14) (hne : recs ≠ [])
    (h : ∀ p ∈ recs, p.length = 19) : takeData e recs.flatten s = takeRecords e recs s := by
  have bytes : e.recordBytes = 19 := if_pos hk
  have length := length_flatten_records h
  have some_record : 0 < recs.length := List.length_pos_iff.mpr hne
  have nonempty : recs.flatten.isEmpty = false := by
    rw [← Bool.not_eq_true, List.isEmpty_iff_length_eq_zero]
    omega
  rw [takeData, bytes, nonempty, length, Nat.mul_mod_left, cutRecords_flatten (by decide) h (by omega)]
  rfl

theorem setArticles_keeps (s : State) (l : List Article) : KeepsAllBut [.articles] s (s.setArticles l) :=
  withArticles_keeps s l

/-- Settles O30: the records are taken by `takeRecords_stores` and `takeRecords_ends`, and the final RESPONSE goes by
`final_placed`. -/
theorem dataStoresArticles : Obligations.DataStoresArticles := by
  intro f s e gap n r recs h hexec hk htag hsource hc hphase hne hrecs stored hroom
  have hgood : ∀ p ∈ recs, badArticle p = none := fun p hp => (hrecs p hp).2
  have taken := handleData_taken h hexec htag hsource hphase
  have changed : ∀ (x : Option Exec), KeepsAllBut [.exec, .sup, .articles] s
      (((s.setSup (fedTimer f.src s)).setArticles stored).setExec x) := fun x =>
    ((setSup_keeps ..).mono (by simp)).trans
      (((setArticles_keeps ..).mono (by simp)).trans ((setExec_keeps ..).mono (by simp)))
  refine ⟨fun hlen hpayload => ?_, fun more hlen hpayload hmore => ?_⟩
  · have goes_on := takeRecords_stores (s := s.setSup (fedTimer f.src s)) [] hk hc hgood hlen hroom
    rw [hpayload, takeData_records hk hne fun p hp => (hrecs p hp).1, ← List.append_nil recs, goes_on] at taken
    have keeps := changed (some
      { e with
        counts := some (n, r - recs.length)
        phase := .loading (after s.link.time s.req.settings.dataGap) })
    have served := h.served'.of_same (keeps.2.2 .portA (by simp)) (keeps.2.2 .portB (by simp)) (fun _ _ => rfl) rfl
      fun hidle => (h.served'.idleA hidle).2.2.1
    refine ⟨_, ?_, ?_, keeps, ?_, ?_⟩
    · exact (live_directed h _).trans (congrArg Host.Outcome.next
        ((congrArg settle taken).trans (settle_of_served served)))
    all_goals rfl
  · have ends := takeRecords_ends (s := s.setSup (fedTimer f.src s)) more hne hk hc hgood hlen hroom
    have lengths : ∀ p ∈ recs ++ more, p.length = 19 := fun p hp =>
      (List.mem_append.mp hp).elim (fun hp => (hrecs p hp).1) (hmore p)
    rw [hpayload, takeData_records hk (by simp [hne]) lengths, ends] at taken
    have keeps := changed (some { e with counts := some (n, 0), phase := .ending })
    obtain ⟨hplaced, hafter⟩ := final_placed
      { dst := e.source, src := s.link.ownNode, tag := e.tag, final := true
        body := .response
          { kind := 0x14, completion := .done, reason := .none, field := 0
            result := .articlesLoaded 0 stored.length } }
      h.served' (keeps.2.2 .portA (by simp)) (keeps.2.2 .portB (by simp)) rfl
    rw [finishLoad] at taken
    refine ⟨_, (live_directed h _).trans (congrArg (Host.Outcome.next ∘ settle) (taken.trans ?_)),
      hafter.2.2 .sup (by simp), (keeps.mono (by simp)).trans (hafter.mono (by simp)), hafter.2.2 .articles (by simp),
      (hafter.2.2 .exec (by simp)).1, hplaced⟩
    rw [← hk]
    rfl

end Sys2Proof.Machine
end

section
/-!
PROOFS. Loads that open (R66, R163), WITHDRAW PLAN (R84) and SET GATE (R109).
-/

namespace Sys2Proof.Machine

/-! ### One field of the plan store or the engine replaced -/

/-- The state with another admission record. -/
def State.setAdmission (s : State) (a : Option Admission) : State := { s with plans := { s.plans with admission := a } }

theorem setAdmission_keeps (s : State) (a : Option Admission) : KeepsAllBut [.admission] s (s.setAdmission a) := by
  refine ⟨rfl, rfl, fun p hp => ?_⟩
  cases p <;> simp_all [Part.Same, State.setAdmission]

theorem setGate_keeps (s : State) (isOpen : Bool) : KeepsAllBut [.gate] s (s.setGate isOpen) := by
  refine ⟨rfl, rfl, fun p hp => ?_⟩
  cases p <;> simp_all [Part.Same]

theorem dropPlan_keeps (s : State) (id : PlanId) : KeepsAllBut [.plans] s (s.dropPlan id) := by
  refine ⟨rfl, rfl, fun p hp => ?_⟩
  cases p <;> simp_all [Part.Same]

/-! ### A request that begins to execute and sends nothing yet (R155) -/

/-- A taken request whose act leaves a request in execution that has no reply to send. -/
theorem request_executes {k : Byte} {n : Nat} {bad : List Byte → Option Nat} {act : RxFrame → State → State}
    {f : RxFrame} {s u : State} {ps : List Part} {e : Exec} (h : TakenAt k n f s) (hb : bad f.payload = none)
    (hact : act f (s.setSup (fedTimer f.src s)) = u.setExec (some e)) (he : replying (some e) = false)
    (hk : KeepsAllBut ps s u)
    (hps : Part.portA ∉ ps ∧ Part.portB ∉ ps ∧ Part.exec ∉ ps ∧ Part.reports ∉ ps) :
    live (receive k f (request k n bad act f)) s = .next (u.setExec (some e)) := by
  obtain ⟨hA, hB, hexec, hreports⟩ := hps
  have served : Served (u.setExec (some e)) :=
    h.served'.of_same (hk.2.2 .portA hA) (hk.2.2 .portB hB) (fun _ _ => he) (hk.2.2 .exec hexec).2.1 fun idle =>
      (hk.2.2 .reports hreports).1.trans (h.served'.idleA idle).2.2.1
  rw [live_directed h.toDirected, request_taken h hb, hact, settle_of_served served]

/-- The request in execution of a load that opens (R163, R164). -/
def loadOf (kind : Byte) (f : RxFrame) (n : Nat) (s : State) : Exec :=
  { kind := kind, tag := f.tag, source := f.src, counts := some (n, n)
    phase := .loading (after s.link.time s.req.settings.dataGap) }

theorem openLoad_eq (kind : Byte) (f : RxFrame) (n : Nat) (s : State) :
    openLoad kind f n s = s.setExec (some (loadOf kind f n s)) := rfl

theorem admitPlan_full {f : RxFrame} {s : State} (h : 32 ≤ s.plans.plans.length) :
    admitPlan f s = refuse 0x19 .noRoom 0 f s := if_pos h

theorem admitPlan_opens {f : RxFrame} {s : State} (h : s.plans.plans.length < 32) :
    admitPlan f s = (s.setAdmission (some (admissionOf f.payload))).setExec
      (some (loadOf 0x19 f (u8At f.payload 5) s)) := if_neg (Nat.not_le.mpr h)

/-- An ADMIT PLAN addressed to a running device is checked against the plan store as it stands (R66). -/
theorem exec_admitPlan {f : RxFrame} {s : State} (h : Directed 0x19 f s) :
    exec (.admitPlan f) s = live (receive 0x19 f (request 0x19 6 s.badHeader admitPlan f)) s := by
  have arm : exec (.admitPlan f) s = live (receive 0x19 f (handleAdmitPlan f)) s := rfl
  rw [arm, live_directed h, live_directed h, handleAdmitPlan]

/-- Settles O29: both loads begin a request that sends nothing yet (`request_executes`). -/
theorem loadsOpen : Obligations.LoadsOpen := by
  refine ⟨fun f s h => ?_, fun f s h hb => ⟨fun full => ?_, fun room => ?_⟩⟩
  · have keeps := setSup_keeps s (fedTimer f.src s)
    refine ⟨_, request_executes (bad := noFields) h rfl (openLoad_eq ..) rfl keeps (by simp), rfl, ?_, rfl⟩
    exact (keeps.mono (by simp)).trans ((setExec_keeps ..).mono (by simp))
  · rw [exec_admitPlan h.toDirected]
    exact request_declined h hb (admitPlan_full full)
  · have keeps : KeepsAllBut [.admission, .sup] s
        ((s.setSup (fedTimer f.src s)).setAdmission (some (admissionOf f.payload))) :=
      ((setSup_keeps ..).mono (by simp)).trans ((setAdmission_keeps ..).mono (by simp))
    rw [exec_admitPlan h.toDirected]
    refine ⟨_, request_executes h hb (admitPlan_opens room) rfl keeps (by simp), rfl, ?_, rfl, rfl⟩
    exact (keeps.mono (by simp)).trans ((setExec_keeps ..).mono (by simp))

/-! ### WITHDRAW PLAN (R84) and SET GATE (R109) -/

section Withdraw

variable {f : RxFrame} {s : State}

theorem withdrawPlan_notHeld (h : s.plan (planIdOf f.payload) = none) :
    withdrawPlan f s = refuse 0x1A .notFound 0 f s := by
  simp [withdrawPlan, h]

theorem withdrawPlan_bound {p : Plan} (h : s.plan (planIdOf f.payload) = some p) (hp : p.state ≠ .queued) :
    withdrawPlan f s = refuse 0x1A .planBound 0 f s := by
  simp [withdrawPlan, h, hp]

theorem withdrawPlan_queued {p : Plan} (h : s.plan (planIdOf f.payload) = some p) (hp : p.state = .queued) :
    withdrawPlan f s = answerDone 0x1A f .empty (s.dropPlan (planIdOf f.payload)) := by
  simp [withdrawPlan, h, hp, plan_id h]

end Withdraw

/-- Settles O34, by whether the plan is held and QUEUED. -/
theorem withdrawPlanAndSetGateComplete : Obligations.WithdrawPlanAndSetGateComplete := by
  refine ⟨fun f s h hid => ?_, fun f s h hv => ?_⟩
  · have hb : badPlanId f.payload = none := (badPlanId_eq _).trans (if_neg hid)
    refine ⟨fun absent => ?_, fun p held => ⟨fun bound => ?_, fun queued => ?_⟩⟩
    · exact request_declined h hb (withdrawPlan_notHeld absent)
    · exact request_declined h hb (withdrawPlan_bound held bound)
    · obtain ⟨t, ht, hdone, hkeeps, hafter⟩ := request_done h hb
        (withdrawPlan_queued (s := s.setSup (fedTimer f.src s)) held queued) (dropPlan_keeps ..) (by simp)
      exact ⟨t, ht, hdone, hafter.2.2 .plans (by simp), hkeeps⟩
  · obtain ⟨t, ht, hdone, hkeeps, hafter⟩ := request_done (act := setGate) h ((badGate_eq _).trans (if_pos hv)) rfl (setGate_keeps ..)
      (by simp)
    exact ⟨t, ht, hafter.2.2 .gate (by simp), hdone, hkeeps⟩

end Sys2Proof.Machine
end

section
/-!
PROOFS. What plan changes with their binding attempts leave (R71, R74, R80): an IDLE station may be BUILDING afterwards,
and the plan records keep everything but what binding gives them.
-/

namespace Sys2Proof.Machine

/-! ### What any such change leaves -/

/-- What a plan change with its binding attempts leaves of everything but the plan records. -/
structure Offers (s t : State) : Prop where
  keeps     : KeepsAllBut [.plans, .stations, .builds, .flags, .exec] s t
  station   : ∀ i : StationNo, t.stations[i] = s.stations[i]
                ∨ s.stations[i].state = .idle ∧ t.stations[i] = { s.stations[i] with state := .building }
  build     : ∀ i : StationNo, s.stations[i].state ≠ .idle → t.builds[i] = s.builds[i]
  ready     : s.req.exec = none → Part.Same s t .exec
  flagsKept : ∀ k : LaneNo, s.flag k = true → t.flag k = true
  flags     : ∀ k : LaneNo, t.flag k = true → s.flag k = true ∨ s.lanes[k].flaggable = true

namespace Offers

theorem refl (s : State) : Offers s s :=
  ⟨(KeepsAllBut.refl s).mono (by simp), fun _ => .inl rfl, fun _ _ => rfl, fun _ => Part.Same.refl s .exec,
    fun _ h => h, fun _ h => .inl h⟩

theorem lanes {s t : State} (h : Offers s t) : t.lanes = s.lanes := h.keeps.2.2 .lanes (by simp)

/-- A station that is IDLE afterwards was so before. -/
theorem idle {s t : State} (h : Offers s t) {i : StationNo} (hi : t.stations[i].state = .idle) :
    s.stations[i].state = .idle := by
  rcases h.station i with e | ⟨e, -⟩
  · rwa [e] at hi
  · exact e

/-- A station that is not IDLE keeps its record. -/
theorem stays {s t : State} (h : Offers s t) {i : StationNo} (hi : s.stations[i].state ≠ .idle) :
    t.stations[i] = s.stations[i] := (h.station i).resolve_right fun e => hi e.1

theorem trans {s t u : State} (h : Offers s t) (k : Offers t u) : Offers s u where
  keeps := h.keeps.trans k.keeps
  station i := by
    rcases h.station i with e | ⟨idle, e⟩
    · exact e ▸ k.station i
    · rcases k.station i with e' | ⟨_, e'⟩
      · exact .inr ⟨idle, e'.trans e⟩
      · exact .inr ⟨idle, by rw [e', e]⟩
  build i hi := (k.build i fun e => hi (h.idle e)).trans (h.build i hi)
  ready hs := Part.Same.trans (h.ready hs) (k.ready ((h.ready hs).1.trans hs))
  flagsKept n hn := k.flagsKept n (h.flagsKept n hn)
  flags n hn := (k.flags n hn).elim (h.flags n) fun e => .inr (h.lanes ▸ e)

theorem foldl {α : Type} {op : State → α → State} (h : ∀ s a, Offers s (op s a)) (l : List α) (s : State) :
    Offers s (l.foldl op s) := by
  induction l generalizing s with
  | nil => exact refl s
  | cons a l ih => exact (h s a).trans (ih _)

/-- A change of the plan store alone. -/
theorem of_plans {s t : State} (h : KeepsAllBut [.plans] s t) : Offers s t := by
  have stations : t.stations = s.stations := h.2.2 .stations (by simp)
  have builds : t.builds = s.builds := h.2.2 .builds (by simp)
  have flags : t.engine.flags = s.engine.flags := h.2.2 .flags (by simp)
  refine ⟨h.mono (by simp), fun i => .inl (by rw [stations]), fun i _ => by rw [builds],
    fun _ => h.2.2 .exec (by simp), fun k e => ?_, fun k e => ?_⟩
  · simpa only [State.flag, flags] using e
  · exact .inl (by simpa only [State.flag, flags] using e)

theorem onPlan (s : State) (id : PlanId) (g : Plan → Plan) : Offers s (s.onPlan id g) :=
  of_plans ⟨rfl, rfl, fun p hp => by cases p <;> simp_all [Part.Same]⟩

end Offers

/-! ### Plan records -/

/-- A plan as a binding leaves it (R72). -/
def Plan.boundAt (p : Plan) (i : StationNo) : Plan := { p with state := .building, bound := some i }

/-- The plan of an id after a change of another or of the same id, which keeps the id of each plan. -/
theorem plan_onPlan (s : State) (id other : PlanId) {g : Plan → Plan} (hg : ∀ p, (g p).id = p.id) :
    (s.onPlan id g).plan other = if other = id then (s.plan other).map g else s.plan other := by
  unfold State.plan
  dsimp only [onPlan_plans]
  split_ifs with h
  · subst h
    exact find?_changeFirst (fun p hp => by rwa [hg]) _
  · generalize s.plans.plans = l
    induction l with
    | nil => rfl
    | cons p l ih =>
      unfold changeFirst
      split_ifs with hp
      · have hne : ((p.id == other) = false) := by
          rw [beq_eq_false_iff_ne, eq_of_beq hp]
          exact fun e => h e.symm
        rw [List.find?_cons_of_neg (by simp [hg, hne]), List.find?_cons_of_neg (by simp [hne])]
      · rw [List.find?_cons, List.find?_cons, ih]

/-- A change of one plan that keeps its id keeps the ids. -/
theorem ids_onPlan (s : State) (id : PlanId) {g : Plan → Plan} (hg : ∀ p, (g p).id = p.id) :
    (s.onPlan id g).plans.plans.map Plan.id = s.plans.plans.map Plan.id := by
  dsimp only [onPlan_plans]
  generalize s.plans.plans = l
  induction l with
  | nil => rfl
  | cons p l ih =>
    unfold changeFirst
    split_ifs <;> simp [hg, ih]

theorem rising_of_ids {s t : State} (h : t.plans.plans.map Plan.id = s.plans.plans.map Plan.id)
    (hs : RisingKeys Plan.key s.plans.plans) : RisingKeys Plan.key t.plans.plans := by
  have keys : t.plans.plans.map Plan.key = s.plans.plans.map Plan.key := by
    have := congrArg (List.map BitVec.toNat) h
    rwa [List.map_map, List.map_map] at this
  rw [risingKeys_iff] at hs ⊢
  rwa [keys]

theorem plan_none_of_ids {s t : State} (h : t.plans.plans.map Plan.id = s.plans.plans.map Plan.id) {id : PlanId} :
    t.plan id = none ↔ s.plan id = none := by
  have absent : ∀ l : List Plan, l.find? (fun p => p.id == id) = none ↔ id ∉ l.map Plan.id := by
    intro l
    simp only [List.find?_eq_none, List.mem_map, beq_iff_eq, not_exists, not_and]
  unfold State.plan
  rw [absent, absent, h]

/-! ### A binding attempt (R71, R72) -/

/-- What binding turns leave: a plan is as it was, or was QUEUED and is BUILDING at a station that was IDLE. -/
structure Binds (s t : State) : Prop extends Offers s t where
  ids    : t.plans.plans.map Plan.id = s.plans.plans.map Plan.id
  plan   : ∀ id p, s.plan id = some p → ∃ q, t.plan id = some q
             ∧ (q = p ∨ ∃ i : StationNo, s.stations[i].state = .idle ∧ q = p.boundAt i)
  queued : RisingKeys Plan.key s.plans.plans → ∀ id p, s.plan id = some p → p.state ≠ .queued → t.plan id = some p

namespace Binds

theorem refl (s : State) : Binds s s :=
  ⟨.refl s, rfl, fun _ p h => ⟨p, h, .inl rfl⟩, fun _ _ _ h _ => h⟩

theorem trans {s t u : State} (h : Binds s t) (k : Binds t u) : Binds s u where
  toOffers := h.toOffers.trans k.toOffers
  ids := k.ids.trans h.ids
  plan id p hp := by
    obtain ⟨q, hq, e⟩ := h.plan id p hp
    obtain ⟨r, hr, e'⟩ := k.plan id q hq
    refine ⟨r, hr, ?_⟩
    rcases e' with rfl | ⟨i, idle, rfl⟩
    · exact e
    · rcases e with rfl | ⟨j, -, rfl⟩
      · exact .inr ⟨i, h.idle idle, rfl⟩
      · exact .inr ⟨i, h.idle idle, rfl⟩
  queued hs id p hp hne := k.queued (rising_of_ids h.ids hs) id p (h.queued hs id p hp hne) hne

theorem bindPlan {s : State} {i : StationNo} {p : Plan} (e : BaseEntry) (idle : s.stations[i].state = .idle)
    (hp : p ∈ s.plans.plans) (hq : p.state = .queued) : Binds s (bindPlan i p e s) := by
  have hne : s.stations[i].state ≠ .building := by rw [idle]; decide
  obtain ⟨v, eq, hv⟩ := bindPlan_eq p e hne
  have plans : ∀ id, (Machine.bindPlan i p e s).plan id = (s.onPlan p.id fun q => q.boundAt i).plan id := by
    rw [eq]
    exact fun _ => rfl
  have ids : (Machine.bindPlan i p e s).plans.plans.map Plan.id = s.plans.plans.map Plan.id := by
    rw [eq]
    exact ids_onPlan s p.id (g := fun q => q.boundAt i) fun _ => rfl
  refine ⟨⟨bindPlan_keeps p e hne, fun j => ?_, fun j hj => ?_, fun none => ?_, fun k hk => ?_, fun k hk => ?_⟩, ids,
    fun id q h => ?_, fun hs id q h hstate => ?_⟩
  · rw [eq]
    by_cases hij : i = j
    · subst hij
      exact .inr ⟨idle, by simp⟩
    · exact .inl (by simp [Fin.val_ne_of_ne hij])
  · have hij : i ≠ j := fun e => hj (e ▸ idle)
    rw [eq]
    simp [Fin.val_ne_of_ne hij]
  · rw [eq]
    exact ⟨by simp [none], rfl, rfl⟩
  · have old : s.engine.flags[k] = true := hk
    simp [State.flag, eq, hv, old]
  · have new : v[k] = true := by simpa only [State.flag, eq] using hk
    rwa [hv, Bool.or_eq_true] at new
  · rw [plans, plan_onPlan s p.id id (g := fun q => q.boundAt i) fun _ => rfl, h]
    split_ifs
    · exact ⟨q.boundAt i, rfl, .inr ⟨i, idle, rfl⟩⟩
    · exact ⟨q, rfl, .inl rfl⟩
  · rw [plans, plan_onPlan s p.id id (g := fun q => q.boundAt i) fun _ => rfl, h, if_neg]
    rintro rfl
    have same : some q = some p := h.symm.trans (plan_of_mem hs hp)
    exact hstate (Option.some.inj same ▸ hq)

theorem offerPlan (s : State) (i : StationNo) : Binds s (offerPlan s i) := by
  rcases offerPlan_cases s i with h | ⟨p, e, idle, -, -, hp, h⟩
  · rw [h]
    exact refl s
  · obtain ⟨held, hqueued, -⟩ := (planFor_first hp).1
    rw [h]
    exact bindPlan e idle held hqueued

end Binds

theorem bindingAttempt_binds (s : State) : Binds s (bindingAttempt s) := by
  have fold : ∀ (l : List StationNo) (u : State), Binds u (l.foldl offerPlan u) := by
    intro l
    induction l with
    | nil => exact Binds.refl
    | cons i l ih => exact fun u => (Binds.offerPlan u i).trans (ih _)
  exact fold _ s

/-! ### Line accounting (R74, R76) -/

theorem Offers.lessPlan (id : PlanId) (p : Plan) (j : Nat) (g : PlanLine → PlanLine) (s : State) :
    Offers s (lessPlan id p j g s) := by
  unfold Machine.lessPlan
  dsimp only
  split_ifs
  · exact (Offers.onPlan ..).trans (bindingAttempt_binds _).toOffers
  · exact Offers.onPlan ..

theorem Offers.planLess (id : Option PlanId) (j : Nat) (s : State) : Offers s (planLess id j s) := by
  unfold Machine.planLess
  split
  · exact .refl s
  · split
    · exact .refl s
    · split_ifs
      · exact .lessPlan ..
      · exact .refl s

theorem Offers.revertPlaced (id : Option PlanId) (j : Nat) (s : State) : Offers s (revertPlaced id j s) := by
  unfold Machine.revertPlaced
  split
  · exact .refl s
  · split
    · exact .refl s
    · split_ifs
      · exact .lessPlan ..
      · exact .refl s

theorem Offers.revertCase (id : Option PlanId) (s : State) (c : CaseRec) : Offers s (revertCase id s c) := by
  unfold Machine.revertCase
  split
  · exact .revertPlaced ..
  · exact .planLess ..

end Sys2Proof.Machine
end

section
/-!
PROOFS. DATA in an open ADMIT PLAN (R65, R67, R68), and the DATA frames that end a load or are stray (R163, R165, R166).
-/

namespace Sys2Proof.Machine

/-! ### The stored order of the lines (R65) -/

theorem insertLine_eq (l : LineRec) (ls : List LineRec) :
    insertLine l ls = ls.orderedInsert (fun x y => y.drop < x.drop) l := by
  induction ls with
  | nil => rfl
  | cons m ls ih => rw [insertLine, List.orderedInsert_cons, ih]

theorem orderLines_eq (ls : List LineRec) :
    orderLines ls = ls.foldl (fun acc l => acc.orderedInsert (fun x y => y.drop < x.drop) l) [] := by
  simp only [orderLines, insertLine_eq]

theorem orderLines_append (ls : List LineRec) (l : LineRec) : orderLines (ls ++ [l]) = insertLine l (orderLines ls) := by
  rw [orderLines, List.foldl_append]
  rfl

theorem orderLines_descend (ls : List LineRec) : (orderLines ls).Pairwise fun x y => y.drop ≤ x.drop := by
  rw [orderLines_eq]
  exact pairwise_foldl_orderedInsert
    (List.pairwise_of_forall fun y x => ⟨le_of_lt, not_lt.mp⟩) fun x y z h k => k.trans_lt h

/-- A line put in its place stands behind the lines of its own drop. -/
theorem filter_insertLine (d : Nat) (l : LineRec) {ls : List LineRec} (h : ls.Pairwise fun x y => y.drop ≤ x.drop) :
    (insertLine l ls).filter (fun x => x.drop == d) = (ls ++ [l]).filter fun x => x.drop == d := by
  induction ls with
  | nil => rfl
  | cons m ls ih =>
    obtain ⟨hm, hls⟩ := List.pairwise_cons.mp h
    unfold insertLine
    split_ifs with hlt
    · by_cases hd : l.drop = d
      · have later : ∀ x ∈ m :: ls, ¬ ((x.drop == d) = true) := by
          intro x hx
          have : x.drop ≤ m.drop := (List.mem_cons.mp hx).elim (fun e => by rw [e]) (hm x)
          rw [beq_iff_eq]
          omega
        rw [List.filter_append, List.filter_cons, List.filter_eq_nil_iff.mpr later, List.nil_append, List.filter_cons]
        rfl
      · rw [List.filter_append, List.filter_cons, if_neg (by simpa using hd)]
        simp [hd]
    · rw [List.filter_cons, ih hls, List.cons_append, List.filter_cons]

theorem orderLines_filter (ls : List LineRec) (d : Nat) :
    (orderLines ls).filter (fun l => l.drop == d) = ls.filter fun l => l.drop == d := by
  induction ls using List.reverseRecOn with
  | nil => rfl
  | append_singleton ls l ih =>
    rw [orderLines_append, filter_insertLine d l (orderLines_descend ls), List.filter_append, List.filter_append, ih]

/-! ### The plan that an admission makes (R67, R68) -/

/-- An entry stored under a key that no entry has joins the others. -/
theorem putKey_perm {α : Type} {key : α → Nat} {x : α} {l : List α} (h : ∀ y ∈ l, key y ≠ key x) :
    (putKey key x l).Perm (x :: l) := by
  induction l with
  | nil => rfl
  | cons y l ih =>
    obtain ⟨hy, hl⟩ := List.forall_mem_cons.mp h
    unfold putKey
    split_ifs with hlt heq
    · rfl
    · exact absurd heq.symm hy
    · exact ((ih hl).cons y).trans (List.Perm.swap x y l)

/-- The state with the plan of an admission stored and no load of it left (R67, steps 1 to 4). -/
def State.admitted (s : State) (a : Admission) : State :=
  { s with plans :=
    { plans := putKey Plan.key (planOf a s.plans.counter) s.plans.plans, admission := none,
      counter := s.plans.counter + 1 } }

theorem makePlan_eq (a : Admission) (s : State) : makePlan a s = bindingAttempt (s.admitted a) := rfl

theorem admit_keeps (s : State) (a : Admission) : KeepsAllBut [.plans, .admission, .counter] s (s.admitted a) := by
  refine ⟨rfl, rfl, fun p hp => ?_⟩
  cases p <;> simp_all [Part.Same, State.admitted]

section Admitted

variable {s : State} {a : Admission} (rising : RisingKeys Plan.key s.plans.plans) (new : s.plan a.id = none)
include rising new

theorem admit_perm : (s.admitted a).plans.plans.Perm (planOf a s.plans.counter :: s.plans.plans) := by
  refine putKey_perm fun q hq e => ?_
  have held := plan_of_mem rising hq
  have same : q.id = a.id := BitVec.eq_of_toNat_eq e
  rw [same, new] at held
  cases held

theorem admit_plan : (s.admitted a).plan a.id = some (planOf a s.plans.counter) :=
  plan_of_mem (p := planOf a s.plans.counter) (rising.putKey _) ((admit_perm rising new).mem_iff.mpr (by simp))

end Admitted

/-! ### The records of an open ADMIT PLAN (R67) -/

section Lines

variable {e : Exec} {n r : Nat} {s : State} {a : Admission}

/-- The admission record with more lines. -/
def Admission.gather (a : Admission) (recs : List (List Byte)) : Admission :=
  { a with lines := a.lines ++ recs.map lineOf }

theorem gather_nil (a : Admission) : a.gather [] = a := by simp [Admission.gather]

theorem gather_append (a : Admission) (recs more : List (List Byte)) :
    (a.gather recs).gather more = a.gather (recs ++ more) := by
  simp [Admission.gather]

/-- Records that are valid one behind the other. -/
def LinesGood (a : Admission) (recs : List (List Byte)) : Prop :=
  ∀ before p later, recs = before ++ p :: later → badLine (a.lines ++ before.map lineOf) p = none

theorem linesGood_cons {p : List Byte} {recs : List (List Byte)} (h : LinesGood a (p :: recs)) :
    badLine a.lines p = none ∧ LinesGood (a.gather [p]) recs := by
  refine ⟨?_, fun before q later e => ?_⟩
  · simpa using h [] p recs rfl
  · have := h (p :: before) q later (by rw [e]; rfl)
    simpa [Admission.gather] using this

theorem takeRecord_line (hk : e.kind = 0x19) (hc : e.counts = some (n, r)) (ha : s.plans.admission = some a)
    {p : List Byte} (hp : badLine a.lines p = none) :
    takeRecord e p s =
      if r - 1 = 0 then
        (finishLoad e.less .done .none 0 (.planAdmitted 0 a.id s.plans.counter) (makePlan (a.gather [p]) s), .ended)
      else (s.setAdmission (some (a.gather [p])), .more e.less) := by
  have remaining : e.less.remaining = r - 1 := by rw [less_eq hc, Exec.remaining]
  rw [takeRecord, if_neg (by rw [hk]; decide), takeLine, ha]
  dsimp only
  rw [hp]
  dsimp only
  rw [remaining]
  rfl

/-- Valid lines before the last one are gathered, and the load goes on. -/
theorem takeRecords_gathers (more : List (List Byte)) {recs : List (List Byte)} (hk : e.kind = 0x19)
    (hc : e.counts = some (n, r)) (ha : s.plans.admission = some a) (hgood : LinesGood a recs)
    (hlen : recs.length < r) :
    takeRecords e (recs ++ more) s = takeRecords { e with counts := some (n, r - recs.length) } more
      (s.setAdmission (some (a.gather recs))) := by
  induction recs generalizing e r s a with
  | nil =>
    show takeRecords e more s = takeRecords { e with counts := some (n, r) } more _
    rw [← hc, gather_nil, ← ha]
    rfl
  | cons p recs ih =>
    obtain ⟨hp, hrest⟩ := linesGood_cons hgood
    rw [List.length_cons] at hlen
    have first := takeRecord_line hk hc ha hp
    rw [if_neg (by omega), less_eq hc] at first
    rw [List.cons_append, takeRecords, first]
    dsimp only
    have rest := ih (e := { e with counts := some (n, r - 1) }) (s := s.setAdmission (some (a.gather [p]))) hk rfl rfl
      hrest (by omega)
    rw [rest, List.length_cons, show r - 1 - recs.length = r - (recs.length + 1) by omega, gather_append]
    rfl

/-- With its last line the load ends DONE, and the plan is made. -/
theorem takeRecords_admits {recs : List (List Byte)} (hne : recs ≠ []) (hk : e.kind = 0x19)
    (hc : e.counts = some (n, r)) (ha : s.plans.admission = some a) (hgood : LinesGood a recs)
    (hlen : recs.length = r) :
    takeRecords e recs s = finishLoad { e with counts := some (n, 0) } .done .none 0
      (.planAdmitted 0 a.id s.plans.counter) (makePlan (a.gather recs) s) := by
  obtain ⟨init, last, rfl⟩ : ∃ init last, recs = init ++ [last] :=
    ⟨recs.dropLast, recs.getLast hne, (List.dropLast_append_getLast hne).symm⟩
  rw [List.length_append, List.length_singleton] at hlen
  have good : LinesGood a init := fun before p later h => hgood before p (later ++ [last]) (by simp [h])
  have before := takeRecords_gathers [last] hk hc ha good (by omega)
  have final := takeRecord_line (e := { e with counts := some (n, 1) }) (s := s.setAdmission (some (a.gather init)))
    (p := last) hk rfl rfl (by simpa [Admission.gather] using hgood init last [] rfl)
  rw [if_pos rfl] at final
  rw [before, show r - init.length = 1 by omega, takeRecords, final, gather_append]
  rfl

end Lines

/-! ### DATA frames (R163, R193) -/

/-- A payload of whole records is taken record by record. -/
theorem takeData_whole {e : Exec} {s : State} {recs : List (List Byte)} {n : Nat} (hbytes : e.recordBytes = n)
    (hn : 0 < n) (hne : recs ≠ []) (h : ∀ p ∈ recs, p.length = n) :
    takeData e recs.flatten s = takeRecords e recs s := by
  have length := length_flatten_records h
  have some_record : 0 < recs.length := List.length_pos_iff.mpr hne
  have positive : 0 < recs.length * n := Nat.mul_pos some_record hn
  have nonempty : recs.flatten.isEmpty = false := by
    rw [← Bool.not_eq_true, List.isEmpty_iff_length_eq_zero]
    omega
  rw [takeData, hbytes, nonempty, length, Nat.mul_mod_left,
    cutRecords_flatten hn h (Nat.le_mul_of_pos_right _ hn)]
  rfl

theorem recordBytes_lines {e : Exec} (hk : e.kind = 0x19) : e.recordBytes = 6 := by
  rw [Exec.recordBytes, if_neg (by rw [hk]; decide)]
  rfl

/-- The final RESPONSE of a load (R155, R165). -/
def finalFrame (e : Exec) (own : Byte) (c : Completion) (why : Reason) (i : Nat) (result : ResultFields) : OwnFrame :=
  { dst := e.source, src := own, tag := e.tag, final := true
    body := .response { kind := e.kind, completion := c, reason := why, field := i, result := result } }

theorem finishLoad_eq (e : Exec) (c : Completion) (why : Reason) (i : Nat) (result : ResultFields) (u : State) :
    finishLoad e c why i result u =
      placeResponse (finalFrame e u.link.ownNode c why i result) (u.setExec (some { e with phase := .ending })) := rfl

theorem exec_data {f : RxFrame} {s : State} (h : Directed 0x28 f s) :
    exec (.data f) s = .next (settle (handleData f s)) := by
  have arm : exec (.data f) s = live (receive 0x28 f (handleData f)) s := rfl
  rw [arm, live_directed h]

/-- A DATA frame with which the load ends: its final RESPONSE is placed, and nothing else happens after it. -/
theorem data_finishes {f : RxFrame} {s u : State} {e : Exec} {c : Completion} {why : Reason} {i : Nat}
    {result : ResultFields} {ps : List Part} (h : Directed 0x28 f s)
    (hact : handleData f s = finishLoad e c why i result u) (hk : KeepsAllBut ps s u)
    (hps : Part.portA ∉ ps ∧ Part.portB ∉ ps ∧ Part.ownNode ∉ ps) :
    ∃ t, exec (.data f) s = .next t ∧ FinalPlaced (finalFrame e s.link.ownNode c why i result) s t
      ∧ KeepsAllBut [.portA] (u.setExec (some { e with phase := .ending })) t := by
  obtain ⟨hA, hB, hnode⟩ := hps
  have own : u.link.ownNode = s.link.ownNode := hk.2.2 .ownNode hnode
  obtain ⟨hplaced, hafter⟩ := final_placed (u := u.setExec (some { e with phase := .ending }))
    (finalFrame e s.link.ownNode c why i result) h.served' (hk.2.2 .portA hA) (hk.2.2 .portB hB) rfl
  rw [finishLoad_eq, own] at hact
  exact ⟨_, by rw [exec_data h, hact], hplaced, hafter⟩

/-- Settles O31: the lines are taken by `takeRecords_gathers` and `takeRecords_admits`, and what the binding attempt may
make of the new plan is `bindingAttempt_binds`. -/
theorem dataAdmitsAPlan : Obligations.DataAdmitsAPlan := by
  refine ⟨fun ls => ⟨?_, orderLines_descend ls, orderLines_filter ls⟩, ?_⟩
  · rw [orderLines_eq]
    exact foldl_orderedInsert_perm ls
  intro f s e gap n r a recs h hexec hk htag hsource hc hphase ha hne hpayload hsize hgood
  have taken := handleData_taken h hexec htag hsource hphase
  rw [hpayload, takeData_whole (recordBytes_lines hk) (by decide) hne hsize] at taken
  refine ⟨fun hlen => ?_, fun hlen rising new => ?_⟩
  · have goes_on := takeRecords_gathers (s := s.setSup (fedTimer f.src s)) [] hk hc ha hgood hlen
    rw [List.append_nil] at goes_on
    rw [goes_on] at taken
    have keeps : KeepsAllBut [.exec, .sup, .admission] s
        (((s.setSup (fedTimer f.src s)).setAdmission (some (a.gather recs))).setExec (some
          { e with
            counts := some (n, r - recs.length)
            phase := .loading (after s.link.time s.req.settings.dataGap) })) :=
      ((setSup_keeps ..).mono (by simp)).trans
        (((setAdmission_keeps ..).mono (by simp)).trans ((setExec_keeps ..).mono (by simp)))
    have served := h.served'.of_same (keeps.2.2 .portA (by simp)) (keeps.2.2 .portB (by simp)) (fun _ _ => rfl) rfl
      fun hidle => (h.served'.idleA hidle).2.2.1
    refine ⟨_, by rw [exec_data h, taken]; exact congrArg Host.Outcome.next (settle_of_served served), rfl, keeps, rfl, rfl⟩
  · have ends := takeRecords_admits (s := s.setSup (fedTimer f.src s)) hne hk hc ha hgood hlen
    rw [ends, makePlan_eq] at taken
    have binds := bindingAttempt_binds ((s.setSup (fedTimer f.src s)).admitted (a.gather recs))
    have keeps : KeepsAllBut [.exec, .sup, .admission, .counter, .plans, .stations, .builds, .flags] s
        (bindingAttempt ((s.setSup (fedTimer f.src s)).admitted (a.gather recs))) :=
      ((setSup_keeps ..).mono (by simp)).trans
        (((admit_keeps ..).mono (by simp)).trans (binds.keeps.mono (by simp)))
    have unchanged : KeepsAllBut [.sup] (s.admitted (a.gather recs)) ((s.setSup (fedTimer f.src s)).admitted (a.gather recs)) :=
      setSup_keeps (s.admitted (a.gather recs)) _
    have attempt : KeepsAllBut [.exec, .sup] (bindingAttempt (s.admitted (a.gather recs)))
        (bindingAttempt ((s.setSup (fedTimer f.src s)).admitted (a.gather recs))) :=
      bindingAttempt_congr (by simp [Aside]) (unchanged.mono (by simp))
    obtain ⟨q, hq, hbound⟩ := binds.plan a.id _ (admit_plan (a := a.gather recs) rising new)
    have sup := binds.keeps.2.2 .sup (by simp)
    have record := binds.keeps.2.2 .admission (by simp)
    have counter := binds.keeps.2.2 .counter (by simp)
    generalize bindingAttempt ((s.setSup (fedTimer f.src s)).admitted (a.gather recs)) = u at *
    obtain ⟨t, ht, hplaced, hafter⟩ := data_finishes h taken keeps (by simp)
    have whole := hafter.2.2
    have plans : t.plans.plans = u.plans.plans := whole .plans (by simp)
    have found : t.plan a.id = some q := by rw [← hq, State.plan, State.plan, plans]
    refine ⟨t, ht, sup.trans (whole .sup (by simp)), ?_, record.trans (whole .admission (by simp)),
      counter.trans (whole .counter (by simp)), (whole .exec (by simp)).1, ⟨q, found, ?_⟩, ?_⟩
    · exact (keeps.mono (by simp)).trans (((setExec_keeps ..).mono (by simp)).trans (hafter.mono (by simp)))
    · have shape : { q with state := .queued, bound := none } = planOf (a.gather recs) s.plans.counter := by
        rcases hbound with rfl | ⟨i, -, rfl⟩ <;> rfl
      have store : ∃ m : State, KeepsAllBut [.plans, .admission, .counter] s m ∧ m.plans.admission = none
          ∧ m.plans.counter = s.plans.counter + 1 ∧ RisingKeys Plan.key m.plans.plans
          ∧ m.plans.plans.Perm ({ q with state := .queued, bound := none } :: s.plans.plans)
          ∧ KeepsAllBut [.portA, .exec, .sup] (bindingAttempt m) t :=
        ⟨s.admitted (a.gather recs), admit_keeps .., rfl, rfl, rising.putKey _, shape ▸ admit_perm rising new,
          (attempt.mono (by simp)).trans (((setExec_keeps ..).mono (by simp)).trans (hafter.mono (by simp)))⟩
      rcases hbound with rfl | ⟨i, -, rfl⟩
      · exact ⟨rfl, rfl, rfl, rfl, rfl, .inl ⟨rfl, rfl⟩, store⟩
      · exact ⟨rfl, rfl, rfl, rfl, rfl, .inr ⟨rfl, rfl⟩, store⟩
    · rw [finalFrame, hk] at hplaced
      exact hplaced

/-! ### DATA frames that end a load (R163, R165) -/

/-- The state without its admission record when the load is that of one (R67). -/
def State.dropLines (s : State) (e : Exec) : State := if e.kind = 0x19 then s.setAdmission none else s

theorem dropLines_keeps (s : State) (e : Exec) : KeepsAllBut [.admission] s (s.dropLines e) := by
  unfold State.dropLines
  split_ifs
  · exact setAdmission_keeps ..
  · exact (KeepsAllBut.refl s).mono (by simp)

theorem endLoad_eq (e : Exec) (why : Reason) (i : Nat) (s : State) :
    endLoad e why i s = finishLoad e .ended why i (loadResult e (s.dropLines e)) (s.dropLines e) := rfl

theorem dropLines_articles {e : Exec} (hk : e.kind = 0x14) (s : State) : s.dropLines e = s := by
  rw [State.dropLines, if_neg (by rw [hk]; decide)]

theorem dropLines_lines {e : Exec} (hk : e.kind = 0x19) (s : State) : s.dropLines e = s.setAdmission none := by
  rw [State.dropLines, if_pos hk]

section Ending

variable {e : Exec} {s : State}

theorem takeRecords_badArticle (hk : e.kind = 0x14) {p : List Byte} {i : Nat} (hp : badArticle p = some i)
    (later : List (List Byte)) : takeRecords e (p :: later) s = endLoad e .badField i s := by
  rw [takeRecords, takeRecord, if_pos hk, takeArticle, hp]

theorem takeRecords_noRoom (hk : e.kind = 0x14) {p : List Byte} (hp : badArticle p = none)
    (hfull : s.tables.articles.length = 4096) (hnew : ∀ a ∈ s.tables.articles, a.code ≠ (articleOf p).code)
    (later : List (List Byte)) : takeRecords e (p :: later) s = endLoad e .noRoom 0 s := by
  have room : ((s.tables.articles.any fun a => a.code == (articleOf p).code)
      || decide (s.tables.articles.length < Config.articleCapacity)) = false := by
    simpa [hfull, Config.articleCapacity] using hnew
  rw [takeRecords, takeRecord, if_pos hk, takeArticle, hp]
  dsimp only
  rw [room]
  rfl

theorem takeRecords_badLine (hk : e.kind = 0x19) {a : Admission} (ha : s.plans.admission = some a) {p : List Byte}
    {i : Nat} (hp : badLine a.lines p = some i) (later : List (List Byte)) :
    takeRecords e (p :: later) s = endLoad e .badField i s := by
  rw [takeRecords, takeRecord, if_neg (by rw [hk]; decide), takeLine, ha]
  dsimp only
  rw [hp]

theorem takeData_badLength {p : List Byte} (h : p = [] ∨ p.length % e.recordBytes ≠ 0) :
    takeData e p s = endLoad e .badLength 0 s := by
  unfold takeData
  rw [if_pos]
  rcases h with rfl | h
  · rfl
  · simp [h]

end Ending

/-- What the end of a load before its last record shows (R165). -/
theorem data_ends {f : RxFrame} {s u : State} {e : Exec} {why : Reason} {i : Nat} {ps : List Part}
    (h : Directed 0x28 f s) (hact : handleData f s = endLoad e why i u) (hk : KeepsAllBut ps s u)
    (hps : Part.portA ∉ ps ∧ Part.portB ∉ ps ∧ Part.ownNode ∉ ps) :
    ∃ t, exec (.data f) s = .next t
      ∧ FinalPlaced (finalFrame e s.link.ownNode .ended why i (loadResult e (u.dropLines e))) s t
      ∧ KeepsAllBut [.portA] ((u.dropLines e).setExec (some { e with phase := .ending })) t := by
  rw [endLoad_eq] at hact
  obtain ⟨hA, hB, hnode⟩ := hps
  exact data_finishes h hact ((hk.mono (by simp +contextual)).trans ((dropLines_keeps u e).mono (qs := .admission :: ps)
    (by simp))) (by simp [hA, hB, hnode])

/-- A stray DATA frame (R166). -/
theorem handleData_stray {f : RxFrame} {s : State}
    (h : ∀ e gap, s.req.exec = some e → e.phase = .loading gap → e.tag ≠ f.tag ∨ e.source ≠ f.src) :
    handleData f s = s.setSup (fedTimer f.src s) := by
  unfold handleData
  rw [supervise_eq]
  dsimp only [setSup_req]
  cases hexec : s.req.exec with
  | none => rfl
  | some e =>
    have stray : e.takesData f = false := by
      unfold Exec.takesData
      split
      · next gap hphase =>
        rcases h e gap hexec hphase with ne | ne <;> simp [ne]
      all_goals rfl
    simp [stray]

/-- The articles stored before a record that ends its load: BAD_FIELD at an invalid record, NO_ROOM at a full table. -/
theorem articles_end {f : RxFrame} {s : State} {e : Exec} {gap : Timer} {n r : Nat} {good : List (List Byte)}
    {bad : List Byte} {later : List (List Byte)} (h : Directed 0x28 f s) (hexec : s.req.exec = some e)
    (hk : e.kind = 0x14) (htag : e.tag = f.tag) (hsource : e.source = f.src) (hc : e.counts = some (n, r))
    (hphase : e.phase = .loading gap) (hpayload : f.payload = (good ++ bad :: later).flatten)
    (hsize : ∀ p ∈ good ++ bad :: later, p.length = 19) (hgood : ∀ p ∈ good, badArticle p = none)
    (hlen : good.length < r) (hroom : (storeRecords good s.tables.articles).length ≤ 4096) {why : Reason} {i : Nat}
    (hends : takeRecords { e with counts := some (n, r - good.length) } (bad :: later)
        ((s.setSup (fedTimer f.src s)).setArticles (storeRecords good s.tables.articles))
      = endLoad { e with counts := some (n, r - good.length) } why i
        ((s.setSup (fedTimer f.src s)).setArticles (storeRecords good s.tables.articles))) :
    ∃ t, exec (.data f) s = .next t ∧ t.req.sup = fedTimer f.src s ∧ KeepsAllBut [.portA, .exec, .sup, .articles] s t
      ∧ t.tables.articles = storeRecords good s.tables.articles
      ∧ t.req.exec = some { e with counts := some (n, r - good.length), phase := .ending }
      ∧ FinalPlaced
          { dst := e.source, src := s.link.ownNode, tag := e.tag, final := true
            body := .response
              { kind := 0x14, completion := .ended, reason := why, field := i
                result := .articlesLoaded (r - good.length) (storeRecords good s.tables.articles).length } } s t := by
  have taken := handleData_taken h hexec htag hsource hphase
  rw [hpayload, takeData_whole (if_pos hk) (by decide) (by simp) hsize,
    takeRecords_stores (s := s.setSup (fedTimer f.src s)) (bad :: later) hk hc hgood hlen hroom] at taken
  have keeps : KeepsAllBut [.sup, .articles] s
      ((s.setSup (fedTimer f.src s)).setArticles (storeRecords good s.tables.articles)) :=
    ((setSup_keeps ..).mono (by simp)).trans ((setArticles_keeps ..).mono (by simp))
  obtain ⟨t, ht, hplaced, hafter⟩ := data_ends h (taken.trans hends) keeps (by simp)
  rw [dropLines_articles (by exact hk)] at hplaced hafter
  have whole := hafter.2.2
  refine ⟨t, ht, whole .sup (by simp), (keeps.mono (by simp)).trans
    (((setExec_keeps ..).mono (by simp)).trans (hafter.mono (by simp))), whole .articles (by simp),
    (whole .exec (by simp)).1, ?_⟩
  rw [loadResult, if_pos (by exact hk), finalFrame] at hplaced
  exact hk ▸ hplaced

/-- The lines gathered before an invalid one go with the admission record. -/
theorem lines_end {f : RxFrame} {s : State} {e : Exec} {gap : Timer} {n r i : Nat} {a : Admission}
    {good : List (List Byte)} {bad : List Byte} {later : List (List Byte)} (h : Directed 0x28 f s)
    (hexec : s.req.exec = some e) (hk : e.kind = 0x19) (htag : e.tag = f.tag) (hsource : e.source = f.src)
    (hc : e.counts = some (n, r)) (hphase : e.phase = .loading gap) (ha : s.plans.admission = some a)
    (hpayload : f.payload = (good ++ bad :: later).flatten) (hsize : ∀ p ∈ good ++ bad :: later, p.length = 6)
    (hgood : LinesGood a good) (hbad : badLine (a.lines ++ good.map lineOf) bad = some i) (hlen : good.length < r) :
    ∃ t, exec (.data f) s = .next t ∧ t.req.sup = fedTimer f.src s ∧ KeepsAllBut [.portA, .exec, .sup, .admission] s t
      ∧ t.plans.admission = none
      ∧ t.req.exec = some { e with counts := some (n, r - good.length), phase := .ending }
      ∧ FinalPlaced
          { dst := e.source, src := s.link.ownNode, tag := e.tag, final := true
            body := .response
              { kind := 0x19, completion := .ended, reason := .badField, field := i
                result := .remaining (r - good.length) } } s t := by
  have taken := handleData_taken h hexec htag hsource hphase
  rw [hpayload, takeData_whole (recordBytes_lines hk) (by decide) (by simp) hsize,
    takeRecords_gathers (s := s.setSup (fedTimer f.src s)) (bad :: later) hk hc ha hgood hlen,
    takeRecords_badLine (e := { e with counts := some (n, r - good.length) }) (a := a.gather good) hk rfl hbad] at taken
  have keeps : KeepsAllBut [.sup, .admission] s
      ((s.setSup (fedTimer f.src s)).setAdmission (some (a.gather good))) :=
    ((setSup_keeps ..).mono (by simp)).trans ((setAdmission_keeps ..).mono (by simp))
  obtain ⟨t, ht, hplaced, hafter⟩ := data_ends h taken keeps (by simp)
  rw [dropLines_lines (by exact hk)] at hplaced hafter
  have whole := hafter.2.2
  refine ⟨t, ht, whole .sup (by simp), (keeps.mono (by simp)).trans (((setAdmission_keeps ..).mono (by simp)).trans
    (((setExec_keeps ..).mono (by simp)).trans (hafter.mono (by simp)))), whole .admission (by simp),
    (whole .exec (by simp)).1, ?_⟩
  rw [loadResult, if_neg (by rw [show Exec.kind _ = 0x19 from hk]; decide), finalFrame] at hplaced
  exact hk ▸ hplaced

/-- A payload of no whole records ends its load with nothing stored. -/
theorem badLength_ends {f : RxFrame} {s : State} {e : Exec} {gap : Timer} {n r : Nat} (h : Directed 0x28 f s)
    (hexec : s.req.exec = some e) (hk : e.kind = 0x14 ∨ e.kind = 0x19) (htag : e.tag = f.tag)
    (hsource : e.source = f.src) (hc : e.counts = some (n, r)) (hphase : e.phase = .loading gap)
    (hlen : f.payload = [] ∨ f.payload.length % (if e.kind = 0x14 then 19 else 6) ≠ 0) :
    ∃ t, exec (.data f) s = .next t ∧ t.req.sup = fedTimer f.src s ∧ KeepsAllBut [.portA, .exec, .sup, .admission] s t
      ∧ (e.kind = 0x19 → t.plans.admission = none) ∧ (e.kind = 0x14 → t.plans.admission = s.plans.admission)
      ∧ t.req.exec = some { e with phase := .ending }
      ∧ FinalPlaced
          { dst := e.source, src := s.link.ownNode, tag := e.tag, final := true
            body := .response
              { kind := e.kind, completion := .ended, reason := .badLength, field := 0
                result := if e.kind = 0x14 then .articlesLoaded r s.tables.articles.length else .remaining r } } s t := by
  have taken := handleData_taken h hexec htag hsource hphase
  rw [takeData_badLength (e := e) (by rcases hk with k | k <;> simpa [Exec.recordBytes, articleRecordBytes,
      lineRecordBytes, k] using hlen)] at taken
  obtain ⟨t, ht, hplaced, hafter⟩ := data_ends h taken (setSup_keeps ..) (by simp)
  have dropped := dropLines_keeps (s.setSup (fedTimer f.src s)) e
  have whole := hafter.2.2
  have sup : t.req.sup = ((s.setSup (fedTimer f.src s)).dropLines e).req.sup := whole .sup (by simp)
  have remaining : e.remaining = r := by rw [Exec.remaining, hc]
  refine ⟨t, ht, sup.trans (dropped.2.2 .sup (by simp)), ?_, fun k => ?_, fun k => ?_,
    (whole .exec (by simp)).1, ?_⟩
  · exact ((setSup_keeps ..).mono (by simp)).trans ((dropped.mono (by simp)).trans
      (((setExec_keeps ..).mono (by simp)).trans (hafter.mono (by simp))))
  · rw [dropLines_lines k] at whole
    exact whole .admission (by simp)
  · rw [dropLines_articles k] at whole
    exact whole .admission (by simp)
  · have articles : ((s.setSup (fedTimer f.src s)).dropLines e).tables.articles = s.tables.articles :=
      dropped.2.2 .articles (by simp)
    rw [loadResult, articles, remaining] at hplaced
    exact hplaced

/-- Settles O32: a load ends at the record that fails (`articles_end`, `lines_end`), or at once when the payload is not
whole records; a DATA frame of no open load is stray. -/
theorem dataEndsALoad : Obligations.DataEndsALoad := by
  refine ⟨?_, ?_, ?_, fun f s h hstray => ?_⟩
  · intro f s e gap n r good bad later h hexec hk htag hsource hc hphase hpayload hsize hgood hlen stored ends hroom
    have ending := @articles_end f s e gap n r good bad later h hexec hk htag hsource hc hphase hpayload hsize hgood
      hlen hroom
    exact ⟨fun i hbad => ending (takeRecords_badArticle (by exact hk) hbad later), fun hvalid hfull hnew =>
      ending (takeRecords_noRoom (by exact hk) hvalid hfull hnew later)⟩
  · intro f s e gap n r i a good bad later h hexec hk htag hsource hc hphase ha hpayload hsize hgood hbad hlen
    exact lines_end h hexec hk htag hsource hc hphase ha hpayload hsize hgood hbad hlen
  · intro f s e gap n r h hexec hk htag hsource hc hphase hlen
    exact badLength_ends h hexec hk htag hsource hc hphase hlen
  · have keeps := setSup_keeps s (fedTimer f.src s)
    have served := h.served'.effect (keeps.mono (by simp))
    exact ⟨_, by rw [exec_data h, handleData_stray hstray, settle_of_served served], rfl, keeps⟩

end Sys2Proof.Machine
end

section
/-!
PROOFS. The counts of a plan line (R73 to R76, R80, R81).
-/

namespace Sys2Proof.Machine

/-! ### A line of a plan changed -/

theorem onLine_eq {p : Plan} {j : Nat} {l : PlanLine} (h : p.lines[j]? = some l) (g : PlanLine → PlanLine) :
    p.onLine j g = { p with lines := p.lines.set j (g l) } := by
  rw [Plan.onLine, List.modify_eq_set_getElem?, h]
  rfl

theorem onPlan_keeps (s : State) (id : PlanId) (g : Plan → Plan) : KeepsAllBut [.plans] s (s.onPlan id g) :=
  ⟨rfl, rfl, fun p hp => by cases p <;> simp_all [Part.Same]⟩

theorem plan_onPlan_same {s : State} {id : PlanId} {p : Plan} {g : Plan → Plan} (hp : s.plan id = some p)
    (hg : ∀ q, (g q).id = q.id) : (s.onPlan id g).plan id = some (g p) := by
  rw [plan_onPlan s id id hg, if_pos rfl, hp]
  rfl

theorem plan_onPlan_other {s : State} {id other : PlanId} {g : Plan → Plan} (hne : other ≠ id)
    (hg : ∀ q, (g q).id = q.id) : (s.onPlan id g).plan other = s.plan other := by
  rw [plan_onPlan s id other hg, if_neg hne]

/-- What P − 1 leaves of a plan and its device, the lines of the plan being `lines` afterwards (R74, R76, R80). -/
def LessLines (p : Plan) (lines : List PlanLine) (s t : State) : Prop :=
  if p.state = .draining then
    KeepsAllBut [.plans, .stations, .builds, .flags, .exec] s t
      ∧ ∃ st b, t.plan p.id = some { p with lines := lines, part := min 15 (p.part + 1), state := st, bound := b }
        ∧ (st = .queued ∧ b = p.bound ∨ st = .building ∧ b ≠ none)
        ∧ ∃ m : State, KeepsAllBut [.plans] s m ∧ (∀ other, other ≠ p.id → m.plan other = s.plan other)
            ∧ m.plan p.id = some { p with lines := lines, part := min 15 (p.part + 1), state := .queued }
            ∧ t = bindingAttempt m
  else KeepsAllBut [.plans] s t ∧ t.plan p.id = some { p with lines := lines }

theorem report_taken (b : ReportBody) (s : State) : ReportsTaken [b] s (report b s) := by
  have level : (reportNow s b).level = s.levelOf b := rfl
  rw [ReportsTaken, taking, List.foldl_cons, List.foldl_nil, level, report]
  split_ifs <;> rfl

/-- A line with D + 1 (R75). -/
def PlanLine.place (l : PlanLine) : PlanLine := { l with placed := l.placed + 1 }

/-- A line of a plan with D + 1. -/
def State.placedOn (s : State) (id : PlanId) (j : Nat) : State := s.onPlan id fun q => q.onLine j PlanLine.place

section Counts

variable {s : State} {id : PlanId} {p : Plan} {j : Nat} {l : PlanLine}
variable (hp : s.plan id = some p) (hl : p.lines[j]? = some l)
include hp hl

theorem lessPlan_less (g : PlanLine → PlanLine) :
    LessLines p (p.lines.set j (g l)) s (lessPlan p.id p j g s) := by
  obtain rfl := plan_id hp
  have fixed : ∀ q : Plan, (q.onLine j g).reopened.id = q.id := fun q => (reopened_fixed _).1
  have keeps := onPlan_keeps s p.id fun q => (q.onLine j g).reopened
  have changed := plan_onPlan_same hp fixed
  have line := onLine_eq hl g
  unfold LessLines lessPlan
  dsimp only
  split_ifs with draining
  · have reopened : (s.onPlan p.id fun q => (q.onLine j g).reopened).plan p.id = some
        { p with lines := p.lines.set j (g l), part := min 15 (p.part + 1), state := .queued } := by
      rw [changed, line, Plan.reopened, if_pos draining]
      rfl
    have binds := bindingAttempt_binds (s.onPlan p.id fun q => (q.onLine j g).reopened)
    refine ⟨(keeps.mono (by simp)).trans (binds.keeps.mono (by simp)), ?_⟩
    obtain ⟨q, hq, rfl | ⟨i, -, rfl⟩⟩ := binds.plan p.id _ reopened
    · exact ⟨.queued, p.bound, hq, .inl ⟨rfl, rfl⟩, _, keeps, fun o ho => plan_onPlan_other ho fixed, reopened, rfl⟩
    · exact ⟨.building, some i, hq, .inr ⟨rfl, by simp⟩, _, keeps, fun o ho => plan_onPlan_other ho fixed, reopened,
        rfl⟩
  · refine ⟨keeps, ?_⟩
    rw [changed, line, Plan.reopened, if_neg (by exact draining)]

theorem takesPlanned_eq : s.takesPlanned id j = l.isOpen := by
  simp [State.takesPlanned, hp, hl]

theorem planMore_open (h : l.planned < l.required) :
    (planMore id j s).plan id = some { p with lines := p.lines.set j { l with planned := l.planned + 1 } }
      ∧ KeepsAllBut [.plans] s (planMore id j s) := by
  have takes : s.takesPlanned id j = true := by simpa [takesPlanned_eq hp hl, PlanLine.isOpen] using h
  rw [planMore, if_pos takes]
  exact ⟨(plan_onPlan_same (g := fun q => q.onLine j _) hp fun _ => rfl).trans (congrArg some (onLine_eq hl _)),
    onPlan_keeps ..⟩

theorem planMore_full (h : l.planned = l.required) : planMore id j s = s := by
  have shut : ¬ s.takesPlanned id j = true := by simp [takesPlanned_eq hp hl, PlanLine.isOpen, h]
  rw [planMore, if_neg shut]

theorem planLess_eq : planLess (some id) j s =
    if l.placed < l.planned then lessPlan p.id p j (fun l => { l with planned := l.planned - 1 }) s else s := by
  simp [planLess, hp, hl]

theorem revertPlaced_eq : revertPlaced (some id) j s =
    if 0 < l.placed then
      lessPlan p.id p j (fun l => { l with planned := l.planned - 1, placed := l.placed - 1 }) s
    else s := by
  simp [revertPlaced, hp, hl]

theorem placeMore_full (h : l.placed = l.planned) : placeMore (some id) j s = (s, none) := by
  simp [placeMore, hp, hl, h]

theorem placeMore_eq (h : l.placed < l.planned) : placeMore (some p.id) j s =
    if (∀ m ∈ p.lines.set j l.place, m.placed = m.required) then
      (completePlan { p with lines := p.lines.set j l.place } (s.placedOn p.id j),
        if p.state = .building then p.bound else none)
    else (s.placedOn p.id j, none) := by
  have held : s.plan p.id = some p := plan_id hp ▸ hp
  have line : (p.onLine j fun l => { l with placed := l.placed + 1 }) = { p with lines := p.lines.set j l.place } :=
    onLine_eq hl _
  have complete : Plan.complete { p with lines := p.lines.set j l.place } = true
      ↔ ∀ m ∈ p.lines.set j l.place, m.placed = m.required := by
    simp [Plan.complete]
  simp only [placeMore, Option.bind_some, held, hl, if_pos h, line, complete]
  rfl

/-- D + 1 on a line that is not the last open one leaves the plan with that line; on the last it completes the plan. -/
theorem placeMore_placed (h : l.placed < l.planned) :
    KeepsAllBut [.plans, .reports] s (placeMore (some id) j s).1 ∧
    if (∀ m ∈ p.lines.set j l.place, m.placed = m.required) then
      (placeMore (some id) j s).1.plan id = none
        ∧ (placeMore (some id) j s).2 = (if p.state = .building then p.bound else none)
        ∧ ReportsTaken [.planDone p.id p.part] s (placeMore (some id) j s).1
    else (placeMore (some id) j s).1.plan id = some { p with lines := p.lines.set j l.place }
      ∧ (placeMore (some id) j s).2 = none := by
  obtain rfl := plan_id hp
  have keeps : KeepsAllBut [.plans] s (s.placedOn p.id j) := onPlan_keeps ..
  rw [placeMore_eq hp hl h]
  by_cases done : ∀ m ∈ p.lines.set j l.place, m.placed = m.required
  · rw [if_pos done, if_pos done]
    refine ⟨(keeps.mono (by simp)).trans (((report_keeps ..).mono (by simp)).trans ((dropPlan_keeps ..).mono (by simp))),
      ?_, rfl, ?_⟩
    · simp [completePlan, State.plan, State.dropPlan]
    · have reports := report_reports_congr (s := s) (u := s.placedOn p.id j) (.planDone p.id p.part) rfl rfl
      exact reports.trans (report_taken (.planDone p.id p.part) s)
  · rw [if_neg done, if_neg done]
    exact ⟨keeps.mono (by simp), (plan_onPlan_same (g := fun q => q.onLine j _) hp fun _ => rfl).trans
      (congrArg some (onLine_eq hl _)), rfl⟩

end Counts

/-- Settles O36, by one lemma for each of P + 1, P − 1, the revert of a confirmed case and D + 1. -/
theorem countsMoveByOne : Obligations.CountsMoveByOne := by
  refine ⟨fun s id j p l hp hl => ?_, fun s id j hnone => ?_⟩
  · have own := plan_id hp
    refine ⟨planMore_open hp hl, planMore_full hp hl, fun h => ?_, fun h => ⟨?_, ?_⟩, fun h => ?_, fun h => ?_,
      placeMore_placed hp hl⟩
    · rw [planLess_eq hp hl, if_pos h]
      exact own ▸ lessPlan_less hp hl _
    · rw [planLess_eq hp hl, if_neg (by omega)]
    · rw [placeMore_full hp hl h]
    · rw [revertPlaced_eq hp hl, if_pos h]
      exact own ▸ lessPlan_less hp hl _
    · rw [revertPlaced_eq hp hl, if_neg (by omega)]
  · cases hp : s.plan id with
    | none => simp [planMore, State.takesPlanned, planLess, revertPlaced, placeMore, hp]
    | some p =>
      have hl := hnone p hp
      simp [planMore, State.takesPlanned, planLess, revertPlaced, placeMore, hp, hl]

end Sys2Proof.Machine
end

section
/-!
PROOFS. The service of the ports after an event that sends frames to port B, queues several reports, or both: the two
sides of the service do not meet (R156, R176, R187, R188).
-/

namespace Sys2Proof.Machine

/-! ### Port A's side does not read port B -/

/-- The state with the port B side of another. -/
def State.withB (u s : State) : State :=
  { u with link := { u.link with
      portB := s.link.portB, fwdB := s.link.fwdB, ownB := s.link.ownB, waitB := s.link.waitB } }

theorem withB_keeps (u s : State) : KeepsAllBut [.portB] u (u.withB s) := by
  refine ⟨rfl, rfl, fun p hp => ?_⟩
  cases p <;> simp_all [Part.Same, State.withB]

theorem moveUp_withB (u s : State) : moveUp (u.withB s) = (moveUp u).withB s := by
  unfold moveUp
  cases hs : u.link.slot <;> cases hw : u.req.waiting <;> simp [State.withB, hs, hw]

theorem produceReply_withB (u s : State) : produceReply (u.withB s) = (produceReply u).withB s := by
  unfold produceReply
  dsimp only [State.withB]
  split
  · rfl
  · split <;> (try split) <;> rfl

theorem fillSlot_withB (u s : State) : fillSlot (u.withB s) = (fillSlot u).withB s := by
  unfold fillSlot
  rw [moveUp_withB]
  dsimp only
  rw [produceReply_withB]
  by_cases h : ((moveUp u).link.slot.isNone && (moveUp u).req.waiting.isNone && !(moveUp u).req.late) = true
  · rw [if_pos h, if_pos (by exact h)]
  · rw [if_neg h, if_neg (by exact h)]

theorem sendForwardA_withB (u s : State) : sendForwardA (u.withB s) = (sendForwardA u).withB s := by
  unfold sendForwardA
  dsimp only [State.withB]
  split <;> rfl

theorem sendReport_withB (u s : State) : sendReport (u.withB s) = (sendReport u).withB s := by
  unfold sendReport
  dsimp only [State.withB]
  split <;> rfl

theorem sendOwnA_withB (u s : State) : sendOwnA (u.withB s) = (sendOwnA u).withB s := by
  unfold sendOwnA
  have slot : (u.withB s).link.slot = u.link.slot := rfl
  rw [slot, sendReport_withB]
  split <;> rfl

theorem startA_withB (u s : State) : startA (u.withB s) = (startA u).withB s := by
  have guards : startA (u.withB s) = if u.link.portA.sending.isSome then u.withB s
      else match chooseSide (!u.link.fwdA.isEmpty) (u.link.slot.isSome || !u.reports.queue.isEmpty)
          u.link.portA.mark with
        | some .forward => sendForwardA (u.withB s)
        | some .own => sendOwnA (u.withB s)
        | none => u.withB s := rfl
  rw [guards, sendForwardA_withB, sendOwnA_withB, startA]
  generalize chooseSide (!u.link.fwdA.isEmpty) (u.link.slot.isSome || !u.reports.queue.isEmpty) u.link.portA.mark = side
  split_ifs
  · rfl
  · rcases side with _ | (_ | _) <;> rfl

theorem drawLate_withB (u s : State) : drawLate (u.withB s) = (drawLate u).withB s := by
  unfold drawLate
  by_cases h : replying u.req.exec = true
  · rw [if_pos h, if_pos (by exact h)]
    rfl
  · rw [if_neg h, if_neg (by exact h)]

theorem turnA_withB (u s : State) : turnA (u.withB s) = (turnA u).withB s := by
  have again : fillSlot { u.withB s with req := { (u.withB s).req with late := false } }
      = (fillSlot { u with req := { u.req with late := false } }).withB s :=
    fillSlot_withB { u with req := { u.req with late := false } } s
  unfold turnA
  dsimp only
  rw [startA_withB, again, startA_withB, drawLate_withB, drawLate_withB]
  have link : ∀ v : State, (v.withB s).link.portA = v.link.portA := fun _ => rfl
  rw [link, link, link]
  split_ifs <;> rfl

/-- The service of port A does to a state what it does to one that differs from it at port B. -/
theorem settle_withB (u s : State) :
    Part.Same (settle (u.withB s)) (settle u) .portA ∧ (settle u).req = (settle (u.withB s)).req
      ∧ (settle u).draws = (settle (u.withB s)).draws ∧ (settle u).reports = (settle (u.withB s)).reports := by
  rw [settle_eq, settle_eq, fillSlot_withB, turnA_withB, fillSlot_withB]
  generalize fillSlot (turnA (fillSlot u)) = v
  obtain ⟨hA, hreq, hreports⟩ := startB_sideA v
  obtain ⟨hA', hreq', hreports'⟩ := startB_sideA (v.withB s)
  obtain ⟨a, b, c, d, e⟩ := hA
  obtain ⟨a', b', c', d', e'⟩ := hA'
  exact ⟨⟨a.trans a'.symm, b.trans b'.symm, c.trans c'.symm, d.trans d'.symm, e.trans e'.symm⟩,
    hreq.trans hreq'.symm, rfl, hreports.trans hreports'.symm⟩

/-! ### A RESPONSE, with frames for port B -/

theorem placeResponse_withB (fr : OwnFrame) (u s : State) :
    placeResponse fr (u.withB s) = (placeResponse fr u).withB s := by
  unfold placeResponse
  cases hs : u.link.slot <;> cases hw : u.req.waiting <;> simp [State.withB, hs, hw]

/-- A RESPONSE put on the way out of port A after an event that may have sent frames to port B. -/
theorem settle_put_with {s u : State} (fr : OwnFrame) (h : Served s) (hA : Part.Same s u .portA)
    (hroom : s.placesFull = false) (hx : s.link.portA.sending = none → replying u.req.exec = false) :
    PutOnA fr s (settle (placeResponse fr u))
      ∧ KeepsAllBut [.portA, .portB] u (settle (placeResponse fr u))
      ∧ JoinedB [] u (settle (placeResponse fr u)) := by
  obtain ⟨hput, -, hexec, hreports⟩ := settle_put (u := u.withB s) fr h hA ⟨rfl, rfl, rfl, rfl⟩ hroom hx
  rw [placeResponse_withB] at hput hexec hreports
  obtain ⟨⟨a, b, c, d, e⟩, hreq, hdraws, hr⟩ := settle_withB (placeResponse fr u) s
  have placed : Services u (placeResponse fr u) ∧ Part.Same u (placeResponse fr u) .portB := by
    unfold placeResponse
    split_ifs <;> exact ⟨⟨rfl, rfl, rfl, rfl, rfl, rfl, rfl, rfl, rfl, rfl, rfl, rfl, rfl, rfl, rfl⟩, rfl, rfl, rfl, rfl⟩
  have joined := (JoinedB.of_same placed.2).trans (settle_joined _) placed.1.ownNode
  have served := (placed.1.trans (settle_services _)).keeps
  refine ⟨?_, ⟨served.1, served.2.1, fun p hp => ?_⟩, joined⟩
  · unfold PutOnA at hput ⊢
    rwa [a, b, c, d, e]
  · by_cases hexecPart : p = .exec
    · subst hexecPart
      obtain ⟨x, l, n⟩ := hexec
      exact ⟨(congrArg (·.exec) hreq).trans x, (congrArg (·.late) hreq).trans l, hdraws.trans n⟩
    · by_cases hreportsPart : p = .reports
      · subst hreportsPart
        have all := hr.trans hreports
        exact ⟨congrArg (·.queue) all, congrArg (·.lost) all⟩
      · exact served.2.2 p (by simp_all)

/-- A taken request that its act answers after sending frames to port B. -/
theorem request_answered_with {k : Byte} {n : Nat} {bad : List Byte → Option Nat} {act : RxFrame → State → State}
    {f : RxFrame} {s u : State} {ps : List Part} {r : Response} (h : TakenAt k n f s) (hb : bad f.payload = none)
    (hact : act f (s.setSup (fedTimer f.src s)) = answer f r u) (hk : KeepsAllBut ps (s.setSup (fedTimer f.src s)) u)
    (hps : Part.portA ∉ ps ∧ Part.exec ∉ ps ∧ Part.ownNode ∉ ps ∧ Part.sup ∉ ps) :
    ∃ t, live (receive k f (request k n bad act f)) s = .next t
      ∧ PutOnA (responseFrame s f r) s t ∧ t.req.sup = fedTimer f.src s
      ∧ KeepsAllBut [.portA, .portB] u t ∧ JoinedB [] u t := by
  obtain ⟨hA, hexec, hnode, hsup⟩ := hps
  have changed : KeepsAllBut (.sup :: ps) s u :=
    ((setSup_keeps ..).mono (by simp)).trans (hk.mono (by simp +contextual))
  have exec : u.req.exec = s.req.exec := (changed.2.2 .exec (by simp [hexec])).1
  have node : u.link.ownNode = s.link.ownNode := changed.2.2 .ownNode (by simp [hnode])
  have served := h.toRunning.served'
  obtain ⟨hput, hkeeps, hjoined⟩ := settle_put_with (u := u) (responseFrame s f r) served
    (changed.2.2 .portA (by simp [hA])) h.room fun hs => exec ▸ served.no_reply hs
  have fed : Part.Same (s.setSup (fedTimer f.src s)) (settle (placeResponse (responseFrame s f r) u)) .sup :=
    (hk.2.2 .sup hsup).trans (hkeeps.2.2 .sup (by simp))
  refine ⟨settle (placeResponse (responseFrame s f r) u), ?_, hput, fed, hkeeps, hjoined⟩
  rw [live_directed h.toDirected, request_taken h hb, hact, answer, h.single, responseFrame, node]
  rfl

/-! ### Reports -/

theorem settle_quietA {u s : State} (hs : Served (u.withB s)) :
    Part.Same u (settle u) .portA ∧ (settle u).req = u.req ∧ (settle u).draws = u.draws
      ∧ (settle u).reports = u.reports := by
  have same := settle_withB u s
  rw [settle_of_served hs] at same
  exact same

theorem chooseReport_ne_none {q : List Report} (h : q ≠ []) : chooseReport q ≠ none := by
  cases q with
  | nil => exact absurd rfl h
  | cons r q =>
    unfold chooseReport
    split
    · simp
    · split_ifs <;> simp

/-- An idle port A sends the report that R176 chooses. -/
theorem turnA_sendsReport {u : State} (hf : Filled u) (hi : u.link.portA.sending = none) (hfwd : u.link.fwdA = [])
    (hslot : u.link.slot = none) (hx : replying u.req.exec = false) {r : Report} {rest : List Report}
    (hr : chooseReport u.reports.queue = some (r, rest)) :
    settle u = startB { u with
      link := { u.link with
        portA :=
          { sending := some (.own
              { dst := node u.req.settings.controlNode, src := u.link.ownNode, tag := 0
                body := .report r u.reports.lost, final := false })
            mark := .own } }
      reports := { u.reports with queue := rest, lost := 0 } } := by
  have queue : u.reports.queue.isEmpty = false := by
    cases hq : u.reports.queue with
    | nil => rw [hq] at hr; cases hr
    | cons => rfl
  refine settle_starts hf hi ?_ rfl hx ⟨fun _ => hf.slot hslot, hf.waiting⟩
  simp [startA, hi, hfwd, hslot, queue, chooseSide, sendOwnA, sendReport, hr]

/-- What a command that queues reports and answers nothing leaves at port A (R176). -/
theorem settle_reportedAll {s x : State} {bs : List ReportBody} {ps : List Part} (h : Served s) (hk : KeepsAllBut ps s x)
    (hps : Part.portA ∉ ps ∧ Part.ownNode ∉ ps ∧ Part.settings ∉ ps)
    (hx : replying x.req.exec = replying s.req.exec) (hl : x.req.late = s.req.late) (hr : ReportsTaken bs s x) :
    ReportedAll bs s (settle x) ∧ (settle x).req = x.req ∧ (settle x).draws = x.draws := by
  obtain ⟨hA, hnode, hsettings⟩ := hps
  have same := hk.2.2 .portA hA
  obtain ⟨a, b, c, d, e⟩ := id same
  have node : x.link.ownNode = s.link.ownNode := hk.2.2 .ownNode hnode
  have settings : x.req.settings = s.req.settings := hk.2.2 .settings hsettings
  have filled : Filled (x.withB s) := by
    refine ⟨fun hs => ?_, fun hw => ?_⟩
    · obtain ⟨w, held, reply⟩ := h.slot (c ▸ hs)
      exact ⟨d.trans w, e.trans held, fun late => hx.trans (reply (hl ▸ late))⟩
    · exact e.trans (h.waiting (d ▸ hw))
  by_cases quiet : s.link.portA.sending ≠ none ∨ (taking s bs).queue = []
  · have served : Served (x.withB s) := by
      refine ⟨filled, fun hi => ?_, h.idleB⟩
      obtain ⟨f, sl, -, late⟩ := h.idleA (a ▸ hi)
      exact ⟨b.trans f, c.trans sl, (congrArg (·.queue) hr).trans (quiet.resolve_left fun hne => hne (a ▸ hi)),
        hl.trans late⟩
    obtain ⟨⟨a', b', c', d', e'⟩, hreq, hdraws, hreports⟩ := settle_quietA served
    refine ⟨⟨b'.trans b, c'.trans c, d'.trans d, e'.trans e, ?_⟩, hreq, hdraws⟩
    rw [if_pos quiet]
    exact ⟨a'.trans a, hreports.trans hr⟩
  · obtain ⟨hi, hq⟩ : s.link.portA.sending = none ∧ (taking s bs).queue ≠ [] := by
      simpa only [not_or, not_not] using quiet
    obtain ⟨hfwd, hslot, -, -⟩ := h.idleA hi
    obtain ⟨r, rest, hc⟩ : ∃ r rest, chooseReport (taking s bs).queue = some (r, rest) := by
      rcases hq' : chooseReport (taking s bs).queue with _ | ⟨r, rest⟩
      · exact absurd hq' (chooseReport_ne_none hq)
      · exact ⟨r, rest, rfl⟩
    obtain ⟨before, later, split, left, first, last⟩ := chooseReport_split hc
    have sent := turnA_sendsReport filled ((congrArg (·.sending) a).trans hi) (b.trans hfwd) (c.trans hslot)
      (hx.trans (h.no_reply hi)) (r := r) (rest := rest) (by rw [show (x.withB s).reports = taking s bs from hr]; exact hc)
    obtain ⟨⟨a', b', c', d', e'⟩, hreq, hdraws, hreports⟩ := settle_withB x s
    rw [sent] at a' b' c' d' e' hreq hdraws hreports
    obtain ⟨⟨a₂, b₂, c₂, d₂, e₂⟩, hreq₂, hreports₂⟩ := startB_sideA
      { x.withB s with
        link := { (x.withB s).link with
          portA :=
            { sending := some (.own
                { dst := Machine.node (x.withB s).req.settings.controlNode, src := (x.withB s).link.ownNode, tag := 0
                  body := .report r (x.withB s).reports.lost, final := false })
              mark := .own } }
        reports := { (x.withB s).reports with queue := rest, lost := 0 } }
    have lost : (x.withB s).reports.lost = (taking s bs).lost := congrArg (·.lost) hr
    refine ⟨⟨b'.trans (b₂.trans b), c'.trans (c₂.trans c), d'.trans (d₂.trans d), e'.trans (e₂.trans e), ?_⟩,
      hreq.trans hreq₂, hdraws⟩
    rw [if_neg quiet]
    refine ⟨before, r, later, split, first, last, a'.trans (a₂.trans ?_), hreports.trans (hreports₂.trans ?_)⟩
    · rw [lost, show (x.withB s).req.settings = s.req.settings from settings,
        show (x.withB s).link.ownNode = s.link.ownNode from node, Machine.node]
    · rw [← left]
      exact congrArg (fun u : ReportUnit => { u with queue := rest, lost := 0 }) hr

/-- The same of one report: it is sent at once by an idle port A (R174). -/
theorem ReportedAll.reported {s t : State} {b : ReportBody} (h : Served s) (hr : ReportedAll [b] s t) :
    Reported b s t := by
  obtain ⟨hfwd, hslot, hwaiting, hheld, hreports⟩ := hr
  refine ⟨hfwd, hslot, hwaiting, hheld, ?_⟩
  have taken : taking s [b] = if (reportNow s b).level = 0 then s.reports else s.reports.take (reportNow s b) := rfl
  rw [taken] at hreports
  by_cases level : (reportNow s b).level = 0
  · rw [if_pos level] at hreports ⊢
    by_cases idle : s.link.portA.sending = none
    · rwa [if_pos (.inr (h.idleA idle).2.2.1)] at hreports
    · rwa [if_pos (.inl idle)] at hreports
  · rw [if_neg level] at hreports ⊢
    by_cases idle : s.link.portA.sending = none
    · have empty := (h.idleA idle).2.2.1
      rw [take_queue_ne _ _ empty, if_neg (by simp [idle])] at hreports
      obtain ⟨before, r, later, split, -, -, hport, left⟩ := hreports
      obtain ⟨rfl, rfl, rfl⟩ : before = [] ∧ reportNow s b = r ∧ later = [] := by
        cases before <;> simp_all
      rw [if_pos idle]
      exact ⟨hport, left.trans (congrArg (fun q => { s.reports with queue := q, lost := 0 }) empty.symm)⟩
    · rw [if_pos (.inl idle)] at hreports
      rwa [if_neg idle]

theorem reportsTaken_nil {s t : State} (h : t.reports = s.reports) : ReportsTaken [] s t := h

/-- What a command that queues no report leaves at port A. -/
theorem ReportedAll.quiet {s t : State} (h : Served s) (hr : ReportedAll [] s t) : Part.Same s t .portA
    ∧ t.reports = s.reports := by
  obtain ⟨hfwd, hslot, hwaiting, hheld, hreports⟩ := hr
  have nothing : s.link.portA.sending ≠ none ∨ (taking s []).queue = [] := by
    by_cases idle : s.link.portA.sending = none
    · exact .inr (h.idleA idle).2.2.1
    · exact .inl idle
  rw [if_pos nothing] at hreports
  exact ⟨⟨hreports.1, hfwd, hslot, hwaiting, hheld⟩, hreports.2⟩

theorem reportNow_congr {s u : State} (hl : Part.Same s u .levels) (ht : Part.Same s u .time) (b : ReportBody) :
    reportNow u b = reportNow s b := by
  have levels : u.reports.levels = s.reports.levels := hl
  have time : u.link.time = s.link.time := ht
  rw [reportNow, reportNow, levels, time]

/-- Reports queued one event behind another of the same moment. -/
theorem ReportsTaken.trans {s t u : State} {bs cs : List ReportBody} (h : ReportsTaken bs s t) (k : ReportsTaken cs t u)
    (hl : Part.Same s t .levels) (ht : Part.Same s t .time) : ReportsTaken (bs ++ cs) s u := by
  unfold ReportsTaken taking at *
  rw [k, h, List.foldl_append]
  simp only [reportNow_congr hl ht]

end Sys2Proof.Machine
end

section
/-!
PROOFS. SET STATION (R127).
-/

namespace Sys2Proof.Machine

theorem Part.Same.symm {s t : State} {p : Part} (h : Part.Same s t p) : Part.Same t s p := by
  cases p <;> simp_all [Part.Same]

/-! ### A station record replaced -/

/-- The state with another record of one station. -/
def State.withStation (s : State) (i : StationNo) (st : Station) : State :=
  { s with stations := s.stations.set i st }

theorem withStation_keeps (s : State) (i : StationNo) (st : Station) :
    KeepsAllBut [.stations] s (s.withStation i st) := by
  refine ⟨rfl, rfl, fun p hp => ?_⟩
  cases p <;> simp_all [Part.Same, State.withStation]

theorem withStation_same (s : State) (i : StationNo) (st : Station) : (s.withStation i st).stations[i] = st := by
  simp [State.withStation]

theorem withStation_other (s : State) (i : StationNo) (st : Station) : OtherStations i s (s.withStation i st) := by
  intro j hj
  have ne : i.val ≠ j.val := fun e => hj (Fin.ext e.symm)
  simp only [State.withStation, Fin.getElem_fin, Vector.getElem_set_ne _ _ ne]

theorem withStation_again (s : State) (i : StationNo) (st st' : Station) :
    (s.withStation i st).withStation i st' = s.withStation i st' := by
  simp [State.withStation]

theorem withStation_own (s : State) (i : StationNo) : s.withStation i s.stations[i] = s := by
  simp [State.withStation]

theorem onStation_eq (s : State) (i : StationNo) (g : Station → Station) :
    s.onStation i g = s.withStation i (g s.stations[i]) := rfl

/-- A device READY for requests notes no transition, so entering a state changes the station record alone. -/
theorem enterState_ready {s : State} {i : StationNo} {n : StationState} (h : s.stations[i].state ≠ n)
    (ready : s.req.exec = none) : s.enterState i n = s.withStation i { s.stations[i] with state := n } := by
  rw [enterState_eq h, ready, Option.map_none, ← ready]
  rfl

theorem enterState_withStation {s : State} {i : StationNo} {st : Station} {n : StationState} (h : st.state ≠ n)
    (ready : s.req.exec = none) :
    (s.withStation i st).enterState i n = s.withStation i { st with state := n } := by
  have differs : (s.withStation i st).stations[i].state ≠ n := by rwa [withStation_same]
  rw [enterState_ready differs ready, withStation_same, withStation_again]

/-! ### The cases of SET STATION -/

section Cases

variable {f : RxFrame} {s : State}

theorem setStation_offline (h : s.stations[stationOf f.payload].state = .offline) : setStation f s =
    if u8At f.payload 1 == 1 then
      if s.tables.bases[(Fin.ofNat 4 (u8At f.payload 2) : BaseKind)].isSome then
        answerStation 0x1B f (stationOf f.payload)
          (bringOnline (stationOf f.payload) (Fin.ofNat 4 (u8At f.payload 2)) s)
      else refuse 0x1B .notFound 0 f s
    else answerStation 0x1B f (stationOf f.payload)
      (s.onStation (stationOf f.payload) fun st => { st with baseKind := Fin.ofNat 4 (u8At f.payload 2) }) := by
  unfold setStation
  dsimp only
  rw [h]

theorem setStation_idle (h : s.stations[stationOf f.payload].state = .idle) : setStation f s =
    if u8At f.payload 1 == 1 then
      if s.stations[stationOf f.payload].baseKind = Fin.ofNat 4 (u8At f.payload 2) then
        answerStation 0x1B f (stationOf f.payload) s
      else refuse 0x1B .wrongState 0 f s
    else answerStation 0x1B f (stationOf f.payload) (s.enterState (stationOf f.payload) .offline) := by
  unfold setStation
  dsimp only
  rw [h]

theorem setStation_working (h : s.stations[stationOf f.payload].state ≠ .offline)
    (h' : s.stations[stationOf f.payload].state ≠ .idle) : setStation f s = refuse 0x1B .wrongState 0 f s := by
  unfold setStation
  dsimp only
  generalize s.stations[stationOf f.payload].state = state at h h'
  cases state with
  | offline => exact absurd rfl h
  | idle => exact absurd rfl h'
  | _ => rfl

theorem bringOnline_ready {i : StationNo} {kind : BaseKind} (h : s.stations[i].state = .offline)
    (ready : s.req.exec = none) : bringOnline i kind s =
      if s.stations[i].ready then
        bindingAttempt (s.withStation i { s.stations[i] with state := .idle, baseKind := kind })
      else s.withStation i { s.stations[i] with state := .idle, baseKind := kind } := by
  have enters : (s.withStation i { s.stations[i] with baseKind := kind }).enterState i .idle =
      s.withStation i { s.stations[i] with state := .idle, baseKind := kind } :=
    enterState_withStation (by dsimp only; rw [h]; decide) ready
  unfold bringOnline
  dsimp only
  rw [onStation_eq, enters, withStation_same]

/-- A SET STATION that answers with the station's record replaced and nothing else changed. -/
theorem setStation_becomes (h : TakenAt 0x1B 3 f s) (hb : badSetStation f.payload = none) {new : Station}
    (hact : setStation f (s.setSup (fedTimer f.src s)) = answerStation 0x1B f (stationOf f.payload)
      ((s.setSup (fedTimer f.src s)).withStation (stationOf f.payload) new)) :
    ∃ t, exec (.setStation f) s = .next t ∧ AnsweredDone 0x1B f (.stationState new.state) s t
      ∧ t.stations[stationOf f.payload] = new ∧ OtherStations (stationOf f.payload) s t
      ∧ KeepsAllBut [.portA, .sup, .stations] s t := by
  rw [answerStation, withStation_same] at hact
  obtain ⟨t, ht, hdone, hkeeps, hafter⟩ := request_done h hb hact (withStation_keeps ..) (by simp)
  have stations : t.stations = ((s.setSup (fedTimer f.src s)).withStation (stationOf f.payload) new).stations :=
    hafter.2.2 .stations (by simp)
  refine ⟨t, ht, hdone, ?_, fun j hj => ?_, hkeeps⟩
  · rw [stations, withStation_same]
  · rw [stations]
    exact withStation_other (s.setSup (fedTimer f.src s)) _ new j hj

/-- A ready station brought online is IDLE, or BUILDING with what the binding attempt gave it. -/
theorem setStation_offers (h : TakenAt 0x1B 3 f s) (hb : badSetStation f.payload = none) {new : Station}
    (hact : setStation f (s.setSup (fedTimer f.src s)) = answerStation 0x1B f (stationOf f.payload)
      (bindingAttempt ((s.setSup (fedTimer f.src s)).withStation (stationOf f.payload) new))) :
    ∃ t, exec (.setStation f) s = .next t
      ∧ AnsweredDone 0x1B f (.stationState t.stations[stationOf f.payload].state) s t
      ∧ (t.stations[stationOf f.payload] = new ∨ t.stations[stationOf f.payload] = { new with state := .building })
      ∧ KeepsAllBut [.portA, .sup, .stations, .plans, .builds, .flags] s t
      ∧ KeepsAllBut [.portA, .sup] (bindingAttempt (s.withStation (stationOf f.payload) new)) t := by
  have offers := (bindingAttempt_binds ((s.setSup (fedTimer f.src s)).withStation (stationOf f.payload) new)).toOffers
  have supervised : KeepsAllBut [.sup, .exec] (s.withStation (stationOf f.payload) new)
      ((s.setSup (fedTimer f.src s)).withStation (stationOf f.payload) new) :=
    (setSup_keeps (s.withStation (stationOf f.payload) new) _).mono (by simp)
  have attempt := bindingAttempt_congr (by simp [Aside]) supervised
  have plain := (bindingAttempt_binds (s.withStation (stationOf f.payload) new)).ready h.ready
  generalize bindingAttempt (s.withStation (stationOf f.payload) new) = v at attempt plain ⊢
  have attempted : KeepsAllBut [.portA, .sup] v (bindingAttempt
      ((s.setSup (fedTimer f.src s)).withStation (stationOf f.payload) new)) :=
    (attempt.mono (qs := [.exec, .sup]) (by simp)).but (Part.Same.trans (Part.Same.symm plain)
      (offers.ready h.ready)) |>.mono (by simp)
  generalize bindingAttempt ((s.setSup (fedTimer f.src s)).withStation (stationOf f.payload) new) = u at hact offers attempted
  have changed : KeepsAllBut [.plans, .stations, .builds, .flags] (s.setSup (fedTimer f.src s)) u :=
    (((withStation_keeps ..).mono (by simp)).trans (offers.keeps.mono (qs := [.exec, .plans, .stations, .builds, .flags])
      (by simp))).but (offers.ready h.ready)
  obtain ⟨t, ht, hdone, hkeeps, hafter⟩ := request_done h hb hact changed (by simp)
  have stations : t.stations = u.stations := hafter.2.2 .stations (by simp)
  have own := offers.station (stationOf f.payload)
  rw [withStation_same] at own
  refine ⟨t, ht, ?_, ?_, hkeeps.mono (by simp), attempted.trans (hafter.mono (by simp))⟩
  · rw [stations]
    exact hdone
  · rw [stations]
    exact own.imp_right And.right

end Cases

/-- Settles O37, by the state of the station; a ready station brought online is offered to the plan queue by
`bindingAttempt_binds`. -/
theorem setStationCompletes : Obligations.SetStationCompletes := by
  intro f s h hb i st kind refused becomes
  have decline : ∀ r, setStation f (s.setSup (fedTimer f.src s)) = refuse 0x1B r 0 f (s.setSup (fedTimer f.src s)) →
      refused r := fun r => request_declined h hb
  have becoming : ∀ new, setStation f (s.setSup (fedTimer f.src s)) = answerStation 0x1B f i
      ((s.setSup (fedTimer f.src s)).withStation i new) → becomes new := fun new => setStation_becomes h hb
  have offline : st.state = .offline → _ := setStation_offline (f := f) (s := s.setSup (fedTimer f.src s))
  have idle : st.state = .idle → _ := setStation_idle (f := f) (s := s.setSup (fedTimer f.src s))
  have online : st.state = .offline → _ :=
    fun hs => bringOnline_ready (s := s.setSup (fedTimer f.src s)) (i := i) (kind := kind) hs h.ready
  have unchanged : (s.setSup (fedTimer f.src s)).withStation i st = s.setSup (fedTimer f.src s) :=
    withStation_own (s.setSup (fedTimer f.src s)) i
  refine ⟨fun hs hon hnone => decline _ ?_, fun hs hon hsome hready => becoming _ ?_, fun hs hon hsome hready => ?_,
    fun hs hoff => becoming _ ?_, fun hs hon hkind => becoming _ ?_, fun hs hon hkind => decline _ ?_,
    fun hs hoff => becoming _ ?_, fun hs hs' => decline _ (setStation_working hs hs')⟩
  · rw [offline hs, if_pos (by simp [hon]), if_neg (by exact Option.not_isSome_iff_eq_none.mpr hnone)]
  · rw [offline hs, if_pos (by simp [hon]), if_pos (by exact Option.isSome_iff_ne_none.mpr hsome), online hs,
      if_neg (by rw [Bool.not_eq_true]; exact hready)]
    rfl
  · have hact : setStation f (s.setSup (fedTimer f.src s)) = answerStation 0x1B f i (bindingAttempt
        ((s.setSup (fedTimer f.src s)).withStation i { st with state := .idle, baseKind := kind })) := by
      rw [offline hs, if_pos (by simp [hon]), if_pos (by exact Option.isSome_iff_ne_none.mpr hsome), online hs,
        if_pos (by exact hready)]
      rfl
    exact setStation_offers h hb hact
  · rw [offline hs, if_neg (by simp [hoff]), onStation_eq]
    rfl
  · rw [idle hs, if_pos (by simp [hon]), if_pos (by exact hkind)]
    exact congrArg _ unchanged.symm
  · rw [idle hs, if_pos (by simp [hon]), if_neg (by exact hkind)]
  · have leaves := enterState_ready (s := s.setSup (fedTimer f.src s)) (i := i) (n := .offline)
      (by rw [show (s.setSup (fedTimer f.src s)).stations[i].state = .idle from hs]; decide) h.ready
    rw [idle hs, if_neg (by simp [hoff]), leaves]
    rfl

end Sys2Proof.Machine
end

section
/-!
PROOFS. What the orders that leave a station leave behind: WITHDRAW frames (R137), the build cut back and the counts
lessened (R74, R133, R145), the cases on the spur (R129) and the replans (R98, R105, R145).
-/

namespace Sys2Proof.Machine

/-! ### Frames issued one after another (R186) -/

theorem issueB_keeps (dst : Nat) (b : OwnBody) (s : State) : KeepsAllBut [.portB] s (issueB dst b s) := by
  refine ⟨rfl, rfl, fun p hp => ?_⟩
  cases p <;> simp_all [Part.Same, issueB]

theorem outB_congr {s t : State} (h : Part.Same s t .portB) : outB t = outB s := by
  obtain ⟨port, -, own, wait⟩ := h
  rw [outB, outB, port, own, wait]

theorem JoinedB.behind {frames : List (Nat × OwnBody)} {s t u : State} (h : JoinedB frames s t)
    (hB : Part.Same t u .portB) : JoinedB frames s u := by
  rwa [JoinedB, outB_congr hB]

theorem JoinedB.before {frames : List (Nat × OwnBody)} {s t u : State} (hB : Part.Same s t .portB)
    (hn : Part.Same s t .ownNode) (h : JoinedB frames t u) : JoinedB frames s u := by
  have node : t.link.ownNode = s.link.ownNode := hn
  unfold JoinedB ownFrameB at h ⊢
  rwa [outB_congr hB, node] at h

/-- Frames issued one after another. -/
def issueAll (frames : List (Nat × OwnBody)) (s : State) : State := frames.foldl (fun s x => issueB x.1 x.2 s) s

theorem issueAll_joined (frames : List (Nat × OwnBody)) (s : State) :
    KeepsAllBut [.portB] s (issueAll frames s) ∧ JoinedB frames s (issueAll frames s) := by
  induction frames generalizing s with
  | nil => exact ⟨(KeepsAllBut.refl s).mono (by simp), .of_same (Part.Same.refl s .portB)⟩
  | cons x frames ih =>
    obtain ⟨keeps, joined⟩ := ih (issueB x.1 x.2 s)
    have first := issueB_keeps x.1 x.2 s
    exact ⟨first.trans keeps, (issueB_joined x.1 x.2 s).trans joined (first.2.2 .ownNode (by simp))⟩

/-! ### Withdrawal (R137) -/

/-- The withdrawn range of a station after these sequences have been withdrawn (R137). -/
def withdrawnBy (st : Station) (seqs : List OrderSeq) : List OrderSeq := if seqs = [] then st.withdrawn else seqs

theorem withdraw_eq (i : StationNo) (seqs : List OrderSeq) (s : State) : withdraw i seqs s =
    (issueAll (withdrawFrames s i seqs) s).withStation i
      { s.stations[i] with withdrawn := withdrawnBy s.stations[i] seqs } := by
  have frames : ∀ (runs : List (OrderSeq × Nat)) (u : State), u.req.settings = s.req.settings →
      runs.foldl (fun s r => issueB (s.cellNode i) (.withdraw i r.1 r.2) s) u =
        issueAll (runs.map fun r => (s.req.settings.cellNodeOf i, .withdraw i r.1 r.2)) u := by
    intro runs
    induction runs with
    | nil => exact fun u _ => rfl
    | cons r runs ih =>
      intro u hu
      rw [List.foldl_cons, State.cellNode, hu, ih (issueB ..) hu]
      rfl
  have stations : ∀ l : List (Nat × OwnBody), (issueAll l s).stations = s.stations := fun l =>
    (issueAll_joined l s).1.2.2 .stations (by simp)
  unfold withdraw withdrawnBy
  cases seqs with
  | nil => exact (withStation_own s i).symm
  | cons q rest =>
    rw [if_neg (by simp), if_neg (by simp)]
    dsimp only
    rw [frames _ s rfl, onStation_eq, stations]
    rfl

theorem withdraw_keeps (i : StationNo) (seqs : List OrderSeq) (s : State) :
    KeepsAllBut [.portB, .stations] s (withdraw i seqs s) := by
  rw [withdraw_eq]
  exact ((issueAll_joined ..).1.mono (by simp)).trans ((withStation_keeps ..).mono (by simp))

theorem withdraw_joined (i : StationNo) (seqs : List OrderSeq) (s : State) :
    JoinedB (withdrawFrames s i seqs) s (withdraw i seqs s) := by
  rw [withdraw_eq]
  exact (issueAll_joined ..).2.behind ((withStation_keeps ..).2.2 .portB (by simp))

theorem withdraw_own (i : StationNo) (seqs : List OrderSeq) (s : State) :
    (withdraw i seqs s).stations[i] = { s.stations[i] with withdrawn := withdrawnBy s.stations[i] seqs } := by
  rw [withdraw_eq, withStation_same]

theorem withdraw_other (i : StationNo) (seqs : List OrderSeq) (s : State) : OtherStations i s (withdraw i seqs s) := by
  intro j hj
  have stations : (issueAll (withdrawFrames s i seqs) s).stations = s.stations :=
    (issueAll_joined ..).1.2.2 .stations (by simp)
  rw [withdraw_eq, withStation_other _ _ _ j hj, stations]

/-! ### A truncation (R13, R116) -/

theorem flaggable_iff (l : Lane) : l.flaggable = true ↔ l.state = .ready ∧ l.list ≠ [] := by
  simp [Lane.flaggable]

theorem raiseFlags_keeps (s : State) : KeepsAllBut [.flags] s (raiseFlags s) := by
  obtain ⟨v, eq, -⟩ := raiseFlags_eq s
  rw [eq]
  refine ⟨rfl, rfl, fun p hp => ?_⟩
  cases p <;> simp_all [Part.Same]

theorem raiseFlags_raised (s : State) : FlagsRaised s (raiseFlags s) := by
  intro k
  obtain ⟨v, eq, hv⟩ := raiseFlags_eq s
  rw [eq, State.flag]
  dsimp only
  rw [hv, Bool.or_eq_true, flaggable_iff]
  rfl

/-- Later binding attempts raise the flags that are raised already. -/
theorem FlagsRaised.offers {s t u : State} (h : FlagsRaised s t) (hl : t.lanes = s.lanes) (k : Offers t u) :
    FlagsRaised s u := by
  intro n
  refine ⟨fun hn => ?_, fun hn => k.flagsKept n ((h n).mpr hn)⟩
  rcases k.flags n hn with old | new
  · exact (h n).mp old
  · rw [flaggable_iff, hl] at new
    exact .inr new

theorem FlagsRaised.congr {s s' t t' : State} (h : FlagsRaised s t) (hf : Part.Same s' s .flags)
    (hl : Part.Same s' s .lanes) (ht : Part.Same t t' .flags) : FlagsRaised s' t' := by
  have lanes : s.lanes = s'.lanes := hl
  have flags : s.engine.flags = s'.engine.flags := hf
  have after : t'.engine.flags = t.engine.flags := ht
  intro k
  have own := h k
  rwa [lanes, State.flag, State.flag, flags, ← after] at own

/-- The state with another record of one build. -/
def State.withBuild (s : State) (i : StationNo) (b : Build) : State := { s with builds := s.builds.set i b }

theorem withBuild_keeps (s : State) (i : StationNo) (b : Build) : KeepsAllBut [.builds] s (s.withBuild i b) := by
  refine ⟨rfl, rfl, fun p hp => ?_⟩
  cases p <;> simp_all [Part.Same, State.withBuild]

theorem withBuild_same (s : State) (i : StationNo) (b : Build) : (s.withBuild i b).builds[i] = b := by
  simp [State.withBuild]

theorem withBuild_other (s : State) (i : StationNo) (b : Build) : OtherBuilds i s (s.withBuild i b) := by
  intro j hj
  have ne : i.val ≠ j.val := fun e => hj (Fin.ext e.symm)
  simp only [State.withBuild, Fin.getElem_fin, Vector.getElem_set_ne _ _ ne]

/-- What a truncation leaves: the build cut back and, when a case left, the lane flags raised. -/
theorem truncateBuild_cut (i : StationNo) (k : Nat) (s : State) :
    KeepsAllBut [.builds, .flags] s (truncateBuild i k s) ∧ (truncateBuild i k s).builds[i] = s.builds[i].truncate k
      ∧ OtherBuilds i s (truncateBuild i k s)
      ∧ (k < s.builds[i].cases.length → FlagsRaised s (truncateBuild i k s)) := by
  unfold truncateBuild
  split_ifs with h
  · have raised := raiseFlags_keeps (s.withBuild i (s.builds[i].truncate k))
    have builds : (raiseFlags (s.withBuild i (s.builds[i].truncate k))).builds
        = (s.withBuild i (s.builds[i].truncate k)).builds := raised.2.2 .builds (by simp)
    refine ⟨((withBuild_keeps ..).mono (by simp)).trans (raised.mono (by simp)), ?_, fun j hj => ?_, fun _ => ?_⟩
    · show (raiseFlags (s.withBuild i (s.builds[i].truncate k))).builds[i] = _
      rw [builds, withBuild_same]
    · show (raiseFlags (s.withBuild i (s.builds[i].truncate k))).builds[j] = _
      rw [builds, withBuild_other _ _ _ j hj]
    · exact raiseFlags_raised (s.withBuild i (s.builds[i].truncate k))
  · refine ⟨(KeepsAllBut.refl s).mono (by simp), ?_, fun _ _ => rfl, fun hk => absurd hk h⟩
    exact (if_neg h).symm

/-! ### Counts taken back (R74, R76) -/

/-- The lines of a plan as R64 bounds them below. -/
def LinesInOrder (ls : List PlanLine) : Prop := ∀ l ∈ ls, l.placed ≤ l.planned

/-- What P − 1 and the reverts of a discard leave of the plans of id `n`, whose lines change by `g`, and of the others. -/
structure Lessens (n : Option PlanId) (g : List PlanLine → List PlanLine) (s t : State) : Prop extends Offers s t where
  ids   : t.plans.plans.map Plan.id = s.plans.plans.map Plan.id
  lines : ∀ id p, s.plan id = some p → ∃ q, t.plan id = some q
            ∧ q.lines = (if n = some id then g p.lines else p.lines)
            ∧ (RisingKeys Plan.key s.plans.plans → p.state = .building → q = { p with lines := q.lines })

namespace Lessens

theorem refl (n : Option PlanId) (s : State) : Lessens n id s s :=
  ⟨.refl s, rfl, fun _ p h => ⟨p, h, by simp, fun _ _ => rfl⟩⟩

theorem trans {n : Option PlanId} {g h : List PlanLine → List PlanLine} {s t u : State} (a : Lessens n g s t)
    (b : Lessens n h t u) : Lessens n (h ∘ g) s u where
  toOffers := a.toOffers.trans b.toOffers
  ids := b.ids.trans a.ids
  lines id p hp := by
    obtain ⟨q, hq, lines, building⟩ := a.lines id p hp
    obtain ⟨r, hr, lines', building'⟩ := b.lines id q hq
    refine ⟨r, hr, ?_, fun rising state => ?_⟩
    · rw [lines', lines]
      split_ifs <;> rfl
    · have middle := building rising state
      have final := building' (rising_of_ids a.ids rising) (by rw [middle]; exact state)
      rw [final, middle]

theorem congr {n : Option PlanId} {g h : List PlanLine → List PlanLine} {s t : State} (a : Lessens n g s t)
    (same : ∀ id p, n = some id → s.plan id = some p → g p.lines = h p.lines) : Lessens n h s t where
  toOffers := a.toOffers
  ids := a.ids
  lines id p hp := by
    obtain ⟨q, hq, lines, building⟩ := a.lines id p hp
    refine ⟨q, hq, ?_, building⟩
    rw [lines]
    split_ifs with hn
    · exact same id p hn hp
    · rfl

/-- A plan whose line is changed, with the binding attempt that reopening makes. -/
theorem lessPlan {s : State} {p : Plan} (j : Nat) (g : PlanLine → PlanLine) (hp : s.plan p.id = some p) :
    Lessens (some p.id) (fun ls => ls.modify j g) s (lessPlan p.id p j g s) := by
  have fixed : ∀ q : Plan, (q.onLine j g).reopened.id = q.id := fun q => (reopened_fixed _).1
  have ids := ids_onPlan s p.id (g := fun q => (q.onLine j g).reopened) fixed
  have changed : ∀ id q, s.plan id = some q → (s.onPlan p.id fun q => (q.onLine j g).reopened).plan id =
      some (if id = p.id then (p.onLine j g).reopened else q) := by
    intro id q hq
    split_ifs with same
    · subst same
      exact plan_onPlan_same hp fixed
    · exact (plan_onPlan_other same fixed).trans hq
  have lines : ∀ q : Plan, (q.onLine j g).reopened.lines = q.lines.modify j g := fun q => reopened_lines _
  have one : ∀ id q, s.plan id = some q → (if id = p.id then (p.onLine j g).reopened else q).lines
      = if some p.id = some id then q.lines.modify j g else q.lines := by
    intro id q hq
    by_cases same : id = p.id
    · subst same
      obtain rfl : p = q := Option.some.inj (hp.symm.trans hq)
      rw [if_pos rfl, if_pos rfl, lines]
    · rw [if_neg same, if_neg fun e => same (Option.some.inj e).symm]
  unfold Machine.lessPlan
  dsimp only
  split_ifs with draining
  · have binds := bindingAttempt_binds (s.onPlan p.id fun q => (q.onLine j g).reopened)
    refine ⟨(Offers.onPlan ..).trans binds.toOffers, binds.ids.trans ids, fun id q hq => ?_⟩
    obtain ⟨r, hr, bound⟩ := binds.plan id _ (changed id q hq)
    refine ⟨r, hr, ?_, fun rising building => ?_⟩
    · rw [← one id q hq]
      rcases bound with rfl | ⟨i, -, rfl⟩ <;> rfl
    · have other : id ≠ p.id := by
        rintro rfl
        obtain rfl : p = q := Option.some.inj (hp.symm.trans hq)
        rw [draining] at building
        cases building
      have held := changed id q hq
      rw [if_neg other] at held
      have kept := binds.queued (rising_of_ids ids rising) id q held (by rw [building]; decide)
      obtain rfl : q = r := Option.some.inj (kept.symm.trans hr)
      rfl
  · refine ⟨Offers.onPlan .., ids, fun id q hq => ⟨_, changed id q hq, one id q hq, fun _ building => ?_⟩⟩
    split_ifs with same
    · subst same
      obtain rfl : p = q := Option.some.inj (hp.symm.trans hq)
      rw [Plan.reopened, if_neg (by exact draining)]
      rfl
    · rfl

theorem keep {n : Option PlanId} {g : List PlanLine → List PlanLine} {s : State}
    (h : ∀ id p, n = some id → s.plan id = some p → g p.lines = p.lines) : Lessens n g s s :=
  (refl n s).congr fun id p hn hp => (h id p hn hp).symm

end Lessens

/-- P − 1 on a line (R74): dropped at P = D. -/
def PlanLine.less (l : PlanLine) : PlanLine := if l.placed < l.planned then { l with planned := l.planned - 1 } else l

/-- D − 1 and P − 1 on a line (R76): dropped whole when D = 0. -/
def PlanLine.revert (l : PlanLine) : PlanLine :=
  if 0 < l.placed then { l with planned := l.planned - 1, placed := l.placed - 1 } else l

theorem modify_congr_at {ls : List PlanLine} {j : Nat} {l : PlanLine} (hl : ls[j]? = some l)
    {g h : PlanLine → PlanLine} (same : g l = h l) : ls.modify j g = ls.modify j h := by
  rw [List.modify_eq_set_getElem?, List.modify_eq_set_getElem?, hl]
  simp [same]

theorem modify_fixed_at {ls : List PlanLine} {j : Nat} {l : PlanLine} (hl : ls[j]? = some l)
    {g : PlanLine → PlanLine} (same : g l = l) : ls.modify j g = ls := by
  obtain ⟨hj, rfl⟩ := List.getElem?_eq_some_iff.mp hl
  rw [List.modify_eq_set_getElem?, hl]
  simp [same]

theorem modify_absent {ls : List PlanLine} {j : Nat} (hl : ls[j]? = none) (g : PlanLine → PlanLine) :
    ls.modify j g = ls := by
  rw [List.modify_eq_set_getElem?, hl]
  rfl

/-- An operation that changes line `j` of plan `n` where the line allows it, and does nothing elsewhere. -/
theorem Lessens.guarded {n : Option PlanId} {j : Nat} {s t : State} {c : PlanLine → Prop} [DecidablePred c]
    {g : PlanLine → PlanLine}
    (line : ∀ id p l, n = some id → s.plan id = some p → p.lines[j]? = some l →
      t = if c l then Machine.lessPlan p.id p j g s else s)
    (elsewhere : (∀ id p, n = some id → s.plan id = some p → p.lines[j]? = none) → t = s) :
    Lessens n (fun ls => ls.modify j fun l => if c l then g l else l) s t := by
  by_cases absent : ∀ id p, n = some id → s.plan id = some p → p.lines[j]? = none
  · rw [elsewhere absent]
    exact .keep fun id p hn hp => modify_absent (absent id p hn hp) _
  · push Not at absent
    obtain ⟨id, p, rfl, hp, hl⟩ := absent
    obtain ⟨l, hl⟩ := Option.ne_none_iff_exists'.mp hl
    have same : ∀ id' q, some id = some id' → s.plan id' = some q → q = p := by
      intro id' q hid hq
      obtain rfl := Option.some.inj hid
      exact Option.some.inj (hq.symm.trans hp)
    rw [line id p l rfl hp hl]
    split_ifs with allowed
    · obtain rfl := plan_id hp
      refine (Lessens.lessPlan j g hp).congr fun id' q hid hq => ?_
      rw [same id' q hid hq]
      exact modify_congr_at hl (by rw [if_pos allowed])
    · refine .keep fun id' q hid hq => ?_
      rw [same id' q hid hq]
      exact modify_fixed_at hl (if_neg allowed)

theorem Lessens.planLess (n : Option PlanId) (j : Nat) (s : State) :
    Lessens n (fun ls => ls.modify j PlanLine.less) s (planLess n j s) := by
  refine .guarded (fun id p l hn hp hl => ?_) fun absent => ?_
  · rw [hn, planLess_eq hp hl]
  · cases n with
    | none => rfl
    | some id =>
      cases hp : s.plan id with
      | none => simp [Machine.planLess, hp]
      | some p => simp [Machine.planLess, hp, absent id p rfl hp]

theorem Lessens.revertPlaced (n : Option PlanId) (j : Nat) (s : State) :
    Lessens n (fun ls => ls.modify j PlanLine.revert) s (revertPlaced n j s) := by
  refine .guarded (fun id p l hn hp hl => ?_) fun absent => ?_
  · rw [hn, revertPlaced_eq hp hl]
  · cases n with
    | none => rfl
    | some id =>
      cases hp : s.plan id with
      | none => simp [Machine.revertPlaced, hp]
      | some p => simp [Machine.revertPlaced, hp, absent id p rfl hp]

/-- Operations one after another. -/
theorem Lessens.foldl {α : Type} {n : Option PlanId} {op : State → α → State} {g : α → List PlanLine → List PlanLine}
    (h : ∀ s a, Lessens n (g a) s (op s a)) (l : List α) (s : State) :
    Lessens n (fun ls => l.foldl (fun ls a => g a ls) ls) s (l.foldl op s) := by
  induction l generalizing s with
  | nil => exact .refl n s
  | cons a l ih => exact (h s a).trans (ih _)

/-- P − 1 taken for each entry of a list of lines. -/
theorem foldl_less (js : List Nat) {ls : List PlanLine} (h : LinesInOrder ls) :
    js.foldl (fun ls j => ls.modify j PlanLine.less) ls = lessBy js.count ls := by
  induction js using List.reverseRecOn with
  | nil =>
    refine List.ext_getElem? fun m => ?_
    rw [lessBy, List.getElem?_mapIdx, List.foldl_nil]
    cases hl : ls[m]? with
    | none => rfl
    | some l =>
      have order := h l (List.mem_of_getElem? hl)
      simp [Nat.max_eq_right order]
  | append_singleton js j ih =>
    rw [List.foldl_append, List.foldl_cons, List.foldl_nil, ih]
    refine List.ext_getElem? fun m => ?_
    rw [List.getElem?_modify, lessBy, lessBy, List.getElem?_mapIdx, List.getElem?_mapIdx]
    cases ls[m]? with
    | none => rfl
    | some l =>
      simp only [Option.map_some, Option.map_eq_map, Option.some.injEq]
      by_cases hm : j = m
      · subst hm
        simp only [if_true, PlanLine.less, List.count_append, List.count_singleton_self]
        split_ifs with less
        all_goals congr 1; omega
      · simp [hm, List.count_append]

/-- One case of a discarded build taken back from its line (R149). -/
def CaseRec.takeBack (c : CaseRec) : PlanLine → PlanLine :=
  match c.status with
  | .confirmed => PlanLine.revert
  | .provisional => PlanLine.less

theorem Lessens.revertCase (n : Option PlanId) (s : State) (c : CaseRec) :
    Lessens n (fun ls => ls.modify c.line c.takeBack) s (revertCase n s c) := by
  unfold Machine.revertCase CaseRec.takeBack
  generalize c.status = status
  cases status
  case confirmed => exact .revertPlaced ..
  case provisional => exact .planLess ..

/-- The cases of a discarded build taken back one after another. -/
theorem foldl_takeBack (cs : List CaseRec) {ls : List PlanLine} (h : LinesInOrder ls) :
    cs.foldl (fun ls c => ls.modify c.line c.takeBack) ls = takenBack cs ls := by
  induction cs using List.reverseRecOn with
  | nil =>
    refine List.ext_getElem? fun m => ?_
    rw [takenBack, List.getElem?_mapIdx, List.foldl_nil]
    cases hl : ls[m]? with
    | none => rfl
    | some l =>
      have order := h l (List.mem_of_getElem? hl)
      simp [Nat.add_sub_cancel' order]
  | append_singleton cs c ih =>
    rw [List.foldl_append, List.foldl_cons, List.foldl_nil, ih]
    refine List.ext_getElem? fun m => ?_
    rw [List.getElem?_modify, takenBack, takenBack, List.getElem?_mapIdx, List.getElem?_mapIdx]
    cases ls[m]? with
    | none => rfl
    | some l =>
      simp only [Option.map_some, Option.map_eq_map, Option.some.injEq, List.countP_append, List.countP_singleton]
      by_cases hm : c.line = m
      · subst hm
        cases hs : c.status
        all_goals
          simp only [if_true, CaseRec.takeBack, hs, PlanLine.less, PlanLine.revert, beq_self_eq_true, Bool.true_and]
          split_ifs with less
          all_goals simp_all
        all_goals omega
      · have other : (c.line == m) = false := beq_false_of_ne hm
        simp [hm, other]

end Sys2Proof.Machine
end

section
/-!
PROOFS. The orders that leave a station (R129, R133, R145): the build and the counts, the spur list, the replans; and the
entry of a working station into FAULT.
-/

namespace Sys2Proof.Machine

/-! ### The build and the counts (R133, R145, R146) -/

/-- What is left of build, counts and flags when the orders `os` leave station `i`. -/
structure CutBack (i : StationNo) (os : List Order) (s t : State) : Prop where
  keeps    : KeepsAllBut [.plans, .stations, .builds, .flags, .exec] s t
  own      : t.stations[i] = s.stations[i]
  unplaced : Unplaced i os s t
  flags    : CutFlags i os s t
  ready    : s.req.exec = none → Part.Same s t .exec

theorem countsOk_lines {s : State} (h : CountsOk s) {id : PlanId} {p : Plan} (hp : s.plan id = some p) :
    LinesInOrder p.lines := by
  have held : p ∈ s.plans.plans := List.mem_of_find?_eq_some hp
  exact fun l hl => (h.1 p held l hl).1

theorem lessBy_zero {ls : List PlanLine} (h : LinesInOrder ls) : lessBy (fun _ => 0) ls = ls := by
  have none := foldl_less [] h
  exact none.symm

theorem unplace_cutBack (i : StationNo) (os : List Order) {s : State} (working : s.stations[i].state ≠ .idle) :
    CutBack i os s (unplace i os s) := by
  unfold unplace
  dsimp only
  cases hos : os.filterMap Order.caseIndex with
  | nil =>
    have nothing : ∀ id j, leavingOn s i os id j = 0 := by
      intro id j
      have lines : (os.filterMap fun o => o.caseIndex.bind fun k => s.builds[i].cases[k]?.map (·.line)) = [] := by
        rw [← List.filterMap_filterMap, hos]
        rfl
      rw [leavingOn, lines]
      simp
    refine ⟨(KeepsAllBut.refl s).mono (by simp), rfl, ⟨?_, fun counts id p hp => ⟨p, hp, ?_⟩, fun j _ =>
      ⟨.inl rfl, fun _ => rfl⟩⟩, ⟨fun n hn => ?_, fun _ => rfl⟩, fun _ => Part.Same.refl s .exec⟩
    · rw [cutBuild, hos]
      rfl
    · rw [show leavingOn s i os id = fun _ => 0 from funext (nothing id), lessBy_zero (countsOk_lines counts hp)]
    · rw [hos] at hn
      cases hn
  | cons k rest =>
    obtain ⟨keeps, own, others, flags⟩ := truncateBuild_cut i k s
    have lessens := Lessens.foldl (fun u j => Lessens.planLess s.builds[i].planId j u)
      ((k :: rest).filterMap fun j => s.builds[i].cases[j]?.map (·.line)) (truncateBuild i k s)
    dsimp only
    generalize ((k :: rest).filterMap fun j => s.builds[i].cases[j]?.map (·.line)).foldl
      (fun s' j => planLess s.builds[i].planId j s') (truncateBuild i k s) = t at lessens
    have stations : (truncateBuild i k s).stations = s.stations := keeps.2.2 .stations (by simp)
    have plans : (truncateBuild i k s).plans.plans = s.plans.plans := keeps.2.2 .plans (by simp)
    have lanes : (truncateBuild i k s).lanes = s.lanes := keeps.2.2 .lanes (by simp)
    have busy : (truncateBuild i k s).stations[i].state ≠ .idle := by rwa [stations]
    have staying : ∀ j : StationNo, t.stations[j] = s.stations[j] ∨ s.stations[j].state = .idle
        ∧ t.stations[j] = { s.stations[j] with state := .building } := fun j => stations ▸ lessens.station j
    refine ⟨(keeps.mono (by simp)).trans lessens.keeps, (staying i).resolve_right fun h => working h.1,
      ⟨?_, fun counts id p hp => ?_, fun j hj => ⟨staying j, fun hidle => ?_⟩⟩, ⟨fun n hn hlen => ?_, fun h => ?_⟩,
          fun none => ?_⟩
    · rw [lessens.build i busy, own, cutBuild, hos]
      rfl
    · obtain ⟨q, hq, lines, -⟩ := lessens.lines id p (by rw [State.plan, plans]; exact hp)
      refine ⟨q, hq, lines.trans ?_⟩
      have order := countsOk_lines counts hp
      have leaving : (os.filterMap fun o => o.caseIndex.bind fun k => s.builds[i].cases[k]?.map (·.line))
          = (k :: rest).filterMap fun j => s.builds[i].cases[j]?.map (·.line) := by
        rw [← List.filterMap_filterMap, hos]
      split_ifs with hid
      · rw [foldl_less _ order]
        congr 1
        funext j
        rw [leavingOn, if_pos hid, leaving]
      · rw [show leavingOn s i os id = fun _ => 0 from funext fun j => if_neg hid, lessBy_zero order]
    · rw [lessens.build j (by rwa [stations]), others j hj]
    · rw [hos] at hn
      obtain rfl := Option.some.inj hn
      exact (flags hlen).offers lanes lessens.toOffers
    · rw [hos] at h
      cases h
    · have first : Part.Same s (truncateBuild i k s) .exec := keeps.2.2 .exec (by simp)
      exact first.trans (lessens.ready (first.1.trans none))

/-! ### The spur list (R129, R133) -/

theorem toSpur_keeps (i : StationNo) (os : List Order) (s : State) :
    KeepsAllBut [.stations, .tracks] s (toSpur i os s) := by
  have fold : ∀ (l : List Order) (u : State),
      KeepsAllBut [.stations, .tracks] u (l.foldl (fun s o => s.setTrack o.tracking (.spurHeld i)) u) := by
    intro l
    induction l with
    | nil => exact fun u => (KeepsAllBut.refl u).mono (by simp)
    | cons o l ih =>
      refine fun u => KeepsAllBut.trans (t := u.setTrack o.tracking (.spurHeld i)) ⟨rfl, rfl, fun p hp => ?_⟩ (ih _)
      cases p <;> simp_all [Part.Same]
  exact ((withStation_keeps ..).mono (by simp)).trans (fold os _)

theorem toSpur_stations (i : StationNo) (os : List Order) (s : State) : (toSpur i os s).stations =
    (s.withStation i { s.stations[i] with spur := s.stations[i].spur ++ spurOf os }).stations := by
  have fold : ∀ (l : List Order) (u : State),
      (l.foldl (fun s o => s.setTrack o.tracking (.spurHeld i)) u).stations = u.stations := by
    intro l
    induction l with
    | nil => exact fun u => rfl
    | cons o l ih => exact fun u => ih _
  exact fold os _

/-! ### The replans of a station removed (R145) -/

theorem keepReplans_queue (keep : Replan → Bool) (s : State) :
    KeepsAllBut [.replans] s (keepReplans keep s)
      ∧ (keepReplans keep s).engine.replans ++ (keepReplans keep s).engine.waiting
        = (s.engine.replans ++ s.engine.waiting).filter keep := by
  refine ⟨⟨rfl, rfl, fun p hp => ?_⟩, ?_⟩
  · cases p <;> simp_all [Part.Same, keepReplans, refillReplans]
  · simp [keepReplans, refillReplans]

theorem cancelReplans_removed (i : StationNo) (s : State) :
    KeepsAllBut [.replans, .job] s (cancelReplans i s)
      ∧ (cancelReplans i s).engine.replans ++ (cancelReplans i s).engine.waiting
        = (s.engine.replans ++ s.engine.waiting).filter (fun r => r.station != i)
      ∧ (cancelReplans i s).engine.job = s.engine.job.map (fun j =>
          match j.work with
          | .replan r => if r.station = i then { j with cancelled := true } else j
          | .arrival _ | .laneHead _ _ => j) := by
  obtain ⟨keeps, queue⟩ := keepReplans_queue (fun r => r.station != i) s
  refine ⟨(keeps.mono (by simp)).trans ⟨rfl, rfl, fun p hp => ?_⟩, queue, ?_⟩
  · cases p <;> simp_all [Part.Same, cancelReplans]
  · have job : (keepReplans (fun r => r.station != i) s).engine.job = s.engine.job := keeps.2.2 .job (by simp)
    unfold cancelReplans
    dsimp only
    rw [job]
    congr 1
    funext j
    unfold Work.replansAt
    cases j.work <;> simp

/-! ### Effects around the orders that leave -/

/-- `Unplaced` between states that agree with its own on what it speaks of. -/
theorem Unplaced.congr {i : StationNo} {os : List Order} {s u v t : State} {ps qs : List Part} (h : Unplaced i os u v)
    (before : KeepsAllBut ps s u) (others : OtherStations i s u) (behind : KeepsAllBut qs v t)
    (others' : OtherStations i v t) (hps : Part.plans ∉ ps ∧ Part.builds ∉ ps ∧ Part.admission ∉ ps)
    (hqs : Part.plans ∉ qs ∧ Part.builds ∉ qs) : Unplaced i os s t := by
  obtain ⟨hplans, hbuilds, hadmission⟩ := hps
  have plans : u.plans.plans = s.plans.plans := before.2.2 .plans hplans
  have builds : u.builds = s.builds := before.2.2 .builds hbuilds
  have admission : u.plans.admission = s.plans.admission := before.2.2 .admission hadmission
  have plans' : t.plans.plans = v.plans.plans := behind.2.2 .plans hqs.1
  have builds' : t.builds = v.builds := behind.2.2 .builds hqs.2
  obtain ⟨cut, counts, stations⟩ := h
  refine ⟨?_, fun hc id p hp => ?_, fun j hj => ?_⟩
  · rw [builds', cut, cutBuild, cutBuild, builds]
  · obtain ⟨q, hq, lines⟩ := counts (by rwa [CountsOk, plans, admission]) id p (by rwa [State.plan, plans])
    refine ⟨q, by rwa [State.plan, plans'], lines.trans ?_⟩
    have leaving : leavingOn u i os id = leavingOn s i os id := by
      funext n
      rw [leavingOn, leavingOn, builds]
    rw [leaving]
  · have own := stations j hj
    rwa [builds, others j hj, ← others' j hj, ← builds'] at own

theorem CutFlags.congr {i : StationNo} {os : List Order} {s u v t : State} {ps qs : List Part} (h : CutFlags i os u v)
    (before : KeepsAllBut ps s u) (behind : KeepsAllBut qs v t)
    (hps : Part.flags ∉ ps ∧ Part.builds ∉ ps ∧ Part.lanes ∉ ps) (hqs : Part.flags ∉ qs) : CutFlags i os s t := by
  obtain ⟨hflags, hbuilds, hlanes⟩ := hps
  have builds : u.builds = s.builds := before.2.2 .builds hbuilds
  have flags : u.engine.flags = s.engine.flags := before.2.2 .flags hflags
  have flags' : t.engine.flags = v.engine.flags := behind.2.2 .flags hqs
  refine ⟨fun n hn hlen => ?_, fun none => ?_⟩
  · exact (h.1 n hn (by rwa [builds])).congr (before.2.2 .flags hflags) (before.2.2 .lanes hlanes)
      (behind.2.2 .flags hqs)
  · rw [flags', h.2 none, flags]

theorem OtherStations.trans {i : StationNo} {s t u : State} (h : OtherStations i s t) (k : OtherStations i t u) :
    OtherStations i s u := fun j hj => (k j hj).trans (h j hj)

theorem OtherStations.of_keeps {i : StationNo} {s t : State} {ps : List Part} (h : KeepsAllBut ps s t)
    (hps : Part.stations ∉ ps) : OtherStations i s t := by
  have stations : t.stations = s.stations := h.2.2 .stations hps
  exact fun j _ => by rw [stations]

theorem enterState_keeps (s : State) (i : StationNo) (n : StationState) :
    KeepsAllBut [.stations, .exec] s (s.enterState i n) := by
  unfold State.enterState
  split_ifs
  · exact (KeepsAllBut.refl s).mono (by simp)
  · refine ⟨rfl, rfl, fun p hp => ?_⟩
    cases p <;> simp_all [Part.Same]

theorem enterState_stations (s : State) (i : StationNo) (n : StationState) :
    (s.enterState i n).stations = (s.withStation i { s.stations[i] with state := n }).stations := by
  unfold State.enterState
  split_ifs with h
  · rw [← h]
    exact (congrArg State.stations (withStation_own s i)).symm
  · rfl

/-! ### A working station into FAULT (R145) -/

/-- The end of the entry into FAULT: the replans removed, the cause recorded, the state and the report (R145). -/
def faultEnd (i : StationNo) (cause : StationCause) (before : StationState) (kept : List Order) (s : State) : State :=
  report (.stationFault i cause before (unknownOf kept))
    (((cancelReplans i s).onStation i fun st => { st with cause := cause }).enterState i .fault)

theorem reports_eq {s t : State} (h : Part.Same s t .reports) (hl : Part.Same s t .levels) : t.reports = s.reports := by
  obtain ⟨queue, lost⟩ := h
  have levels : t.reports.levels = s.reports.levels := hl
  cases ht : t.reports
  cases hs : s.reports
  simp_all

/-- Reports queued behind changes of other parts. -/
theorem ReportsTaken.of_same {s t u : State} {bs : List ReportBody} (h : ReportsTaken bs t u)
    (hr : Part.Same s t .reports) (hl : Part.Same s t .levels) (ht : Part.Same s t .time) : ReportsTaken bs s u :=
  (reportsTaken_nil (reports_eq hr hl)).trans h hl ht

/-- What the end of the entry into FAULT leaves. -/
structure FaultEnds (i : StationNo) (cause : StationCause) (b : ReportBody) (s t : State) : Prop where
  keeps   : KeepsAllBut [.replans, .job, .stations, .exec, .reports] s t
  own     : t.stations[i] = { s.stations[i] with cause := cause, state := .fault }
  others  : OtherStations i s t
  replans : t.engine.replans ++ t.engine.waiting = (s.engine.replans ++ s.engine.waiting).filter (fun r => r.station != i)
  job     : t.engine.job = s.engine.job.map (fun j =>
              match j.work with
              | .replan r => if r.station = i then { j with cancelled := true } else j
              | .arrival _ | .laneHead _ _ => j)
  report  : ReportsTaken [b] s t

theorem faultEnd_ends (i : StationNo) (cause : StationCause) (before : StationState) (kept : List Order) (s : State) :
    FaultEnds i cause (.stationFault i cause before (unknownOf kept)) s (faultEnd i cause before kept s) := by
  obtain ⟨keeps, queue, job⟩ := cancelReplans_removed i s
  have entering := enterState_keeps ((cancelReplans i s).onStation i fun st => { st with cause := cause }) i .fault
  have entered := enterState_stations ((cancelReplans i s).onStation i fun st => { st with cause := cause }) i .fault
  have told := report_keeps (.stationFault i cause before (unknownOf kept))
    (((cancelReplans i s).onStation i fun st => { st with cause := cause }).enterState i .fault)
  have changed : KeepsAllBut [.stations, .exec, .reports] (cancelReplans i s) (faultEnd i cause before kept s) :=
    ((withStation_keeps ..).mono (by simp)).trans ((entering.mono (by simp)).trans (told.mono (by simp)))
  have stations : (faultEnd i cause before kept s).stations =
      (s.withStation i { s.stations[i] with cause := cause, state := .fault }).stations := by
    have same : (cancelReplans i s).stations = s.stations := keeps.2.2 .stations (by simp)
    have last : (faultEnd i cause before kept s).stations =
        (((cancelReplans i s).onStation i fun st => { st with cause := cause }).enterState i .fault).stations :=
      told.2.2 .stations (by simp)
    rw [last, entered, onStation_eq, withStation_same, withStation_again, same]
    simp [State.withStation, same]
  have replans := changed.2.2 .replans (by simp)
  refine ⟨(keeps.mono (by simp)).trans (changed.mono (by simp)), ?_, fun j hj => ?_, ?_, ?_, ?_⟩
  · rw [stations, withStation_same]
  · rw [stations, withStation_other _ _ _ j hj]
  · rw [replans.1, replans.2, queue]
  · have last : (faultEnd i cause before kept s).engine.job = (cancelReplans i s).engine.job :=
      changed.2.2 .job (by simp)
    exact last.trans job
  · have quiet : KeepsAllBut [.replans, .job, .stations, .exec] s
        (((cancelReplans i s).onStation i fun st => { st with cause := cause }).enterState i .fault) :=
      (keeps.mono (by simp)).trans (((withStation_keeps ..).mono (by simp)).trans (entering.mono (by simp)))
    have same := quiet.2.2 .reports (by simp)
    have level := quiet.2.2 .levels (by simp)
    exact (report_reports_congr (s := s) _ (reports_eq same level) (quiet.2.2 .time (by simp))).trans (report_taken _ s)

/-- The ISSUED orders of a queue, which a fault withdraws, and the others, of which a TAKEN one becomes UNKNOWN. -/
theorem faulted_orders (os : List Order) :
    (os.map Order.unknownIfTaken).filter (fun o => o.state == .issued) = os.filter (fun o => o.state == .issued)
      ∧ (os.map Order.unknownIfTaken).filter (fun o => o.state != .issued)
        = (os.filter fun o => o.state != .issued).map Order.unknownIfTaken := by
  induction os with
  | nil => exact ⟨rfl, rfl⟩
  | cons o os ih =>
    obtain ⟨issued, kept⟩ := ih
    cases hs : o.state <;> simp [Order.unknownIfTaken, hs, issued, kept]

/-- The orders that a fault keeps in the queue (R145, steps 1 and 2). -/
def keptAt (s : State) (i : StationNo) : List Order :=
  (s.stations[i].orders.filter fun o => o.state != .issued).map Order.unknownIfTaken

/-- The station with the timers stopped and the ISSUED orders taken out of its queue (R145, steps 1 and 2). -/
def haltOrders (i : StationNo) (s : State) : State :=
  s.withStation i { s.stations[i] with takeExpiry := none, placeExpiry := none, orders := keptAt s i }

theorem faultWorking_eq (i : StationNo) (cause : StationCause) (s : State) : faultWorking i cause s =
    faultEnd i cause s.stations[i].state (keptAt s i) (toSpur i (issuedAt s i) (unplace i (issuedAt s i)
      (withdraw i ((issuedAt s i).map (·.seq)) (haltOrders i s)))) := by
  obtain ⟨issued, kept⟩ := faulted_orders s.stations[i].orders
  unfold faultWorking
  dsimp only
  rw [issued, kept]
  rfl

/-- What the entry of a working station into FAULT leaves. -/
structure Faults (i : StationNo) (cause : StationCause) (s t : State) : Prop where
  keeps   : KeepsAllBut [.portB, .exec, .plans, .tracks, .replans, .flags, .job, .builds, .stations, .reports] s t
  faulted : StationFaulted i cause s t
  ready   : t.stations[i].ready = s.stations[i].ready
  joined  : JoinedB (withdrawFrames s i ((issuedAt s i).map (·.seq))) s t
  report  : ReportsTaken [.stationFault i cause s.stations[i].state (unknownOf t.stations[i].orders)] s t
  track   : ∀ u, t.track u = if u ∈ (issuedAt s i).map Order.tracking then
              (s.track u).map fun e => { e with state := .spurHeld i } else s.track u

theorem faultWorking_faults (i : StationNo) (cause : StationCause) {s : State}
    (working : s.stations[i].state ≠ .idle) : Faults i cause s (faultWorking i cause s) := by
  rw [faultWorking_eq]
  have halted : KeepsAllBut [.stations] s (haltOrders i s) := withStation_keeps ..
  have haltedOthers : OtherStations i s (haltOrders i s) := withStation_other s i _
  have haltedOwn : (haltOrders i s).stations[i] = _ := withStation_same ..
  have withdrawing := withdraw_keeps i ((issuedAt s i).map (·.seq)) (haltOrders i s)
  have withdrawn := withdraw_own i ((issuedAt s i).map (·.seq)) (haltOrders i s)
  have withdrawnOthers := withdraw_other i ((issuedAt s i).map (·.seq)) (haltOrders i s)
  have joined := withdraw_joined i ((issuedAt s i).map (·.seq)) (haltOrders i s)
  generalize haltOrders i s = a at *
  generalize withdraw i ((issuedAt s i).map (·.seq)) a = b at *
  have busy : b.stations[i].state ≠ .idle := by rw [withdrawn, haltedOwn]; exact working
  have cut := unplace_cutBack i (issuedAt s i) busy
  generalize unplace i (issuedAt s i) b = c at *
  have spur := toSpur_keeps i (issuedAt s i) c
  have spurred := toSpur_stations i (issuedAt s i) c
  have tracked := track_toSpur i (issuedAt s i) c
  generalize toSpur i (issuedAt s i) c = d at *
  have ends := faultEnd_ends i cause s.stations[i].state (keptAt s i) d
  generalize faultEnd i cause s.stations[i].state (keptAt s i) d = t at *
  have before : KeepsAllBut [.portB, .stations] s b := (halted.mono (by simp)).trans withdrawing
  have behind : KeepsAllBut [.tracks, .replans, .job, .stations, .exec, .reports] c t :=
    (spur.mono (by simp)).trans (ends.keeps.mono (by simp))
  have until_spur : KeepsAllBut [.portB, .exec, .plans, .tracks, .flags, .builds, .stations] s d :=
    (before.mono (by simp)).trans ((cut.keeps.mono (by simp)).trans (spur.mono (by simp)))
  have own : t.stations[i] = { s.stations[i] with
      state := .fault, cause := cause, takeExpiry := none, placeExpiry := none, orders := keptAt s i
      spur := s.stations[i].spur ++ spurOf (issuedAt s i)
      withdrawn := withdrawnBy s.stations[i] ((issuedAt s i).map (·.seq)) } := by
    rw [ends.own, spurred, withStation_same, cut.own, withdrawn, haltedOwn]
    rfl
  have behindOthers : OtherStations i c t := by
    refine OtherStations.trans (t := d) (fun j hj => ?_) ends.others
    rw [spurred, withStation_other _ _ _ j hj]
  have beforeOthers : OtherStations i s b := haltedOthers.trans withdrawnOthers
  have replans := until_spur.2.2 .replans (by simp)
  have job : d.engine.job = s.engine.job := until_spur.2.2 .job (by simp)
  have left : t.engine.replans ++ t.engine.waiting
      = (s.engine.replans ++ s.engine.waiting).filter (fun r => r.station != i) := by
    rw [ends.replans, replans.1, replans.2]
  have track : ∀ u, t.track u = if u ∈ (issuedAt s i).map Order.tracking then
      (s.track u).map fun e => { e with state := .spurHeld i } else s.track u := by
    have tracks : t.tracker.tracks = d.tracker.tracks := ends.keeps.2.2 .tracks (by simp)
    have old : c.tracker.tracks = s.tracker.tracks :=
      ((before.mono (by simp)).trans (cut.keeps.mono (qs := [.portB, .stations, .plans, .builds, .flags, .exec])
        (by simp))).2.2 .tracks (by simp)
    intro u
    rw [State.track, tracks, ← State.track, tracked, State.track, old, ← State.track]
  have onSpur : CasesOk s → ∀ o ∈ issuedAt s i, (t.track o.tracking).map (·.state) = some (.spurHeld i) := by
    intro cases o ho
    obtain ⟨e, he, -⟩ := cases.2.2.2.1 i o (List.mem_of_mem_filter ho)
    rw [track, if_pos (List.mem_map_of_mem ho), he]
    rfl
  refine ⟨(until_spur.mono (by simp)).trans (ends.keeps.mono (by simp)), ?_, ?_, ?_, ?_, track⟩
  · unfold StationFaulted
    dsimp only
    rw [own]
    refine ⟨rfl, rfl, rfl, rfl, rfl, rfl, rfl, rfl, rfl, ?_,
      cut.unplaced.congr before beforeOthers behind behindOthers (by simp) (by simp),
      cut.flags.congr before behind (by simp) (by simp), onSpur, left, fun r hr => ?_, job ▸ ends.job⟩
    · simp only [withdrawnBy, List.map_eq_nil_iff]
    · rw [left, List.mem_filter] at hr
      simpa using hr.2
  · rw [own]
  · have frames : withdrawFrames a i ((issuedAt s i).map (·.seq)) = withdrawFrames s i ((issuedAt s i).map (·.seq)) := by
      have settings : a.req.settings = s.req.settings := halted.2.2 .settings (by simp)
      rw [withdrawFrames, settings, ← withdrawFrames]
    rw [frames] at joined
    have after : Part.Same b t .portB := (cut.keeps.2.2 .portB (by simp)).trans (behind.2.2 .portB (by simp))
    exact (joined.behind after).before (halted.2.2 .portB (by simp)) (halted.2.2 .ownNode (by simp))
  · rw [own]
    exact ends.report.of_same (until_spur.2.2 .reports (by simp)) (until_spur.2.2 .levels (by simp))
      (until_spur.2.2 .time (by simp))

end Sys2Proof.Machine
end

section
/-!
PROOFS. READY CHANGE (R126), and the faults of a working station as commands show them.
-/

namespace Sys2Proof.Machine

/-! ### Services -/

theorem settle_keeps_parts (s : State) : KeepsAllBut [.portA, .portB, .exec, .reports] s (settle s) :=
  (settle_services s).keeps

theorem JoinedB.settled {frames : List (Nat × OwnBody)} {s x : State} (h : JoinedB frames s x)
    (hn : Part.Same s x .ownNode) : JoinedB frames s (settle x) := by
  have joined := h.trans (settle_joined x) hn
  rwa [List.append_nil] at joined

/-- A partner frame that the device takes. -/
theorem partner_live {k : Byte} {act : List Byte → State → State} {f : RxFrame} {s : State} (h : FromPartner k f s) :
    live (receive k f (partner k act f)) s = .next (settle (act f.payload (s.setSup (fedTimer f.src s)))) := by
  rw [live_directed h.toDirected, partner_taken h]

/-- R90, R128 and R129 speak of the tracking table, the lists and the job alone. -/
theorem Still.casesOk {s t : State} (h : Still s t) (hs : CasesOk s) : CasesOk t := by
  obtain ⟨placed, job⟩ := (casesOk_iff s).mp hs
  exact (casesOk_iff t).mpr ⟨h.placed placed, h.less.loops.jobOnLoop job⟩

/-- A change of one station that keeps its orders and its spur. -/
theorem still_of_station {s t : State} {i : StationNo} {ps : List Part} (h : KeepsAllBut ps s t)
    (hps : Part.tracks ∉ ps ∧ Part.lanes ∉ ps ∧ Part.job ∉ ps) (others : OtherStations i s t)
    (orders : t.stations[i].orders = s.stations[i].orders) (spur : t.stations[i].spur = s.stations[i].spur) :
    Still s t := by
  obtain ⟨htracks, hlanes, hjob⟩ := hps
  have lanes : t.lanes = s.lanes := h.2.2 .lanes hlanes
  have job : t.engine.job = s.engine.job := h.2.2 .job hjob
  refine ⟨h.2.2 .tracks htracks, named_of_parts (fun k => by rw [lanes]) (fun j => ?_) (fun j => ?_),
    fun j a hj ha => ⟨j, job ▸ hj, ha⟩⟩
  all_goals
    by_cases hij : j = i
    · subst hij
      assumption
    · rw [others j hij]

/-! ### A fault of a working station as its command shows it -/

/-- A fault of a device that differs from another in the ready flag of the station and in parts that a fault does not
look at. -/
theorem StationFaulted.congr {i : StationNo} {cause : StationCause} {s u v t : State} {ready : Bool} {ps : List Part}
    (h : StationFaulted i cause u v) (before : KeepsAllBut ps s u)
    (hps : ∀ p ∈ [Part.plans, .builds, .admission, .flags, .lanes, .replans, .job, .tracks], p ∉ ps)
    (others : OtherStations i s u) (own : u.stations[i] = { s.stations[i] with ready := ready })
    (behind : KeepsAllBut [.portA, .portB, .exec, .reports] v t) : StationFaulted i cause s t := by
  have stations : t.stations = v.stations := behind.2.2 .stations (by simp)
  have issued : issuedAt u i = issuedAt s i := by rw [issuedAt, issuedAt, own]
  have replans := before.2.2 .replans (hps _ (by simp))
  have replans' := behind.2.2 .replans (by simp)
  have job : u.engine.job = s.engine.job := before.2.2 .job (hps _ (by simp))
  have job' : t.engine.job = v.engine.job := behind.2.2 .job (by simp)
  have tracks' : t.tracker.tracks = v.tracker.tracks := behind.2.2 .tracks (by simp)
  have others' := OtherStations.of_keeps (i := i) behind (by simp)
  unfold StationFaulted at h ⊢
  dsimp only at h ⊢
  rw [issued, own, replans.1, replans.2, job] at h
  rw [stations, replans'.1, replans'.2, job']
  obtain ⟨state, cs, close, take, place, seq, kind, orders, spur, withdrawn, unplaced, flags, onSpur, rest⟩ := h
  refine ⟨state, cs, close, take, place, seq, kind, orders, spur, withdrawn,
    unplaced.congr before others behind others' ⟨hps _ (by simp), hps _ (by simp), hps _ (by simp)⟩ (by simp),
    flags.congr before behind ⟨hps _ (by simp), hps _ (by simp), hps _ (by simp)⟩ (by simp),
    fun cases o ho => ?_, rest⟩
  rw [State.track, tracks', ← State.track]
  refine onSpur ?_ o ho
  exact (still_of_station before ⟨hps _ (by simp), hps _ (by simp), hps _ (by simp)⟩
    others (by rw [own]) (by rw [own])).casesOk cases

/-- The same, when the command that caused it has been carried out. -/
theorem Faults.entered {i : StationNo} {cause : StationCause} {s u x : State} {ready : Bool} (h : Faults i cause u x)
    (served : Served s) (before : KeepsAllBut [.sup, .stations] s u) (others : OtherStations i s u)
    (own : u.stations[i] = { s.stations[i] with ready := ready })
    (reply : replying x.req.exec = replying s.req.exec ∧ x.req.late = s.req.late) :
    KeepsAllBut (.sup :: faultParts) s (settle x) ∧ (settle x).stations[i].ready = ready
      ∧ FaultEntered i cause s (settle x) := by
  have service := settle_keeps_parts x
  have stations : (settle x).stations = x.stations := service.2.2 .stations (by simp)
  have all : KeepsAllBut (.sup :: faultParts) s x := (before.mono (by simp [faultParts])).trans
    (h.keeps.mono (by simp [faultParts]))
  have issued : issuedAt u i = issuedAt s i := by rw [issuedAt, issuedAt, own]
  have settings : u.req.settings = s.req.settings := before.2.2 .settings (by simp)
  have joined := h.joined
  have told := h.report
  rw [issued, withdrawFrames, settings, ← withdrawFrames] at joined
  rw [own] at told
  have reports := told.of_same (before.2.2 .reports (by simp)) (before.2.2 .levels (by simp))
    (before.2.2 .time (by simp))
  have reported := (settle_reportedAll served (ps := .sup :: .portB :: [.exec, .plans, .tracks, .replans, .flags, .job,
    .builds, .stations, .reports]) ((before.mono (by simp)).trans (h.keeps.mono (by simp))) (by simp) reply.1 reply.2
    reports).1.reported served
  refine ⟨all.trans (service.mono (by simp [faultParts])), ?_, h.faulted.congr before (by simp) others own service, ?_, ?_⟩
  · rw [stations, h.ready, own]
  · exact (joined.before (before.2.2 .portB (by simp)) (before.2.2 .ownNode (by simp))).settled
      (all.2.2 .ownNode (by simp [faultParts]))
  · rw [stations]
    exact reported

/-! ### A binding attempt does not read the supervision timer -/

theorem raiseFlags_setSup (s : State) (x : SupTimer) : raiseFlags (s.setSup x) = (raiseFlags s).setSup x := by
  have fold : ∀ (l : List LaneNo) (u : State),
      l.foldl (fun s k => if s.lanes[k].flaggable then s.setFlag k true else s) (u.setSup x)
        = (l.foldl (fun s k => if s.lanes[k].flaggable then s.setFlag k true else s) u).setSup x := by
    intro l
    induction l with
    | nil => exact fun _ => rfl
    | cons k l ih =>
      intro u
      rw [List.foldl_cons, List.foldl_cons, ← ih]
      congr 1
      by_cases hk : u.lanes[k].flaggable = true
      · rw [if_pos hk, if_pos (by exact hk)]
        rfl
      · rw [if_neg hk, if_neg (by exact hk)]
  exact fold allLanes s

theorem enterState_setSup (s : State) (x : SupTimer) (i : StationNo) (n : StationState) :
    (s.setSup x).enterState i n = (s.enterState i n).setSup x := by
  by_cases hs : s.stations[i].state = n
  · rw [State.enterState, if_pos (by exact hs), State.enterState, if_pos hs]
  · rw [State.enterState, if_neg (by exact hs), State.enterState, if_neg hs]
    rfl

theorem offerPlan_setSup (s : State) (x : SupTimer) (i : StationNo) :
    offerPlan (s.setSup x) i = (offerPlan s i).setSup x := by
  have bind : ∀ p e, bindPlan i p e (s.setSup x) = (bindPlan i p e s).setSup x := by
    intro p e
    unfold bindPlan
    dsimp only
    rw [← raiseFlags_setSup, ← enterState_setSup]
    rfl
  by_cases turn : s.stations[i].state = .idle ∧ s.stations[i].ready = true ∧ s.builds[i].free = true
  · rw [offerPlan, if_pos (by exact turn), offerPlan, if_pos turn]
    have plan : planFor (s.setSup x) i = planFor s i := rfl
    rw [plan]
    dsimp only [setSup_tables, setSup_stations]
    cases planFor s i with
    | none => rfl
    | some p =>
      cases s.tables.bases[s.stations[i].baseKind] with
      | none => rfl
      | some e => exact bind p e
  · rw [offerPlan, if_neg (by exact turn), offerPlan, if_neg turn]

theorem bindingAttempt_setSup (s : State) (x : SupTimer) :
    bindingAttempt (s.setSup x) = (bindingAttempt s).setSup x := by
  have fold : ∀ (l : List StationNo) (u : State), l.foldl offerPlan (u.setSup x) = (l.foldl offerPlan u).setSup x := by
    intro l
    induction l with
    | nil => exact fun _ => rfl
    | cons i l ih =>
      intro u
      rw [List.foldl_cons, List.foldl_cons, offerPlan_setSup, ih]
  exact fold allStations s

/-! ### READY CHANGE -/

section ReadyChange

variable {f : RxFrame} {s : State} {i : StationNo}

theorem takeReady_at (hi : stationAt f.payload = some i) (u : State) : takeReady f.payload u =
    if u8At f.payload 1 = 1 ∧ u.stations[i].ready = false then readyRises i u
    else if u8At f.payload 1 = 0 ∧ u.stations[i].ready = true then readyFalls i u
    else u := by
  rw [takeReady, hi]

theorem readyChange_exec (h : FromPartner 0x53 f s) :
    exec (.readyChange f) s = .next (settle (takeReady f.payload (s.setSup (fedTimer f.src s)))) := by
  have arm : exec (.readyChange f) s = live (receive 0x53 f (partner 0x53 takeReady f)) s := rfl
  rw [arm, partner_live h]

/-- A READY CHANGE after which no frame and no report is on its way. -/
theorem readyChange_quiet (h : FromPartner 0x53 f s) {x : State} {ps : List Part}
    (hact : takeReady f.payload (s.setSup (fedTimer f.src s)) = x) (keeps : KeepsAllBut ps (s.setSup (fedTimer f.src s)) x)
    (hps : Part.portA ∉ ps ∧ Part.portB ∉ ps ∧ Part.reports ∉ ps)
    (reply : replying x.req.exec = replying s.req.exec) (late : x.req.late = s.req.late) :
    exec (.readyChange f) s = .next x := by
  rw [readyChange_exec h, hact, settle_of_served]
  exact (h.served'.effect ((setSup_keeps ..).mono (by simp))).noted keeps hps reply late

end ReadyChange

theorem readyRises_eq (i : StationNo) (s : State) : readyRises i s =
    if s.stations[i].state = .idle then bindingAttempt (s.withStation i { s.stations[i] with ready := true })
    else s.withStation i { s.stations[i] with ready := true } := by
  unfold readyRises
  dsimp only
  rw [onStation_eq, withStation_same]

theorem readyFalls_eq (i : StationNo) (s : State) : readyFalls i s =
    if s.stations[i].state = .building ∨ s.stations[i].state = .closing then
      faultWorking i .notReady (s.withStation i { s.stations[i] with ready := false })
    else s.withStation i { s.stations[i] with ready := false } := by
  unfold readyFalls stationFault
  rw [onStation_eq, withStation_same]

/-- Settles O43: a rise makes the binding attempt of IDLE (`bindingAttempt_binds`), a fall the fault of BUILDING and
CLOSING (`faultWorking_faults`). -/
theorem readyChangeCompletes : Obligations.ReadyChangeCompletes := by
  intro f s i h hi st v
  have fed := setSup_keeps s (fedTimer f.src s)
  have take := takeReady_at hi (s.setSup (fedTimer f.src s))
  have set : ∀ r : Bool, KeepsAllBut [.sup, .stations] s
      ((s.setSup (fedTimer f.src s)).withStation i { st with ready := r }) := fun r =>
    (fed.mono (by simp)).trans ((withStation_keeps ..).mono (by simp))
  have others : ∀ r : Bool, OtherStations i s
      ((s.setSup (fedTimer f.src s)).withStation i { st with ready := r }) := fun r =>
    withStation_other (s.setSup (fedTimer f.src s)) i _
  have plain : ∀ r : Bool, takeReady f.payload (s.setSup (fedTimer f.src s))
        = (s.setSup (fedTimer f.src s)).withStation i { st with ready := r } →
      ∃ t, exec (.readyChange f) s = .next t ∧ t.req.sup = fedTimer f.src s ∧ KeepsAllBut [.sup, .stations] s t
        ∧ t.stations[i] = { st with ready := r } ∧ OtherStations i s t := fun r hact =>
    ⟨_, readyChange_quiet h hact (withStation_keeps ..) (by simp) rfl rfl, rfl, set r, withStation_same .., others r⟩
  refine ⟨fun same => ?_, fun up old hidle => plain true ?_, fun up old hidle => ?_,
    fun down old hb hc => plain false ?_, fun down old works => ?_⟩
  · refine ⟨_, readyChange_quiet h (x := s.setSup (fedTimer f.src s)) ?_
      ((KeepsAllBut.refl _).mono (qs := [.sup]) (by simp)) (by simp) rfl rfl, rfl, fed⟩
    rw [take, if_neg, if_neg]
    · rintro ⟨down, old⟩
      have ready : st.ready = true := old
      rcases same with hv | ⟨hv, -⟩ | ⟨-, hr⟩
      · omega
      · omega
      · simp [ready] at hr
    · rintro ⟨up, old⟩
      have ready : st.ready = false := old
      rcases same with hv | ⟨-, hr⟩ | ⟨hv, -⟩
      · omega
      · simp [ready] at hr
      · omega
  · rw [take, if_pos ⟨up, old⟩, readyRises_eq, if_neg (by exact hidle)]
    rfl
  · have hact : takeReady f.payload (s.setSup (fedTimer f.src s)) =
        bindingAttempt ((s.setSup (fedTimer f.src s)).withStation i { st with ready := true }) := by
      rw [take, if_pos ⟨up, old⟩, readyRises_eq, if_pos (by exact hidle)]
      rfl
    have binds := (bindingAttempt_binds ((s.setSup (fedTimer f.src s)).withStation i { st with ready := true })).toOffers
    have reply := (Works.bindingAttempt ((s.setSup (fedTimer f.src s)).withStation i { st with ready := true })).replying
    have attempt : bindingAttempt ((s.setSup (fedTimer f.src s)).withStation i { st with ready := true })
        = (bindingAttempt (s.withStation i { st with ready := true })).setSup (fedTimer f.src s) :=
      bindingAttempt_setSup (s.withStation i { st with ready := true }) _
    have own := binds.station i
    rw [withStation_same] at own
    refine ⟨_, readyChange_quiet h hact (((withStation_keeps ..).mono (by simp)).trans
        (binds.keeps.mono (qs := [.stations, .plans, .builds, .flags, .exec]) (by simp))) (by simp) reply.1 reply.2,
      ?_, ((set true).mono (by simp)).trans (binds.keeps.mono (by simp)), own.imp_right And.right, ?_⟩
    · rw [attempt]
      rfl
    · rw [attempt]
      exact setSup_keeps ..
  · rw [take, if_neg (by simp [show u8At f.payload 1 = 0 from down]), if_pos ⟨down, old⟩, readyFalls_eq,
      if_neg (by simpa using ⟨hb, hc⟩)]
    rfl
  · have hact : takeReady f.payload (s.setSup (fedTimer f.src s)) =
        faultWorking i .notReady ((s.setSup (fedTimer f.src s)).withStation i { st with ready := false }) := by
      rw [take, if_neg (by simp [show u8At f.payload 1 = 0 from down]), if_pos ⟨down, old⟩, readyFalls_eq,
        if_pos (by exact works)]
      rfl
    have own := withStation_same (s.setSup (fedTimer f.src s)) i { st with ready := false }
    have faults := faultWorking_faults i .notReady
      (s := (s.setSup (fedTimer f.src s)).withStation i { st with ready := false })
      (by rw [own]; rcases works with w | w <;> simp [w])
    have reply := (Works.faultWorking i .notReady
      ((s.setSup (fedTimer f.src s)).withStation i { st with ready := false })).replying
    obtain ⟨keeps, ready, entered⟩ := faults.entered h.served' (set false) (others false) own reply
    have run := readyChange_exec h
    rw [hact] at run
    have sup : Part.Same ((s.setSup (fedTimer f.src s)).withStation i { st with ready := false }) (settle
        (faultWorking i .notReady ((s.setSup (fedTimer f.src s)).withStation i { st with ready := false }))) .sup :=
      (faults.keeps.2.2 .sup (by simp)).trans ((settle_keeps_parts _).2.2 .sup (by simp))
    exact ⟨_, run, sup, keeps, ready, entered⟩

end Sys2Proof.Machine
end

section
/-!
PROOFS. What the closing operations of a station send, report and leave: the exchange call and BUILD_CLOSED (R142), the
closing test (R139), the completion notice (R141).
-/

namespace Sys2Proof.Machine

/-! ### Frames and reports of a part of an event -/

/-- A part of an event sends these frames, queues these reports and changes these parts at most; a device READY for
requests stays so. -/
structure Emits (frames : List (Nat × OwnBody)) (reports : List ReportBody) (ps : List Part) (s t : State) : Prop where
  keeps  : KeepsAllBut ps s t
  joined : JoinedB frames s t
  told   : ReportsTaken reports s t
  ready  : s.req.exec = none → Part.Same s t .exec

namespace Emits

variable {frames frames' : List (Nat × OwnBody)} {reports reports' : List ReportBody} {ps qs : List Part}
variable {s t u : State}

theorem trans (h : Emits frames reports ps s t) (k : Emits frames' reports' qs t u)
    (hps : Part.ownNode ∉ ps ∧ Part.time ∉ ps ∧ Part.levels ∉ ps) :
    Emits (frames ++ frames') (reports ++ reports') (ps ++ qs) s u where
  keeps := (h.keeps.mono (by simp +contextual)).trans (k.keeps.mono (by simp +contextual))
  joined := h.joined.trans k.joined (h.keeps.2.2 .ownNode hps.1)
  told := h.told.trans k.told (h.keeps.2.2 .levels hps.2.2) (h.keeps.2.2 .time hps.2.1)
  ready none := (h.ready none).trans (k.ready ((h.ready none).1.trans none))

theorem mono (h : Emits frames reports ps s t) (hs : ∀ p ∈ ps, p ∈ qs) : Emits frames reports qs s t :=
  ⟨h.keeps.mono hs, h.joined, h.told, h.ready⟩

/-- A change of other parts alone. -/
theorem noted (h : KeepsAllBut ps s t) (ready : s.req.exec = none → Part.Same s t .exec)
    (hps : Part.portB ∉ ps ∧ Part.reports ∉ ps ∧ Part.levels ∉ ps) : Emits [] [] ps s t :=
  ⟨h, .of_same (h.2.2 .portB hps.1), reports_eq (h.2.2 .reports hps.2.1) (h.2.2 .levels hps.2.2), ready⟩

theorem of_keeps (h : KeepsAllBut ps s t)
    (hps : Part.portB ∉ ps ∧ Part.reports ∉ ps ∧ Part.levels ∉ ps ∧ Part.exec ∉ ps) : Emits [] [] ps s t :=
  noted h (fun _ => h.2.2 .exec hps.2.2.2) ⟨hps.1, hps.2.1, hps.2.2.1⟩

/-- Behind a part that sends and reports nothing. -/
theorem after (k : Emits [] [] ps s t) (h : Emits frames reports qs t u)
    (hps : Part.ownNode ∉ ps ∧ Part.time ∉ ps ∧ Part.levels ∉ ps) : Emits frames reports (ps ++ qs) s u :=
  k.trans h hps

/-- Before a part that sends and reports nothing. -/
theorem andThen (h : Emits frames reports ps s t) (k : Emits [] [] qs t u)
    (hps : Part.ownNode ∉ ps ∧ Part.time ∉ ps ∧ Part.levels ∉ ps) : Emits frames reports (ps ++ qs) s u := by
  have all := h.trans k hps
  rwa [List.append_nil, List.append_nil] at all

/-- The parts but the watch of a reply, in a device READY for requests. -/
theorem keepsReady (h : Emits frames reports (.exec :: ps) s t) (none : s.req.exec = none) : KeepsAllBut ps s t :=
  h.keeps.but (h.ready none)

end Emits

theorem emits_refl (s : State) : Emits [] [] [] s s := .of_keeps (.refl s) (by simp)

theorem emits_report (b : ReportBody) (s : State) : Emits [] [b] [.reports] s (report b s) :=
  ⟨report_keeps b s, .of_same ((report_keeps b s).2.2 .portB (by simp)), report_taken b s,
    fun _ => (report_keeps b s).2.2 .exec (by simp)⟩

theorem emits_issueB (dst : Nat) (b : OwnBody) (s : State) : Emits [(dst, b)] [] [.portB] s (issueB dst b s) :=
  ⟨issueB_keeps dst b s, issueB_joined dst b s, reportsTaken_nil rfl, fun _ => Part.Same.refl s .exec⟩

theorem emits_withStation (s : State) (i : StationNo) (st : Station) :
    Emits [] [] [.stations] s (s.withStation i st) := .of_keeps (withStation_keeps ..) (by simp)

theorem emits_enterState (s : State) (i : StationNo) (n : StationState) :
    Emits [] [] [.stations, .exec] s (s.enterState i n) := by
  refine .noted (enterState_keeps s i n) (fun none => ?_) (by simp)
  unfold State.enterState
  split_ifs
  · exact Part.Same.refl s .exec
  · exact ⟨by simp [none], rfl, rfl⟩

theorem Offers.emits {s t : State} (h : Offers s t) : Emits [] [] [.plans, .stations, .builds, .flags, .exec] s t :=
  .noted h.keeps h.ready (by simp)

/-! ### The exchange call (R142) -/

theorem callFrame_congr {s u : State} {i : StationNo} {b : Build} (h : Part.Same s u .settings) :
    callFrame u i b = callFrame s i b := by
  have settings : u.req.settings = s.req.settings := h
  rw [callFrame, callFrame, settings]

/-- The parts that the closing of a station changes. -/
def closingParts : List Part := [.portB, .exec, .stations, .reports]

theorem exchangeCall_emits (i : StationNo) {s u : State} (settings : Part.Same s u .settings)
    (builds : Part.Same s u .builds) : Emits [callFrame s i s.builds[i]] [] [.portB] u (exchangeCall i u) := by
  have same : u.builds = s.builds := builds
  have call := emits_issueB u.req.settings.transportNode (.exchangeCall i u.builds[i].planId u.builds[i].part
    u.builds[i].cases.length u.builds[i].totalWeight u.builds[i].topHeight) u
  have frame : callFrame u i u.builds[i] = callFrame s i s.builds[i] := by rw [callFrame_congr settings, same]
  exact frame ▸ call

theorem awaitExchange_emits (i : StationNo) (s : State) :
    Emits [callFrame s i s.builds[i]] [closedReport i s.builds[i] s.stations[i].close] closingParts s
      (awaitExchange i s) := by
  have entering := emits_enterState s i .awaitExchange
  have calling := exchangeCall_emits i (entering.keeps.2.2 .settings (by simp)) (entering.keeps.2.2 .builds (by simp))
  have close : (exchangeCall i (s.enterState i .awaitExchange)).stations[i].close = s.stations[i].close := by
    have stations : (exchangeCall i (s.enterState i .awaitExchange)).stations
        = (s.enterState i .awaitExchange).stations := rfl
    rw [stations, enterState_stations, withStation_same]
  unfold awaitExchange
  dsimp only
  rw [close]
  exact ((entering.after calling (by simp)).trans (emits_report ..) (by simp)).mono (by simp [closingParts])

theorem awaitExchange_stations (i : StationNo) (s : State) : (awaitExchange i s).stations =
    (s.withStation i { s.stations[i] with state := .awaitExchange }).stations := by
  have last : (awaitExchange i s).stations = (exchangeCall i (s.enterState i .awaitExchange)).stations :=
    (report_keeps ..).2.2 .stations (by simp)
  exact last.trans (enterState_stations s i .awaitExchange)

/-! ### The closing test (R139) -/

/-- A station with nothing left: no order and no case on its spur. -/
abbrev Station.Emptied (st : Station) : Prop := st.orders = [] ∧ st.spur = []

theorem closingTest_emptied {i : StationNo} {s : State} (hs : s.stations[i].state = .closing)
    (h : s.stations[i].Emptied) : closingTest i s = awaitExchange i s := if_pos ⟨hs, h⟩

theorem closingTest_idle {i : StationNo} {s : State} (h : s.stations[i].state = .closing → ¬ s.stations[i].Emptied) :
    closingTest i s = s := if_neg fun e => h e.1 e.2

/-- The frames and reports of the closing test of a station in CLOSING, and what it leaves. -/
theorem closingTest_emits {i : StationNo} {s : State} (hs : s.stations[i].state = .closing) :
    Emits (if s.stations[i].Emptied then [callFrame s i s.builds[i]] else [])
        (if s.stations[i].Emptied then [closedReport i s.builds[i] s.stations[i].close] else []) closingParts s
        (closingTest i s)
      ∧ (closingTest i s).stations = (s.withStation i
          { s.stations[i] with state := if s.stations[i].Emptied then .awaitExchange else .closing }).stations := by
  by_cases h : s.stations[i].Emptied
  · rw [closingTest_emptied hs h]
    simp only [if_pos h]
    exact ⟨awaitExchange_emits i s, awaitExchange_stations i s⟩
  · rw [closingTest_idle fun _ => h]
    simp only [if_neg h]
    refine ⟨(emits_refl s).mono (by simp), ?_⟩
    rw [← hs]
    exact (congrArg State.stations (withStation_own s i)).symm

/-- A station closed with its reason, and the closing test. -/
theorem enterClosing_emits (i : StationNo) (r : CloseReason) (s : State) :
    Emits (if s.stations[i].Emptied then [callFrame s i s.builds[i]] else [])
        (if s.stations[i].Emptied then [closedReport i s.builds[i] (some r)] else []) closingParts s
        (enterClosing i r s)
      ∧ (enterClosing i r s).stations = (s.withStation i
          { s.stations[i] with
            close := some r, state := if s.stations[i].Emptied then .awaitExchange else .closing }).stations := by
  have named := emits_withStation s i { s.stations[i] with close := some r }
  have entering := emits_enterState (s.withStation i { s.stations[i] with close := some r }) i .closing
  have entered : ((s.withStation i { s.stations[i] with close := some r }).enterState i .closing).stations
      = (s.withStation i { s.stations[i] with close := some r, state := .closing }).stations := by
    rw [enterState_stations, withStation_same, withStation_again]
  have path : enterClosing i r s
      = closingTest i ((s.withStation i { s.stations[i] with close := some r }).enterState i .closing) := rfl
  rw [path]
  have changed := (named.after entering (by simp)).mono (qs := [.stations, .exec]) (by simp)
  generalize (s.withStation i { s.stations[i] with close := some r }).enterState i .closing = u at *
  have own : u.stations[i] = { s.stations[i] with close := some r, state := .closing } := by
    rw [entered, withStation_same]
  have builds : u.builds = s.builds := changed.keeps.2.2 .builds (by simp)
  obtain ⟨emits, stations⟩ := closingTest_emits (i := i) (s := u) (by rw [own])
  rw [own, builds, callFrame_congr (changed.keeps.2.2 .settings (by simp))] at emits
  refine ⟨(changed.after emits (by simp)).mono (by simp [closingParts]), ?_⟩
  rw [stations, own]
  have again := withStation_again s i { s.stations[i] with close := some r, state := .closing }
    { s.stations[i] with close := some r, state := if s.stations[i].Emptied then .awaitExchange else .closing }
  rw [← again]
  exact congrArg (fun v : Vector Station 8 => v.set i _) entered

/-! ### The completion notice (R141) -/

/-- Whether a completion notice sends the exchange call: the station is BUILDING with nothing left. -/
abbrev Calls (s : State) (j : StationNo) : Prop := s.stations[j].state = .building ∧ s.stations[j].Emptied

theorem completionNotice_emits (j : StationNo) (s : State) :
    Emits (if Calls s j then [callFrame s j s.builds[j]] else [])
        (if Calls s j then [closedReport j s.builds[j] (some .complete)] else []) closingParts s (completionNotice j s)
      ∧ (completionNotice j s).stations = (s.withStation j (noticed s j)).stations := by
  have none : Emits [] [] closingParts s s := (emits_refl s).mono (by simp)
  have own : s.stations = (s.withStation j s.stations[j]).stations := congrArg State.stations (withStation_own s j).symm
  unfold completionNotice noticed Calls
  cases hs : s.stations[j].state
  case fault =>
    simp only [reduceCtorEq, false_and, if_false]
    exact ⟨(emits_withStation ..).mono (by simp [closingParts]), rfl⟩
  case building =>
    have named := emits_withStation s j { s.stations[j] with close := some .complete }
    have path : (s.onStation j fun st => { st with close := some .complete })
      = s.withStation j { s.stations[j] with close := some .complete } := rfl
    have record := withStation_same s j { s.stations[j] with close := some .complete }
    simp only [true_and, path, record]
    by_cases h : s.stations[j].Emptied
    · have calls := awaitExchange_emits j (s.withStation j { s.stations[j] with close := some .complete })
      have left := awaitExchange_stations j (s.withStation j { s.stations[j] with close := some .complete })
      rw [record, withStation_again] at left
      rw [record, callFrame_congr (named.keeps.2.2 .settings (by simp))] at calls
      simp only [if_pos h]
      exact ⟨(named.after calls (by simp)).mono (by simp [closingParts]), left⟩
    · have entering := emits_enterState (s.withStation j { s.stations[j] with close := some .complete }) j .closing
      have left := enterState_stations (s.withStation j { s.stations[j] with close := some .complete }) j .closing
      rw [record, withStation_again] at left
      simp only [if_neg h]
      exact ⟨(named.after entering (by simp)).mono (by simp [closingParts]), left⟩
  all_goals
    simp only [reduceCtorEq, false_and, if_false]
    exact ⟨none, own⟩

/-- The completion notice of a D + 1, if there is one. -/
theorem notice_emits (n : Option StationNo) (s : State) :
    Emits ((n.toList.filter fun j => decide (Calls s j)).map fun j => callFrame s j s.builds[j])
      ((n.toList.filter fun j => decide (Calls s j)).map fun j => closedReport j s.builds[j] (some .complete))
      closingParts s (notice n s) := by
  cases n with
  | none => exact (emits_refl s).mono (by simp)
  | some j =>
    have emits := (completionNotice_emits j s).1
    show Emits _ _ closingParts s (completionNotice j s)
    rw [Option.toList_some, List.filter_singleton]
    by_cases h : Calls s j
    · rw [if_pos h, if_pos h] at emits
      rw [decide_eq_true h]
      exact emits
    · rw [if_neg h, if_neg h] at emits
      rw [decide_eq_false h]
      exact emits

theorem notice_own (j : StationNo) (s : State) : (notice (some j) s).stations[j] = noticed s j := by
  show (completionNotice j s).stations[j] = _
  rw [(completionNotice_emits j s).2, withStation_same]

theorem notice_other {n : Option StationNo} {i : StationNo} (h : n ≠ some i) (s : State) :
    (notice n s).stations[i] = s.stations[i] := by
  cases n with
  | none => rfl
  | some j =>
    show (completionNotice j s).stations[i] = _
    rw [(completionNotice_emits j s).2, withStation_other s j _ i fun e => h (congrArg some e.symm)]

end Sys2Proof.Machine
end

section
/-!
PROOFS. The part close (R79), CLOSE STATION (R140) and the split (R82).
-/

namespace Sys2Proof.Machine

/-! ### The part close (R79) -/

theorem planAt_some {s : State} {i : StationNo} {p : Plan} (h : s.planAt i = some p) :
    p ∈ s.plans.plans ∧ p.state = .building ∧ p.bound = some i := by
  have found := List.find?_some h
  simp only [Bool.and_eq_true, beq_iff_eq] at found
  exact ⟨List.mem_of_find?_eq_some h, found⟩

theorem closed_id (p : Plan) : p.closed.id = p.id := by
  unfold Plan.closed
  split_ifs <;> rfl

theorem closed_lines (p : Plan) : p.closed.lines = p.lines := by
  unfold Plan.closed
  split_ifs <;> rfl

/-- What the part close of station `i` leaves. -/
structure ClosesPart (i : StationNo) (s t : State) : Prop extends Offers s t where
  ids    : t.plans.plans.map Plan.id = s.plans.plans.map Plan.id
  lines  : ∀ id p, s.plan id = some p → ∃ q, t.plan id = some q ∧ q.lines = p.lines
  free   : s.planAt i = none → t = s
  closed : RisingKeys Plan.key s.plans.plans → s.stations[i].state ≠ .idle → ∀ p, s.planAt i = some p →
             ∃ q, t.plan p.id = some q ∧ q.lines = p.lines ∧
               if (∃ l ∈ p.lines, l.planned < l.required) then
                 q.part = min 15 (p.part + 1)
                 ∧ (q.state = .queued ∧ q.bound = none ∨ q.state = .building ∧ ∃ j : StationNo, j ≠ i ∧ q.bound = some j)
                 ∧ t = bindingAttempt (s.onPlan p.id Plan.closed)
               else q.part = p.part ∧ q.state = .draining ∧ q.bound = .none

theorem closePart_closes (i : StationNo) (s : State) : ClosesPart i s (closePart i s) := by
  unfold closePart
  cases hp : s.planAt i with
  | none =>
    exact ⟨.refl s, rfl, fun _ p h => ⟨p, h, rfl⟩, fun _ => rfl, fun _ _ _ h => nomatch hp.symm.trans h⟩
  | some p =>
    dsimp only
    have ids := ids_onPlan s p.id closed_id
    have lines : ∀ id q, s.plan id = some q → ∃ r, (s.onPlan p.id Plan.closed).plan id = some r ∧ r.lines = q.lines := by
      intro id q hq
      by_cases same : id = p.id
      · subst same
        exact ⟨q.closed, plan_onPlan_same hq closed_id, closed_lines q⟩
      · exact ⟨q, (plan_onPlan_other same closed_id).trans hq, rfl⟩
    obtain ⟨held, -, -⟩ := planAt_some hp
    have isOpen := hasOpen_iff p
    split_ifs with hopen
    · have binds := bindingAttempt_binds (s.onPlan p.id Plan.closed)
      refine ⟨(Offers.onPlan ..).trans binds.toOffers, binds.ids.trans ids, fun id q hq => ?_,
        fun h => (nomatch hp.symm.trans h), fun rising busy q hq => ?_⟩
      · obtain ⟨r, hr, same⟩ := lines id q hq
        obtain ⟨r', hr', bound⟩ := binds.plan id r hr
        refine ⟨r', hr', ?_⟩
        rcases bound with rfl | ⟨j, -, rfl⟩ <;> exact same
      · obtain rfl : p = q := Option.some.inj (hp.symm.trans hq)
        have closed := plan_onPlan_same (plan_of_mem rising held) closed_id
        rw [Plan.closed, if_pos hopen] at closed
        obtain ⟨r, hr, rfl | ⟨j, idle, rfl⟩⟩ := binds.plan p.id _ closed
        · refine ⟨_, hr, rfl, ?_⟩
          rw [if_pos (isOpen.mp hopen)]
          exact ⟨rfl, .inl ⟨rfl, rfl⟩, rfl⟩
        · refine ⟨_, hr, rfl, ?_⟩
          rw [if_pos (isOpen.mp hopen)]
          exact ⟨rfl, .inr ⟨rfl, j, fun e => busy (e ▸ idle), rfl⟩, rfl⟩
    · refine ⟨Offers.onPlan .., ids, lines, fun h => (nomatch hp.symm.trans h), fun rising busy q hq => ?_⟩
      obtain rfl : p = q := Option.some.inj (hp.symm.trans hq)
      have closed := plan_onPlan_same (plan_of_mem rising held) closed_id
      rw [Plan.closed, if_neg hopen] at closed
      refine ⟨_, closed, rfl, ?_⟩
      rw [if_neg (fun h => hopen (isOpen.mpr h))]
      exact ⟨rfl, rfl, rfl⟩

/-! ### A station closed with its part (R82, R140) -/

/-- What the end of the part of station `i` leaves of the plan `p` that was BUILDING there: DRAINING, or requeued and
offered to the other stations. -/
def PartLeft (i : StationNo) (p : Plan) (s t : State) : Prop :=
  ∃ q, t.plan p.id = some q ∧ q.lines = p.lines
    ∧ if (∃ l ∈ p.lines, l.planned < l.required) then
        q.part = min 15 (p.part + 1)
        ∧ (q.state = .queued ∧ q.bound = none ∨ q.state = .building ∧ ∃ j : StationNo, j ≠ i ∧ q.bound = some j)
        ∧ ∃ m : State, KeepsAllBut [.plans] s m ∧ (∀ id, id ≠ p.id → m.plan id = s.plan id)
            ∧ m.plan p.id = some { p with part := min 15 (p.part + 1), state := .queued, bound := none }
            ∧ t.plans = (bindingAttempt m).plans ∧ t.engine.flags = (bindingAttempt m).engine.flags
            ∧ OtherStations i (bindingAttempt m) t ∧ OtherBuilds i (bindingAttempt m) t
      else q.part = p.part ∧ q.state = .draining ∧ q.bound = none

/-- What a station closed with reason `r` and the end of its part shows. -/
def ClosedAs (i : StationNo) (r : CloseReason) (s t : State) : Prop :=
  t.builds[i] = s.builds[i]
  ∧ (if s.stations[i].orders = [] ∧ s.stations[i].spur = [] then
       t.stations[i] = { s.stations[i] with close := some r, state := .awaitExchange }
       ∧ JoinedB [callFrame s i s.builds[i]] s t ∧ ReportsTaken [closedReport i s.builds[i] (some r)] s t
     else t.stations[i] = { s.stations[i] with close := some r, state := .closing } ∧ JoinedB [] s t
       ∧ t.reports = s.reports)
  ∧ ∀ p, s.planAt i = some p → PartLeft i p s t

theorem plans_eq {s t : State} (hp : Part.Same s t .plans) (ha : Part.Same s t .admission) (hc : Part.Same s t .counter) :
    t.plans = s.plans := by
  have plans : t.plans.plans = s.plans.plans := hp
  have admission : t.plans.admission = s.plans.admission := ha
  have counter : t.plans.counter = s.plans.counter := hc
  cases ht : t.plans
  cases hs : s.plans
  simp_all

theorem partLeft_of_closePart {i : StationNo} {s t : State} {ps : List Part} (busy : s.stations[i].state ≠ .idle)
    (rising : RisingKeys Plan.key s.plans.plans) (behind : KeepsAllBut ps (closePart i s) t)
    (hps : Part.plans ∉ ps ∧ Part.admission ∉ ps ∧ Part.counter ∉ ps ∧ Part.flags ∉ ps ∧ Part.builds ∉ ps)
    (others : OtherStations i (closePart i s) t) {p : Plan} (hp : s.planAt i = some p) : PartLeft i p s t := by
  obtain ⟨hplans, hadmission, hcounter, hflags, hbuilds⟩ := hps
  have same := plans_eq (behind.2.2 .plans hplans) (behind.2.2 .admission hadmission) (behind.2.2 .counter hcounter)
  have builds : t.builds = (closePart i s).builds := behind.2.2 .builds hbuilds
  obtain ⟨held, -, -⟩ := planAt_some hp
  obtain ⟨q, hq, lines, rest⟩ := (closePart_closes i s).closed rising busy p hp
  refine ⟨q, by rwa [State.plan, same], lines, ?_⟩
  split_ifs at rest ⊢ with hopen
  · obtain ⟨part, state, attempt⟩ := rest
    rw [attempt] at same behind others builds
    refine ⟨part, state, s.onPlan p.id Plan.closed, onPlan_keeps .., fun id ne => plan_onPlan_other ne closed_id, ?_, same,
      behind.2.2 .flags hflags, others, fun j _ => by rw [builds]⟩
    rw [plan_onPlan_same (plan_of_mem rising held) closed_id, Plan.closed, if_pos ((hasOpen_iff p).mpr hopen)]
    rfl
  · exact rest

/-- The frames and reports of a station closed with the end of its part. -/
theorem enterClosing_closePart_emits {i : StationNo} (r : CloseReason) {s w : State}
    (busy : s.stations[i].state ≠ .idle) (before : KeepsAllBut [.sup] (closePart i s) w) :
    Emits (if s.stations[i].Emptied then [callFrame s i s.builds[i]] else [])
      (if s.stations[i].Emptied then [closedReport i s.builds[i] (some r)] else [])
      [.exec, .portB, .sup, .plans, .stations, .builds, .flags, .reports] s (enterClosing i r w) := by
  have part := closePart_closes i s
  have first := part.emits.andThen (.of_keeps before (by simp)) (by simp)
  have stations : w.stations = (closePart i s).stations := before.2.2 .stations (by simp)
  have builds : w.builds = (closePart i s).builds := before.2.2 .builds (by simp)
  have closing := (enterClosing_emits i r w).1
  rw [stations, part.stays busy, builds, part.build i busy, callFrame_congr (first.keeps.2.2 .settings (by simp))]
    at closing
  exact (first.after closing (by simp)).mono (by simp [closingParts])

/-- The end of the part and the entry into CLOSING, with changes of port A and of the supervision timer around them. -/
theorem closedAs_of_enterClosing {i : StationNo} {r : CloseReason} {s w t : State} (busy : s.stations[i].state ≠ .idle)
    (rising : RisingKeys Plan.key s.plans.plans) (before : KeepsAllBut [.sup] (closePart i s) w)
    (behind : KeepsAllBut [.portA, .portB] (enterClosing i r w) t) (joined : JoinedB [] (enterClosing i r w) t) :
    ClosedAs i r s t := by
  have part := closePart_closes i s
  have all := enterClosing_closePart_emits r busy before
  have final : Emits [] [] [.portA, .portB] (enterClosing i r w) t :=
    ⟨behind, joined, reports_eq (behind.2.2 .reports (by simp)) (behind.2.2 .levels (by simp)),
      fun _ => behind.2.2 .exec (by simp)⟩
  have whole := all.andThen final (by simp)
  obtain ⟨closing, closed⟩ := enterClosing_emits i r w
  have stations : w.stations = (closePart i s).stations := before.2.2 .stations (by simp)
  have stationsT : t.stations = (enterClosing i r w).stations := behind.2.2 .stations (by simp)
  have buildsT : t.builds = (enterClosing i r w).builds := behind.2.2 .builds (by simp)
  have buildsE : (enterClosing i r w).builds = w.builds := closing.keeps.2.2 .builds (by simp [closingParts])
  have builds : w.builds = (closePart i s).builds := before.2.2 .builds (by simp)
  have after : KeepsAllBut (.portA :: .sup :: closingParts) (closePart i s) t :=
    (before.mono (by simp)).trans ((closing.keeps.mono (by simp +contextual)).trans
      (behind.mono (by simp [closingParts])))
  have others : OtherStations i (closePart i s) t := by
    intro j hj
    rw [stationsT, closed, withStation_other _ _ _ j hj, stations]
  refine ⟨?_, ?_, fun p hp => partLeft_of_closePart busy rising after (by simp [closingParts]) others hp⟩
  · rw [buildsT, buildsE, builds, part.build i busy]
  · have station : t.stations[i] = { s.stations[i] with
        close := some r, state := if s.stations[i].Emptied then .awaitExchange else .closing } := by
      rw [stationsT, closed, withStation_same, stations, part.stays busy]
    by_cases h : s.stations[i].Emptied
    · rw [if_pos h, if_pos h] at whole
      rw [if_pos h] at station ⊢
      exact ⟨station, whole.joined, whole.told⟩
    · rw [if_neg h, if_neg h] at whole
      rw [if_neg h] at station ⊢
      exact ⟨station, whole.joined, whole.told⟩

theorem closePart_setSup (i : StationNo) (s : State) (x : SupTimer) :
    closePart i (s.setSup x) = (closePart i s).setSup x := by
  have plan : (s.setSup x).planAt i = s.planAt i := rfl
  unfold closePart
  rw [plan]
  cases s.planAt i with
  | none => rfl
  | some p =>
    dsimp only
    have changed : (s.setSup x).onPlan p.id Plan.closed = (s.onPlan p.id Plan.closed).setSup x := rfl
    rw [changed, bindingAttempt_setSup]
    split_ifs <;> rfl

/-- Settles O38: the part close is `closePart_closes`, the entry into CLOSING `enterClosing_emits`. -/
theorem closeStationCompletes : Obligations.CloseStationCompletes := by
  intro f s h hb i st b closed
  refine ⟨fun other => ?_, fun building rising => ?_, fun outside => ?_, fun building bound rising => ?_⟩
  · have hact : closeStation f (s.setSup (fedTimer f.src s))
        = refuse 0x1C .wrongState 0 f (s.setSup (fedTimer f.src s)) := if_neg other
    exact request_declined h hb hact
  · have busy : s.stations[i].state ≠ .idle := by
      rw [show s.stations[i].state = .building from building]
      decide
    have hact : closeStation f (s.setSup (fedTimer f.src s)) = answer f
        { kind := 0x1C, completion := .done, reason := .none, field := 0, result := .empty }
        (enterClosing i .request ((closePart i s).setSup (fedTimer f.src s))) := by
      rw [← closePart_setSup]
      exact if_pos building
    have sup : KeepsAllBut [.sup] (closePart i s) ((closePart i s).setSup (fedTimer f.src s)) := setSup_keeps ..
    have fromFed := enterClosing_closePart_emits (i := i) .request (s := s.setSup (fedTimer f.src s))
      (w := (closePart i s).setSup (fedTimer f.src s)) busy (by
        rw [closePart_setSup]
        exact (KeepsAllBut.refl _).mono (by simp))
    have supervised : Part.Same (s.setSup (fedTimer f.src s))
        (enterClosing i .request ((closePart i s).setSup (fedTimer f.src s))) .sup :=
      (enterClosing_emits i .request _).1.keeps.2.2 .sup (by simp [closingParts])
    have changed : KeepsAllBut [.portB, .plans, .stations, .builds, .flags, .reports] (s.setSup (fedTimer f.src s)) _ :=
      ((fromFed.keepsReady h.ready).mono (qs := [.sup, .portB, .plans, .stations, .builds, .flags, .reports])
        (by simp)).but supervised
    obtain ⟨t, ht, hput, hsup, hkeeps, hjoined⟩ := request_answered_with h hb hact changed (by simp)
    refine ⟨t, ht, ⟨hput, hsup⟩, ?_, closedAs_of_enterClosing busy rising sup hkeeps hjoined⟩
    exact ((setSup_keeps ..).mono (by simp)).trans ((changed.mono (by simp)).trans (hkeeps.mono (by simp)))
  · rw [split, if_neg]
    rintro ⟨building, bound⟩
    rcases outside with h | h
    · exact h building
    · rw [show s.planAt i = none from h] at bound
      cases bound
  · have busy : s.stations[i].state ≠ .idle := by
      rw [show s.stations[i].state = .building from building]
      decide
    have splits : split s i = enterClosing i .split (closePart i s) :=
      if_pos ⟨building, Option.isSome_iff_ne_none.mpr bound⟩
    rw [splits]
    have unchanged : KeepsAllBut [.sup] (closePart i s) (closePart i s) := (KeepsAllBut.refl _).mono (by simp)
    have supervised : Part.Same s (enterClosing i .split (closePart i s)) .sup :=
      ((closePart_closes i s).keeps.2.2 .sup (by simp)).trans
        ((enterClosing_emits i .split _).1.keeps.2.2 .sup (by simp [closingParts]))
    refine ⟨?_, closedAs_of_enterClosing busy rising unchanged ((KeepsAllBut.refl _).mono (by simp))
      (.of_same (Part.Same.refl _ .portB))⟩
    exact ((enterClosing_closePart_emits .split busy unchanged).keeps.mono
      (qs := [.sup, .portB, .exec, .plans, .stations, .builds, .flags, .reports]) (by simp)).but supervised

end Sys2Proof.Machine
end

section
/-!
PROOFS. An ORDER REPLY that is not the expected one (R130, R146).
-/

namespace Sys2Proof.Machine

/-! ### Events as their commands show them -/

theorem Served.portB_settled {s x : State} (h : Served s) (hB : Part.Same s x .portB) :
    Part.Same s (settle x) .portB := by
  obtain ⟨port, fwd, own, -⟩ := id hB
  refine hB.trans (settle_portB ?_)
  rw [port, fwd, own]
  exact h.idleB

/-- What a partner frame or a timer shows of an event `x` that sends these frames and queues these reports. -/
structure Displays (frames : List (Nat × OwnBody)) (reports : List ReportBody) (ps : List Part) (s x t : State) : Prop where
  keeps    : KeepsAllBut (.portA :: .portB :: .reports :: ps) s t
  joined   : JoinedB frames s t
  reported : ReportedAll reports s t
  service  : KeepsAllBut [.portA, .portB, .reports] x t
  portB    : Part.portB ∉ ps → Part.Same s t .portB

theorem displays_of {frames : List (Nat × OwnBody)} {reports : List ReportBody} {ps : List Part} {s x : State}
    (keeps : KeepsAllBut ps s x) (joined : JoinedB frames s x) (told : ReportsTaken reports s x) (served : Served s)
    (hps : Part.portA ∉ ps ∧ Part.ownNode ∉ ps ∧ Part.settings ∉ ps)
    (reply : replying x.req.exec = replying s.req.exec ∧ x.req.late = s.req.late) :
    Displays frames reports ps s x (settle x) := by
  obtain ⟨reported, hreq, hdraws⟩ := settle_reportedAll served keeps hps reply.1 reply.2 told
  have service : KeepsAllBut [.portA, .portB, .reports] x (settle x) :=
    ((settle_keeps_parts x).mono (qs := [.exec, .portA, .portB, .reports]) (by simp)).but
      ⟨congrArg (·.exec) hreq, congrArg (·.late) hreq, hdraws⟩
  exact ⟨(keeps.mono (by simp +contextual)).trans (service.mono (by simp)),
    joined.settled (keeps.2.2 .ownNode hps.2.1), reported, service,
    fun hB => served.portB_settled (keeps.2.2 .portB hB)⟩

theorem Emits.displays {frames : List (Nat × OwnBody)} {reports : List ReportBody} {ps : List Part} {s x : State}
    (h : Emits frames reports ps s x) (served : Served s)
    (hps : Part.portA ∉ ps ∧ Part.ownNode ∉ ps ∧ Part.settings ∉ ps)
    (reply : replying x.req.exec = replying s.req.exec ∧ x.req.late = s.req.late) :
    Displays frames reports ps s x (settle x) := displays_of h.keeps h.joined h.told served hps reply

/-- The same of an event that sends nothing to port B. -/
theorem Displays.quietB {frames : List (Nat × OwnBody)} {reports : List ReportBody} {ps : List Part} {s x t : State}
    (h : Displays frames reports ps s x t) (hps : Part.portB ∉ ps) : KeepsAllBut (.portA :: .reports :: ps) s t :=
  (h.keeps.mono (qs := .portB :: .portA :: .reports :: ps) (by simp +contextual)).but (h.portB hps)

/-- A valid frame fed to the supervision timer (R170). -/
theorem emits_fed (src : Byte) (s : State) : Emits [] [] [.sup] s (s.setSup (fedTimer src s)) :=
  .of_keeps (setSup_keeps ..) (by simp)

/-! ### Orders cut out of a queue -/

/-- What a cut of the orders `os` out of the queue of station `i` sends, leaves of its record, and leaves of build, counts and
flags. -/
structure OrdersCut (i : StationNo) (os : List Order) (frames : List (Nat × OwnBody)) (ps : List Part) (own : Station)
    (s t : State) : Prop where
  emits    : Emits frames [] ps s t
  own      : t.stations[i] = own
  unplaced : Unplaced i os s t
  flags    : CutFlags i os s t

theorem CutBack.emits {i : StationNo} {os : List Order} {s t : State} (h : CutBack i os s t) :
    Emits [] [] [.plans, .stations, .builds, .flags, .exec] s t := .noted h.keeps h.ready (by simp)

/-- The UNKNOWN order leaves the queue, and its case the build (R146). -/
theorem endOrder_cut (i : StationNo) (o : Order) {s : State} (busy : s.stations[i].state ≠ .idle) :
    OrdersCut i [o] [] [.plans, .stations, .builds, .flags, .exec]
      { s.stations[i] with orders := s.stations[i].orders.filter fun p => p.seq != o.seq } s
      (unplace i [o] (endOrder i o s)) := by
  have ended : endOrder i o s = s.withStation i
    { s.stations[i] with orders := s.stations[i].orders.filter fun p => p.seq != o.seq } := rfl
  rw [ended]
  have keeps := withStation_keeps s i { s.stations[i] with
    orders := s.stations[i].orders.filter fun p => p.seq != o.seq }
  have others := withStation_other s i { s.stations[i] with
    orders := s.stations[i].orders.filter fun p => p.seq != o.seq }
  have own := withStation_same s i { s.stations[i] with
    orders := s.stations[i].orders.filter fun p => p.seq != o.seq }
  generalize s.withStation i _ = w at *
  have cut := unplace_cutBack i [o] (s := w) (by rw [own]; exact busy)
  exact ⟨((Emits.of_keeps keeps (by simp)).after cut.emits (by simp)).mono (by simp), cut.own.trans own,
    cut.unplaced.congr keeps others (KeepsAllBut.refl _) (fun _ _ => rfl) (by simp) (by simp),
    cut.flags.congr keeps (KeepsAllBut.refl _) (by simp) (by simp)⟩

/-! ### The case of an order that has ended (R134, R146) -/

theorem dropTrack_keeps (s : State) (u : Tracking) : KeepsAllBut [.tracks] s (s.dropTrack u) := by
  refine ⟨rfl, rfl, fun p hp => ?_⟩
  cases p <;> simp_all [Part.Same]

theorem setTrack_keeps (s : State) (u : Tracking) (st : TrackState) : KeepsAllBut [.tracks] s (s.setTrack u st) := by
  refine ⟨rfl, rfl, fun p hp => ?_⟩
  cases p <;> simp_all [Part.Same]

/-- The case of a failed order lost. -/
theorem caseLost_emits (i : StationNo) (o : Order) (s : State) :
    Emits [] [.caseLost o.tracking (s.snapCode o.tracking) i] [.tracks, .reports] s (caseLost i o s)
      ∧ (caseLost i o s).tracker.tracks = s.tracker.tracks.filter fun e => e.tracking != o.tracking := by
  have dropped := Emits.of_keeps (dropTrack_keeps s o.tracking) (by simp)
  refine ⟨dropped.after (emits_report ..) (by simp), ?_⟩
  exact (report_keeps ..).2.2 .tracks (by simp)

/-- The entry of a case that is back on the loop with one circuit more (R91, R134). -/
def Track.missed (s : State) (e : Track) : Track :=
  { e with
    circuits := min 16 (e.circuits + 1)
    state := .circulating (after s.link.time s.req.settings.returnTimeout) }

theorem caseMissed_keeps (u : Tracking) (s : State) : KeepsAllBut [.tracks] s (caseMissed u s) := by
  refine ⟨rfl, rfl, fun p hp => ?_⟩
  cases p <;> simp_all [Part.Same, caseMissed]

theorem track_caseMissed (u v : Tracking) (s : State) :
    (caseMissed u s).track v = if v = u then (s.track v).map (Track.missed s) else s.track v := by
  have bumped : ∀ w, (s.bump u).track w =
      if w = u then (s.track w).map fun e => { e with circuits := min 16 (e.circuits + 1) } else s.track w :=
    fun w => track_onTrack s u w fun _ => rfl
  rw [caseMissed, State.circulate, track_setTrack, bumped]
  split_ifs
  · rw [Option.map_map]
    rfl
  · rfl

theorem Track.missed_congr {s t : State} (ht : Part.Same s t .time) (hs : Part.Same s t .settings) :
    Track.missed t = Track.missed s := by
  have time : t.link.time = s.link.time := ht
  have settings : t.req.settings = s.req.settings := hs
  funext e
  rw [Track.missed, Track.missed, time, settings]

theorem headSpur_keeps (i : StationNo) (o : Order) (s : State) :
    KeepsAllBut [.stations, .tracks] s (headSpur i o s) :=
  ((withStation_keeps ..).mono (by simp)).trans ((setTrack_keeps ..).mono (by simp))

theorem headSpur_own (i : StationNo) (o : Order) (s : State) : (headSpur i o s).stations[i] =
    { s.stations[i] with
      spur := { tracking := o.tracking, discard := decide (o.target = .reject .discard) } :: s.stations[i].spur } :=
  withStation_same ..

theorem track_headSpur (i : StationNo) (o : Order) (s : State) (v : Tracking) : (headSpur i o s).track v =
    if v = o.tracking then (s.track v).map fun e => { e with state := .spurHeld i } else s.track v :=
  track_setTrack ..

theorem placeMore_keeps (n : Option PlanId) (j : Nat) (s : State) :
    KeepsAllBut [.plans, .reports] s (placeMore n j s).1 := by
  have unchanged : KeepsAllBut [.plans, .reports] s s := (KeepsAllBut.refl s).mono (by simp)
  cases n with
  | none => exact unchanged
  | some id =>
    cases hp : s.plan id with
    | none => simpa [placeMore, hp] using unchanged
    | some p =>
      cases hl : p.lines[j]? with
      | none => simpa [placeMore, hp, hl] using unchanged
      | some l =>
        by_cases full : l.placed < l.planned
        · exact (placeMore_placed hp hl full).1
        · simpa [placeMore, hp, hl, full] using unchanged

theorem doneCase_keeps (i : StationNo) (o : Order) (s : State) :
    KeepsAllBut [.plans, .tracks, .builds, .reports] s (doneCase i o s).1 := by
  have told : ∀ b u, KeepsAllBut [.plans, .tracks, .builds, .reports] u (report b u) := fun b u =>
    (report_keeps b u).mono (by simp)
  have dropped : ∀ u, KeepsAllBut [.plans, .tracks, .builds, .reports] u (u.dropTrack o.tracking) := fun u =>
    (dropTrack_keeps u o.tracking).mono (by simp)
  unfold doneCase
  cases o.target with
  | reject r => exact (dropped s).trans (told _ _)
  | place k =>
    unfold casePlaced
    dsimp only
    cases s.builds[i].cases[k]? with
    | none => exact dropped s
    | some c =>
      have confirmed : KeepsAllBut [.plans, .tracks, .builds, .reports] s
          (s.onBuild i fun b => b.confirm k o.tracking) := (withBuild_keeps ..).mono (by simp)
      exact confirmed.trans (((placeMore_keeps ..).mono (by simp)).trans ((dropped _).trans (told _ _)))

/-- A station in FAULT keeps its state, cause and orders under any completion notice. -/
theorem notice_fault {n : Option StationNo} {i : StationNo} {s : State} (h : s.stations[i].state = .fault) :
    (notice n s).stations[i].state = .fault ∧ (notice n s).stations[i].cause = s.stations[i].cause
      ∧ (notice n s).stations[i].orders = s.stations[i].orders := by
  by_cases hn : n = some i
  · subst hn
    rw [notice_own, noticed, h]
    exact ⟨h, rfl, rfl⟩
  · rw [notice_other hn]
    exact ⟨h, rfl, rfl⟩

/-! ### The cases of an ORDER REPLY -/

section Reply

variable {f : RxFrame} {s : State} {i : StationNo}

theorem orderReply_exec (h : FromPartner 0x52 f s) :
    exec (.orderReply f) s = .next (settle (takeReply f.payload (s.setSup (fedTimer f.src s)))) := by
  have arm : exec (.orderReply f) s = live (receive 0x52 f (partner 0x52 takeReply f)) s := rfl
  rw [arm, partner_live h]

theorem takeReply_some (hi : stationAt f.payload = some i) {out : ReplyOutcome}
    (ho : replyOutcome (u8At f.payload 2) (u8At f.payload 3) = some out) (u : State) :
    takeReply f.payload u = orderReply i (f.payload.getD 1 0) out u := by
  rw [takeReply, hi, ho]

theorem takeReply_none (ho : replyOutcome (u8At f.payload 2) (u8At f.payload 3) = none) (u : State) :
    takeReply f.payload u = u := by
  rw [takeReply, ho]
  cases stationAt f.payload <;> rfl

variable {q : OrderSeq} {out : ReplyOutcome}

theorem orderReply_withdrawn (h : q ∈ s.stations[i].withdrawn) : orderReply i q out s = s := by
  rw [orderReply, if_pos (by simpa using h)]

theorem orderReply_deaf (h : s.stations[i].state = .offline ∨ s.stations[i].state = .idle
    ∨ s.stations[i].state = .awaitExchange ∨ s.stations[i].state = .exchanging) : orderReply i q out s = s := by
  unfold orderReply
  split_ifs
  · rfl
  · rcases h with h | h | h | h <;> rw [h]

theorem orderReply_fault (hq : q ∉ s.stations[i].withdrawn) (h : s.stations[i].state = .fault) :
    orderReply i q out s = replyFault i q out s := by
  rw [orderReply, if_neg (by simpa using hq), h]

theorem orderReply_works (hq : q ∉ s.stations[i].withdrawn)
    (h : s.stations[i].state = .building ∨ s.stations[i].state = .closing) :
    orderReply i q out s = replyWorking i q out s := by
  rw [orderReply, if_neg (by simpa using hq)]
  rcases h with h | h <;> rw [h]

/-- A reply that is for the oldest order and fits its state. -/
def Expected (os : List Order) (q : OrderSeq) (out : Option ReplyOutcome) : Prop :=
  ∃ o, os.head? = some o ∧ o.seq = q
    ∧ (o.state = .issued ∧ (out = some .taken ∨ out = some .noCase)
        ∨ o.state = .taken ∧ (out = some .done ∨ out = some .dropped ∨ out = some .blocked))

theorem Expected.head {o : Order} {rest : List Order} {out : Option ReplyOutcome} (hseq : o.seq = q)
    (fit : o.state = .issued ∧ (out = some .taken ∨ out = some .noCase)
      ∨ o.state = .taken ∧ (out = some .done ∨ out = some .dropped ∨ out = some .blocked)) :
    Expected (o :: rest) q out := ⟨o, rfl, hseq, fit⟩

theorem replyWorking_unexpected (h : s.stations[i].state = .building ∨ s.stations[i].state = .closing)
    (unexpected : ¬ Expected s.stations[i].orders q (some out)) :
    replyWorking i q out s = faultWorking i .sequence s := by
  have fault : stationFault i .sequence s = faultWorking i .sequence s := if_pos h
  rw [← fault, replyWorking]
  cases hos : s.stations[i].orders with
  | nil => rfl
  | cons o rest =>
    dsimp only
    split_ifs with hseq
    · rw [hos] at unexpected
      cases hs : o.state <;> cases out
      case issued.taken | issued.noCase => exact absurd (.head hseq (.inl ⟨hs, by simp⟩)) unexpected
      case taken.done | taken.dropped | taken.blocked => exact absurd (.head hseq (.inr ⟨hs, by simp⟩)) unexpected
      all_goals rfl
    · rfl

theorem replyFault_none (h : ¬ ∃ o ∈ s.stations[i].orders, o.state = .unknown ∧ o.seq = q) :
    replyFault i q out s = s := by
  have none : (s.stations[i].orders.find? fun o => o.state == .unknown && o.seq == q) = none := by
    rw [List.find?_eq_none]
    intro o ho hu
    simp only [Bool.and_eq_true, beq_iff_eq] at hu
    exact h ⟨o, ho, hu⟩
  rw [replyFault, none]

theorem replyFault_some {o : Order}
    (h : (s.stations[i].orders.find? fun o => o.state == .unknown && o.seq == q) = some o) : replyFault i q out s =
      match (generalizing := false) out with
      | .taken => s
      | .done => notice (doneCase i o (endOrder i o s)).2 (doneCase i o (endOrder i o s)).1
      | .dropped => caseLost i o (unplace i [o] (endOrder i o s))
      | .noCase => caseMissed o.tracking (unplace i [o] (endOrder i o s))
      | .blocked => headSpur i o (unplace i [o] (endOrder i o s)) := by
  rw [replyFault, h] <;> cases out <;> rfl

end Reply

/-- An event that sends and reports nothing, on a device whose ports had been served. -/
theorem settle_noted {s x : State} {ps : List Part} (h : Served s) (hk : KeepsAllBut ps s x)
    (hps : Part.portA ∉ ps ∧ Part.portB ∉ ps ∧ Part.reports ∉ ps)
    (reply : replying x.req.exec = replying s.req.exec ∧ x.req.late = s.req.late) : settle x = x :=
  settle_of_served (h.noted hk hps reply.1 reply.2)

/-- An ORDER REPLY after which no frame and no report is on its way. -/
theorem orderReply_noted {f : RxFrame} {s x : State} {ps : List Part} (h : FromPartner 0x52 f s)
    (hact : takeReply f.payload (s.setSup (fedTimer f.src s)) = x)
    (keeps : KeepsAllBut ps (s.setSup (fedTimer f.src s)) x)
    (hps : Part.portA ∉ ps ∧ Part.portB ∉ ps ∧ Part.reports ∉ ps ∧ Part.sup ∉ ps)
    (reply : replying x.req.exec = replying s.req.exec ∧ x.req.late = s.req.late) :
    exec (.orderReply f) s = .next x ∧ x.req.sup = fedTimer f.src s ∧ KeepsAllBut (.sup :: ps) s x := by
  obtain ⟨hA, hB, hr, hsup⟩ := hps
  have all : KeepsAllBut (.sup :: ps) s x := ((setSup_keeps ..).mono (by simp)).trans (keeps.mono (by simp +contextual))
  refine ⟨?_, keeps.2.2 .sup hsup, all⟩
  rw [orderReply_exec h, hact, settle_noted h.served' all (by simp [hA, hB, hr]) reply]

theorem found_unknown {os : List Order} {q : OrderSeq} {o : Order}
    (h : os.find? (fun o => o.state == .unknown && o.seq == q) = some o) : o.state = .unknown ∧ o.seq = q := by
  have found := List.find?_some h
  simpa only [Bool.and_eq_true, beq_iff_eq] using found

/-- The case of the UNKNOWN order of a station in FAULT, resolved by a reply (R146). -/
structure ReplyResolves (f : RxFrame) (i : StationNo) (o : Order) (ps : List Part) (own : Station) (s t : State) :
    Prop where
  sup      : t.req.sup = fedTimer f.src s
  keeps    : KeepsAllBut ps s t
  own      : t.stations[i] = own
  unplaced : Unplaced i [o] s t
  flags    : CutFlags i [o] s t

section Fault

variable {f : RxFrame} {s : State} {i : StationNo} {o : Order}

/-- The record of a station in FAULT whose UNKNOWN order has left its queue. -/
def Station.resolved (st : Station) (q : OrderSeq) : Station := { st with orders := st.orders.filter fun o => o.seq != q }

theorem reply_takes (hi : stationAt f.payload = some i) (hq : f.payload.getD 1 0 ∉ s.stations[i].withdrawn)
    (fault : s.stations[i].state = .fault) {out : ReplyOutcome}
    (hout : replyOutcome (u8At f.payload 2) (u8At f.payload 3) = some out) :
    takeReply f.payload (s.setSup (fedTimer f.src s)) =
      replyFault i (f.payload.getD 1 0) out (s.setSup (fedTimer f.src s)) := by
  rw [takeReply_some hi hout, orderReply_fault (by exact hq) (by exact fault)]

variable (h : FromPartner 0x52 f s) (fault : s.stations[i].state = .fault)
variable (ho : s.stations[i].orders.find? (fun o => o.state == .unknown && o.seq == f.payload.getD 1 0) = some o)

include fault ho in
theorem reply_cuts : OrdersCut i [o] [] [.plans, .stations, .builds, .flags, .exec]
    (s.stations[i].resolved (f.payload.getD 1 0)) (s.setSup (fedTimer f.src s))
    (unplace i [o] (endOrder i o (s.setSup (fedTimer f.src s)))) := by
  have cut := endOrder_cut i o (s := s.setSup (fedTimer f.src s)) (by
    rw [show (s.setSup (fedTimer f.src s)).stations[i].state = .fault from fault]
    decide)
  rw [(found_unknown ho).2] at cut
  exact cut

include h fault ho

/-- Any end of the case: it changes its entry and the station's spur at most, and queues reports. -/
theorem reply_resolves {x : State} {reports : List ReportBody} {own : Station}
    (emits : Emits [] reports [.stations, .tracks, .reports]
      (unplace i [o] (endOrder i o (s.setSup (fedTimer f.src s)))) x)
    (works : Works (unplace i [o] (endOrder i o (s.setSup (fedTimer f.src s)))) x) (stations : x.stations[i] = own)
    (others : OtherStations i (unplace i [o] (endOrder i o (s.setSup (fedTimer f.src s)))) x) :
    ReplyResolves f i o [.portA, .reports, .exec, .sup, .plans, .tracks, .flags, .builds, .stations] own s (settle x)
      ∧ ReportedAll reports s (settle x) ∧ KeepsAllBut [.portA, .portB, .reports] x (settle x) := by
  have cut := reply_cuts fault ho
  have reply := (((Works.endOrder i o (s.setSup (fedTimer f.src s))).trans (Works.unplace ..)).trans works).replying
  have all := ((emits_fed f.src s).after (cut.emits.after emits (by simp)) (by simp)).mono
    (qs := [.exec, .sup, .plans, .tracks, .flags, .builds, .stations, .reports]) (by simp)
  have displays := all.displays h.served' (by simp) reply
  have whole := displays.service
  have behind : KeepsAllBut [.stations, .tracks, .reports, .portA, .portB]
      (unplace i [o] (endOrder i o (s.setSup (fedTimer f.src s)))) (settle x) :=
    (emits.keeps.mono (by simp)).trans (whole.mono (by simp))
  have sup : Part.Same (s.setSup (fedTimer f.src s)) (settle x) .sup :=
    (cut.emits.keeps.2.2 .sup (by simp)).trans (behind.2.2 .sup (by simp))
  have same : (settle x).stations = x.stations := whole.2.2 .stations (by simp)
  have left : OtherStations i (unplace i [o] (endOrder i o (s.setSup (fedTimer f.src s)))) (settle x) :=
    others.trans (OtherStations.of_keeps whole (by simp))
  refine ⟨⟨sup, (displays.quietB (by simp)).mono (by simp), by rw [same, stations], ?_, ?_⟩, displays.reported, whole⟩
  · exact cut.unplaced.congr (setSup_keeps ..) (OtherStations.of_keeps (setSup_keeps ..) (by simp)) behind left (by simp)
      (by simp)
  · exact cut.flags.congr (setSup_keeps ..) behind (by simp) (by simp)

theorem reply_dropped (hi : stationAt f.payload = some i) (hq : f.payload.getD 1 0 ∉ s.stations[i].withdrawn)
    (hout : replyOutcome (u8At f.payload 2) (u8At f.payload 3) = some .dropped) :
    ∃ t, exec (.orderReply f) s = .next t
      ∧ ReplyResolves f i o [.portA, .reports, .exec, .sup, .plans, .tracks, .flags, .builds, .stations]
        (s.stations[i].resolved (f.payload.getD 1 0)) s t
      ∧ t.tracker.tracks = s.tracker.tracks.filter (fun e => e.tracking != o.tracking)
      ∧ Reported (.caseLost o.tracking ((s.track o.tracking).bind fun e => e.snap.map (·.code)) i) s t := by
  have cut := reply_cuts fault ho
  have run := orderReply_exec h
  rw [reply_takes hi hq fault hout, replyFault_some (by exact ho)] at run
  dsimp only at run
  obtain ⟨lost, tracks⟩ := caseLost_emits i o (unplace i [o] (endOrder i o (s.setSup (fedTimer f.src s))))
  have works := Works.caseLost i o (unplace i [o] (endOrder i o (s.setSup (fedTimer f.src s))))
  have old : (unplace i [o] (endOrder i o (s.setSup (fedTimer f.src s)))).tracker.tracks = s.tracker.tracks :=
    cut.emits.keeps.2.2 .tracks (by simp)
  have stations : (caseLost i o (unplace i [o] (endOrder i o (s.setSup (fedTimer f.src s))))).stations
      = (unplace i [o] (endOrder i o (s.setSup (fedTimer f.src s)))).stations := lost.keeps.2.2 .stations (by simp)
  obtain ⟨resolves, reported, service⟩ := reply_resolves h fault ho (lost.mono (by simp)) works
    (by rw [stations, cut.own]) (OtherStations.of_keeps lost.keeps (by simp))
  refine ⟨_, run, resolves, ?_, ?_⟩
  · have left : (settle (caseLost i o (unplace i [o] (endOrder i o (s.setSup (fedTimer f.src s)))))).tracker.tracks
        = (caseLost i o (unplace i [o] (endOrder i o (s.setSup (fedTimer f.src s))))).tracker.tracks :=
      service.2.2 .tracks (by simp)
    rw [left, tracks, old]
  · have code : (unplace i [o] (endOrder i o (s.setSup (fedTimer f.src s)))).snapCode o.tracking
        = (s.track o.tracking).bind fun e => e.snap.map (·.code) := by
      rw [State.snapCode, State.track, old, ← State.track]
    rw [code] at reported
    exact reported.reported h.served'

/-- The case of the UNKNOWN order on the loop or on the spur: nothing is sent and nothing reported. -/
theorem reply_returned {x : State} {own : Station} {g : Track → Track}
    (hact : takeReply f.payload (s.setSup (fedTimer f.src s)) = x)
    (keeps : KeepsAllBut [.stations, .tracks] (unplace i [o] (endOrder i o (s.setSup (fedTimer f.src s)))) x)
    (works : Works (unplace i [o] (endOrder i o (s.setSup (fedTimer f.src s)))) x) (stations : x.stations[i] = own)
    (others : OtherStations i (unplace i [o] (endOrder i o (s.setSup (fedTimer f.src s)))) x)
    (track : x.track o.tracking =
      ((unplace i [o] (endOrder i o (s.setSup (fedTimer f.src s)))).track o.tracking).map g) :
    ∃ t, exec (.orderReply f) s = .next t
      ∧ ReplyResolves f i o [.exec, .sup, .plans, .tracks, .flags, .builds, .stations] own s t
      ∧ ∀ e, s.track o.tracking = some e → t.track o.tracking = some (g e) := by
  have cut := reply_cuts fault ho
  obtain ⟨resolves, reported, service⟩ := reply_resolves h fault ho
    ((Emits.of_keeps keeps (by simp)).mono (by simp)) works stations others
  obtain ⟨portA, reports⟩ := reported.quiet h.served'
  have old : (unplace i [o] (endOrder i o (s.setSup (fedTimer f.src s)))).tracker.tracks = s.tracker.tracks :=
    cut.emits.keeps.2.2 .tracks (by simp)
  have left : (settle x).tracker.tracks = x.tracker.tracks := service.2.2 .tracks (by simp)
  refine ⟨settle x, by rw [orderReply_exec h, hact], ⟨resolves.sup, ?_, resolves.own, resolves.unplaced,
    resolves.flags⟩, fun e he => ?_⟩
  · exact (resolves.keeps.but portA).but ⟨congrArg (·.queue) reports, congrArg (·.lost) reports⟩
  · rw [State.track, left, ← State.track, track, State.track, old, ← State.track, he]
    rfl

theorem reply_missed (hi : stationAt f.payload = some i) (hq : f.payload.getD 1 0 ∉ s.stations[i].withdrawn)
    (hout : replyOutcome (u8At f.payload 2) (u8At f.payload 3) = some .noCase) :
    ∃ t, exec (.orderReply f) s = .next t
      ∧ ReplyResolves f i o [.exec, .sup, .plans, .tracks, .flags, .builds, .stations]
        (s.stations[i].resolved (f.payload.getD 1 0)) s t
      ∧ ∀ e, s.track o.tracking = some e → t.track o.tracking = some (Track.missed s e) := by
  have hact := reply_takes hi hq fault hout
  rw [replyFault_some (by exact ho)] at hact
  have keeps := caseMissed_keeps o.tracking (unplace i [o] (endOrder i o (s.setSup (fedTimer f.src s))))
  have cut := reply_cuts fault ho
  have stations : (caseMissed o.tracking (unplace i [o] (endOrder i o (s.setSup (fedTimer f.src s))))).stations
      = (unplace i [o] (endOrder i o (s.setSup (fedTimer f.src s)))).stations := keeps.2.2 .stations (by simp)
  have settled : Track.missed (unplace i [o] (endOrder i o (s.setSup (fedTimer f.src s)))) = Track.missed s :=
    Track.missed_congr (cut.emits.keeps.2.2 .time (by simp)) (cut.emits.keeps.2.2 .settings (by simp))
  refine reply_returned h fault ho hact (keeps.mono (by simp)) (.caseMissed ..) (by rw [stations, cut.own])
    (OtherStations.of_keeps keeps (by simp)) ((track_caseMissed ..).trans ?_)
  rw [if_pos rfl, settled]

theorem reply_blocked (hi : stationAt f.payload = some i) (hq : f.payload.getD 1 0 ∉ s.stations[i].withdrawn)
    (hout : replyOutcome (u8At f.payload 2) (u8At f.payload 3) = some .blocked) :
    ∃ t, exec (.orderReply f) s = .next t
      ∧ ReplyResolves f i o [.exec, .sup, .plans, .tracks, .flags, .builds, .stations]
        { s.stations[i].resolved (f.payload.getD 1 0) with
          spur := { tracking := o.tracking, discard := decide (o.target = .reject .discard) } :: s.stations[i].spur } s t
      ∧ ∀ e, s.track o.tracking = some e → t.track o.tracking = some { e with state := .spurHeld i } := by
  have hact := reply_takes hi hq fault hout
  rw [replyFault_some (by exact ho)] at hact
  have own := headSpur_own i o (unplace i [o] (endOrder i o (s.setSup (fedTimer f.src s))))
  rw [(reply_cuts fault ho).own] at own
  exact reply_returned h fault ho hact (headSpur_keeps ..) (.headSpur ..) own
    (fun j hj => withStation_other _ i _ j hj) ((track_headSpur ..).trans (if_pos rfl))

/-- A station in FAULT stays in FAULT when a reply ends its UNKNOWN order. -/
theorem reply_done (hi : stationAt f.payload = some i) (hq : f.payload.getD 1 0 ∉ s.stations[i].withdrawn)
    (hout : replyOutcome (u8At f.payload 2) (u8At f.payload 3) = some .done) :
    ∃ t, exec (.orderReply f) s = .next t ∧ t.req.sup = fedTimer f.src s ∧ t.stations[i].state = .fault
      ∧ t.stations[i].cause = s.stations[i].cause
      ∧ t.stations[i].orders = s.stations[i].orders.filter (fun o => o.seq != f.payload.getD 1 0) := by
  have run := orderReply_exec h
  rw [reply_takes hi hq fault hout, replyFault_some (by exact ho)] at run
  dsimp only at run
  have works := ((Works.endOrder i o (s.setSup (fedTimer f.src s))).trans (Works.doneCase i o _)).trans
    (Works.notice (doneCase i o (endOrder i o (s.setSup (fedTimer f.src s)))).2 _)
  have stations : (doneCase i o (endOrder i o (s.setSup (fedTimer f.src s)))).1.stations
      = (endOrder i o (s.setSup (fedTimer f.src s))).stations := (doneCase_keeps ..).2.2 .stations (by simp)
  have own : (doneCase i o (endOrder i o (s.setSup (fedTimer f.src s)))).1.stations[i]
      = s.stations[i].resolved (f.payload.getD 1 0) := by
    rw [stations, ← (found_unknown ho).2]
    exact withStation_same ..
  obtain ⟨state, cause, orders⟩ := notice_fault
    (n := (doneCase i o (endOrder i o (s.setSup (fedTimer f.src s)))).2) (by rw [own]; exact fault)
  rw [own] at cause orders
  have services := settle_services (notice (doneCase i o (endOrder i o (s.setSup (fedTimer f.src s)))).2
    (doneCase i o (endOrder i o (s.setSup (fedTimer f.src s)))).1)
  refine ⟨_, run, services.sup.trans works.sup, ?_, ?_, ?_⟩
  all_goals rw [services.stations]
  · exact state
  · exact cause
  · exact orders

end Fault

/-- Settles O42: what does not fit is discarded or faults the station (`faultWorking_faults`); an UNKNOWN order is
resolved by `reply_dropped`, `reply_missed` and `reply_blocked`. -/
theorem unexpectedOrderReply : Obligations.UnexpectedOrderReply := by
  intro f s i h hi st q out unknown expected
  have fed := setSup_keeps s (fedTimer f.src s)
  refine ⟨fun quiet => ?_, fun hq hout works unfit => ?_, fun hq fault hu hout ht => ?_, fun o hq fault ho => ⟨fun hout => ?_,
    fun hout => ?_, fun hout => ?_⟩⟩
  · have hact : takeReply f.payload (s.setSup (fedTimer f.src s)) = s.setSup (fedTimer f.src s) := by
      cases hout : replyOutcome (u8At f.payload 2) (u8At f.payload 3) with
      | none => exact takeReply_none hout _
      | some r =>
        rw [takeReply_some hi hout]
        by_cases hq : q ∈ st.withdrawn
        · exact orderReply_withdrawn hq
        · rcases quiet with w | none | w | w | w | w | ⟨fault, w⟩
          · exact absurd w hq
          · exact nomatch hout.symm.trans none
          · exact orderReply_deaf (.inl w)
          · exact orderReply_deaf (.inr (.inl w))
          · exact orderReply_deaf (.inr (.inr (.inl w)))
          · exact orderReply_deaf (.inr (.inr (.inr w)))
          · rw [orderReply_fault (by exact hq) (by exact fault)]
            by_cases hu : unknown
            · obtain rfl : r = .taken := Option.some.inj (hout.symm.trans (w.resolve_left fun n => n hu))
              unfold replyFault
              split <;> rfl
            · exact replyFault_none hu
    obtain ⟨ht, sup, keeps⟩ := orderReply_noted h hact (ps := []) (KeepsAllBut.refl _) (by simp) ⟨rfl, rfl⟩
    exact ⟨_, ht, sup, keeps⟩
  · obtain ⟨r, hr⟩ := Option.ne_none_iff_exists'.mp hout
    have hact : takeReply f.payload (s.setSup (fedTimer f.src s)) =
        faultWorking i .sequence (s.setSup (fedTimer f.src s)) := by
      rw [takeReply_some hi hr, orderReply_works (by exact hq) (by exact works)]
      refine replyWorking_unexpected (by exact works) fun fits => unfit ?_
      rw [← hr] at fits
      exact fits
    have busy : (s.setSup (fedTimer f.src s)).stations[i].state ≠ .idle := by
      rcases works with w | w <;> rw [show (s.setSup (fedTimer f.src s)).stations[i].state = _ from w] <;> decide
    have faults := faultWorking_faults i .sequence busy
    have reply := (Works.faultWorking i .sequence (s.setSup (fedTimer f.src s))).replying
    obtain ⟨keeps, -, entered⟩ := faults.entered (ready := st.ready) h.served' (fed.mono (by simp))
      (OtherStations.of_keeps fed (by simp)) rfl reply
    have run := orderReply_exec h
    rw [hact] at run
    have sup : Part.Same (s.setSup (fedTimer f.src s)) (settle (faultWorking i .sequence (s.setSup (fedTimer f.src s))))
        .sup := (faults.keeps.2.2 .sup (by simp)).trans ((settle_keeps_parts _).2.2 .sup (by simp))
    exact ⟨_, run, sup, keeps, entered⟩
  · obtain ⟨o, ho⟩ : ∃ o, st.orders.find? (fun o => o.state == .unknown && o.seq == q) = some o := by
      rw [← Option.isSome_iff_exists, List.find?_isSome]
      obtain ⟨o, ho, hu⟩ := hu
      exact ⟨o, ho, by simpa using hu⟩
    obtain ⟨r, hr⟩ := Option.ne_none_iff_exists'.mp hout
    cases r
    case taken => exact absurd hr ht
    case done => exact reply_done h fault ho hi hq hr
    case dropped =>
      obtain ⟨t, ht, r, -⟩ := reply_dropped h fault ho hi hq hr
      exact ⟨t, ht, r.sup, by rw [r.own]; exact fault, by rw [r.own]; rfl, by rw [r.own]; rfl⟩
    case noCase =>
      obtain ⟨t, ht, r, -⟩ := reply_missed h fault ho hi hq hr
      exact ⟨t, ht, r.sup, by rw [r.own]; exact fault, by rw [r.own]; rfl, by rw [r.own]; rfl⟩
    case blocked =>
      obtain ⟨t, ht, r, -⟩ := reply_blocked h fault ho hi hq hr
      exact ⟨t, ht, r.sup, by rw [r.own]; exact fault, by rw [r.own]; rfl, by rw [r.own]; rfl⟩
  · obtain ⟨t, ht, r, rest⟩ := reply_dropped h fault ho hi hq hout
    exact ⟨t, ht, r.sup, r.keeps, r.own, ⟨r.unplaced, r.flags⟩, rest⟩
  · obtain ⟨t, ht, r, back⟩ := reply_missed h fault ho hi hq hout
    exact ⟨t, ht, r.sup, r.keeps, r.own, ⟨r.unplaced, r.flags⟩, back⟩
  · obtain ⟨t, ht, r, back⟩ := reply_blocked h fault ho hi hq hout
    exact ⟨t, ht, r.sup, r.keeps, ⟨r.unplaced, r.flags⟩, r.own, back⟩

end Sys2Proof.Machine
end

section
/-!
PROOFS. A station in CLOSING going on: the REJECT orders of its discard-marked cases (R150) and the closing test (R139).
-/

namespace Sys2Proof.Machine

/-! ### One REJECT order (R106, R128, R150) -/

/-- The ORDER frames of REJECT orders, each to the cell node of station `i`. -/
theorem chuteFrames_append (s : State) (i : StationNo) (os os' : List Order) :
    chuteFrames s i (os ++ os') = chuteFrames s i os ++ chuteFrames s i os' := List.map_append

/-- What it leaves that station `i` issues an order (R128). -/
theorem issueOrder_emits (i : StationNo) (u : Tracking) (d : OrderTarget) (fr : OrderFrameTarget) (s : State) :
    Emits [(s.req.settings.cellNodeOf i, .order i s.stations[i].nextSeq u fr)] [] [.portB, .stations, .tracks] s
        (issueOrder i u d fr s)
      ∧ (issueOrder i u d fr s).stations = (s.withStation i (s.stations[i].issue u d s.takeExpiry)).stations := by
  have issued := emits_withStation s i (s.stations[i].issue u d s.takeExpiry)
  have sent := emits_issueB (s.req.settings.cellNodeOf i) (.order i s.stations[i].nextSeq u fr)
    (s.withStation i (s.stations[i].issue u d s.takeExpiry))
  have tracked := Emits.of_keeps (setTrack_keeps (issueB (s.req.settings.cellNodeOf i)
    (.order i s.stations[i].nextSeq u fr) (s.withStation i (s.stations[i].issue u d s.takeExpiry))) u
    (.toStation i s.stations[i].nextSeq)) (by simp)
  exact ⟨((issued.after sent (by simp)).andThen tracked (by simp)).mono (by simp), rfl⟩

/-- What it leaves that station `i` issues REJECT orders for the discard-marked cases `es` of its spur (R150). -/
structure Chutes (i : StationNo) (es : List SpurEntry) (s t : State) : Prop where
  emits    : Emits (chuteFrames s i (chuteOrders s i es)) [] [.portB, .stations, .tracks] s t
  own      : ∃ w, t.stations[i] = { s.stations[i] with
               orders := s.stations[i].orders ++ chuteOrders s i es
               spur := s.stations[i].spur.filter fun e => !es.contains e
               nextSeq := s.stations[i].nextSeq + BitVec.ofNat 8 es.length
               takeExpiry :=
                 if s.stations[i].orders = [] ∧ es ≠ [] then some (after s.link.time s.req.settings.takeTimeout)
                 else s.stations[i].takeExpiry
               withdrawn := w }
  others   : OtherStations i s t
  chuted   : ∀ n e x, es[n]? = some e → s.track e.tracking = some x → t.track e.tracking =
               some { x with state := .toStation i (s.stations[i].nextSeq + BitVec.ofNat 8 n) }
  kept     : ∀ u, u ∉ es.map SpurEntry.tracking → t.track u = s.track u

namespace Chutes

variable {i : StationNo} {es es' : List SpurEntry} {s t u : State}

theorem refl (i : StationNo) (s : State) : Chutes i [] s s := by
  refine ⟨(emits_refl s).mono (by simp), ⟨s.stations[i].withdrawn, ?_⟩, fun _ _ => rfl, by simp, fun _ _ => rfl⟩
  simp [chuteOrders]

theorem chuteOrders_append (h : Chutes i es s t) :
    chuteOrders s i (es ++ es') = chuteOrders s i es ++ chuteOrders t i es' := by
  obtain ⟨w, own⟩ := h.own
  rw [chuteOrders, List.mapIdx_append, chuteOrders, chuteOrders, own]
  simp only [List.append_cancel_left_eq, BitVec.ofNat_add, BitVec.add_assoc]
  congr 1
  funext n e
  rw [BitVec.add_comm (BitVec.ofNat 8 n)]

theorem trans (h : Chutes i es s t) (k : Chutes i es' t u)
    (disjoint : ∀ e ∈ es, e.tracking ∉ es'.map SpurEntry.tracking) : Chutes i (es ++ es') s u := by
  have orders := h.chuteOrders_append (es' := es')
  have settings : t.req.settings = s.req.settings := h.emits.keeps.2.2 .settings (by simp)
  have time : t.link.time = s.link.time := h.emits.keeps.2.2 .time (by simp)
  have frames : chuteFrames s i (chuteOrders s i (es ++ es')) =
      chuteFrames s i (chuteOrders s i es) ++ chuteFrames t i (chuteOrders t i es') := by
    rw [orders, chuteFrames_append, chuteFrames, chuteFrames, chuteFrames, settings]
  obtain ⟨w, own⟩ := h.own
  obtain ⟨w', own'⟩ := k.own
  refine ⟨frames ▸ (h.emits.trans k.emits (by simp)).mono (by simp), ⟨w', ?_⟩, h.others.trans k.others,
    fun n e x hn hx => ?_, fun v hv => ?_⟩
  · have started : (if s.stations[i].orders ++ chuteOrders s i es = [] ∧ es' ≠ [] then
          some (after s.link.time s.req.settings.takeTimeout)
        else if s.stations[i].orders = [] ∧ es ≠ [] then some (after s.link.time s.req.settings.takeTimeout)
        else s.stations[i].takeExpiry)
        = if s.stations[i].orders = [] ∧ es ++ es' ≠ [] then some (after s.link.time s.req.settings.takeTimeout)
          else s.stations[i].takeExpiry := by
      cases es <;> simp [chuteOrders]
    have seq : s.stations[i].nextSeq + BitVec.ofNat 8 es.length + BitVec.ofNat 8 es'.length
        = s.stations[i].nextSeq + BitVec.ofNat 8 (es ++ es').length := by
      rw [List.length_append, BitVec.ofNat_add, BitVec.add_assoc]
    have spur : (s.stations[i].spur.filter fun e => !es.contains e).filter (fun e => !es'.contains e)
        = s.stations[i].spur.filter fun e => !(es ++ es').contains e := by
      rw [List.filter_filter]
      congr 1
      funext e
      rw [List.contains_append, Bool.not_or, Bool.and_comm]
    rw [own', own, orders, settings, time]
    dsimp only
    rw [spur, seq, started, List.append_assoc]
  · by_cases early : n < es.length
    · rw [List.getElem?_append_left early] at hn
      rw [k.kept _ (disjoint e (List.mem_of_getElem? hn)), h.chuted n e x hn hx]
    · rw [List.getElem?_append_right (by omega)] at hn
      have later : e.tracking ∉ es.map SpurEntry.tracking := by
        intro he
        obtain ⟨e', he', same⟩ := List.mem_map.mp he
        exact disjoint e' he' (same ▸ List.mem_map_of_mem (List.mem_of_getElem? hn))
      have seq : s.stations[i].nextSeq + BitVec.ofNat 8 es.length + BitVec.ofNat 8 (n - es.length)
          = s.stations[i].nextSeq + BitVec.ofNat 8 n := by
        rw [BitVec.add_assoc, ← BitVec.ofNat_add, Nat.add_sub_cancel' (by omega)]
      rw [k.chuted _ e x hn ((h.kept _ later).trans hx), own]
      dsimp only
      rw [seq]
  · rw [List.map_append, List.mem_append, not_or] at hv
    rw [k.kept v hv.2, h.kept v hv.1]

end Chutes

/-! ### The orders as room allows (R150) -/

/-- The station has the one case of its spur that this entry names. -/
theorem issueDiscard_some {i : StationNo} {s : State} {e : SpurEntry} (closing : s.stations[i].state = .closing)
    (room : s.stations[i].orders.length < 4) (first : s.stations[i].spur.find? SpurEntry.discard = some e)
    (once : (s.stations[i].spur.map SpurEntry.tracking).Nodup) : Chutes i [e] s (issueDiscard i s) := by
  have path : issueDiscard i s = rejectOrder i e.tracking .discard s := by
    rw [issueDiscard, if_pos ⟨closing, room⟩, first]
  have left := withStation_keeps s i { s.stations[i] with
    spur := s.stations[i].spur.filter fun x => x.tracking != e.tracking }
  have leaves : rejectOrder i e.tracking .discard s = issueOrder i e.tracking (.reject .discard) (.reject .discard)
    (s.withStation i { s.stations[i] with spur := s.stations[i].spur.filter fun x => x.tracking != e.tracking }) := rfl
  have own := withStation_same s i { s.stations[i] with
    spur := s.stations[i].spur.filter fun x => x.tracking != e.tracking }
  have other := withStation_other s i { s.stations[i] with
    spur := s.stations[i].spur.filter fun x => x.tracking != e.tracking }
  rw [path, leaves]
  generalize s.withStation i _ = w at *
  obtain ⟨emits, stations⟩ := issueOrder_emits i e.tracking (.reject .discard) (.reject .discard) w
  have tracks : ∀ v, w.track v = s.track v := fun v => by
    have same : w.tracker.tracks = s.tracker.tracks := left.2.2 .tracks (by simp)
    rw [State.track, same, State.track]
  have settings : w.req.settings = s.req.settings := left.2.2 .settings (by simp)
  have time : w.link.time = s.link.time := left.2.2 .time (by simp)
  have frames : chuteFrames s i (chuteOrders s i [e])
      = [(w.req.settings.cellNodeOf i, .order i w.stations[i].nextSeq e.tracking (.reject .discard))] := by
    rw [own, settings]
    simp [chuteFrames, chuteOrders]
  have alone : s.stations[i].spur.filter (fun x => x.tracking != e.tracking)
      = s.stations[i].spur.filter fun x => !([e] : List SpurEntry).contains x := by
    refine List.filter_congr fun x hx => ?_
    have same : x.tracking = e.tracking ↔ x = e :=
      ⟨fun h => List.inj_on_of_nodup_map once hx (List.mem_of_find?_eq_some first) h, fun h => h ▸ rfl⟩
    rw [List.contains_cons, List.contains_nil, Bool.or_false, bne, beq_eq_decide, beq_eq_decide, decide_eq_decide.mpr same]
  refine ⟨frames ▸ ((Emits.of_keeps left (by simp)).after emits (by simp)).mono (by simp),
    ⟨(s.stations[i].issue e.tracking (.reject .discard) s.takeExpiry).withdrawn, ?_⟩, fun j hj => ?_,
    fun n x y hn hy => ?_, fun v hv => ?_⟩
  · rw [stations, withStation_same, own, State.takeExpiry, settings, time, alone]
    simp [Station.issue, chuteOrders]
  · rw [stations, withStation_other _ _ _ j hj, other j hj]
  · cases n with
    | zero =>
      obtain rfl : e = x := by simpa using hn
      rw [track_issueOrder, if_pos rfl, tracks, hy, own]
      simp
    | succ n => simp at hn
  · rw [track_issueOrder, if_neg (by simpa using hv), tracks]

theorem issueDiscard_none {i : StationNo} {s : State}
    (h : s.stations[i].state = .closing → s.stations[i].orders.length < 4 →
      s.stations[i].spur.filter SpurEntry.discard = []) : issueDiscard i s = s := by
  unfold issueDiscard
  split_ifs with room
  · have none : s.stations[i].spur.find? SpurEntry.discard = none := by
      rw [← List.head?_filter, h room.1 room.2]
      rfl
    rw [none]
  · rfl

theorem issueDiscard_iterate (i : StationNo) (m : Nat) : ∀ s : State, s.stations[i].state = .closing →
    (s.stations[i].spur.map SpurEntry.tracking).Nodup →
    Chutes i ((s.stations[i].spur.filter SpurEntry.discard).take (min m (4 - s.stations[i].orders.length))) s
      ((issueDiscard i)^[m] s) := by
  induction m with
  | zero =>
    intro s _ _
    simpa using Chutes.refl i s
  | succ m ih =>
    intro s closing once
    rw [Function.iterate_succ_apply]
    by_cases room : s.stations[i].orders.length < 4
    · cases marked : s.stations[i].spur.filter SpurEntry.discard with
      | nil =>
        have next := ih s closing once
        rw [marked, List.take_nil] at next
        rwa [issueDiscard_none fun _ _ => marked, List.take_nil]
      | cons e rest =>
        have first := issueDiscard_some closing room (by rw [← List.head?_filter, marked]; rfl) once
        obtain ⟨w, own⟩ := first.own
        have onceMarked : ((e :: rest).map SpurEntry.tracking).Nodup :=
          marked ▸ once.sublist (List.filter_sublist.map _)
        have left : (issueDiscard i s).stations[i].spur.filter SpurEntry.discard = rest := by
          have swap : (s.stations[i].spur.filter fun x => !([e] : List SpurEntry).contains x).filter SpurEntry.discard
              = (s.stations[i].spur.filter SpurEntry.discard).filter fun x => !([e] : List SpurEntry).contains x := by
            rw [List.filter_filter, List.filter_filter]
            simp only [Bool.and_comm]
          have others : ∀ x ∈ rest, x ≠ e := by
            rintro x hx rfl
            exact (List.nodup_cons.mp onceMarked).1 (List.mem_map_of_mem hx)
          rw [own, swap, marked, List.filter_cons_of_neg (by simp), List.filter_eq_self]
          exact fun x hx => by simpa using others x hx
        have next := ih (issueDiscard i s) (by rw [own]; exact closing) (by
          rw [own]
          exact once.sublist (List.filter_sublist.map _))
        have length : 4 - (issueDiscard i s).stations[i].orders.length = 4 - s.stations[i].orders.length - 1 := by
          rw [own]
          simp only [chuteOrders, List.length_append, List.length_mapIdx, List.length_singleton]
          omega
        rw [left, length] at next
        have count : min (m + 1) (4 - s.stations[i].orders.length) = min m (4 - s.stations[i].orders.length - 1) + 1 := by
          omega
        rw [count, List.take_succ_cons]
        refine first.trans next fun x hx later => ?_
        obtain rfl : x = e := by simpa using hx
        exact (List.nodup_cons.mp onceMarked).1 (((List.take_sublist ..).map _).subset later)
    · have next := ih s closing once
      rw [Nat.sub_eq_zero_of_le (by omega), Nat.min_zero] at next
      rwa [issueDiscard_none fun _ h => absurd h room, Nat.sub_eq_zero_of_le (by omega), Nat.min_zero]

/-- The REJECT orders of a station in CLOSING (R150). -/
theorem issueDiscards_chutes {i : StationNo} {s : State} (closing : s.stations[i].state = .closing)
    (once : (s.stations[i].spur.map SpurEntry.tracking).Nodup) :
    Chutes i (chuted s.stations[i].orders.length s.stations[i].spur) s (issueDiscards i s) := by
  have iterated : ∀ g : State → State, g (g (g (g s))) = g^[4] s := fun _ => rfl
  have four : issueDiscards i s = (issueDiscard i)^[4] s := iterated (issueDiscard i)
  have room : chuted s.stations[i].orders.length s.stations[i].spur
      = (s.stations[i].spur.filter SpurEntry.discard).take (min 4 (4 - s.stations[i].orders.length)) := by
    rw [Nat.min_eq_right (Nat.sub_le ..), chuted]
  rw [four, room]
  exact issueDiscard_iterate i 4 s closing once

theorem issueDiscards_idle {i : StationNo} {s : State} (h : s.stations[i].state ≠ .closing) : issueDiscards i s = s := by
  have none : issueDiscard i s = s := issueDiscard_none fun closing => absurd closing h
  rw [issueDiscards, none, none, none, none]

/-! ### REJECT orders and closing test (R139, R150) -/

/-- The frames of a station in CLOSING with the record `st` and build `b` that goes on closing, behind `frames`. -/
def closingFrames (s : State) (i : StationNo) (st : Station) (b : Build) (frames : List (Nat × OwnBody)) :
    List (Nat × OwnBody) :=
  frames ++ if st.Emptied then [callFrame s i b]
    else chuteFrames s i (chuteOrders s i (chuted st.orders.length st.spur))

/-- Its reports, behind `reports`. -/
def closingReports (i : StationNo) (st : Station) (b : Build) (reports : List ReportBody) : List ReportBody :=
  reports ++ if st.Emptied then [closedReport i b st.close] else []

/-- What it leaves that station `i` in CLOSING, with the record `st` and build `b`, goes on closing (R139, R150). -/
structure Closes (i : StationNo) (st : Station) (b : Build) (frames : List (Nat × OwnBody)) (reports : List ReportBody)
    (ps : List Part) (s t : State) : Prop where
  emits  : Emits (closingFrames s i st b frames) (closingReports i st b reports) ps s t
  own    : ∃ w, t.stations[i] = { st with
             state := if st.Emptied then .awaitExchange else .closing
             orders := st.orders ++ chuteOrders s i (chuted st.orders.length st.spur)
             spur := st.spur.filter fun e => !(chuted st.orders.length st.spur).contains e
             nextSeq := s.stations[i].nextSeq + BitVec.ofNat 8 (chuted st.orders.length st.spur).length
             takeExpiry :=
               if st.orders = [] ∧ chuted st.orders.length st.spur ≠ [] then
                 some (after s.link.time s.req.settings.takeTimeout)
               else st.takeExpiry
             withdrawn := w }
  chuted : ∀ n e, (chuted st.orders.length st.spur)[n]? = some e → (t.track e.tracking).map (·.state) =
             some (.toStation i (s.stations[i].nextSeq + BitVec.ofNat 8 n))

theorem chuted_discard {n : Nat} {es : List SpurEntry} {e : SpurEntry} (h : e ∈ chuted n es) : e.discard = true :=
  (List.mem_filter.mp ((List.take_sublist ..).subset h)).2

theorem chuted_nil (n : Nat) : chuted n [] = [] := by simp [chuted]

theorem emptied_chuted {s : State} {i : StationNo} {st : Station} :
    (st.orders ++ chuteOrders s i (chuted st.orders.length st.spur) = []
        ∧ (st.spur.filter fun e => !(chuted st.orders.length st.spur).contains e) = []) ↔ st.Emptied := by
  constructor
  · rintro ⟨orders, spur⟩
    obtain ⟨none, new⟩ := List.append_eq_nil_iff.mp orders
    have unchuted : chuted st.orders.length st.spur = [] := by simpa [chuteOrders] using new
    rw [unchuted] at spur
    exact ⟨none, by simpa using spur⟩
  · rintro ⟨orders, spur⟩
    simp [orders, spur, chuted_nil, chuteOrders]

/-- The obligations' form of it. -/
theorem Closes.closesWith {i : StationNo} {st : Station} {b : Build} {frames : List (Nat × OwnBody)}
    {reports : List ReportBody} {ps : List Part} {s x t : State} {queues : List ReportBody → State → State → Prop}
    (h : Closes i st b frames reports ps s x) (ready : st.ready = s.stations[i].ready)
    (kind : st.baseKind = s.stations[i].baseKind) (stations : Part.Same x t .stations) (tracks : Part.Same x t .tracks)
    (joined : JoinedB (closingFrames s i st b frames) s t) (told : queues (closingReports i st b reports) s t) :
    ClosesWith st.cause st.close queues i st.orders st.spur b frames reports s t := by
  obtain ⟨w, own⟩ := h.own
  have same : t.stations = x.stations := stations
  have entries : t.tracker.tracks = x.tracker.tracks := tracks
  have ends : (st.orders ++ chuteOrders s i (Machine.chuted st.orders.length st.spur) = [] ∧ st.spur = []) ↔
      st.Emptied :=
    ⟨fun ⟨a, c⟩ => ⟨(List.append_eq_nil_iff.mp a).1, c⟩, fun e => ⟨(emptied_chuted.mpr e).1, e.2⟩⟩
  unfold ClosesWith
  dsimp only
  rw [same, own]
  refine ⟨ready, kind, rfl, rfl, rfl, rfl, rfl, fun n e he => ?_, ?_⟩
  · rw [State.track, entries, ← State.track]
    exact h.chuted n e he
  · unfold closingFrames at joined
    unfold closingReports at told
    by_cases e : st.Emptied
    · rw [if_pos e] at joined told
      rw [if_pos (ends.mpr e)]
      dsimp only
      rw [if_pos e]
      exact ⟨rfl, joined, told⟩
    · rw [if_neg e] at joined told
      rw [if_neg (fun h => e (ends.mp h))]
      dsimp only
      rw [if_neg e]
      rw [List.append_nil] at told
      exact ⟨rfl, joined, told⟩

/-- A station that comes to CLOSING in `v` goes on closing: its REJECT orders, a change `w` of tracks and reports behind
them, and the closing test. -/
theorem closes_of_discards {i : StationNo} {s v w : State} {frames : List (Nat × OwnBody)}
    {reports behind : List ReportBody} {ps : List Part} (before : Emits frames reports ps s v)
    (hps : Part.ownNode ∉ ps ∧ Part.time ∉ ps ∧ Part.levels ∉ ps ∧ Part.settings ∉ ps)
    (closing : v.stations[i].state = .closing) (nextSeq : v.stations[i].nextSeq = s.stations[i].nextSeq)
    (once : (v.stations[i].spur.map SpurEntry.tracking).Nodup)
    (tracked : ∀ e ∈ v.stations[i].spur, (v.track e.tracking).isSome)
    (settled : Emits [] behind [.tracks, .reports] (issueDiscards i v) w)
    (spared : ∀ e ∈ v.stations[i].spur, w.track e.tracking = (issueDiscards i v).track e.tracking) :
    Closes i v.stations[i] v.builds[i] frames (reports ++ behind) (ps ++ [.portB, .exec, .stations, .tracks, .reports])
        s (closingTest i w)
      ∧ KeepsAllBut [.portB, .exec, .stations, .tracks, .reports] v (closingTest i w)
      ∧ OtherStations i v (closingTest i w) ∧ Part.Same w (closingTest i w) .tracks := by
  have discards := issueDiscards_chutes closing once
  obtain ⟨r, own⟩ := discards.own
  have builds : w.builds = v.builds :=
    ((discards.emits.keeps.mono (qs := [.portB, .stations, .tracks, .reports]) (by simp)).trans
      (settled.keeps.mono (by simp))).2.2 .builds (by simp)
  have stations : w.stations = (issueDiscards i v).stations := settled.keeps.2.2 .stations (by simp)
  have orders : chuteOrders v i (chuted v.stations[i].orders.length v.stations[i].spur)
      = chuteOrders s i (chuted v.stations[i].orders.length v.stations[i].spur) := by
    rw [chuteOrders, nextSeq, ← chuteOrders]
  have settings : v.req.settings = s.req.settings := before.keeps.2.2 .settings hps.2.2.2
  have time : v.link.time = s.link.time := before.keeps.2.2 .time hps.2.1
  rw [← stations, orders, nextSeq, settings, time] at own
  obtain ⟨test, tested⟩ := closingTest_emits (i := i) (s := w) (by rw [own]; exact closing)
  have emptied : w.stations[i].Emptied ↔ v.stations[i].Emptied := by
    rw [own]
    exact emptied_chuted
  have reason : w.stations[i].close = v.stations[i].close := by rw [own]
  have call : callFrame w i w.builds[i] = callFrame s i v.builds[i] := by
    rw [builds]
    exact callFrame_congr (((before.keeps.2.2 .settings hps.2.2.2).trans (discards.emits.keeps.2.2 .settings (by simp))).trans
      (settled.keeps.2.2 .settings (by simp)))
  rw [call, builds, reason] at test
  have rest := (discards.emits.trans (settled.trans test (by simp)) (by simp)).mono
    (qs := [.portB, .exec, .stations, .tracks, .reports]) (by simp [closingParts])
  have whole := before.trans rest ⟨hps.1, hps.2.1, hps.2.2.1⟩
  have sent : chuteFrames v i = chuteFrames s i := by
    funext os
    rw [chuteFrames, settings, ← chuteFrames]
  rw [orders, sent] at whole
  refine ⟨⟨?_, ⟨r, ?_⟩, fun n e he => ?_⟩, rest.keeps, fun j hj => ?_, test.keeps.2.2 .tracks (by simp [closingParts])⟩
  · have frameList : frames ++ (chuteFrames s i (chuteOrders s i (chuted v.stations[i].orders.length v.stations[i].spur))
        ++ ([] ++ if w.stations[i].Emptied then [callFrame s i v.builds[i]] else []))
        = closingFrames s i v.stations[i] v.builds[i] frames := by
      unfold closingFrames
      simp only [emptied]
      split_ifs with e
      · rw [e.1, e.2, chuted_nil]
        rfl
      · simp
    have reportList : reports ++ ([] ++ (behind ++ if w.stations[i].Emptied then
        [closedReport i v.builds[i] v.stations[i].close] else []))
        = closingReports i v.stations[i] v.builds[i] (reports ++ behind) := by
      unfold closingReports
      simp only [emptied, List.nil_append, List.append_assoc]
    exact frameList ▸ reportList ▸ whole
  · rw [tested, withStation_same]
    simp only [emptied]
    rw [own]
  · have listed : e ∈ v.stations[i].spur :=
      List.mem_of_mem_filter ((List.take_sublist ..).subset (List.mem_of_getElem? he))
    obtain ⟨x, hx⟩ := Option.isSome_iff_exists.mp (tracked e listed)
    have same : (closingTest i w).tracker.tracks = w.tracker.tracks := test.keeps.2.2 .tracks (by simp [closingParts])
    rw [State.track, same, ← State.track, spared e listed, discards.chuted n e x he hx, nextSeq]
    rfl
  · rw [tested, withStation_other _ _ _ j hj, stations, discards.others j hj]

end Sys2Proof.Machine
end

section
/-!
PROOFS. The failure cascade (R133) and an ORDER REPLY by which an order fails (R134, R135).
-/

namespace Sys2Proof.Machine

/-! ### Replans asked for (R105) -/

theorem askReplan_keeps (i : StationNo) (u : Tracking) (s : State) : KeepsAllBut [.replans] s (askReplan i u s) := by
  unfold askReplan
  split_ifs
  all_goals
    refine ⟨rfl, rfl, fun p hp => ?_⟩
    cases p <;> simp_all [Part.Same]

theorem askReplan_asks (i : StationNo) (u : Tracking) (s : State) : ReplansAsked i [u] s (askReplan i u s) := by
  unfold askReplan
  split_ifs with room
  · obtain ⟨n, hn⟩ : ∃ n, Config.replanCapacity - s.engine.replans.length = n + 1 :=
      ⟨_, (Nat.succ_pred_eq_of_pos (Nat.sub_pos_of_lt room)).symm⟩
    unfold ReplansAsked
    dsimp only
    rw [hn]
    simp
  · unfold ReplansAsked
    dsimp only
    rw [Nat.sub_eq_zero_of_le (Nat.not_lt.mp room)]
    simp

theorem ReplansAsked.trans {i : StationNo} {us vs : List Tracking} {s t u : State} (h : ReplansAsked i us s t)
    (k : ReplansAsked i vs t u) : ReplansAsked i (us ++ vs) s u := by
  obtain ⟨replans, waiting⟩ := h
  obtain ⟨replans', waiting'⟩ := k
  unfold ReplansAsked
  dsimp only
  rw [replans', waiting', replans, waiting, List.map_append, List.take_append, List.drop_append, List.append_assoc,
    List.append_assoc]
  simp only [List.length_append, List.length_take, List.length_map]
  have room : Config.replanCapacity - (s.engine.replans.length
      + min (Config.replanCapacity - s.engine.replans.length) us.length)
      = Config.replanCapacity - s.engine.replans.length - us.length := by omega
  rw [room]
  exact ⟨rfl, rfl⟩

theorem ReplansAsked.congr {i : StationNo} {us : List Tracking} {s t u v : State} (h : ReplansAsked i us t u)
    (before : Part.Same s t .replans) (behind : Part.Same u v .replans) : ReplansAsked i us s v := by
  obtain ⟨replans, waiting⟩ := before
  obtain ⟨replans', waiting'⟩ := behind
  unfold ReplansAsked at h ⊢
  rwa [replans', waiting', ← replans, ← waiting]

/-- Replans asked for the cases of a list, in its order. -/
theorem askReplans_asks {α : Type} (i : StationNo) (g : α → Tracking) (xs : List α) (s : State) :
    KeepsAllBut [.replans] s (xs.foldl (fun s x => askReplan i (g x) s) s)
      ∧ ReplansAsked i (xs.map g) s (xs.foldl (fun s x => askReplan i (g x) s) s) := by
  induction xs generalizing s with
  | nil => exact ⟨(KeepsAllBut.refl s).mono (by simp), by simp [ReplansAsked]⟩
  | cons x xs ih =>
    obtain ⟨keeps, asks⟩ := ih (askReplan i (g x) s)
    exact ⟨(askReplan_keeps ..).trans keeps, (askReplan_asks i (g x) s).trans asks⟩

/-! ### The orders cut back (R133, steps 1 to 4) -/

/-- The record of a station whose queue is cut back to `kept` and that withdraws `named`. -/
def Station.cutTo (st : Station) (kept : List Order) (named : List OrderSeq) : Station :=
  { st with
    orders := kept
    takeExpiry := if kept = [] then none else st.takeExpiry
    placeExpiry := if kept = [] then none else st.placeExpiry
    withdrawn := withdrawnBy st named }

/-- The parts that a cut of orders changes. -/
def cutParts : List Part := [.portB, .exec, .plans, .flags, .builds, .stations]

theorem cutOrders_cut (i : StationNo) (kept leaving : List Order) (named : List OrderSeq) {s : State}
    (busy : s.stations[i].state ≠ .idle) :
    OrdersCut i leaving (withdrawFrames s i named) cutParts (s.stations[i].cutTo kept named) s
        (cutOrders i kept leaving named s) := by
  have path : cutOrders i kept leaving named s = withdraw i named (unplace i leaving (s.withStation i
    { s.stations[i] with
      orders := kept
      takeExpiry := if kept.isEmpty then none else s.stations[i].takeExpiry
      placeExpiry := if kept.isEmpty then none else s.stations[i].placeExpiry })) := rfl
  simp only [List.isEmpty_iff] at path
  rw [path]
  have keeps := withStation_keeps s i { s.stations[i] with
    orders := kept
    takeExpiry := if kept = [] then none else s.stations[i].takeExpiry
    placeExpiry := if kept = [] then none else s.stations[i].placeExpiry }
  have own := withStation_same s i { s.stations[i] with
    orders := kept
    takeExpiry := if kept = [] then none else s.stations[i].takeExpiry
    placeExpiry := if kept = [] then none else s.stations[i].placeExpiry }
  have others := withStation_other s i { s.stations[i] with
    orders := kept
    takeExpiry := if kept = [] then none else s.stations[i].takeExpiry
    placeExpiry := if kept = [] then none else s.stations[i].placeExpiry }
  generalize s.withStation i _ = a at *
  have cut := unplace_cutBack i leaving (s := a) (by rw [own]; exact busy)
  generalize unplace i leaving a = b at *
  have settings : b.req.settings = s.req.settings :=
    ((keeps.mono (qs := [.plans, .stations, .builds, .flags, .exec]) (by simp)).trans cut.keeps).2.2 .settings (by simp)
  have frames : withdrawFrames b i named = withdrawFrames s i named := by
    rw [withdrawFrames, settings, ← withdrawFrames]
  have sent : Emits (withdrawFrames b i named) [] [.portB, .stations] b (withdraw i named b) :=
    ⟨withdraw_keeps .., withdraw_joined .., reportsTaken_nil (reports_eq ((withdraw_keeps ..).2.2 .reports (by simp))
      ((withdraw_keeps ..).2.2 .levels (by simp))), fun _ => (withdraw_keeps ..).2.2 .exec (by simp)⟩
  rw [frames] at sent
  refine ⟨((Emits.of_keeps keeps (by simp)).after (cut.emits.after sent (by simp)) (by simp)).mono (by simp [cutParts]), ?_,
    cut.unplaced.congr keeps others (withdraw_keeps i named b) (withdraw_other i named b) (by simp) (by simp),
    cut.flags.congr keeps (withdraw_keeps i named b) (by simp) (by simp)⟩
  rw [withdraw_own, cut.own, own]
  rfl

/-! ### The cascade (R133) -/

/-- The cascade before its REJECT orders (R133, steps 1 to 5). -/
def cascadeSpur (i : StationNo) (kept : List Order) (failed : Order) (later : List Order) (named : List OrderSeq)
    (s : State) : State :=
  (later.filter fun o => !o.discards).foldl (fun s o => askReplan i o.tracking s)
    (toSpur i later (cutOrders i kept (failed :: later) named s))

theorem cascade_eq (i : StationNo) (kept : List Order) (failed : Order) (later : List Order) (named : List OrderSeq)
    (s : State) :
    cascade i kept failed later named s = issueDiscards i (cascadeSpur i kept failed later named s) := rfl

/-- What the cascade leaves before its REJECT orders. -/
structure CascadeSpur (i : StationNo) (kept : List Order) (failed : Order) (later : List Order) (named : List OrderSeq)
    (s t : State) : Prop where
  emits    : Emits (withdrawFrames s i named) [] (cutParts ++ [.tracks, .replans]) s t
  own      : t.stations[i] =
               { s.stations[i].cutTo kept named with spur := s.stations[i].spur ++ spurOf later }
  unplaced : Unplaced i (failed :: later) s t
  flags    : CutFlags i (failed :: later) s t
  asked    : ReplansAsked i ((later.filter fun o => !o.discards).map (·.tracking)) s t
  track    : ∀ u, t.track u =
               if u ∈ later.map Order.tracking then (s.track u).map fun e => { e with state := .spurHeld i } else s.track u

theorem cascadeSpur_of (i : StationNo) (kept : List Order) (failed : Order) (later : List Order)
    (named : List OrderSeq) {s : State} (busy : s.stations[i].state ≠ .idle) :
    CascadeSpur i kept failed later named s (cascadeSpur i kept failed later named s) := by
  have cut := cutOrders_cut i kept (failed :: later) named busy
  unfold cascadeSpur
  generalize cutOrders i kept (failed :: later) named s = a at *
  have spur := toSpur_keeps i later a
  have spurred := toSpur_stations i later a
  have tracked := track_toSpur i later a
  generalize toSpur i later a = b at *
  obtain ⟨keeps, asks⟩ := askReplans_asks i Order.tracking (later.filter fun o => !o.discards) b
  generalize (later.filter fun o => !o.discards).foldl (fun s o => askReplan i o.tracking s) b = t at *
  have behind : KeepsAllBut [.stations, .tracks, .replans] a t := (spur.mono (by simp)).trans (keeps.mono (by simp))
  have stations : t.stations = b.stations := keeps.2.2 .stations (by simp)
  have tracks : t.tracker.tracks = b.tracker.tracks := keeps.2.2 .tracks (by simp)
  have old : a.tracker.tracks = s.tracker.tracks := cut.emits.keeps.2.2 .tracks (by simp [cutParts])
  have others : OtherStations i a t := by
    intro j hj
    rw [stations, spurred, withStation_other _ _ _ j hj]
  refine ⟨cut.emits.andThen (.of_keeps behind (by simp)) (by simp [cutParts]) |>.mono (by simp [cutParts]), ?_,
    cut.unplaced.congr (KeepsAllBut.refl s) (fun _ _ => rfl) behind others (by simp) (by simp),
    cut.flags.congr (KeepsAllBut.refl s) behind (by simp) (by simp), ?_, fun u => ?_⟩
  · rw [stations, spurred, withStation_same, cut.own]
    rfl
  · exact asks.congr ((cut.emits.keeps.2.2 .replans (by simp [cutParts])).trans (spur.2.2 .replans (by simp)))
      (Part.Same.refl t .replans)
  · rw [State.track, tracks, ← State.track, tracked, State.track, old, ← State.track]

/-- The cases of the cascade are where the places name them, the failed one nowhere. -/
theorem cascadeSpur_placed {s : State} (h : Placed s) {i : StationNo} {kept later : List Order} {failed : Order}
    (named : List OrderSeq) (hq : (kept ++ failed :: later).Sublist s.stations[i].orders) :
    Placed (cascadeSpur i kept failed later named s)
      ∧ NoPlace (cascadeSpur i kept failed later named s) failed.tracking := by
  have cut := leaves_cutOrders h named hq
  have spur := (cut.subset (List.sublist_cons_self failed later)).toSpur
  have asked : Chores 0 (toSpur i later (cutOrders i kept (failed :: later) named s))
      (cascadeSpur i kept failed later named s) :=
    .foldl (fun s (o : Order) => .askReplan i o.tracking s) _ _
  have alone : NoPlace (toSpur i later (cutOrders i kept (failed :: later) named s)) failed.tracking := by
    refine noPlace_toSpur (cut.noPlace List.mem_cons_self) fun o ho e => ?_
    have once := cut.nodup
    rw [List.map_append, List.nodup_append', List.map_cons, List.map_cons, List.nodup_cons] at once
    exact once.1.1 (List.mem_map.mpr ⟨o.case, List.mem_map_of_mem ho, e⟩)
  have rest := asked.keeps spur.placed
  exact ⟨rest.placed, rest.names _ alone⟩

/-- The cases of a spur list, once each and tracked. -/
theorem Placed.spur {s : State} (h : Placed s) (i : StationNo) :
    (s.stations[i].spur.map SpurEntry.tracking).Nodup
      ∧ ∀ e ∈ s.stations[i].spur, ∃ x, s.track e.tracking = some x ∧ x.state = .spurHeld i := by
  refine ⟨?_, fun e he => h.state (.spur i) (e.tracking, 0) (List.mem_map.mpr ⟨e, he, rfl⟩)⟩
  have once := h.once (.spur i)
  rwa [State.named, List.map_map] at once

end Sys2Proof.Machine
end

section
/-!
PROOFS. An ORDER REPLY by which an order fails (R134, R135), and the runs of the withdrawn sequences (R137).
-/

namespace Sys2Proof.Machine

/-! ### The replies of a working station (R130) -/

section Working

variable {f : RxFrame} {s : State} {i : StationNo} {o : Order} {rest : List Order} {q : OrderSeq}

theorem replyWorking_taken (hos : s.stations[i].orders = o :: rest) (hseq : o.seq = q) (hs : o.state = .issued) :
    replyWorking i q .taken s = orderTaken i s := by
  simp only [replyWorking, hos, hseq, hs, if_true]

theorem replyWorking_noCase (hos : s.stations[i].orders = o :: rest) (hseq : o.seq = q) (hs : o.state = .issued) :
    replyWorking i q .noCase s = orderNoCase i o s := by
  simp only [replyWorking, hos, hseq, hs, if_true]

theorem replyWorking_done (hos : s.stations[i].orders = o :: rest) (hseq : o.seq = q) (hs : o.state = .taken) :
    replyWorking i q .done s = orderDone i o s := by
  simp only [replyWorking, hos, hseq, hs, if_true]

theorem replyWorking_dropped (hos : s.stations[i].orders = o :: rest) (hseq : o.seq = q) (hs : o.state = .taken) :
    replyWorking i q .dropped s = orderDropped i o s := by
  simp only [replyWorking, hos, hseq, hs, if_true]

theorem replyWorking_blocked (hos : s.stations[i].orders = o :: rest) (hseq : o.seq = q) (hs : o.state = .taken) :
    replyWorking i q .blocked s = orderBlocked i o s := by
  simp only [replyWorking, hos, hseq, hs, if_true]

/-- The event of an ORDER REPLY for a working station, as its command shows it. -/
theorem reply_shows {frames : List (Nat × OwnBody)} {reports : List ReportBody} {ps : List Part} {x : State}
    {out : ReplyOutcome} (h : FromPartner 0x52 f s) (hi : stationAt f.payload = some i)
    (hq : f.payload.getD 1 0 ∉ s.stations[i].withdrawn)
    (hout : replyOutcome (u8At f.payload 2) (u8At f.payload 3) = some out)
    (works : s.stations[i].state = .building ∨ s.stations[i].state = .closing)
    (hact : replyWorking i (f.payload.getD 1 0) out (s.setSup (fedTimer f.src s)) = x)
    (emits : Emits frames reports ps s x) (hps : Part.portA ∉ ps ∧ Part.ownNode ∉ ps ∧ Part.settings ∉ ps) :
    exec (.orderReply f) s = .next (settle x) ∧ (settle x).req.sup = fedTimer f.src s
      ∧ Displays frames reports ps s x (settle x) := by
  have run := orderReply_exec h
  rw [takeReply_some hi hout, orderReply_works (by exact hq) (by exact works), hact] at run
  have done : Works (s.setSup (fedTimer f.src s)) x := hact ▸ Works.replyWorking ..
  exact ⟨run, (settle_services x).sup.trans done.sup, emits.displays h.served' hps done.replying⟩

end Working

/-! ### The case of a failed order (R134) -/

/-- An end `m` of the case `u`: it changes its entry and queues reports, and leaves the places as they are. -/
structure EndsCase (u : Tracking) (reports : List ReportBody) (s t : State) : Prop where
  emits : Emits [] reports [.tracks, .reports] s t
  track : ∀ v, v ≠ u → t.track v = s.track v
  keeps : Placed s → NoPlace s u → Placed t

theorem caseLost_ends (i : StationNo) (o : Order) (s : State) :
    EndsCase o.tracking [.caseLost o.tracking (s.snapCode o.tracking) i] s (caseLost i o s) := by
  obtain ⟨emits, tracks⟩ := caseLost_emits i o s
  refine ⟨emits, fun v hv => ?_, fun placed none => (Keeps.caseLost placed i none).placed⟩
  have entries : (caseLost i o s).tracker.tracks = (s.dropTrack o.tracking).tracker.tracks := tracks
  rw [State.track, entries, ← State.track, track_dropTrack, if_neg hv]

theorem track_caseLost (i : StationNo) (o : Order) (s : State) : (caseLost i o s).track o.tracking = none := by
  have entries : (caseLost i o s).tracker.tracks = (s.dropTrack o.tracking).tracker.tracks := (caseLost_emits i o s).2
  rw [State.track, entries, ← State.track, track_dropTrack, if_pos rfl]

theorem caseMissed_ends (u : Tracking) (s : State) : EndsCase u [] s (caseMissed u s) :=
  ⟨(Emits.of_keeps (caseMissed_keeps u s) (by simp)).mono (by simp),
    fun v hv => (track_caseMissed u v s).trans (if_neg hv), fun placed none => (Keeps.caseMissed placed none).placed⟩

/-! ### DROPPED and NO_CASE (R134) -/

/-- The parts that a failed order changes, with the timer that its reply feeds. -/
def failedParts : List Part := [.sup, .portB, .exec, .plans, .flags, .builds, .stations, .tracks, .replans, .reports]

/-- What a failed order leaves of a station in BUILDING. -/
def StaysBuilding (i : StationNo) (o : Order) (later : List Order) (s t : State) : Prop :=
  t.stations[i].state = .building ∧ t.stations[i].orders = [] ∧ t.stations[i].takeExpiry = none
    ∧ t.stations[i].placeExpiry = none ∧ t.stations[i].close = s.stations[i].close
    ∧ t.stations[i].spur = s.stations[i].spur ++ spurOf later
    ∧ t.stations[i].withdrawn = (if later = [] then s.stations[i].withdrawn else later.map (·.seq))
    ∧ Cascaded i o later s t ∧ JoinedB (withdrawFrames s i (later.map (·.seq))) s t

/-- What it leaves of a station in CLOSING. -/
def StaysClosing (i : StationNo) (o : Order) (later : List Order) (reports : List ReportBody) (s t : State) : Prop :=
  ClosingGoesOn ReportedAll i [] (s.stations[i].spur ++ spurOf later) (cutBuild s i (o :: later))
      (withdrawFrames s i (later.map (·.seq))) reports s t
    ∧ t.stations[i].placeExpiry = none
    ∧ t.stations[i].takeExpiry =
        (if t.stations[i].orders = [] then none else some (after s.link.time s.req.settings.takeTimeout))
    ∧ Cascaded i o later s t

theorem CascadeSpur.cascaded {i : StationNo} {kept later : List Order} {failed : Order} {named : List OrderSeq}
    {s u v t : State} {ps qs : List Part} (h : CascadeSpur i kept failed later named u v) (before : KeepsAllBut ps s u)
    (hps : Part.plans ∉ ps ∧ Part.builds ∉ ps ∧ Part.admission ∉ ps ∧ Part.stations ∉ ps ∧ Part.flags ∉ ps
      ∧ Part.lanes ∉ ps ∧ Part.replans ∉ ps)
    (behind : KeepsAllBut qs v t)
    (hqs : Part.plans ∉ qs ∧ Part.builds ∉ qs ∧ Part.flags ∉ qs ∧ Part.replans ∉ qs) (others : OtherStations i v t)
    (onSpur : CasesOk s → ∀ o ∈ later, o.discards = false → (t.track o.tracking).map (·.state) = some (.spurHeld i)) :
    Cascaded i failed later s t := by
  obtain ⟨plans, builds, admission, stations, flags, lanes, replans⟩ := hps
  obtain ⟨plans', builds', flags', replans'⟩ := hqs
  exact ⟨h.unplaced.congr before (.of_keeps before stations) behind others ⟨plans, builds, admission⟩ ⟨plans', builds'⟩,
    h.flags.congr before behind ⟨flags, builds, lanes⟩ flags',
    h.asked.congr (before.2.2 .replans replans) (behind.2.2 .replans replans'), onSpur⟩

section Failed

variable {s u v x : State} {y : SupTimer} {i : StationNo} {o : Order} {later : List Order} {reports : List ReportBody}

/-- The cases that have joined the spur list are SPUR_HELD while it names them. -/
theorem spurHeld_of_listed {t : State} (placed : Placed t) {es : List SpurEntry}
    (spur : t.stations[i].spur = es) {x : Order} (listed : { tracking := x.tracking, discard := x.discards } ∈ es) :
    (t.track x.tracking).map (·.state) = some (.spurHeld i) := by
  obtain ⟨e, he, state⟩ := (placed.spur i).2 _ (spur ▸ listed)
  rw [he, Option.map_some, state]

theorem placed_setSup (h : Placed s) (y : SupTimer) : Placed (s.setSup y) := ⟨h.keys, h.once, h.state⟩

/-- The cascade of a failed order behind the feed of its reply, as it shows from the state before. -/
structure FailedCut (i : StationNo) (o : Order) (later : List Order) (s v : State) : Prop where
  emits    : Emits (withdrawFrames s i (later.map (·.seq))) [] (.sup :: cutParts ++ [.tracks, .replans]) s v
  own      : v.stations[i] =
               { s.stations[i].cutTo [] (later.map (·.seq)) with spur := s.stations[i].spur ++ spurOf later }
  build    : v.builds[i] = cutBuild s i (o :: later)
  others   : OthersMayBind i s v
  cascaded : ∀ {qs : List Part} {t : State}, KeepsAllBut qs v t →
               Part.plans ∉ qs ∧ Part.builds ∉ qs ∧ Part.flags ∉ qs ∧ Part.replans ∉ qs → OtherStations i v t →
               (CasesOk s → ∀ o ∈ later, o.discards = false →
                 (t.track o.tracking).map (·.state) = some (.spurHeld i)) → Cascaded i o later s t
  track    : ∀ u, v.track u =
               if u ∈ later.map Order.tracking then (s.track u).map fun e => { e with state := .spurHeld i } else s.track u
  placed   : CasesOk s → Placed v ∧ NoPlace v o.tracking

theorem failedCut_of (busy : s.stations[i].state ≠ .idle) (hos : s.stations[i].orders = o :: later) (y : SupTimer) :
    FailedCut i o later s (cascadeSpur i [] o later (later.map Order.seq) (s.setSup y)) := by
  have before := setSup_keeps s y
  have cascades := cascadeSpur_of i [] o later (later.map Order.seq) (s := s.setSup y) busy
  exact
    { emits := (Emits.of_keeps before (by simp)).after cascades.emits (by simp)
      own := cascades.own
      build := cascades.unplaced.1
      others := cascades.unplaced.2.2
      cascaded := fun behind hqs others onSpur =>
        cascades.cascaded before (by simp) behind hqs others onSpur
      track := cascades.track
      placed := fun cases => cascadeSpur_placed (placed_setSup ((casesOk_iff s).mp cases).1 y) _
        (by
          rw [show (s.setSup y).stations[i].orders = o :: later from hos]
          exact .refl _) }

theorem FailedCut.code (h : FailedCut i o later s v) :
    v.snapCode o.tracking = (s.track o.tracking).bind fun e => e.snap.map (·.code) := by
  rw [State.snapCode, h.track]
  split_ifs
  · cases s.track o.tracking <;> rfl
  · rfl

/-- A case that joined the spur list unmarked is there after an end of the failed case. -/
theorem FailedCut.onSpur (h : FailedCut i o later s v) {t : State} (placed : Placed t)
    (listed : ∀ e ∈ v.stations[i].spur, e.discard = false → e ∈ t.stations[i].spur) :
    ∀ o ∈ later, o.discards = false → (t.track o.tracking).map (·.state) = some (.spurHeld i) := by
  intro x hx unmarked
  have joined : (⟨x.tracking, x.discards⟩ : SpurEntry) ∈ v.stations[i].spur := by
    rw [h.own]
    exact List.mem_append_right _ (List.mem_map_of_mem hx)
  exact spurHeld_of_listed placed rfl (listed _ joined unmarked)

/-- An order failed in BUILDING, by an end `x` of its case behind the cascade. -/
theorem failed_building (building : s.stations[i].state = .building) (cut : FailedCut i o later s v)
    (ends : EndsCase o.tracking reports v x) :
    Emits (withdrawFrames s i (later.map (·.seq))) reports failedParts s x
      ∧ ∀ t, KeepsAllBut [.portA, .portB, .reports] x t → JoinedB (withdrawFrames s i (later.map (·.seq))) s t →
        StaysBuilding i o later s t := by
  have emits := cut.emits.trans ends.emits (by simp [cutParts])
  rw [List.append_nil, List.nil_append] at emits
  refine ⟨emits.mono (by simp [cutParts, failedParts]), fun t service joined => ?_⟩
  have behind : KeepsAllBut [.portA, .portB, .reports, .tracks] v t :=
    (ends.emits.keeps.mono (by simp)).trans (service.mono (by simp))
  have stations : t.stations = v.stations := behind.2.2 .stations (by simp)
  have tracks : t.tracker.tracks = x.tracker.tracks := service.2.2 .tracks (by simp)
  refine ⟨?_, ?_, ?_, ?_, ?_, ?_, ?_, ?_, joined⟩
  case refine_8 =>
    refine cut.cascaded behind (by simp) (.of_keeps behind (by simp)) fun cases => ?_
    obtain ⟨there, alone⟩ := cut.placed cases
    have same : x.stations = v.stations := ends.emits.keeps.2.2 .stations (by simp)
    have onSpur := cut.onSpur (ends.keeps there alone) (fun e he _ => by rwa [same])
    simpa only [State.track, tracks] using onSpur
  all_goals rw [stations, cut.own]
  · exact building
  · rfl
  · rfl
  · rfl
  · rfl
  · simp only [Station.cutTo, withdrawnBy, List.map_eq_nil_iff]

/-- An order failed in CLOSING, by an end `x` of its case behind the cascade and its REJECT orders. -/
theorem failed_closing (closing : s.stations[i].state = .closing) (cut : FailedCut i o later s v) (cases : CasesOk s)
    (ends : EndsCase o.tracking reports (issueDiscards i v) x) :
    ∃ frames reports', Emits frames reports' failedParts s (closingTest i x)
      ∧ Part.Same x (closingTest i x) .tracks
      ∧ ∀ t, KeepsAllBut [.portA, .portB, .reports] (closingTest i x) t → JoinedB frames s t →
        ReportedAll reports' s t → StaysClosing i o later reports s t := by
  obtain ⟨there, alone⟩ := cut.placed cases
  obtain ⟨once, held⟩ := there.spur i
  have own := cut.own
  have discards := Keeps.issueDiscards there i
  have closes := closes_of_discards (i := i) (w := x) cut.emits (by simp [cutParts]) (by rw [own]; exact closing)
    (by rw [own]; rfl) once (fun e he => by
      obtain ⟨w, hw, -⟩ := held e he
      rw [hw]
      rfl) ends.emits (fun e he => ends.track _ fun same => alone (.spur i) (e.tracking, 0)
        (List.mem_map.mpr ⟨e, he, rfl⟩) same)
  obtain ⟨closes, keeps, others, tracks⟩ := closes
  rw [List.nil_append] at closes
  refine ⟨_, _, closes.emits.mono (by simp [cutParts, failedParts]), tracks, fun t service joined told => ?_⟩
  have goesOn := closes.closesWith (t := t) (queues := ReportedAll) (by rw [own]; rfl) (by rw [own]; rfl)
    (service.2.2 .stations (by simp)) (service.2.2 .tracks (by simp)) joined told
  obtain ⟨w, left⟩ := closes.own
  have stations : t.stations = (closingTest i x).stations := service.2.2 .stations (by simp)
  have entries : t.tracker.tracks = (closingTest i x).tracker.tracks := service.2.2 .tracks (by simp)
  refine ⟨?_, ?_, ?_, ?_⟩
  · rw [own, cut.build] at goesOn
    exact goesOn
  · rw [stations, left, own]
    rfl
  · rw [stations, left, own]
    cases chuted _ _ <;> simp [Station.cutTo, chuteOrders]
  · have listed : ∀ e ∈ v.stations[i].spur, e.discard = false → e ∈ (closingTest i x).stations[i].spur := by
      intro e he unmarked
      rw [left, List.mem_filter]
      refine ⟨he, ?_⟩
      rw [Bool.not_eq_true', Bool.eq_false_iff, ne_eq, List.contains_iff_mem]
      exact fun marked => Bool.false_ne_true (unmarked.symm.trans (chuted_discard marked))
    have placed := ((Chores.closingTest i x).keeps (ends.keeps discards.placed (discards.names _ alone))).placed
    have onSpur := cut.onSpur placed listed
    refine cut.cascaded ((keeps.mono (qs := [.portA, .portB, .exec, .stations, .tracks, .reports]) (by simp)).trans
      (service.mono (by simp))) (by simp) (others.trans (.of_keeps service (by simp))) fun _ => ?_
    simpa only [State.track, entries] using onSpur

end Failed

section FailedReply

variable {f : RxFrame} {s : State} {i : StationNo} {o : Order} {later : List Order} {reports : List ReportBody}
variable {out : ReplyOutcome} {x : State}

/-- The parts that a reply by which an order fails shows as changed. -/
def failedReplyParts : List Part :=
  [.portA, .portB, .exec, .sup, .plans, .tracks, .replans, .flags, .builds, .stations, .reports]

variable (h : FromPartner 0x52 f s) (hi : stationAt f.payload = some i) (hos : s.stations[i].orders = o :: later)
variable (hq : f.payload.getD 1 0 ∉ s.stations[i].withdrawn)
variable (hout : replyOutcome (u8At f.payload 2) (u8At f.payload 3) = some out)

include h hi hos hq hout in
theorem failedReply_building (building : s.stations[i].state = .building)
    (hact : replyWorking i (f.payload.getD 1 0) out (s.setSup (fedTimer f.src s)) = x)
    (ends : EndsCase o.tracking reports
      (cascadeSpur i [] o later (later.map Order.seq) (s.setSup (fedTimer f.src s))) x) :
    exec (.orderReply f) s = .next (settle x) ∧ (settle x).req.sup = fedTimer f.src s
      ∧ KeepsAllBut failedReplyParts s (settle x) ∧ StaysBuilding i o later s (settle x)
      ∧ ReportedAll reports s (settle x) ∧ Part.Same x (settle x) .tracks := by
  have busy : s.stations[i].state ≠ .idle := by rw [building]; decide
  obtain ⟨emits, stays⟩ := failed_building building (failedCut_of busy hos _) ends
  obtain ⟨run, sup, shows⟩ := reply_shows h hi hq hout (.inl building) hact emits (by simp [failedParts])
  exact ⟨run, sup, shows.keeps.mono (by simp [failedParts, failedReplyParts]), stays _ shows.service shows.joined,
    shows.reported, shows.service.2.2 .tracks (by simp)⟩

include h hi hos hq hout in
theorem failedReply_closing (closing : s.stations[i].state = .closing) (cases : CasesOk s)
    (hact : replyWorking i (f.payload.getD 1 0) out (s.setSup (fedTimer f.src s)) = closingTest i x)
    (ends : EndsCase o.tracking reports
      (issueDiscards i (cascadeSpur i [] o later (later.map Order.seq) (s.setSup (fedTimer f.src s)))) x) :
    ∃ t, exec (.orderReply f) s = .next t ∧ t.req.sup = fedTimer f.src s
      ∧ KeepsAllBut failedReplyParts s t ∧ StaysClosing i o later reports s t ∧ Part.Same x t .tracks := by
  have busy : s.stations[i].state ≠ .idle := by rw [closing]; decide
  obtain ⟨frames, told, emits, tracks, stays⟩ := failed_closing closing (failedCut_of busy hos _) cases ends
  obtain ⟨run, sup, shows⟩ := reply_shows h hi hq hout (.inr closing) hact emits (by simp [failedParts])
  exact ⟨_, run, sup, shows.keeps.mono (by simp [failedParts, failedReplyParts]),
    stays _ shows.service shows.joined shows.reported, tracks.trans (shows.service.2.2 .tracks (by simp))⟩

end FailedReply

/-- The failed order of a station that is not in CLOSING: neither REJECT orders nor a closing test. -/
theorem closingTest_building {i : StationNo} {v x : State} (building : v.stations[i].state = .building)
    (same : Part.Same v x .stations) : issueDiscards i v = v ∧ closingTest i x = x := by
  have stations : x.stations = v.stations := same
  have other : v.stations[i].state ≠ .closing := by rw [building]; decide
  exact ⟨issueDiscards_idle other, closingTest_idle fun closing => absurd (stations ▸ closing) other⟩

theorem orderDropped_eq {i : StationNo} {o : Order} {later : List Order} {s : State}
    (hos : s.stations[i].orders = o :: later) : orderDropped i o s =
      closingTest i (caseLost i o (issueDiscards i (cascadeSpur i [] o later (later.map Order.seq) s))) := by
  have tail : s.stations[i].orders.tail = later := by rw [hos]; rfl
  rw [← cascade_eq, ← tail]
  rfl

theorem orderNoCase_eq {i : StationNo} {o : Order} {later : List Order} {s : State}
    (hos : s.stations[i].orders = o :: later) : orderNoCase i o s =
      closingTest i (caseMissed o.tracking (issueDiscards i (cascadeSpur i [] o later (later.map Order.seq) s))) := by
  have tail : s.stations[i].orders.tail = later := by rw [hos]; rfl
  rw [← cascade_eq, ← tail]
  rfl

/-- The failed case back on the loop, with its entry as it was before the cascade. -/
theorem FailedCut.missed {i : StationNo} {o : Order} {later : List Order} {s v w : State} (h : FailedCut i o later s v)
    (same : w.track o.tracking = v.track o.tracking) (time : Part.Same s w .time) (settings : Part.Same s w .settings) :
    ∀ e, s.track o.tracking = some e → (caseMissed o.tracking w).track o.tracking = some (Track.missed s e) := by
  intro e he
  rw [track_caseMissed, if_pos rfl, same, h.track, he, Track.missed_congr time settings]
  split_ifs <;> rfl

/-- The failed case has no REJECT order in the cascade, so its entry stays. -/
theorem FailedCut.spared {i : StationNo} {o : Order} {later : List Order} {s v : State} (h : FailedCut i o later s v)
    (closing : s.stations[i].state = .closing) (cases : CasesOk s) :
    (issueDiscards i v).track o.tracking = v.track o.tracking
      ∧ KeepsAllBut [.portB, .stations, .tracks] v (issueDiscards i v) := by
  obtain ⟨there, alone⟩ := h.placed cases
  have chutes := issueDiscards_chutes (i := i) (s := v) (by rw [h.own]; exact closing) (there.spur i).1
  refine ⟨chutes.kept _ fun listed => ?_, chutes.emits.keeps⟩
  obtain ⟨e, he, same⟩ := List.mem_map.mp listed
  exact alone (.spur i) (e.tracking, 0)
    (List.mem_map.mpr ⟨e, List.mem_of_mem_filter ((List.take_sublist ..).subset he), rfl⟩) same

end Sys2Proof.Machine
end

section
/-!
PROOFS. BLOCKED (R135), the runs of the withdrawn sequences (R137), and O41.
-/

namespace Sys2Proof.Machine

theorem track_congr {s t : State} (h : Part.Same s t .tracks) (u : Tracking) : t.track u = s.track u := by
  have tracks : t.tracker.tracks = s.tracker.tracks := h
  rw [State.track, tracks, ← State.track]

theorem works_iff (st : Station) : st.works = true ↔ st.state = .building ∨ st.state = .closing := by
  simp [Station.works]

/-! ### BLOCKED (R135) -/

/-- The fault of a working station whose queue is empty and whose timers stand. -/
theorem faultWorking_empty {i : StationNo} {c : StationCause} {s : State} (orders : s.stations[i].orders = [])
    (take : s.stations[i].takeExpiry = none) (place : s.stations[i].placeExpiry = none) :
    faultWorking i c s = faultEnd i c s.stations[i].state [] s := by
  have issued : issuedAt s i = [] := by rw [issuedAt, orders]; rfl
  have kept : keptAt s i = [] := by rw [keptAt, orders]; rfl
  have halted : haltOrders i s = s := by
    have record : ∀ st : Station, st.orders = [] → st.takeExpiry = none → st.placeExpiry = none →
        { st with takeExpiry := none, placeExpiry := none, orders := [] } = st := by
      rintro ⟨⟩ rfl rfl rfl
      rfl
    rw [haltOrders, kept, record _ orders take place, withStation_own]
  have spur : toSpur i [] s = s := by
    have record : { s.stations[i] with spur := s.stations[i].spur ++ [] } = s.stations[i] := by rw [List.append_nil]
    have path : toSpur i [] s = s.withStation i { s.stations[i] with spur := s.stations[i].spur ++ [] } := rfl
    rw [path, record, withStation_own]
  have withdrawn : withdraw i [] s = s := rfl
  have placed : unplace i [] s = s := rfl
  rw [faultWorking_eq, issued, kept, halted, List.map_nil, withdrawn, placed, spur]

theorem faultEnd_emits (i : StationNo) (c : StationCause) (before : StationState) (kept : List Order) (s : State) :
    Emits [] [.stationFault i c before (unknownOf kept)] [.replans, .job, .stations, .exec, .reports] s
      (faultEnd i c before kept s) :=
  (Emits.of_keeps (cancelReplans_removed i s).1 (by simp)).after
    ((emits_withStation ..).after ((emits_enterState ..).after (emits_report ..) (by simp)) (by simp)) (by simp)
    |>.mono (by simp)

/-- What BLOCKED leaves of the station and its orders. -/
def BlockedAt (i : StationNo) (o : Order) (later : List Order) (s t : State) : Prop :=
  t.stations[i].state = .fault ∧ t.stations[i].cause = .blocked ∧ t.stations[i].orders = []
    ∧ t.stations[i].takeExpiry = none ∧ t.stations[i].placeExpiry = none
    ∧ t.stations[i].close = s.stations[i].close
    ∧ t.stations[i].spur = s.stations[i].spur ++ spurOf (o :: later)
    ∧ t.stations[i].withdrawn = (if later = [] then s.stations[i].withdrawn else later.map (·.seq))
    ∧ Unplaced i (o :: later) s t ∧ CutFlags i (o :: later) s t
    ∧ (CasesOk s → ∀ x ∈ o :: later, (t.track x.tracking).map (·.state) = some (.spurHeld i))
    ∧ t.engine.replans ++ t.engine.waiting =
        (s.engine.replans ++ s.engine.waiting).filter (fun r => r.station != i)
    ∧ t.engine.job = s.engine.job.map (fun j =>
        match j.work with
        | .replan r => if r.station = i then { j with cancelled := true } else j
        | .arrival _ | .laneHead _ _ => j)

theorem orderBlocked_ends {i : StationNo} {o : Order} {later : List Order} {s : State} (y : SupTimer)
    (works : s.stations[i].state = .building ∨ s.stations[i].state = .closing)
    (hos : s.stations[i].orders = o :: later) :
    Emits (withdrawFrames s i (later.map (·.seq))) [.stationFault i .blocked s.stations[i].state none]
        (.job :: failedParts) s (orderBlocked i o (s.setSup y))
      ∧ ∀ t, KeepsAllBut [.portA, .portB, .reports] (orderBlocked i o (s.setSup y)) t → BlockedAt i o later s t := by
  have busy : (s.setSup y).stations[i].state ≠ .idle := by
    rcases works with w | w <;> rw [show (s.setSup y).stations[i].state = _ from w] <;> decide
  have path : orderBlocked i o (s.setSup y) = stationFault i .blocked (toSpur i (o :: later)
      (cutOrders i [] (o :: later) (later.map Order.seq) (s.setSup y))) := by
    have tail : s.stations[i].orders.tail = later := by rw [hos]; rfl
    rw [← tail]
    rfl
  rw [path]
  have fed := setSup_keeps s y
  have cut := cutOrders_cut i [] (o :: later) (later.map Order.seq) busy
  have first := (Emits.of_keeps fed (by simp)).after cut.emits (by simp)
  generalize cutOrders i [] (o :: later) (later.map Order.seq) (s.setSup y) = a at *
  have spur := toSpur_keeps i (o :: later) a
  have spurred := toSpur_stations i (o :: later) a
  have tracked := track_toSpur i (o :: later) a
  generalize toSpur i (o :: later) a = b at *
  have own : b.stations[i] = { s.stations[i].cutTo [] (later.map Order.seq) with
      spur := s.stations[i].spur ++ spurOf (o :: later) } := by
    rw [spurred, withStation_same, cut.own]
    rfl
  have faults : stationFault i .blocked b = faultEnd i .blocked s.stations[i].state [] b := by
    have state : b.stations[i].state = s.stations[i].state := by rw [own]; rfl
    rw [← state, ← faultWorking_empty (by rw [own]; rfl) (by rw [own]; rfl) (by rw [own]; rfl)]
    exact if_pos (by rw [own]; exact works)
  rw [faults]
  have emits := first.andThen (.of_keeps spur (by simp)) (by simp [cutParts])
    |>.trans (faultEnd_emits i .blocked s.stations[i].state [] b) (by simp [cutParts])
  have ends := faultEnd_ends i .blocked s.stations[i].state [] b
  generalize faultEnd i .blocked s.stations[i].state [] b = x at *
  rw [List.append_nil] at emits
  have before := emits.mono (qs := .job :: failedParts) (by simp [cutParts, failedParts])
  refine ⟨before, fun t service => ?_⟩
  have stations : t.stations = x.stations := service.2.2 .stations (by simp)
  have record : t.stations[i] = { s.stations[i].cutTo [] (later.map Order.seq) with
      spur := s.stations[i].spur ++ spurOf (o :: later), cause := .blocked, state := .fault } := by
    rw [stations, ends.own, own]
  have behind : KeepsAllBut [.stations, .tracks, .replans, .job, .exec, .reports, .portA, .portB] a t :=
    (spur.mono (by simp)).trans ((ends.keeps.mono (by simp)).trans (service.mono (by simp)))
  have others : OtherStations i a t := by
    intro j hj
    rw [stations, ends.others j hj, spurred, withStation_other _ _ _ j hj]
  have untilSpur : KeepsAllBut (.sup :: cutParts ++ [.stations, .tracks]) s b :=
    (first.keeps.mono (by simp +contextual)).trans (spur.mono (by simp))
  have replans := untilSpur.2.2 .replans (by simp [cutParts])
  have job : b.engine.job = s.engine.job := untilSpur.2.2 .job (by simp [cutParts])
  have left := service.2.2 .replans (by simp)
  have jobLeft : t.engine.job = x.engine.job := service.2.2 .job (by simp)
  refine ⟨?_, ?_, ?_, ?_, ?_, ?_, ?_, ?_, cut.unplaced.congr fed (.of_keeps fed (by simp)) behind others (by simp) (by simp),
    cut.flags.congr fed behind (by simp) (by simp), fun cases y hy => ?_, ?_, ?_⟩
  case refine_9 =>
    obtain ⟨e, he, -⟩ := cases.2.2.2.1 i y (hos ▸ hy)
    have tracks : t.tracker.tracks = b.tracker.tracks :=
      ((ends.keeps.mono (qs := [.replans, .job, .stations, .exec, .reports, .portA, .portB]) (by simp)).trans
        (service.mono (by simp))).2.2 .tracks (by simp)
    have old : a.tracker.tracks = s.tracker.tracks := first.keeps.2.2 .tracks (by simp [cutParts])
    rw [State.track, tracks, ← State.track, tracked, if_pos (List.mem_map_of_mem hy), State.track, old, ← State.track, he]
    rfl
  case refine_10 => rw [left.1, left.2, ends.replans, replans.1, replans.2]
  case refine_11 => exact jobLeft.trans (ends.job.trans (congrArg _ job))
  case refine_8 =>
    rw [record]
    simp only [Station.cutTo, withdrawnBy, List.map_eq_nil_iff]
  all_goals rw [record] <;> rfl

/-! ### The runs of the withdrawn sequences (R137) -/

/-- The sequences of a run: its first and the next ones. -/
def runOf (r : OrderSeq × Nat) : List OrderSeq := (List.range r.2).map fun n => r.1 + BitVec.ofNat 8 n

theorem runsFrom_split (first : OrderSeq) (count : Nat) (seqs : List OrderSeq) :
    (runsFrom first count seqs).flatMap runOf = runOf (first, count) ++ seqs := by
  induction seqs generalizing first count with
  | nil => simp [runsFrom]
  | cons q rest ih =>
    rw [runsFrom]
    split_ifs with next
    · rw [ih]
      simp [runOf, List.range_succ, next]
    · rw [List.flatMap_cons, ih]
      simp [runOf]

theorem runsFrom_pos {first : OrderSeq} {count : Nat} (pos : 1 ≤ count) (seqs : List OrderSeq) :
    ∀ r ∈ runsFrom first count seqs, 1 ≤ r.2 := by
  induction seqs generalizing first count with
  | nil =>
    intro r hr
    obtain rfl : r = (first, count) := by simpa [runsFrom] using hr
    exact pos
  | cons q rest ih =>
    rw [runsFrom]
    split_ifs with next
    · exact ih (by omega)
    · intro r hr
      rcases List.mem_cons.mp hr with rfl | hr
      · exact pos
      · exact ih le_rfl r hr

/-- The first run begins with `first`. -/
theorem runsFrom_head (first : OrderSeq) (count : Nat) (seqs : List OrderSeq) :
    ∃ n rest, runsFrom first count seqs = (first, n) :: rest := by
  induction seqs generalizing count with
  | nil => exact ⟨count, [], rfl⟩
  | cons q rest ih =>
    rw [runsFrom]
    split_ifs with next
    · exact ih (count + 1)
    · exact ⟨count, _, rfl⟩

/-- No run goes on with the next one. -/
theorem runsFrom_maximal (first : OrderSeq) (count : Nat) (seqs : List OrderSeq) :
    ∀ before r r' later, runsFrom first count seqs = before ++ r :: r' :: later →
      r'.1 ≠ r.1 + BitVec.ofNat 8 r.2 := by
  induction seqs generalizing first count with
  | nil =>
    intro before r r' later h
    have length := congrArg List.length h
    simp only [runsFrom, List.length_append, List.length_cons, List.length_nil] at length
    omega
  | cons q rest ih =>
    intro before r r' later h
    rw [runsFrom] at h
    split_ifs at h with next
    · exact ih _ _ before r r' later h
    · cases before with
      | nil =>
        obtain ⟨n, runs, head⟩ := runsFrom_head q 1 rest
        rw [head] at h
        simp only [List.nil_append, List.cons.injEq] at h
        obtain ⟨rfl, rfl, -⟩ := h
        exact next
      | cons b before => exact ih q 1 before r r' later (List.cons.inj h).2

theorem seqRuns_runs (seqs : List OrderSeq) : (seqRuns seqs).flatMap runOf = seqs ∧ (∀ r ∈ seqRuns seqs, 1 ≤ r.2)
    ∧ ∀ before r r' later, seqRuns seqs = before ++ r :: r' :: later → r'.1 ≠ r.1 + BitVec.ofNat 8 r.2 := by
  cases seqs with
  | nil =>
    refine ⟨rfl, fun r hr => (nomatch hr), fun before r r' later h => ?_⟩
    have length := congrArg List.length h
    simp only [seqRuns, List.length_append, List.length_cons, List.length_nil] at length
    omega
  | cons q rest => exact ⟨by simp [seqRuns, runsFrom_split, runOf], runsFrom_pos le_rfl rest, runsFrom_maximal q 1 rest⟩

/-- Settles O41: the cascade is `failedReply_building` and `failedReply_closing`, BLOCKED `orderBlocked_ends`. -/
theorem failedOrderReplyCompletes : Obligations.FailedOrderReplyCompletes := by
  refine ⟨fun f s i o later h hi hos hseq hq => ?_, seqRuns_runs⟩
  rw [hseq] at hq
  refine ⟨fun taken hout building => ?_, fun issued hout building => ?_, fun taken hout closing cases => ?_,
    fun issued hout closing cases => ?_, fun taken hout works => ?_⟩
  · have busy : s.stations[i].state ≠ .idle := by rw [building]; decide
    have cut := failedCut_of busy hos (fedTimer f.src s)
    have ends := caseLost_ends i o (cascadeSpur i [] o later (later.map Order.seq) (s.setSup (fedTimer f.src s)))
    have hact : replyWorking i (f.payload.getD 1 0) .dropped (s.setSup (fedTimer f.src s)) =
        caseLost i o (cascadeSpur i [] o later (later.map Order.seq) (s.setSup (fedTimer f.src s))) := by
      obtain ⟨discards, test⟩ := closingTest_building (i := i) (by rw [cut.own]; exact building)
        (ends.emits.keeps.2.2 .stations (by simp))
      rw [replyWorking_dropped (by exact hos) hseq taken, orderDropped_eq (by exact hos), discards, test]
    rw [cut.code] at ends
    obtain ⟨run, sup, keeps, stays, told, tracks⟩ := failedReply_building h hi hos hq hout building hact ends
    exact ⟨_, run, sup, keeps, stays, (track_congr tracks _).trans (track_caseLost ..), told.reported h.served'⟩
  · have busy : s.stations[i].state ≠ .idle := by rw [building]; decide
    have cut := failedCut_of busy hos (fedTimer f.src s)
    have ends := caseMissed_ends o.tracking
      (cascadeSpur i [] o later (later.map Order.seq) (s.setSup (fedTimer f.src s)))
    have hact : replyWorking i (f.payload.getD 1 0) .noCase (s.setSup (fedTimer f.src s)) =
        caseMissed o.tracking (cascadeSpur i [] o later (later.map Order.seq) (s.setSup (fedTimer f.src s))) := by
      obtain ⟨discards, test⟩ := closingTest_building (i := i) (by rw [cut.own]; exact building)
        (ends.emits.keeps.2.2 .stations (by simp))
      rw [replyWorking_noCase (by exact hos) hseq issued, orderNoCase_eq (by exact hos), discards, test]
    obtain ⟨run, sup, keeps, stays, told, tracks⟩ := failedReply_building h hi hos hq hout building hact ends
    refine ⟨_, run, sup, keeps, stays, fun e he => (track_congr tracks _).trans ?_, (told.quiet h.served').2⟩
    exact cut.missed rfl (cut.emits.keeps.2.2 .time (by simp [cutParts])) (cut.emits.keeps.2.2 .settings (by simp [cutParts]))
      e he
  · have busy : s.stations[i].state ≠ .idle := by rw [closing]; decide
    have cut := failedCut_of busy hos (fedTimer f.src s)
    obtain ⟨spared, -⟩ := cut.spared closing cases
    have ends := caseLost_ends i o
      (issueDiscards i (cascadeSpur i [] o later (later.map Order.seq) (s.setSup (fedTimer f.src s))))
    rw [State.snapCode, spared, ← State.snapCode, cut.code] at ends
    obtain ⟨t, run, sup, keeps, stays, tracks⟩ := failedReply_closing h hi hos hq hout closing cases
      ((replyWorking_dropped (by exact hos) hseq taken).trans (orderDropped_eq (by exact hos))) ends
    exact ⟨t, run, sup, keeps, stays, (track_congr tracks _).trans (track_caseLost ..)⟩
  · have busy : s.stations[i].state ≠ .idle := by rw [closing]; decide
    have cut := failedCut_of busy hos (fedTimer f.src s)
    obtain ⟨spared, discarding⟩ := cut.spared closing cases
    obtain ⟨t, run, sup, keeps, stays, tracks⟩ := failedReply_closing h hi hos hq hout closing cases
      ((replyWorking_noCase (by exact hos) hseq issued).trans (orderNoCase_eq (by exact hos))) (caseMissed_ends ..)
    refine ⟨t, run, sup, keeps, stays, fun e he => (track_congr tracks _).trans (cut.missed spared ?_ ?_ e he)⟩
    · exact (cut.emits.keeps.2.2 .time (by simp [cutParts])).trans (discarding.2.2 .time (by simp))
    · exact (cut.emits.keeps.2.2 .settings (by simp [cutParts])).trans (discarding.2.2 .settings (by simp))
  · replace works := (works_iff _).mp works
    obtain ⟨emits, blocked⟩ := orderBlocked_ends (fedTimer f.src s) works hos
    obtain ⟨run, sup, shows⟩ := reply_shows h hi hq hout works (replyWorking_blocked (by exact hos) hseq taken) emits
      (by simp [failedParts])
    obtain ⟨fault, cause, orders, take, place, close, spur, range, unplaced, flags, held, replans, job⟩ :=
      blocked _ shows.service
    exact ⟨_, run, sup, shows.keeps.mono (by simp [failedParts]), fault, cause, orders, take, place, close, spur, range,
      unplaced, flags, held, replans, job, shows.joined, shows.reported.reported h.served'⟩

end Sys2Proof.Machine
end

section
/-!
PROOFS. The effect of DONE on the case of an order (R132, R146): the build, the counts, the tracks and the reports.
-/

namespace Sys2Proof.Machine

theorem JoinedB.onB {frames : List (Nat × OwnBody)} {s t : State} (h : JoinedB frames s t) {x : Nat × OwnBody}
    (hx : x ∈ frames) : OnB (ownFrameB s x.1 x.2) t := by
  have out : ownFrameB s x.1 x.2 ∈ outB t := h.mem_iff.mpr (List.mem_append_right _ (List.mem_map.mpr ⟨x, hx, rfl⟩))
  unfold outB at out
  simp only [List.mem_append] at out
  rcases out with (sending | own) | wait
  · refine .inl ?_
    revert sending
    split <;> simp_all
  · exact .inr (.inl own)
  · exact .inr (.inr wait)

/-! ### D + 1 of a case (R75, R132) -/

theorem countedPlan_some {s : State} {b : Build} {j : Nat} {p : Plan} {ls : List PlanLine}
    (h : countedPlan s b j = some (p, ls)) : b.planId = some p.id ∧ s.plan p.id = some p
      ∧ ∃ l, p.lines[j]? = some l ∧ l.placed < l.planned ∧ ls = p.lines.set j l.place := by
  unfold countedPlan at h
  obtain ⟨q, hq, h⟩ := Option.bind_eq_some_iff.mp h
  obtain ⟨id, hid, hq⟩ := Option.bind_eq_some_iff.mp hq
  obtain ⟨l, hl, h⟩ := Option.bind_eq_some_iff.mp h
  split_ifs at h with less
  obtain ⟨rfl, rfl⟩ := Prod.mk.inj (Option.some.inj h)
  obtain rfl := plan_id hq
  exact ⟨hid, hq, l, hl, less, rfl⟩

theorem countedPlan_of {s : State} {b : Build} {j : Nat} {p : Plan} {l : PlanLine} (hid : b.planId = some p.id)
    (hp : s.plan p.id = some p) (hl : p.lines[j]? = some l) (less : l.placed < l.planned) :
    countedPlan s b j = some (p, p.lines.set j l.place) := by
  rw [countedPlan, hid, Option.bind_some, hp, Option.bind_some, hl, Option.bind_some, if_pos less]
  rfl

theorem placeMore_uncounted {s : State} {b : Build} {j : Nat} (h : countedPlan s b j = none) :
    placeMore b.planId j s = (s, none) := by
  unfold countedPlan at h
  unfold placeMore
  cases hp : b.planId.bind s.plan with
  | none => rfl
  | some p =>
    rw [hp, Option.bind_some] at h
    dsimp only
    cases hl : p.lines[j]? with
    | none => rfl
    | some l =>
      rw [hl, Option.bind_some] at h
      dsimp only
      split_ifs at h ⊢ with less
      rfl

theorem plan_dropPlan_other {id other : PlanId} (ne : other ≠ id) (s : State) :
    (s.dropPlan id).plan other = s.plan other := by
  have plans : (s.dropPlan id).plans.plans = s.plans.plans.filter fun p => p.id != id := rfl
  rw [State.plan, plans, List.find?_filter]
  congr 1
  funext p
  by_cases h : p.id = other <;> simp_all

/-- What D + 1 leaves of the plans, the line counted being of plan `p` with the lines `ls` now. -/
structure Counts (p : Plan) (ls : List PlanLine) (s : State) (r : State × Option StationNo) : Prop where
  own    : r.1.plan p.id = if ∀ m ∈ ls, m.placed = m.required then none else some { p with lines := ls }
  others : ∀ id, id ≠ p.id → r.1.plan id = s.plan id
  notice : r.2 = if (∀ m ∈ ls, m.placed = m.required) ∧ p.state = .building then p.bound else none

/-- The report of a D + 1. -/
def countReports (p : Plan) (ls : List PlanLine) : List ReportBody :=
  if ∀ m ∈ ls, m.placed = m.required then [.planDone p.id p.part] else []

theorem Emits.plans_reports {reports : List ReportBody} {s t : State} (h : KeepsAllBut [.plans, .reports] s t)
    (told : ReportsTaken reports s t) : Emits [] reports [.plans, .reports] s t :=
  ⟨h, .of_same (h.2.2 .portB (by simp)), told, fun _ => h.2.2 .exec (by simp)⟩

theorem placeMore_counted {s : State} {b : Build} {j : Nat} {p : Plan} {ls : List PlanLine}
    (h : countedPlan s b j = some (p, ls)) :
    Emits [] (countReports p ls) [.plans, .reports] s (placeMore b.planId j s).1
      ∧ Counts p ls s (placeMore b.planId j s) := by
  obtain ⟨hid, hp, l, hl, less, rfl⟩ := countedPlan_some h
  rw [hid]
  obtain ⟨keeps, placed⟩ := placeMore_placed hp hl less
  have fixed : ∀ q : Plan, (q.onLine j PlanLine.place).id = q.id := fun _ => rfl
  have others : ∀ id, id ≠ p.id → (placeMore (some p.id) j s).1.plan id = s.plan id := by
    intro id ne
    have changed : (s.placedOn p.id j).plan id = s.plan id := plan_onPlan_other ne fixed
    rw [placeMore_eq hp hl less]
    by_cases done : ∀ m ∈ p.lines.set j l.place, m.placed = m.required
    · rw [if_pos done]
      have told : (report (.planDone p.id p.part) (s.placedOn p.id j)).plans.plans = (s.placedOn p.id j).plans.plans :=
        (report_keeps ..).2.2 .plans (by simp)
      refine (plan_dropPlan_other ne _).trans (Eq.trans ?_ changed)
      rw [State.plan, told, ← State.plan]
    · rw [if_neg done]
      exact changed
  unfold countReports
  by_cases done : ∀ m ∈ p.lines.set j l.place, m.placed = m.required
  · rw [if_pos done] at placed ⊢
    obtain ⟨own, told, reports⟩ := placed
    refine ⟨.plans_reports keeps reports, by rw [own, if_pos done], others, ?_⟩
    rw [told]
    simp only [eq_true done, true_and]
  · rw [if_neg done] at placed ⊢
    obtain ⟨own, told⟩ := placed
    have noted : (placeMore (some p.id) j s).1 = s.placedOn p.id j := by rw [placeMore_eq hp hl less, if_neg done]
    refine ⟨.plans_reports keeps (by rw [noted]; exact reportsTaken_nil rfl), by rw [own, if_neg done], others, ?_⟩
    rw [told]
    simp only [eq_false done, false_and, if_false]

/-! ### The case done (R132) -/

/-- What DONE of an order leaves of the case: its entry gone, its record in the build `b`, and these reports. -/
structure CaseDone (i : StationNo) (o : Order) (b : Build) (reports : List ReportBody) (ps : List Part) (s t : State) :
    Prop where
  emits  : Emits [] reports ps s t
  tracks : t.tracker.tracks = s.tracker.tracks.filter fun e => e.tracking != o.tracking
  build  : t.builds[i] = b
  others : OtherBuilds i s t

theorem CaseDone.track {i : StationNo} {o : Order} {b : Build} {reports : List ReportBody} {ps : List Part}
    {s t : State} (h : CaseDone i o b reports ps s t) (u : Tracking) :
    t.track u = if u = o.tracking then none else s.track u := by
  have entries : t.tracker.tracks = (s.dropTrack o.tracking).tracker.tracks := h.tracks
  rw [State.track, entries, ← State.track, track_dropTrack]

theorem doneCase_reject {i : StationNo} {o : Order} {r : RejectReason} (ho : o.target = .reject r) (s : State) :
    (doneCase i o s).2 = none
      ∧ CaseDone i o s.builds[i] [.caseRejected o.tracking (s.snapCode o.tracking) r] [.tracks, .reports] s
        (doneCase i o s).1 := by
  have path : doneCase i o s = (report (.caseRejected o.tracking (s.snapCode o.tracking) r) (s.dropTrack o.tracking),
      none) := by
    rw [doneCase, ho]
    rfl
  rw [path]
  have dropped := Emits.of_keeps (dropTrack_keeps s o.tracking) (by simp)
  have emits := dropped.after (emits_report (.caseRejected o.tracking (s.snapCode o.tracking) r) _) (by simp)
  have builds := emits.keeps.2.2 .builds (by simp)
  have same : (report (.caseRejected o.tracking (s.snapCode o.tracking) r) (s.dropTrack o.tracking)).builds = s.builds :=
    builds
  exact ⟨rfl, emits, (report_keeps ..).2.2 .tracks (by simp), by rw [same], fun j _ => by rw [same]⟩

section Placed

variable {s : State} {i : StationNo} {o : Order} {k : Nat} {c : CaseRec}

/-- The build of station `i` with case `k`, whose record is `c`, confirmed (R12). -/
def confirmedBuild (s : State) (i : StationNo) (k : Nat) (c : CaseRec) : Build :=
  { s.builds[i] with cases := s.builds[i].cases.set k { c with status := .confirmed } }

/-- CASE_PLACED of case `k` of station `i`. -/
def placedReport (s : State) (i : StationNo) (o : Order) (k : Nat) (c : CaseRec) : ReportBody :=
  .casePlaced o.tracking c.code i s.builds[i].planId s.builds[i].part c.line k

/-- The state with the case confirmed in the build. -/
def State.withConfirmed (s : State) (i : StationNo) (o : Order) (k : Nat) : State :=
  s.onBuild i fun b => b.confirm k o.tracking

variable (ho : o.target = .place k) (hc : s.builds[i].cases[k]? = some c)

include ho hc in
theorem doneCase_place : doneCase i o s =
    (report (placedReport s i o k c)
        ((placeMore s.builds[i].planId c.line (s.withConfirmed i o k)).1.dropTrack o.tracking),
      (placeMore s.builds[i].planId c.line (s.withConfirmed i o k)).2) := by
  rw [doneCase, ho]
  simp only [casePlaced, hc]
  rfl

variable (named : c.tracking = o.tracking) (provisional : c.status = .provisional)

include hc named provisional in
theorem confirmed_build : KeepsAllBut [.builds] s (s.withConfirmed i o k)
    ∧ (s.withConfirmed i o k).builds[i] = confirmedBuild s i k c ∧ OtherBuilds i s (s.withConfirmed i o k) := by
  have record : s.builds[i].confirm k o.tracking = confirmedBuild s i k c := by
    rw [Build.confirm, hc]
    exact if_pos ⟨named, provisional⟩
  have path : s.withConfirmed i o k = s.withBuild i (confirmedBuild s i k c) := by
    rw [← record]
    rfl
  rw [path]
  exact ⟨withBuild_keeps .., withBuild_same .., fun j hj => withBuild_other _ _ _ j hj⟩

/-- DONE of a PLACE order, behind a D + 1 that queues `reports`. -/
theorem caseDone_of_placeMore {reports : List ReportBody} {ps : List Part} (ho : o.target = .place k)
    (hc : s.builds[i].cases[k]? = some c) (named : c.tracking = o.tracking) (provisional : c.status = .provisional)
    (counted : Emits [] reports ps (s.withConfirmed i o k) (placeMore s.builds[i].planId c.line (s.withConfirmed i o k)).1)
    (hps : Part.tracks ∉ ps ∧ Part.builds ∉ ps ∧ Part.ownNode ∉ ps ∧ Part.time ∉ ps ∧ Part.levels ∉ ps) :
    CaseDone i o (confirmedBuild s i k c) (reports ++ [placedReport s i o k c]) (ps ++ [.tracks, .builds, .reports]) s
        (doneCase i o s).1 := by
  obtain ⟨htracks, hbuilds, hown, htime, hlevels⟩ := hps
  obtain ⟨keeps, own, others⟩ := confirmed_build hc named provisional
  rw [doneCase_place ho hc]
  have first := (Emits.of_keeps keeps (by simp)).after counted (by simp)
  generalize (placeMore s.builds[i].planId c.line (s.withConfirmed i o k)).1 = m at *
  have dropped := Emits.of_keeps (dropTrack_keeps m o.tracking) (by simp)
  have behind := dropped.after (emits_report (placedReport s i o k c) (m.dropTrack o.tracking)) (by simp)
  have whole := first.trans behind (by simp [hown, htime, hlevels])
  have builds : (report (placedReport s i o k c) (m.dropTrack o.tracking)).builds = (s.withConfirmed i o k).builds :=
    (counted.keeps.2.2 .builds hbuilds).trans (behind.keeps.2.2 .builds (by simp))
  have tracks : m.tracker.tracks = s.tracker.tracks :=
    (keeps.2.2 .tracks (by simp)).trans (counted.keeps.2.2 .tracks htracks)
  refine ⟨whole.mono (by simp +contextual [or_imp]), ?_, by rw [builds, own], fun j hj => by rw [builds, others j hj]⟩
  have entries : (report (placedReport s i o k c) (m.dropTrack o.tracking)).tracker.tracks
      = (m.dropTrack o.tracking).tracker.tracks := (report_keeps ..).2.2 .tracks (by simp)
  rw [entries, ← tracks]
  rfl

/-- The plans after DONE of a PLACE order are those after its D + 1. -/
theorem doneCase_plans (ho : o.target = .place k) (hc : s.builds[i].cases[k]? = some c) :
    (doneCase i o s).1.plans.plans = (placeMore s.builds[i].planId c.line (s.withConfirmed i o k)).1.plans.plans := by
  rw [doneCase_place ho hc]
  exact (report_keeps ..).2.2 .plans (by simp)

theorem doneCase_uncounted (ho : o.target = .place k) (hc : s.builds[i].cases[k]? = some c)
    (named : c.tracking = o.tracking) (provisional : c.status = .provisional)
    (uncounted : countedPlan s s.builds[i] c.line = none) :
    (doneCase i o s).2 = none ∧ (doneCase i o s).1.plans.plans = s.plans.plans
      ∧ CaseDone i o (confirmedBuild s i k c) [placedReport s i o k c] [.tracks, .builds, .reports] s
        (doneCase i o s).1 := by
  have more : placeMore s.builds[i].planId c.line (s.withConfirmed i o k) = (s.withConfirmed i o k, none) :=
    placeMore_uncounted uncounted
  refine ⟨by rw [doneCase_place ho hc, more], by rw [doneCase_plans ho hc, more]; rfl, ?_⟩
  exact caseDone_of_placeMore (reports := []) (ps := []) ho hc named provisional (by rw [more]; exact emits_refl _)
    (by simp)

theorem doneCase_counted (ho : o.target = .place k) (hc : s.builds[i].cases[k]? = some c)
    (named : c.tracking = o.tracking) (provisional : c.status = .provisional) {p : Plan} {ls : List PlanLine}
    (counted : countedPlan s s.builds[i] c.line = some (p, ls)) :
    Counts p ls s (doneCase i o s)
      ∧ CaseDone i o (confirmedBuild s i k c) (countReports p ls ++ [placedReport s i o k c])
        [.plans, .reports, .tracks, .builds, .reports] s (doneCase i o s).1 := by
  obtain ⟨emits, own, others, notice⟩ := placeMore_counted (s := s.withConfirmed i o k) counted
  have plans := doneCase_plans ho hc
  refine ⟨⟨?_, fun id ne => ?_, ?_⟩, caseDone_of_placeMore ho hc named provisional emits (by simp)⟩
  · rw [State.plan, plans, ← State.plan, own]
  · rw [State.plan, plans, ← State.plan, others id ne]
    rfl
  · rw [doneCase_place ho hc]
    exact notice

end Placed

end Sys2Proof.Machine
end

section
/-!
PROOFS. DONE of the oldest order of a working station (R132).
-/

namespace Sys2Proof.Machine

/-! ### What the closing operations leave, whatever the state -/

theorem Chutes.keepsAll {i : StationNo} {s t : State} {es : List SpurEntry} (h : Chutes i es s t) :
    KeepsAllBut [.portB, .stations, .tracks] s t := h.emits.keeps

/-- A state in which the other stations and the untracked cases are as before, and these parts. -/
structure Elsewhere (i : StationNo) (ps : List Part) (s t : State) : Prop where
  keeps     : KeepsAllBut ps s t
  others    : OtherStations i s t
  untracked : ∀ u, s.track u = none → t.track u = none

theorem Elsewhere.trans {i : StationNo} {ps : List Part} {s t u : State} (h : Elsewhere i ps s t) (k : Elsewhere i ps t u) :
    Elsewhere i ps s u :=
  ⟨h.keeps.trans k.keeps, h.others.trans k.others, fun v hv => k.untracked v (h.untracked v hv)⟩

theorem Elsewhere.mono {i : StationNo} {ps qs : List Part} {s t : State} (h : Elsewhere i ps s t) (hs : ∀ p ∈ ps, p ∈ qs) :
    Elsewhere i qs s t := { h with keeps := h.keeps.mono hs }

theorem issueDiscard_elsewhere (i : StationNo) (s : State) : Elsewhere i [.portB, .stations, .tracks] s (issueDiscard i s) := by
  have unchanged : Elsewhere i [.portB, .stations, .tracks] s s :=
    ⟨(KeepsAllBut.refl s).mono (by simp), fun _ _ => rfl, fun _ h => h⟩
  unfold issueDiscard
  split_ifs
  · cases s.stations[i].spur.find? SpurEntry.discard with
    | none => exact unchanged
    | some e =>
      obtain ⟨emits, stations⟩ := issueOrder_emits i e.tracking (.reject .discard) (.reject .discard)
        (leaveSpur i e.tracking s)
      have left : KeepsAllBut [.stations] s (leaveSpur i e.tracking s) := withStation_keeps ..
      refine ⟨(left.mono (by simp)).trans emits.keeps, fun j hj => ?_, fun u hu => ?_⟩
      · have spared : (leaveSpur i e.tracking s).stations[j] = s.stations[j] := withStation_other s i
          { s.stations[i] with spur := s.stations[i].spur.filter fun x => x.tracking != e.tracking } j hj
        refine Eq.trans ?_ spared
        have own : (rejectOrder i e.tracking .discard s).stations = _ := stations
        exact (congrArg (·[j]) own).trans (withStation_other _ _ _ j hj)
      · have old : (leaveSpur i e.tracking s).track u = none := hu
        refine (track_issueOrder ..).trans ?_
        rw [old]
        split_ifs <;> rfl
  · exact unchanged

theorem issueDiscards_elsewhere (i : StationNo) (s : State) : Elsewhere i [.portB, .stations, .tracks] s (issueDiscards i s) :=
  (issueDiscard_elsewhere i s).trans ((issueDiscard_elsewhere i _).trans ((issueDiscard_elsewhere i _).trans
    (issueDiscard_elsewhere i _)))

theorem closingTest_elsewhere (i : StationNo) (s : State) :
    Elsewhere i [.portB, .exec, .stations, .reports] s (closingTest i s) := by
  by_cases closing : s.stations[i].state = .closing
  · obtain ⟨emits, stations⟩ := closingTest_emits closing
    refine ⟨emits.keeps.mono (by simp [closingParts]), fun j hj => ?_, fun u hu => ?_⟩
    · rw [stations, withStation_other _ _ _ j hj]
    · rwa [track_congr (emits.keeps.2.2 .tracks (by simp [closingParts]))]
  · rw [closingTest_idle fun h => absurd h closing]
    exact ⟨(KeepsAllBut.refl s).mono (by simp), fun _ _ => rfl, fun _ h => h⟩

/-! ### The order out of the queue (R132) -/

/-- The queue without its oldest order, the place timer stopped. -/
def popped (i : StationNo) (s : State) : State :=
  s.withStation i { s.stations[i] with orders := s.stations[i].orders.tail, placeExpiry := none }

theorem popped_eq (i : StationNo) (s : State) :
    (popOrder i s).onStation i (fun st => { st with placeExpiry := none }) = popped i s := by
  rw [popOrder, onStation_eq, onStation_eq, withStation_same, withStation_again]
  rfl

theorem orderDone_eq (i : StationNo) (o : Order) (s : State) : orderDone i o s =
    notice (doneCase i o (popped i s)).2
      (closingTest i (issueDiscards i (startTake i (doneCase i o (popped i s)).1))) := by
  rw [orderDone, popped_eq]

/-- DONE of the oldest order up to the take timer of the next, as it shows from the state before. -/
structure DoneCut (i : StationNo) (o : Order) (rest : List Order) (b : Build) (reports : List ReportBody)
    (ps : List Part) (s v : State) : Prop where
  emits  : Emits [] reports (.sup :: .stations :: ps) s v
  own    : v.stations[i] =
             { s.stations[i] with
               orders := rest
               placeExpiry := none
               takeExpiry := if rest = [] then none else some (after s.link.time s.req.settings.takeTimeout) }
  others : OtherStations i s v
  build  : v.builds[i] = b
  builds : OtherBuilds i s v
  tracks : v.tracker.tracks = s.tracker.tracks.filter fun e => e.tracking != o.tracking

theorem DoneCut.track {i : StationNo} {o : Order} {rest : List Order} {b : Build} {reports : List ReportBody}
    {ps : List Part} {s v : State} (h : DoneCut i o rest b reports ps s v) (u : Tracking) :
    v.track u = if u = o.tracking then none else s.track u := by
  have entries : v.tracker.tracks = (s.dropTrack o.tracking).tracker.tracks := h.tracks
  rw [State.track, entries, ← State.track, track_dropTrack]

section Done

variable {s : State} {i : StationNo} {o : Order} {rest : List Order} {b : Build} {reports : List ReportBody}
variable {ps : List Part} {y : SupTimer}

theorem popped_own (hos : s.stations[i].orders = o :: rest) :
    (popped i s).stations[i] = { s.stations[i] with orders := rest, placeExpiry := none } := by
  rw [popped, withStation_same, hos]
  rfl

theorem startTake_eq (issued : ∀ o ∈ s.stations[i].orders, o.state = .issued) : startTake i s = s.withStation i
    { s.stations[i] with
      takeExpiry :=
        if s.stations[i].orders = [] then none else some (after s.link.time s.req.settings.takeTimeout) } := by
  rw [startTake, onStation_eq]
  congr 2
  cases hos : s.stations[i].orders with
  | nil => rfl
  | cons x rest =>
    rw [hos] at issued
    simp [issued x List.mem_cons_self, State.takeExpiry]

theorem doneCut_of (ok : StationsOk s) (hos : s.stations[i].orders = o :: rest)
    (h : CaseDone i o b reports ps (popped i (s.setSup y)) (doneCase i o (popped i (s.setSup y))).1)
    (hps : Part.stations ∉ ps ∧ Part.ownNode ∉ ps ∧ Part.time ∉ ps ∧ Part.levels ∉ ps ∧ Part.settings ∉ ps) :
    DoneCut i o rest b reports ps s (startTake i (doneCase i o (popped i (s.setSup y))).1) := by
  obtain ⟨hstations, hown, htime, hlevels, hset⟩ := hps
  have pops : KeepsAllBut [.stations] (s.setSup y) (popped i (s.setSup y)) := withStation_keeps ..
  have fed := setSup_keeps s y
  have before := Emits.of_keeps ((fed.mono (qs := [.sup, .stations]) (by simp)).trans (pops.mono (by simp))) (by simp)
  have poppedRecord := popped_own (s := s.setSup y) (i := i) hos
  have poppedOthers : OtherStations i s (popped i (s.setSup y)) := fun j hj => withStation_other _ _ _ j hj
  have builds : (popped i (s.setSup y)).builds = s.builds := before.keeps.2.2 .builds (by simp)
  have tracks : (popped i (s.setSup y)).tracker.tracks = s.tracker.tracks := before.keeps.2.2 .tracks (by simp)
  generalize popped i (s.setSup y) = p at *
  have done := before.after h.emits (by simp)
  have stations : (doneCase i o p).1.stations = p.stations := h.emits.keeps.2.2 .stations hstations
  have record : (doneCase i o p).1.stations[i] = { s.stations[i] with orders := rest, placeExpiry := none } := by
    rw [stations, poppedRecord]
    rfl
  have issued : ∀ x ∈ (doneCase i o p).1.stations[i].orders, x.state = .issued := by
    rw [record]
    intro x hx
    exact (ok i).2 x (by rw [hos]; exact hx)
  have time : (doneCase i o p).1.link.time = s.link.time := done.keeps.2.2 .time (by simp [htime])
  have settings : (doneCase i o p).1.req.settings = s.req.settings := done.keeps.2.2 .settings (by simp [hset])
  have entries := h.tracks
  have build := h.build
  have others := h.others
  rw [startTake_eq issued]
  have last := withStation_keeps (doneCase i o p).1 i { (doneCase i o p).1.stations[i] with
    takeExpiry := if (doneCase i o p).1.stations[i].orders = [] then none
      else some (after (doneCase i o p).1.link.time (doneCase i o p).1.req.settings.takeTimeout) }
  refine ⟨(done.andThen (.of_keeps last (by simp)) (by simp [hown, htime, hlevels])).mono (by simp +contextual [or_imp]), ?_,
    fun j hj => ?_, ?_, fun j hj => ?_, ?_⟩
  · rw [withStation_same, record, time, settings]
  · rw [withStation_other _ _ _ j hj, stations, poppedOthers j hj]
  · exact build
  · exact (others j hj).trans (by rw [builds])
  · exact entries.trans (by rw [tracks])

/-- The cases are where the places name them once the order is out of its queue, its own nowhere. -/
theorem doneCut_placed (placed : Placed s) (hos : s.stations[i].orders = o :: rest) :
    Placed (startTake i (doneCase i o (popped i (s.setSup y))).1)
      ∧ NoPlace (startTake i (doneCase i o (popped i (s.setSup y))).1) o.tracking := by
  have leaves := leaves_popOrder (placed_setSup placed y) (i := i) hos
    (v := (popOrder i (s.setSup y)).onStation i fun st => { st with placeExpiry := none })
    (Chores.onStation (s := popOrder i (s.setSup y)) (i := i) rfl rfl rfl).still
  rw [popped_eq] at leaves
  have alone := leaves.noPlace List.mem_cons_self
  have done := Keeps.doneCase leaves.keeps.placed i alone
  have rest := done.trans fun h => (Chores.startTake i _).keeps h
  exact ⟨rest.placed, rest.names _ alone⟩

end Done

end Sys2Proof.Machine
end

section
/-!
PROOFS. The expected ORDER REPLY (R131, R132, R146) and O40.
-/

namespace Sys2Proof.Machine

/-! ### DONE of a working station (R132) -/

/-- The parts that DONE changes in the case unit, the builds and the plans. -/
def doneParts : List Part := [.plans, .reports, .tracks, .builds]

/-- The timers behind DONE: the place timer stopped, the take timer of the next order started. -/
def Timed (i : StationNo) (s t : State) : Prop :=
  t.stations[i].placeExpiry = none
    ∧ t.stations[i].takeExpiry =
        if t.stations[i].orders = [] then none else some (after s.link.time s.req.settings.takeTimeout)

theorem done_closing {s v : State} {i : StationNo} {o : Order} {rest : List Order} {b : Build}
    {reports : List ReportBody} {ps : List Part} (closing : s.stations[i].state = .closing)
    (cut : DoneCut i o rest b reports ps s v) (hps : ∀ p ∈ ps, p ∈ doneParts)
    (placed : Placed v ∧ NoPlace v o.tracking) :
    ∃ frames told,
      Emits frames told (.sup :: .stations :: ps ++ [.portB, .exec, .stations, .tracks, .reports]) s
          (closingTest i (issueDiscards i v))
        ∧ KeepsAllBut [.portB, .exec, .stations, .tracks, .reports] v (closingTest i (issueDiscards i v))
        ∧ OtherStations i v (closingTest i (issueDiscards i v))
        ∧ ∀ t, KeepsAllBut [.portA, .portB, .reports] (closingTest i (issueDiscards i v)) t → JoinedB frames s t →
          ReportedAll told s t → ClosingGoesOn ReportedAll i rest s.stations[i].spur b [] reports s t ∧ Timed i s t := by
  obtain ⟨there, alone⟩ := placed
  obtain ⟨once, held⟩ := there.spur i
  have own := cut.own
  have outside : ∀ p, p ∉ doneParts → p ∉ ps := fun p hp h => hp (hps p h)
  obtain ⟨closes, keeps, others, -⟩ := closes_of_discards (i := i) (w := issueDiscards i v) (behind := []) cut.emits
    (by simp [outside .ownNode (by simp [doneParts]), outside .time (by simp [doneParts]),
      outside .levels (by simp [doneParts]), outside .settings (by simp [doneParts])])
    (by rw [own]; exact closing) (by rw [own]) once (fun e he => by
      obtain ⟨w, hw, -⟩ := held e he
      rw [hw]
      rfl) ((emits_refl _).mono (by simp)) (fun _ _ => rfl)
  rw [List.append_nil] at closes
  refine ⟨_, _, closes.emits, keeps, others, fun t service joined told => ?_⟩
  have goesOn := closes.closesWith (t := t) (queues := ReportedAll) (by rw [own]) (by rw [own])
    (service.2.2 .stations (by simp)) (service.2.2 .tracks (by simp)) joined told
  obtain ⟨w, left⟩ := closes.own
  have stations : t.stations = (closingTest i (issueDiscards i v)).stations := service.2.2 .stations (by simp)
  rw [own, cut.build] at goesOn
  refine ⟨goesOn, ?_, ?_⟩
  · rw [stations, left, own]
  · rw [stations, left, own]
    cases rest with
    | nil => cases chuted _ _ <;> simp [chuteOrders]
    | cons x rest => simp

theorem notice_none (s : State) : notice none s = s := rfl

section DoneReply

variable {f : RxFrame} {s : State} {i : StationNo} {o : Order} {rest : List Order} {b : Build}
variable {reports : List ReportBody} {ps : List Part}

/-- The state in which DONE settles the case: the supervision timer fed, the order out of the queue. -/
def fedPopped (f : RxFrame) (i : StationNo) (s : State) : State := popped i (s.setSup (fedTimer f.src s))

/-- What DONE shows of the case and of the other stations and builds. -/
structure DoneShown (f : RxFrame) (i : StationNo) (o : Order) (b : Build) (s t : State) : Prop where
  sup      : t.req.sup = fedTimer f.src s
  stations : OtherStations i s t
  builds   : OtherBuilds i s t
  build    : t.builds[i] = b
  track    : t.track o.tracking = none
  plans    : Part.Same (doneCase i o (fedPopped f i s)).1 t .plans

variable (h : FromPartner 0x52 f s) (hi : stationAt f.payload = some i) (ok : StationsOk s)
variable (hos : s.stations[i].orders = o :: rest) (hseq : o.seq = f.payload.getD 1 0)
variable (hq : f.payload.getD 1 0 ∉ s.stations[i].withdrawn) (taken : o.state = .taken)
variable (hout : replyOutcome (u8At f.payload 2) (u8At f.payload 3) = some .done)

include hos hseq taken in
theorem done_acts : replyWorking i (f.payload.getD 1 0) .done (s.setSup (fedTimer f.src s)) =
    notice (doneCase i o (fedPopped f i s)).2
      (closingTest i (issueDiscards i (startTake i (doneCase i o (fedPopped f i s)).1))) :=
  (replyWorking_done (by exact hos) hseq taken).trans (orderDone_eq ..)

theorem DoneCut.shown {v t : State} {qs : List Part} (cut : DoneCut i o rest b reports ps s v)
    (hv : v = startTake i (doneCase i o (fedPopped f i s)).1) (sup : t.req.sup = fedTimer f.src s)
    (keeps : KeepsAllBut qs v t) (hqs : Part.plans ∉ qs ∧ Part.builds ∉ qs) (others : OtherStations i v t)
    (track : t.track o.tracking = none) : DoneShown f i o b s t := by
  have builds : t.builds = v.builds := keeps.2.2 .builds hqs.2
  have plans : Part.Same (doneCase i o (fedPopped f i s)).1 v .plans := by
    rw [hv]
    exact Part.Same.refl _ .plans
  exact ⟨sup, cut.others.trans others, fun j hj => by rw [builds, cut.builds j hj], by rw [builds, cut.build], track,
    plans.trans (keeps.2.2 .plans hqs.1)⟩

include h hi hos hseq hq taken hout ok in
theorem doneReply_building (building : s.stations[i].state = .building) (hps : ∀ p ∈ ps, p ∈ doneParts)
    (done : CaseDone i o b reports ps (fedPopped f i s) (doneCase i o (fedPopped f i s)).1)
    (quiet : (doneCase i o (fedPopped f i s)).2 = none) :
    ∃ t, exec (.orderReply f) s = .next t ∧ DoneShown f i o b s t
      ∧ KeepsAllBut (.portA :: .reports :: .sup :: .stations :: ps) s t
      ∧ t.stations[i] =
          { s.stations[i] with
            orders := rest, placeExpiry := none
            takeExpiry := if rest = [] then none else some (after s.link.time s.req.settings.takeTimeout) }
      ∧ t.tracker.tracks = s.tracker.tracks.filter (fun e => e.tracking != o.tracking)
      ∧ ReportedAll reports s t := by
  have outside : ∀ p, p ∉ doneParts → p ∉ ps := fun p hp h => hp (hps p h)
  have cut := doneCut_of ok hos done (by
    refine ⟨?_, ?_, ?_, ?_, ?_⟩ <;> exact outside _ (by simp [doneParts]))
  have hact := done_acts (f := f) hos hseq taken
  rw [quiet, notice_none] at hact
  have hv : startTake i (doneCase i o (popped i (s.setSup (fedTimer f.src s)))).1
      = startTake i (doneCase i o (fedPopped f i s)).1 := rfl
  rw [← hv] at hact
  generalize startTake i (doneCase i o (popped i (s.setSup (fedTimer f.src s)))).1 = v at *
  obtain ⟨discards, test⟩ := closingTest_building (i := i) (by rw [cut.own]; exact building) (Part.Same.refl v .stations)
  rw [discards, test] at hact
  obtain ⟨run, sup, shows⟩ := reply_shows h hi hq hout (.inl building) hact cut.emits
    (by simp [outside .portA (by simp [doneParts]), outside .ownNode (by simp [doneParts]),
      outside .settings (by simp [doneParts])])
  have service := shows.service
  have stations : (settle v).stations = v.stations := service.2.2 .stations (by simp)
  have tracks := service.2.2 .tracks (by simp)
  refine ⟨_, run, cut.shown hv sup service (by simp) (.of_keeps service (by simp)) ?_,
    shows.quietB (by simp [outside .portB (by simp [doneParts])]), by rw [stations, cut.own], ?_, shows.reported⟩
  · rw [track_congr tracks, cut.track, if_pos rfl]
  · exact Eq.trans tracks cut.tracks

include h hi hos hseq hq taken hout ok in
theorem doneReply_closing (closing : s.stations[i].state = .closing) (cases : CasesOk s) (hps : ∀ p ∈ ps, p ∈ doneParts)
    (done : CaseDone i o b reports ps (fedPopped f i s) (doneCase i o (fedPopped f i s)).1)
    (quiet : (doneCase i o (fedPopped f i s)).2 = none) :
    ∃ t, exec (.orderReply f) s = .next t ∧ DoneShown f i o b s t
      ∧ KeepsAllBut (ps ++ [.portA, .portB, .exec, .sup, .tracks, .stations, .reports]) s t
      ∧ ClosingGoesOn ReportedAll i rest s.stations[i].spur b [] reports s t ∧ Timed i s t := by
  have outside : ∀ p, p ∉ doneParts → p ∉ ps := fun p hp h => hp (hps p h)
  have cut := doneCut_of ok hos done (by
    refine ⟨?_, ?_, ?_, ?_, ?_⟩ <;> exact outside _ (by simp [doneParts]))
  have placed := doneCut_placed (y := fedTimer f.src s) ((casesOk_iff s).mp cases).1 hos
  have hact := done_acts (f := f) hos hseq taken
  rw [quiet, notice_none] at hact
  have hv : startTake i (doneCase i o (popped i (s.setSup (fedTimer f.src s)))).1
      = startTake i (doneCase i o (fedPopped f i s)).1 := rfl
  rw [← hv] at hact
  generalize startTake i (doneCase i o (popped i (s.setSup (fedTimer f.src s)))).1 = v at *
  obtain ⟨frames, told, emits, keeps, others, goesOn⟩ := done_closing closing cut hps placed
  obtain ⟨run, sup, shows⟩ := reply_shows h hi hq hout (.inr closing) hact emits
    (by simp [outside .portA (by simp [doneParts]), outside .ownNode (by simp [doneParts]),
      outside .settings (by simp [doneParts])])
  have service := shows.service
  have behind : KeepsAllBut [.portA, .portB, .exec, .stations, .tracks, .reports] v
      (settle (closingTest i (issueDiscards i v))) := (keeps.mono (by simp)).trans (service.mono (by simp))
  obtain ⟨goes, timed⟩ := goesOn _ service shows.joined shows.reported
  have gone : (closingTest i (issueDiscards i v)).track o.tracking = none :=
    (closingTest_elsewhere i _).untracked _ ((issueDiscards_elsewhere i v).untracked _ (by rw [cut.track, if_pos rfl]))
  refine ⟨_, run, cut.shown hv sup behind (by simp) (others.trans (.of_keeps service (by simp))) ?_,
    shows.keeps.mono (by simp +contextual [or_imp]), goes, timed⟩
  rwa [track_congr (service.2.2 .tracks (by simp))]

include h hi hos hseq hq taken hout ok in
/-- Whatever the reply makes of the station: the case, the plans, and the other stations. -/
theorem doneReply_runs (works : s.stations[i].state = .building ∨ s.stations[i].state = .closing)
    (hps : ∀ p ∈ ps, p ∈ doneParts)
    (done : CaseDone i o b reports ps (fedPopped f i s) (doneCase i o (fedPopped f i s)).1) :
    ∃ t, exec (.orderReply f) s = .next t ∧ Part.Same (doneCase i o (fedPopped f i s)).1 t .plans
      ∧ t.builds[i] = b ∧ t.track o.tracking = none
      ∧ ∀ j : StationNo, j ≠ i → (doneCase i o (fedPopped f i s)).2 = some j → t.stations[j] = noticed s j := by
  have outside : ∀ p, p ∉ doneParts → p ∉ ps := fun p hp h => hp (hps p h)
  have cut := doneCut_of ok hos done (by
    refine ⟨?_, ?_, ?_, ?_, ?_⟩ <;> exact outside _ (by simp [doneParts]))
  have hact := done_acts (f := f) hos hseq taken
  have run := orderReply_exec h
  rw [takeReply_some hi hout, orderReply_works (by exact hq) (by exact works), hact] at run
  have plans : Part.Same (doneCase i o (fedPopped f i s)).1 (startTake i (doneCase i o (fedPopped f i s)).1) .plans :=
    Part.Same.refl _ .plans
  have hv : startTake i (doneCase i o (popped i (s.setSup (fedTimer f.src s)))).1
      = startTake i (doneCase i o (fedPopped f i s)).1 := rfl
  rw [hv] at cut
  generalize startTake i (doneCase i o (fedPopped f i s)).1 = v at *
  have discards := issueDiscards_elsewhere i v
  have test := closingTest_elsewhere i (issueDiscards i v)
  generalize closingTest i (issueDiscards i v) = w at *
  generalize (doneCase i o (fedPopped f i s)).2 = n at *
  have told := (notice_emits n w).keeps
  have keeps : KeepsAllBut [.portA, .portB, .exec, .stations, .tracks, .reports] v (settle (notice n w)) :=
    (discards.keeps.mono (by simp)).trans ((test.keeps.mono (by simp)).trans ((told.mono (by simp [closingParts])).trans
      ((settle_keeps_parts _).mono (by simp))))
  have builds : (settle (notice n w)).builds = v.builds := keeps.2.2 .builds (by simp)
  have tracks : Part.Same w (settle (notice n w)) .tracks :=
    (told.2.2 .tracks (by simp [closingParts])).trans ((settle_keeps_parts _).2.2 .tracks (by simp))
  refine ⟨_, run, plans.trans (keeps.2.2 .plans (by simp)), by rw [builds, cut.build], ?_, fun j hj hn => ?_⟩
  · rw [track_congr tracks]
    exact test.untracked _ (discards.untracked _ (by rw [cut.track, if_pos rfl]))
  · subst hn
    have stations : (settle (notice (some j) w)).stations = (notice (some j) w).stations :=
      (settle_keeps_parts _).2.2 .stations (by simp)
    have record : w.stations[j] = s.stations[j] := by
      rw [test.others j hj, discards.others j hj, cut.others j hj]
    rw [stations, notice_own, noticed, noticed, record]

include h hi hos hseq hq taken hout ok in
/-- The last case of the plan at the station at which it is BUILDING. -/
theorem doneReply_completes (building : s.stations[i].state = .building) (hps : ∀ p ∈ ps, p ∈ doneParts)
    (done : CaseDone i o b reports ps (fedPopped f i s) (doneCase i o (fedPopped f i s)).1)
    (told : (doneCase i o (fedPopped f i s)).2 = some i) :
    ∃ t, exec (.orderReply f) s = .next t ∧ DoneShown f i o b s t
      ∧ KeepsAllBut (ps ++ [.portA, .portB, .exec, .sup, .stations, .reports]) s t
      ∧ t.stations[i] =
          { s.stations[i] with
            orders := rest, placeExpiry := none
            takeExpiry := if rest = [] then none else some (after s.link.time s.req.settings.takeTimeout)
            close := some .complete
            state := if rest = [] ∧ s.stations[i].spur = [] then .awaitExchange else .closing }
      ∧ t.tracker.tracks = s.tracker.tracks.filter (fun e => e.tracking != o.tracking)
      ∧ JoinedB (if rest = [] ∧ s.stations[i].spur = [] then [callFrame s i b] else []) s t
      ∧ ReportedAll (reports ++ if rest = [] ∧ s.stations[i].spur = [] then [closedReport i b (some .complete)] else [])
          s t := by
  have outside : ∀ p, p ∉ doneParts → p ∉ ps := fun p hp h => hp (hps p h)
  have cut := doneCut_of ok hos done (by
    refine ⟨?_, ?_, ?_, ?_, ?_⟩ <;> exact outside _ (by simp [doneParts]))
  have hact := done_acts (f := f) hos hseq taken
  rw [told] at hact
  have hv : startTake i (doneCase i o (popped i (s.setSup (fedTimer f.src s)))).1
      = startTake i (doneCase i o (fedPopped f i s)).1 := rfl
  rw [← hv] at hact
  generalize startTake i (doneCase i o (popped i (s.setSup (fedTimer f.src s)))).1 = v at *
  obtain ⟨discards, test⟩ := closingTest_building (i := i) (by rw [cut.own]; exact building) (Part.Same.refl v .stations)
  rw [discards, test] at hact
  obtain ⟨notices, left⟩ := completionNotice_emits i v
  have noticedRecord : noticed v i = { v.stations[i] with
      close := some .complete
      state := if v.stations[i].orders = [] ∧ v.stations[i].spur = [] then .awaitExchange else .closing } := by
    have state : v.stations[i].state = .building := by rw [cut.own]; exact building
    unfold noticed
    rw [state]
  have calls : Calls v i ↔ rest = [] ∧ s.stations[i].spur = [] := by
    rw [Calls, Station.Emptied, cut.own]
    simp only [building, true_and]
  have call : callFrame v i v.builds[i] = callFrame s i b := by
    rw [cut.build]
    exact callFrame_congr (cut.emits.keeps.2.2 .settings (by simp [outside .settings (by simp [doneParts])]))
  have hown := outside .ownNode (by simp [doneParts])
  have emits := cut.emits.trans notices (by
    simp [hown, outside .time (by simp [doneParts]), outside .levels (by simp [doneParts])])
  simp only [calls] at emits
  rw [call, cut.build, List.nil_append] at emits
  obtain ⟨run, sup, shows⟩ := reply_shows h hi hq hout (.inl building) hact emits
    (by simp [closingParts, hown, outside .portA (by simp [doneParts]), outside .settings (by simp [doneParts])])
  have service := shows.service
  have behind : KeepsAllBut [.portA, .portB, .exec, .stations, .reports] v (settle (notice (some i) v)) :=
    (notices.keeps.mono (by simp [closingParts])).trans (service.mono (by simp))
  have settled : (settle (notice (some i) v)).stations = (notice (some i) v).stations :=
    service.2.2 .stations (by simp)
  have stations : (settle (notice (some i) v)).stations = (v.withStation i (noticed v i)).stations := settled.trans left
  have tracks := behind.2.2 .tracks (by simp)
  refine ⟨_, run, cut.shown hv sup behind (by simp) (fun j hj => ?_) ?_,
    shows.keeps.mono (by simp +contextual [or_imp, closingParts]), ?_, Eq.trans tracks cut.tracks, shows.joined,
    shows.reported⟩
  · rw [stations, withStation_other _ _ _ j hj]
  · rw [track_congr tracks, cut.track, if_pos rfl]
  · rw [stations, withStation_same, noticedRecord, cut.own]

end DoneReply

end Sys2Proof.Machine
end

section
/-!
PROOFS. The expected ORDER REPLY (R131, R132, R146): TAKEN, the last REJECT order of a closing station, the UNKNOWN order
of a station in FAULT, and O40.
-/

namespace Sys2Proof.Machine

section Replies

variable {f : RxFrame} {s : State} {i : StationNo} {o : Order} {rest : List Order} {b : Build}
variable {reports : List ReportBody} {ps : List Part}
variable (h : FromPartner 0x52 f s) (hi : stationAt f.payload = some i) (ok : StationsOk s)
variable (hos : s.stations[i].orders = o :: rest) (hseq : o.seq = f.payload.getD 1 0)
variable (hq : f.payload.getD 1 0 ∉ s.stations[i].withdrawn)

include h hi hos hseq hq in
theorem takenReply (works : s.stations[i].state = .building ∨ s.stations[i].state = .closing)
    (issued : o.state = .issued) (hout : replyOutcome (u8At f.payload 2) (u8At f.payload 3) = some .taken) :
    ∃ t, exec (.orderReply f) s = .next t ∧ t.req.sup = fedTimer f.src s ∧ KeepsAllBut [.sup, .stations] s t
      ∧ OtherStations i s t
      ∧ t.stations[i] =
          { s.stations[i] with
            orders := { o with state := .taken } :: rest
            takeExpiry := none
            placeExpiry := some (after s.link.time s.req.settings.placeTimeout) } := by
  have hact : takeReply f.payload (s.setSup (fedTimer f.src s)) = (s.setSup (fedTimer f.src s)).withStation i
      { s.stations[i] with
        orders := { o with state := .taken } :: rest
        takeExpiry := none
        placeExpiry := some (after s.link.time s.req.settings.placeTimeout) } := by
    have head : s.stations[i].orders.modifyHead (fun o => { o with state := OrderState.taken })
        = { o with state := .taken } :: rest := by rw [hos]; rfl
    rw [takeReply_some hi hout, orderReply_works (by exact hq) (by exact works),
      replyWorking_taken (by exact hos) hseq issued, ← head]
    rfl
  obtain ⟨run, sup, keeps⟩ := orderReply_noted h hact (withStation_keeps ..) (by simp) ⟨rfl, rfl⟩
  exact ⟨_, run, sup, keeps, fun j hj => withStation_other _ _ _ j hj, withStation_same ..⟩

include h hi ok hos hseq hq in
/-- The last order of a station in CLOSING with an empty spur list. -/
theorem doneReply_empties (closing : s.stations[i].state = .closing) (taken : o.state = .taken)
    (hout : replyOutcome (u8At f.payload 2) (u8At f.payload 3) = some .done) (last : rest = [])
    (spur : s.stations[i].spur = []) (hps : ∀ p ∈ ps, p ∈ doneParts)
    (done : CaseDone i o b reports ps (fedPopped f i s) (doneCase i o (fedPopped f i s)).1)
    (quiet : (doneCase i o (fedPopped f i s)).2 = none) :
    ∃ t, exec (.orderReply f) s = .next t
      ∧ t.stations[i] =
          { s.stations[i] with orders := [], placeExpiry := none, takeExpiry := none, state := .awaitExchange }
      ∧ OnB (ownFrameB s s.req.settings.transportNode
          (.exchangeCall i b.planId b.part b.cases.length b.totalWeight b.topHeight)) t := by
  have outside : ∀ p, p ∉ doneParts → p ∉ ps := fun p hp h => hp (hps p h)
  have cut := doneCut_of ok hos done (by
    refine ⟨?_, ?_, ?_, ?_, ?_⟩ <;> exact outside _ (by simp [doneParts]))
  have hact := done_acts (f := f) hos hseq taken
  rw [quiet, notice_none] at hact
  have hv : startTake i (doneCase i o (popped i (s.setSup (fedTimer f.src s)))).1
      = startTake i (doneCase i o (fedPopped f i s)).1 := rfl
  rw [← hv] at hact
  generalize startTake i (doneCase i o (popped i (s.setSup (fedTimer f.src s)))).1 = v at *
  have state : v.stations[i].state = .closing := by rw [cut.own]; exact closing
  have emptied : v.stations[i].Emptied := by
    rw [cut.own]
    exact ⟨last, spur⟩
  have idle : issueDiscard i v = v := issueDiscard_none fun _ _ => by rw [emptied.2]; rfl
  have discards : issueDiscards i v = v := by rw [issueDiscards, idle, idle, idle, idle]
  rw [discards, closingTest_emptied state emptied] at hact
  have call : callFrame v i v.builds[i] = callFrame s i b := by
    rw [cut.build]
    exact callFrame_congr (cut.emits.keeps.2.2 .settings (by simp [outside .settings (by simp [doneParts])]))
  have hown := outside .ownNode (by simp [doneParts])
  have emits := cut.emits.trans (awaitExchange_emits i v) (by
    simp [hown, outside .time (by simp [doneParts]), outside .levels (by simp [doneParts])])
  rw [call, List.nil_append] at emits
  obtain ⟨run, -, shows⟩ := reply_shows h hi hq hout (.inr closing) hact emits
    (by simp [closingParts, hown, outside .portA (by simp [doneParts]), outside .settings (by simp [doneParts])])
  have settled : (settle (awaitExchange i v)).stations = (awaitExchange i v).stations :=
    shows.service.2.2 .stations (by simp)
  refine ⟨_, run, ?_, shows.joined.onB (x := callFrame s i b) (by simp)⟩
  rw [settled, awaitExchange_stations, withStation_same, cut.own, last, if_pos rfl]

/-! ### The UNKNOWN order of a station in FAULT (R146) -/

/-- A completion notice of a station in FAULT records its close reason and does no more (R141). -/
theorem notice_inFault {m : State} {n : Option StationNo} (fault : m.stations[i].state = .fault)
    (told : n = none ∨ n = some i) : Emits [] [] [.stations] m (notice n m)
      ∧ (notice n m).stations = (m.withStation i
          { m.stations[i] with close := if n = some i then some .complete else m.stations[i].close }).stations := by
  rcases told with rfl | rfl
  · refine ⟨(emits_refl m).mono (by simp), ?_⟩
    rw [if_neg (by simp)]
    exact (congrArg State.stations (withStation_own m i)).symm
  · have path : notice (some i) m = m.withStation i { m.stations[i] with close := some .complete } := by
      show completionNotice i m = _
      rw [completionNotice, fault] <;> rfl
    rw [path, if_pos rfl]
    exact ⟨emits_withStation .., rfl⟩

/-- The state in which DONE settles the case of an UNKNOWN order: the supervision timer fed, the order out of the queue. -/
def fedEnded (f : RxFrame) (i : StationNo) (o : Order) (s : State) : State := endOrder i o (s.setSup (fedTimer f.src s))

include h hi hos hseq hq in
theorem doneReply_fault (fault : s.stations[i].state = .fault) (unknown : o.state = .unknown)
    (hout : replyOutcome (u8At f.payload 2) (u8At f.payload 3) = some .done) (hps : ∀ p ∈ ps, p ∈ doneParts)
    (done : CaseDone i o b reports ps (fedEnded f i o s) (doneCase i o (fedEnded f i o s)).1)
    (told : (doneCase i o (fedEnded f i o s)).2 = none ∨ (doneCase i o (fedEnded f i o s)).2 = some i) :
    ∃ t, exec (.orderReply f) s = .next t ∧ t.req.sup = fedTimer f.src s
      ∧ KeepsAllBut (.portA :: .reports :: .sup :: .stations :: ps) s t ∧ OtherStations i s t ∧ OtherBuilds i s t
      ∧ t.stations[i] =
          { s.stations[i] with
            orders := rest.filter (fun x => x.seq != o.seq)
            close := if (doneCase i o (fedEnded f i o s)).2 = some i then some .complete else s.stations[i].close }
      ∧ t.builds[i] = b ∧ t.tracker.tracks = s.tracker.tracks.filter (fun e => e.tracking != o.tracking)
      ∧ Part.Same (doneCase i o (fedEnded f i o s)).1 t .plans ∧ ReportedAll reports s t := by
  have outside : ∀ p, p ∉ doneParts → p ∉ ps := fun p hp h => hp (hps p h)
  have first : s.stations[i].orders.find? (fun o => o.state == .unknown && o.seq == f.payload.getD 1 0) = some o := by
    rw [hos, List.find?_cons_of_pos (by simp only [unknown, hseq, beq_self_eq_true, Bool.and_self])]
  have hact := reply_takes hi hq fault hout
  rw [replyFault_some (by exact first)] at hact
  have ended : fedEnded f i o s = (s.setSup (fedTimer f.src s)).withStation i
      { s.stations[i] with orders := rest.filter (fun x => x.seq != o.seq) } := by
    have orders : s.stations[i].orders.filter (fun x => x.seq != o.seq) = rest.filter fun x => x.seq != o.seq := by
      rw [hos, List.filter_cons_of_neg (by simp)]
    rw [← orders]
    rfl
  have path : takeReply f.payload (s.setSup (fedTimer f.src s)) =
      notice (doneCase i o (fedEnded f i o s)).2 (doneCase i o (fedEnded f i o s)).1 := hact
  have before : KeepsAllBut [.sup, .stations] s (fedEnded f i o s) := by
    rw [ended]
    exact ((setSup_keeps ..).mono (by simp)).trans ((withStation_keeps ..).mono (by simp))
  have record : (fedEnded f i o s).stations[i]
      = { s.stations[i] with orders := rest.filter (fun x => x.seq != o.seq) } := by rw [ended, withStation_same]
  have beforeOthers : OtherStations i s (fedEnded f i o s) := by
    intro j hj
    rw [ended, withStation_other _ _ _ j hj]
    rfl
  have works := (Works.endOrder i o (s.setSup (fedTimer f.src s))).trans
    ((Works.doneCase i o _).trans (Works.notice (doneCase i o (fedEnded f i o s)).2 _))
  have stations : (doneCase i o (fedEnded f i o s)).1.stations = (fedEnded f i o s).stations :=
    done.emits.keeps.2.2 .stations (outside .stations (by simp [doneParts]))
  have builds : (fedEnded f i o s).builds = s.builds := before.2.2 .builds (by simp)
  have tracks : (fedEnded f i o s).tracker.tracks = s.tracker.tracks := before.2.2 .tracks (by simp)
  have emits := (Emits.of_keeps before (by simp)).after done.emits (by simp)
  have build := done.build
  have otherBuilds := done.others
  have entries := done.tracks
  have fixed : (doneCase i o (fedEnded f i o s)).1.stations[i]
      = { s.stations[i] with orders := rest.filter (fun x => x.seq != o.seq) } := by rw [stations, record]
  obtain ⟨noticing, left⟩ := notice_inFault (m := (doneCase i o (fedEnded f i o s)).1) (by rw [fixed]; exact fault) told
  generalize (doneCase i o (fedEnded f i o s)).2 = n at *
  have hown := outside .ownNode (by simp [doneParts])
  have all := emits.andThen noticing (by
    simp [hown, outside .time (by simp [doneParts]), outside .levels (by simp [doneParts])])
  have shows := all.displays h.served' (by
    simp [hown, outside .portA (by simp [doneParts]), outside .settings (by simp [doneParts])]) works.replying
  have run := orderReply_exec h
  rw [path] at run
  have service := shows.service
  have behind : KeepsAllBut [.stations, .portA, .portB, .reports] (doneCase i o (fedEnded f i o s)).1
      (settle (notice n (doneCase i o (fedEnded f i o s)).1)) :=
    (noticing.keeps.mono (by simp)).trans (service.mono (by simp))
  have settled : (settle (notice n (doneCase i o (fedEnded f i o s)).1)).stations
      = (notice n (doneCase i o (fedEnded f i o s)).1).stations := service.2.2 .stations (by simp)
  have buildsT : (settle (notice n (doneCase i o (fedEnded f i o s)).1)).builds
      = (doneCase i o (fedEnded f i o s)).1.builds := behind.2.2 .builds (by simp)
  refine ⟨_, run, (settle_services _).sup.trans works.sup,
    (shows.quietB (by simp [outside .portB (by simp [doneParts])])).mono (by simp +contextual [or_imp]), fun j hj => ?_,
    fun j hj => ?_, ?_, by rw [buildsT, build], ?_, behind.2.2 .plans (by simp), shows.reported⟩
  · rw [settled, left, withStation_other _ _ _ j hj, stations, beforeOthers j hj]
  · rw [buildsT, otherBuilds j hj, builds]
  · rw [settled, left, withStation_same, fixed]
  · exact Eq.trans (behind.2.2 .tracks (by simp)) (entries.trans (by rw [tracks]))

end Replies

/-! ### O40 -/

theorem countReports_append (p : Plan) (ls : List PlanLine) (placed : ReportBody) :
    countReports p ls ++ [placed]
      = if ∀ m ∈ ls, m.placed = m.required then [.planDone p.id p.part, placed] else [placed] := by
  unfold countReports
  split_ifs <;> rfl

theorem countedPlan_unplanned {s : State} {b : Build} (h : b.planId.bind s.plan = none) (j : Nat) :
    countedPlan s b j = none := by rw [countedPlan, h]; rfl

/-- The plan counted, in a state whose plans are those behind its D + 1. -/
theorem Counts.plan {p : Plan} {ls : List PlanLine} {s t : State} {r : State × Option StationNo} (h : Counts p ls s r)
    (same : Part.Same r.1 t .plans) :
    t.plan p.id = if ∀ m ∈ ls, m.placed = m.required then none else some { p with lines := ls } := by
  have plans : t.plans.plans = r.1.plans.plans := same
  rw [State.plan, plans, ← State.plan, h.own]

/-- A build with a case confirmed is called and reported as before. -/
theorem callFrame_confirmed (s w : State) (i : StationNo) (k : Nat) (c : CaseRec) (r : Option CloseReason) :
    callFrame s i (confirmedBuild w i k c) = callFrame s i w.builds[i]
      ∧ closedReport i (confirmedBuild w i k c) r = closedReport i w.builds[i] r := by
  have length : (confirmedBuild w i k c).cases.length = w.builds[i].cases.length := List.length_set
  rw [callFrame, closedReport, length]
  exact ⟨rfl, rfl⟩

theorem ClosingGoesOn.unconfirmed {queues : List ReportBody → State → State → Prop} {i : StationNo} {kept : List Order}
    {spur : List SpurEntry} {w : State} {k : Nat} {c : CaseRec} {frames : List (Nat × OwnBody)}
    {reports : List ReportBody} {s t : State}
    (h : ClosingGoesOn queues i kept spur (confirmedBuild w i k c) frames reports s t) :
    ClosingGoesOn queues i kept spur w.builds[i] frames reports s t := by
  unfold ClosingGoesOn ClosesWith at h ⊢
  dsimp only at h ⊢
  rwa [(callFrame_confirmed s w i k c none).1, (callFrame_confirmed s w i k c _).2] at h

/-- Settles O40: TAKEN is `takenReply`; DONE is `doneReply_building`, `doneReply_closing`, `doneReply_completes` and
`doneReply_fault` behind what `doneCase_reject` and `doneCase_counted` say of the case. -/
theorem expectedOrderReplyCompletes : Obligations.ExpectedOrderReplyCompletes := by
  intro f s i o rest h hi ok hos hseq hq st b out next timed untracked code
  rw [hseq] at hq
  refine ⟨fun works => ?_, fun r unknown fault hout ho => ?_, fun k c hout ho hc named provisional => ?_⟩
  · replace works := (works_iff _).mp works
    refine ⟨fun issued hout => takenReply h hi hos hseq hq works issued hout, fun r taken hout ho building => ?_,
      fun r taken hout ho closing last spur => ?_, fun r taken hout ho closing cases => ?_⟩
    all_goals obtain ⟨quiet, done⟩ := doneCase_reject (i := i) ho (fedPopped f i s)
    · obtain ⟨t, run, shown, keeps, own, tracks, told⟩ :=
        doneReply_building h hi ok hos hseq hq taken hout building (by simp [doneParts]) done quiet
      exact ⟨t, run, shown.sup, keeps.mono (by simp), shown.stations, own, tracks, told.reported h.served'⟩
    · exact doneReply_empties h hi ok hos hseq hq closing taken hout last spur (by simp [doneParts]) done quiet
    · obtain ⟨t, run, shown, keeps, goesOn, timed⟩ :=
        doneReply_closing h hi ok hos hseq hq taken hout closing cases (by simp [doneParts]) done quiet
      exact ⟨t, run, shown.sup, keeps.mono (by simp), shown.stations, goesOn, timed, shown.track⟩
  · obtain ⟨quiet, done⟩ := doneCase_reject (i := i) ho (fedEnded f i o s)
    obtain ⟨t, run, sup, keeps, others, -, own, -, tracks, -, told⟩ :=
      doneReply_fault h hi hos hseq hq fault unknown hout (by simp [doneParts]) done (.inl quiet)
    rw [quiet, if_neg (by simp)] at own
    exact ⟨t, run, sup, keeps.mono (by simp), others, own, tracks, told.reported h.served'⟩
  · intro placed confirmed
    refine ⟨fun taken works unplanned => ?_, fun id p l hid hp hl less => ?_⟩
    · obtain ⟨quiet, plans, done⟩ := doneCase_uncounted (s := fedPopped f i s) ho hc named provisional
        (countedPlan_unplanned unplanned c.line)
      obtain ⟨t, run, same, build, track, -⟩ :=
        doneReply_runs h hi ok hos hseq hq taken hout ((works_iff _).mp works) (by simp [doneParts]) done
      exact ⟨t, run, Eq.trans same plans, build, track⟩
    · obtain rfl := plan_id hp
      intro lines completes counted told
      have counts := doneCase_counted (s := fedPopped f i s) ho hc named provisional (countedPlan_of hid hp hl less)
      have countsFault := doneCase_counted (s := fedEnded f i o s) ho hc named provisional
        (countedPlan_of hid hp hl less)
      rw [countReports_append] at counts countsFault
      obtain ⟨counts, done⟩ := counts
      obtain ⟨countsFault, doneFault⟩ := countsFault
      refine ⟨fun taken building incomplete => ?_, fun taken building complete planned bound => ?_,
        fun taken closing unbound cases => ?_, fun j taken works complete planned bound other => ?_,
        fun unknown fault here => ?_⟩
      · have quiet : (doneCase i o (fedPopped f i s)).2 = none :=
          counts.notice.trans (if_neg fun both => incomplete both.1)
        obtain ⟨t, run, shown, keeps, own, tracks, reports⟩ :=
          doneReply_building h hi ok hos hseq hq taken hout building (by simp [doneParts]) done quiet
        rw [if_neg (by exact incomplete)] at reports
        exact ⟨t, run, shown.sup, keeps.mono (by simp), shown.stations, shown.builds, own, shown.build,
          counts.plan shown.plans, tracks, reports.reported h.served'⟩
      · have here : (doneCase i o (fedPopped f i s)).2 = some i :=
          (counts.notice.trans (if_pos ⟨complete, planned⟩)).trans bound
        obtain ⟨t, run, shown, keeps, own, tracks, joined, reports⟩ :=
          doneReply_completes h hi ok hos hseq hq taken hout building (by simp [doneParts]) done here
        obtain ⟨call, closed⟩ := callFrame_confirmed s (fedPopped f i s) i k c (some .complete)
        rw [call] at joined
        rw [closed] at reports
        exact ⟨t, run, shown.sup, keeps.mono (by simp), shown.stations, shown.builds, own, shown.build,
          counts.plan shown.plans, tracks, joined, reports⟩
      · have quiet : (doneCase i o (fedPopped f i s)).2 = none :=
          counts.notice.trans (if_neg fun both => unbound both.1 both.2)
        obtain ⟨t, run, shown, keeps, goesOn, timed⟩ :=
          doneReply_closing h hi ok hos hseq hq taken hout closing cases (by simp [doneParts]) done quiet
        exact ⟨t, run, shown.sup, keeps.mono (by simp), shown.stations, shown.builds, shown.build,
          counts.plan shown.plans, shown.track, goesOn.unconfirmed, timed⟩
      · have there : (doneCase i o (fedPopped f i s)).2 = some j :=
          (counts.notice.trans (if_pos ⟨complete, planned⟩)).trans bound
        obtain ⟨t, run, same, -, -, stations⟩ :=
          doneReply_runs h hi ok hos hseq hq taken hout ((works_iff _).mp works) (by simp [doneParts]) done
        exact ⟨t, run, counts.plan same, stations j other there⟩
      · have told : (doneCase i o (fedEnded f i o s)).2 = none ∨ (doneCase i o (fedEnded f i o s)).2 = some i := by
          rw [countsFault.notice]
          split_ifs with both
          · exact .inr (here both.1 both.2)
          · exact .inl rfl
        have close : (doneCase i o (fedEnded f i o s)).2 = some i ↔ completes ∧ p.state = .building := by
          rw [countsFault.notice]
          split_ifs with both
          · exact iff_of_true (here both.1 both.2) both
          · exact iff_of_false (by simp) both
        obtain ⟨t, run, sup, keeps, others, builds, own, build, tracks, plans, reports⟩ :=
          doneReply_fault h hi hos hseq hq fault unknown hout (by simp [doneParts]) doneFault told
        simp only [close] at own
        exact ⟨t, run, sup, keeps.mono (by simp), others, builds, own, build, countsFault.plan plans, tracks, reports⟩

end Sys2Proof.Machine
end

section
/-!
PROOFS. A BUILDING plan and its station in agreement (`BindingsOk`): the changes that keep it (R69, R71, R79 to R81, R139).
-/

namespace Sys2Proof.Machine

/-! ### What `BindingsOk` reads of a state -/

/-- The placement of a replan's job is at the replan's own station (R42). -/
def Job.AtOwnStation (j : Job) : Prop := ∀ r p, j.work = .replan r → j.decision = .place p → p.station = r.station

/-- Stations, builds and job are, for `BindingsOk`, as they were: an order queue that was empty may hold an order of a
station in BUILDING or CLOSING. -/
structure SameGround (s t : State) : Prop where
  bindings : ∀ i : StationNo, t.builds[i].binding = s.builds[i].binding
  station  : ∀ i : StationNo, t.stations[i].state = s.stations[i].state ∧ t.stations[i].cause = s.stations[i].cause
               ∧ t.stations[i].close = s.stations[i].close
  orders   : ∀ i : StationNo, t.stations[i].orders ≠ [] → s.stations[i].orders ≠ [] ∨ s.stations[i].works = true
  job      : ∀ j, t.engine.job = some j →
               j.AtOwnStation ∨ ∃ x, s.engine.job = some x ∧ x.work = j.work ∧ x.decision = j.decision

/-- The plans and the admission are the same, too. -/
structure Bare (s t : State) : Prop extends SameGround s t where
  plans     : t.plans.plans = s.plans.plans
  admission : t.plans.admission = s.plans.admission

/-- No plan is BUILDING at station `i`. -/
def NoPlanAt (i : StationNo) (s : State) : Prop := ∀ p ∈ s.plans.plans, p.state = .building → p.bound ≠ some i

namespace SameGround

variable {s t u : State}

theorem of_same (hb : t.builds = s.builds) (hs : t.stations = s.stations) (hj : t.engine.job = s.engine.job) :
    SameGround s t :=
  ⟨fun i => by rw [hb], fun i => by rw [hs]; exact ⟨rfl, rfl, rfl⟩, fun i h => .inl (hs ▸ h),
    fun j h => .inr ⟨j, hj ▸ h, rfl, rfl⟩⟩

theorem refl (s : State) : SameGround s s := of_same rfl rfl rfl

theorem trans (h : SameGround s t) (k : SameGround t u) : SameGround s u where
  bindings i := (k.bindings i).trans (h.bindings i)
  station i := by
    obtain ⟨state, cause, close⟩ := h.station i
    obtain ⟨state', cause', close'⟩ := k.station i
    exact ⟨state'.trans state, cause'.trans cause, close'.trans close⟩
  orders i hi := by
    rcases k.orders i hi with busy | works
    · exact h.orders i busy
    · rw [Station.works, (h.station i).1] at works
      exact .inr works
  job j hj := by
    rcases k.job j hj with own | ⟨x, hx, work, decision⟩
    · exact .inl own
    · rcases h.job x hx with own | ⟨y, hy, work', decision'⟩
      · exact .inl fun r p hr hp => own r p (work.trans hr) (decision.trans hp)
      · exact .inr ⟨y, hy, work'.trans work, decision'.trans decision⟩

end SameGround

namespace Bare

variable {s t u : State}

theorem of_same (hp : t.plans.plans = s.plans.plans) (ha : t.plans.admission = s.plans.admission)
    (hb : t.builds = s.builds) (hs : t.stations = s.stations) (hj : t.engine.job = s.engine.job) : Bare s t :=
  ⟨.of_same hb hs hj, hp, ha⟩

theorem refl (s : State) : Bare s s := of_same rfl rfl rfl rfl rfl

theorem trans (h : Bare s t) (k : Bare t u) : Bare s u :=
  ⟨h.toSameGround.trans k.toSameGround, k.plans.trans h.plans, k.admission.trans h.admission⟩

theorem of_keeps {ps : List Part} (h : KeepsAllBut ps s t)
    (hps : Part.plans ∉ ps ∧ Part.admission ∉ ps ∧ Part.builds ∉ ps ∧ Part.stations ∉ ps ∧ Part.job ∉ ps) : Bare s t :=
  of_same (h.2.2 .plans hps.1) (h.2.2 .admission hps.2.1) (h.2.2 .builds hps.2.2.1) (h.2.2 .stations hps.2.2.2.1)
    (h.2.2 .job hps.2.2.2.2)

theorem foldl {α : Type} {op : State → α → State} (h : ∀ s a, Bare s (op s a)) (l : List α) (s : State) :
    Bare s (l.foldl op s) := by
  induction l generalizing s with
  | nil => exact refl s
  | cons a l ih => exact (h s a).trans (ih _)

/-- A change of one station record that keeps its state, cause and close reason. -/
theorem onStation {i : StationNo} {g : Station → Station}
    (hg : (g s.stations[i]).state = s.stations[i].state ∧ (g s.stations[i]).cause = s.stations[i].cause
      ∧ (g s.stations[i]).close = s.stations[i].close)
    (orders : (g s.stations[i]).orders ≠ [] → s.stations[i].orders ≠ [] ∨ s.stations[i].works = true) :
    Bare s (s.onStation i g) := by
  refine ⟨⟨fun _ => rfl, fun j => ?_, fun j hj => ?_, fun j h => .inr ⟨j, h, rfl, rfl⟩⟩, rfl, rfl⟩
  all_goals rcases eq_or_ne i j with rfl | ne
  · rw [onStation_get]
    exact hg
  · rw [onStation_get_ne s g ne]
    exact ⟨rfl, rfl, rfl⟩
  · rw [onStation_get] at hj
    exact orders hj
  · rw [onStation_get_ne s g ne] at hj
    exact .inl hj

/-- A change of one build that keeps its binding. -/
theorem onBuild {i : StationNo} {g : Build → Build} (hg : (g s.builds[i]).binding = s.builds[i].binding) :
    Bare s (s.onBuild i g) := by
  refine ⟨⟨fun j => ?_, fun _ => ⟨rfl, rfl, rfl⟩, fun j hj => .inl hj, fun j h => .inr ⟨j, h, rfl, rfl⟩⟩, rfl, rfl⟩
  have path : s.onBuild i g = s.withBuild i (g s.builds[i]) := rfl
  rcases eq_or_ne j i with rfl | ne
  · rw [path, withBuild_same, hg]
  · rw [path, withBuild_other _ _ _ j ne]

theorem setJob {j : Option Job} (h : ∀ x, j = some x → x.AtOwnStation) (s : State) : Bare s (s.setJob j) :=
  ⟨⟨fun _ => rfl, fun _ => ⟨rfl, rfl, rfl⟩, fun _ h => .inl h, fun x hx => .inl (h x hx)⟩, rfl, rfl⟩

theorem noPlanAt {i : StationNo} (h : Bare s t) (none : NoPlanAt i s) : NoPlanAt i t := by
  rw [NoPlanAt, h.plans]
  exact none

end Bare

/-! ### Changes of the plans -/

/-- A plan record as `BindingsOk` of a state with the ground of `s` allows it. -/
def PlanFits (s : State) (p : Plan) : Prop :=
  (p.state = .building → ∃ q ∈ s.plans.plans, q.state = .building ∧ q.id = p.id ∧ q.part = p.part ∧ q.bound = p.bound)
    ∧ (p.state ≠ .building → p.bound = none)
    ∧ (p.state = .draining → ∀ l ∈ p.lines, l.required ≤ l.planned)

section Bindings

variable {s t : State} {i : StationNo}

theorem BindingsOk.rising (h : BindingsOk s) : RisingKeys Plan.key s.plans.plans := h.1

theorem BindingsOk.fits (h : BindingsOk s) {p : Plan} (hp : p ∈ s.plans.plans) : PlanFits s p :=
  ⟨fun building => ⟨p, hp, building, rfl, rfl, rfl⟩, h.2.2.1 p hp, h.2.2.2.1 p hp⟩

theorem BindingsOk.change (h : BindingsOk s) (ground : SameGround s t) (rising : RisingKeys Plan.key t.plans.plans)
    (fits : ∀ p ∈ t.plans.plans, PlanFits s p) : BindingsOk t := by
  obtain ⟨-, building, -, -, close, orders, job⟩ := h
  refine ⟨rising, fun p hp state => ?_, fun p hp => (fits p hp).2.1, fun p hp => (fits p hp).2.2, fun j hj => ?_,
    fun j hj => ?_, fun j r p hj hr hp => ?_⟩
  · obtain ⟨q, hq, state', id, part, bound⟩ := (fits p hp).1 state
    obtain ⟨j, hbound, hid, hpart, works⟩ := building q hq state'
    obtain ⟨same, cause, close⟩ := ground.station j
    refine ⟨j, bound ▸ hbound, ?_, ?_, by rwa [same, cause, close]⟩
    · rw [Build.planId, ground.bindings, ← Build.planId, hid, id]
    · rw [Build.part, ground.bindings, ← Build.part, hpart, part]
  · obtain ⟨same, -, same'⟩ := ground.station j
    rw [same] at hj
    rw [same']
    exact close j hj
  · obtain ⟨same, cause, -⟩ := ground.station j
    rw [same, cause]
    rcases ground.orders j hj with busy | works
    · exact orders j busy
    · exact ((works_iff _).mp works).imp_right .inl
  · rcases ground.job j hj with own | ⟨x, hx, work, decision⟩
    · exact own r p hr hp
    · exact job x r p hx (work.trans hr) (decision.trans hp)

theorem BindingsOk.bare (h : BindingsOk s) (b : Bare s t) : BindingsOk t :=
  h.change b.toSameGround (b.plans ▸ h.rising) fun _ hp => h.fits (b.plans ▸ hp)

/-- One plan changed. -/
theorem BindingsOk.onPlan (h : BindingsOk s) (id : PlanId) {g : Plan → Plan} (hg : ∀ p, (g p).id = p.id)
    (fits : ∀ p ∈ s.plans.plans, p.id = id → PlanFits s (g p)) : BindingsOk (s.onPlan id g) := by
  refine h.change (.of_same rfl rfl rfl) (h.rising.changeFirst fun p _ => ?_) fun p hp => ?_
  · rw [Plan.key, hg, ← Plan.key]
  · rcases mem_changeFirst hp with hp | ⟨q, hq, rfl⟩
    · exact h.fits hp
    · exact fits q (List.mem_of_find?_eq_some hq) (by simpa using List.find?_some hq)

theorem BindingsOk.dropPlan (h : BindingsOk s) (id : PlanId) : BindingsOk (s.dropPlan id) :=
  h.change (.of_same rfl rfl rfl) (h.rising.filter _) fun _ hp => h.fits (List.mem_of_mem_filter hp)

/-- Two plans BUILDING at one station are one: its build names both. -/
theorem BindingsOk.one (h : BindingsOk s) {p q : Plan} (hp : p ∈ s.plans.plans) (hq : q ∈ s.plans.plans)
    (building : p.state = .building) (building' : q.state = .building) (same : p.bound = q.bound) : p = q := by
  obtain ⟨i, bound, named, -⟩ := h.2.1 p hp building
  obtain ⟨j, bound', named', -⟩ := h.2.1 q hq building'
  obtain rfl : i = j := Option.some.inj (bound.symm.trans (same.trans bound'))
  have id : p.id = q.id := Option.some.inj (named.symm.trans named')
  have held := plan_of_mem h.rising hp
  rw [id] at held
  exact Option.some.inj (held.symm.trans (plan_of_mem h.rising hq))

theorem BindingsOk.planAt (h : BindingsOk s) {p : Plan} (hp : p ∈ s.plans.plans) (building : p.state = .building)
    (bound : p.bound = some i) : s.planAt i = some p := by
  cases hq : s.planAt i with
  | none =>
    have none := List.find?_eq_none.mp hq p hp
    simp [building, bound] at none
  | some q =>
    obtain ⟨held, state, at_i⟩ := planAt_some hq
    rw [h.one hp held building state (bound.trans at_i.symm)]

/-! ### Changes of one station -/

/-- A record of station `i` as `BindingsOk` allows it beside the plans of `s`. -/
structure StationFits (i : StationNo) (s : State) (st : Station) : Prop where
  plan   : NoPlanAt i s ∨ st.state = .building ∨ st.state = .fault ∧ st.cause ≠ .exchangeTimeout ∧ st.close = none
  close  : st.state = .offline ∨ st.state = .idle ∨ st.state = .building → st.close = none
  orders : st.orders ≠ [] → st.state = .building ∨ st.state = .closing ∨ st.state = .fault ∧ st.cause ≠ .exchangeTimeout

theorem BindingsOk.station (h : BindingsOk s) (i : StationNo) : StationFits i s s.stations[i] := by
  obtain ⟨-, building, -, -, close, orders, -⟩ := h
  refine ⟨?_, close i, orders i⟩
  by_cases none : NoPlanAt i s
  · exact .inl none
  · unfold NoPlanAt at none
    push Not at none
    obtain ⟨p, hp, state, bound⟩ := none
    obtain ⟨j, hbound, -, -, works⟩ := building p hp state
    obtain rfl : j = i := Option.some.inj (hbound.symm.trans bound)
    exact .inr works

theorem BindingsOk.withStation {ps : List Part} {st : Station} (h : BindingsOk s) (keeps : KeepsAllBut ps s t)
    (hps : Part.plans ∉ ps ∧ Part.job ∉ ps) (bindings : ∀ j : StationNo, t.builds[j].binding = s.builds[j].binding
      ∨ j = i ∧ NoPlanAt i s)
    (stations : t.stations = (s.withStation i st).stations) (fits : StationFits i s st) : BindingsOk t := by
  have each := h.station
  obtain ⟨rising, building, bound, draining, close, orders, job⟩ := h
  have plans : t.plans.plans = s.plans.plans := keeps.2.2 .plans hps.1
  have jobs : t.engine.job = s.engine.job := keeps.2.2 .job hps.2
  have record : ∀ j : StationNo, StationFits j s t.stations[j] := by
    intro j
    rw [stations]
    rcases eq_or_ne j i with rfl | ne
    · rw [withStation_same]
      exact fits
    · rw [withStation_other _ _ _ j ne]
      exact each j
  rw [BindingsOk, plans, jobs]
  refine ⟨rising, fun p hp state => ?_, bound, draining, fun j => (record j).close, fun j => (record j).orders, job⟩
  obtain ⟨j, hbound, hid, hpart, -⟩ := building p hp state
  have busy : ¬ NoPlanAt j s := fun none => none p hp state hbound
  have same : t.builds[j].binding = s.builds[j].binding := by
    rcases bindings j with same | ⟨rfl, none⟩
    · exact same
    · exact absurd none busy
  exact ⟨j, hbound, by rw [Build.planId, same, ← Build.planId, hid], by rw [Build.part, same, ← Build.part, hpart],
    (record j).plan.resolve_left busy⟩

/-- The same with every build as it was. -/
theorem BindingsOk.at_station {ps : List Part} {st : Station} (h : BindingsOk s) (keeps : KeepsAllBut ps s t)
    (hps : Part.plans ∉ ps ∧ Part.builds ∉ ps ∧ Part.job ∉ ps) (stations : t.stations = (s.withStation i st).stations)
    (fits : StationFits i s st) : BindingsOk t := by
  have builds : t.builds = s.builds := keeps.2.2 .builds hps.2.1
  exact h.withStation keeps ⟨hps.1, hps.2.2⟩ (fun j => .inl (by rw [builds])) stations fits

end Bindings

end Sys2Proof.Machine
end

section
/-!
PROOFS. `BindingsOk` along the operations that keep plans, bindings and station states: reports and frames, the tracking
table, replans, lanes, and orders of a working station.
-/

namespace Sys2Proof.Machine

theorem truncate_binding (b : Build) (k : Nat) : (b.truncate k).binding = b.binding := by
  unfold Build.truncate
  split_ifs
  · exact (replay_binding _ _).trans rfl
  · rfl

namespace Bare

theorem report (b : ReportBody) (s : State) : Bare s (report b s) := of_keeps (report_keeps b s) (by simp)

theorem issueB (dst : Nat) (b : OwnBody) (s : State) : Bare s (issueB dst b s) :=
  of_keeps (issueB_keeps dst b s) (by simp)

theorem sendDecision (t : Tracking) (d : DecTarget) (s : State) : Bare s (sendDecision t d s) := issueB ..

theorem exchangeCall (i : StationNo) (s : State) : Bare s (exchangeCall i s) := issueB ..

/-! ### The tracking table -/

theorem setTrack (s : State) (t : Tracking) (st : TrackState) : Bare s (s.setTrack t st) := of_same rfl rfl rfl rfl rfl

theorem setTracks {α : Type} (g : α → Tracking) (h : State → α → TrackState) (l : List α) (s : State) :
    Bare s (l.foldl (fun s a => s.setTrack (g a) (h s a)) s) := foldl (fun s a => setTrack s (g a) (h s a)) l s

theorem dropTrack (s : State) (t : Tracking) : Bare s (s.dropTrack t) := of_same rfl rfl rfl rfl rfl

theorem bump (s : State) (t : Tracking) : Bare s (s.bump t) := of_same rfl rfl rfl rfl rfl

theorem caseChuted (o : Order) (r : RejectReason) (s : State) : Bare s (caseChuted o r s) :=
  (dropTrack s o.tracking).trans (report ..)

theorem caseLost (i : StationNo) (o : Order) (s : State) : Bare s (caseLost i o s) :=
  (dropTrack s o.tracking).trans (report ..)

theorem caseMissed (t : Tracking) (s : State) : Bare s (caseMissed t s) := of_same rfl rfl rfl rfl rfl

theorem lateCase (a : Arrival) (s : State) : Bare s (lateCase a s) := (bump s a.tracking).trans (report ..)

theorem rejectArrival (a : Arrival) (r : RejectReason) (s : State) : Bare s (rejectArrival a r s) :=
  ((sendDecision ..).trans (dropTrack ..)).trans (report ..)

theorem passArrival (a : Arrival) (s : State) : Bare s (passArrival a s) := (sendDecision ..).trans (bump ..)

/-! ### Lane flags and replans -/

theorem setFlag (s : State) (k : LaneNo) (v : Bool) : Bare s (s.setFlag k v) := of_same rfl rfl rfl rfl rfl

theorem raiseFlags (s : State) : Bare s (raiseFlags s) := of_keeps (raiseFlags_keeps s) (by simp)

theorem askReplan (i : StationNo) (t : Tracking) (s : State) : Bare s (askReplan i t s) :=
  of_keeps (askReplan_keeps i t s) (by simp)

theorem keepReplans (keep : Replan → Bool) (s : State) : Bare s (keepReplans keep s) :=
  of_keeps (keepReplans_queue keep s).1 (by simp)

theorem takeOutReplan (r : Replan) (s : State) : Bare s (takeOutReplan r s) := of_same rfl rfl rfl rfl rfl

theorem cancelReplans (i : StationNo) (s : State) : Bare s (cancelReplans i s) := by
  have kept := keepReplans (fun r => r.station != i) s
  refine kept.trans ⟨⟨fun _ => rfl, fun _ => ⟨rfl, rfl, rfl⟩, fun _ h => .inl h, fun j hj => ?_⟩, rfl, rfl⟩
  obtain ⟨x, hx, rfl⟩ := Option.map_eq_some_iff.mp hj
  refine .inr ⟨x, hx, ?_⟩
  split_ifs <;> exact ⟨rfl, rfl⟩

/-! ### Lanes -/

theorem onLane (s : State) (k : LaneNo) (g : Lane → Lane) : Bare s (s.onLane k g) := of_same rfl rfl rfl rfl rfl

theorem laneFault (k : LaneNo) (c : LaneCause) (s : State) : Bare s (laneFault k c s) := by
  unfold Machine.laneFault
  split_ifs
  · exact ((onLane ..).trans (setFlag ..)).trans (report ..)
  · exact refl s

theorem flagIfListed (k : LaneNo) (s : State) : Bare s (flagIfListed k s) := by
  unfold Machine.flagIfListed
  split_ifs
  · exact setFlag ..
  · exact refl s

theorem laneEntered (k : LaneNo) (t : Tracking) (s : State) : Bare s (laneEntered k t s) := by
  have listed : Bare s (if s.oldestUnconfirmed k = some t then
      if (s.setTrack t (.held k)).lanes[k].list.head? = some t then Machine.flagIfListed k (s.setTrack t (.held k))
      else s.setTrack t (.held k)
      else Machine.laneFault k .entryMismatch s) := by
    split_ifs
    · exact (setTrack ..).trans (flagIfListed ..)
    · exact setTrack ..
    · exact laneFault ..
  unfold Machine.laneEntered
  split
  · exact refl s
  all_goals exact listed

theorem laneReturn (k : LaneNo) (t : Tracking) (st : TrackState) (s : State) : Bare s (laneReturn k t st s) := by
  unfold Machine.laneReturn
  dsimp only
  refine (onLane s k fun l => { l with list := l.list.filter fun u => u != t }).trans ?_
  split
  · split_ifs
    · exact flagIfListed ..
    · exact refl _
  · exact (onLane ..).trans (laneFault ..)
  · exact laneFault ..

theorem releaseHead (k : LaneNo) (t : Tracking) (s : State) : Bare s (releaseHead k t s) :=
  ((issueB ..).trans (onLane ..)).trans (setTrack ..)

theorem headLeaves (k : LaneNo) (t : Tracking) (s : State) : Bare s (headLeaves k t s) :=
  ((((onLane ..).trans (bump ..)).trans (setTrack ..)).trans (report ..)).trans (flagIfListed ..)

theorem laneReleased (k : LaneNo) (t : Tracking) (s : State) : Bare s (laneReleased k t s) := by
  have leaves : Bare s (if s.lanes[k].inFlight = some t ∧ s.lanes[k].list.head? = some t then Machine.headLeaves k t s
      else Machine.laneFault k .releaseMismatch s) := by
    split_ifs
    · exact headLeaves ..
    · exact laneFault ..
  unfold Machine.laneReleased
  split
  · exact refl s
  all_goals exact leaves

theorem laneFlushed (k : LaneNo) (s : State) : Bare s (laneFlushed k s) := by
  unfold Machine.laneFlushed
  split_ifs
  · exact onLane ..
  · exact refl s

theorem flush (k : LaneNo) (s : State) : Bare s (flush k s) :=
  (((issueB ..).trans (setTracks id (fun s _ => .returning s.returnDeadline) s.lanes[k].list _)).trans (onLane ..)).trans
    (setFlag ..)

theorem commitLane (k : LaneNo) (t : Tracking) (s : State) : Bare s (commitLane k t s) :=
  (((onLane ..).trans (setTrack ..)).trans (sendDecision ..)).trans (report ..)

theorem noRelease (k : LaneNo) (s : State) : Bare s (noRelease k s) := by
  unfold Machine.noRelease
  split_ifs
  · exact setFlag ..
  · exact refl s

theorem releaseTimer (k : LaneNo) (s : State) : Bare s (releaseTimer k s) := by
  unfold Machine.releaseTimer
  split_ifs
  · exact (onLane ..).trans (laneFault ..)
  · exact refl s

theorem deadlinePasses (t : Tracking) (s : State) : Bare s (deadlinePasses t s) := by
  unfold Machine.deadlinePasses
  split
  · exact refl s
  · split_ifs
    · exact (dropTrack ..).trans (report ..)
    · exact refl s

/-! ### Orders and spur lists -/

/-- A change of a station record that issues no order. -/
theorem onOrders {s : State} {i : StationNo} {g : Station → Station}
    (hg : (g s.stations[i]).state = s.stations[i].state ∧ (g s.stations[i]).cause = s.stations[i].cause
      ∧ (g s.stations[i]).close = s.stations[i].close)
    (fewer : s.stations[i].orders = [] → (g s.stations[i]).orders = []) : Bare s (s.onStation i g) :=
  onStation hg fun busy => .inl fun none => busy (fewer none)

theorem leaveSpur (i : StationNo) (t : Tracking) (s : State) : Bare s (leaveSpur i t s) :=
  onOrders ⟨rfl, rfl, rfl⟩ fun h => h

theorem startTake (i : StationNo) (s : State) : Bare s (startTake i s) := onOrders ⟨rfl, rfl, rfl⟩ fun h => h

theorem popOrder (i : StationNo) (s : State) : Bare s (popOrder i s) :=
  onOrders ⟨rfl, rfl, rfl⟩ fun h => by rw [h]; rfl

theorem orderTaken (i : StationNo) (s : State) : Bare s (orderTaken i s) := by
  unfold Machine.orderTaken
  exact onOrders ⟨rfl, rfl, rfl⟩ fun h => by dsimp only; rw [h]; rfl

theorem endOrder (i : StationNo) (o : Order) (s : State) : Bare s (endOrder i o s) :=
  onOrders ⟨rfl, rfl, rfl⟩ fun h => by rw [h]; rfl

theorem headSpur (i : StationNo) (o : Order) (s : State) : Bare s (headSpur i o s) :=
  (onOrders ⟨rfl, rfl, rfl⟩ fun h => h).trans (setTrack ..)

theorem toSpur (i : StationNo) (os : List Order) (s : State) : Bare s (toSpur i os s) :=
  (onOrders ⟨rfl, rfl, rfl⟩ fun h => h).trans (setTracks Order.tracking (fun _ _ => .spurHeld i) os _)

theorem withdraw (i : StationNo) (qs : List OrderSeq) (s : State) : Bare s (withdraw i qs s) := by
  unfold Machine.withdraw
  split_ifs
  · exact refl s
  · exact (foldl (fun s (r : OrderSeq × Nat) => issueB _ (.withdraw i r.1 r.2) s) _ s).trans
      (onOrders ⟨rfl, rfl, rfl⟩ fun h => h)

theorem truncateBuild (i : StationNo) (k : Nat) (s : State) : Bare s (truncateBuild i k s) := by
  unfold Machine.truncateBuild
  split_ifs
  · exact (onBuild (truncate_binding _ k)).trans (raiseFlags _)
  · exact refl s

theorem addCase (i : StationNo) (c : CaseRec) (s : State) : Bare s (addCase i c s) :=
  (onBuild rfl).trans (raiseFlags _)

theorem issueOrder {i : StationNo} {s : State} (works : s.stations[i].works = true) (t : Tracking) (d : OrderTarget)
    (fr : OrderFrameTarget) : Bare s (issueOrder i t d fr s) :=
  ((onStation ⟨rfl, rfl, rfl⟩ fun _ => .inr works).trans (issueB ..)).trans (setTrack ..)

theorem rejectOrder {i : StationNo} {s : State} (works : s.stations[i].works = true) (t : Tracking) (r : RejectReason) :
    Bare s (rejectOrder i t r s) := by
  have left := leaveSpur i t s
  refine left.trans (issueOrder ?_ ..)
  rw [Station.works, (left.station i).1]
  exact works

theorem rejectReplan {r : Replan} {s : State} (works : s.stations[r.station].works = true) :
    Bare s (rejectReplan r s) := by
  unfold Machine.rejectReplan
  split_ifs
  · exact rejectOrder works ..
  · exact refl s

theorem issueDiscard (i : StationNo) (s : State) : Bare s (issueDiscard i s) := by
  unfold Machine.issueDiscard
  split_ifs with h
  · split
    · exact rejectOrder ((works_iff _).mpr (.inr h.1)) ..
    · exact refl s
  · exact refl s

theorem issueDiscards (i : StationNo) (s : State) : Bare s (issueDiscards i s) :=
  (((issueDiscard i s).trans (issueDiscard ..)).trans (issueDiscard ..)).trans (issueDiscard ..)

theorem askReplans {α : Type} (i : StationNo) (g : α → Tracking) (l : List α) (s : State) :
    Bare s (l.foldl (fun s a => Machine.askReplan i (g a) s) s) := foldl (fun s a => askReplan i (g a) s) l s

/-! ### Time and RESTART -/

theorem moveTime (s : State) (t : LineTime) : Bare s (s.moveTime t) :=
  ⟨⟨fun _ => rfl, fun i => by simp [State.moveTime, State.reachAt, Station.reach],
    fun i h => .inl (by simpa [State.moveTime, State.reachAt, Station.reach] using h),
    fun j h => .inr ⟨j, h, rfl, rfl⟩⟩, rfl, rfl⟩

theorem restartLanes (s : State) : Bare s (restartLanes s) := of_same rfl rfl rfl rfl rfl

theorem restartTracking (s : State) : Bare s (restartTracking s) :=
  ⟨⟨fun _ => rfl, fun _ => ⟨rfl, rfl, rfl⟩, fun _ h => .inl h, fun _ h => nomatch h⟩, rfl, rfl⟩

end Bare

end Sys2Proof.Machine
end

section
/-!
PROOFS. `BindingsOk` along the operations of the plan store: bindings, line accounting, the part close, admission (R69 to
R81).
-/

namespace Sys2Proof.Machine

/-- Whether a plan is BUILDING at station `i`. -/
theorem noPlanAt_iff {i : StationNo} {s : State} : NoPlanAt i s ↔ s.planAt i = none := by
  simp [NoPlanAt, State.planAt]

section Store

variable {s t : State} {i : StationNo}

/-- Only at a working station or in FAULT is a plan BUILDING. -/
theorem BindingsOk.noPlanAt (h : BindingsOk s) (building : s.stations[i].state ≠ .building)
    (fault : s.stations[i].state = .fault → s.stations[i].cause = .exchangeTimeout) : NoPlanAt i s := by
  rcases (h.station i).plan with none | state | ⟨state, cause, -⟩
  · exact none
  · exact absurd state building
  · exact absurd (fault state) cause

/-- A station record changed. -/
theorem BindingsOk.onStation (h : BindingsOk s) {g : Station → Station} (fits : StationFits i s (g s.stations[i])) :
    BindingsOk (s.onStation i g) := h.at_station (withStation_keeps ..) (by simp) rfl fits

/-- A station changed on its way into another state. -/
theorem BindingsOk.enter (h : BindingsOk s) {g : Station → Station} {n : StationState}
    (fits : StationFits i s { g s.stations[i] with state := n }) : BindingsOk ((s.onStation i g).enterState i n) := by
  refine h.at_station (((withStation_keeps ..).mono (by simp)).trans (enterState_keeps (s.onStation i g) i n)) (by simp)
    ?_ fits
  rw [enterState_stations, onStation_eq, withStation_same, withStation_again]

/-! ### Binding (R71, R72) -/

theorem BindingsOk.bindPlan (h : BindingsOk s) (idle : s.stations[i].state = .idle) {p : Plan}
    (hp : p ∈ s.plans.plans) (e : BaseEntry) : BindingsOk (bindPlan i p e s) := by
  have vacant : NoPlanAt i s := h.noPlanAt (by rw [idle]; decide) fun e => by rw [idle] at e; cases e
  have own := h.station i
  have each := h.station
  have held := plan_of_mem h.rising hp
  obtain ⟨rising, building, bound, draining, -, -, job⟩ := h
  let b := s.builds[i].bind p.id p.part s.stations[i].baseKind e
  let u := ((s.withBuild i b).onPlan p.id fun q => q.boundAt i).enterState i .building
  have keeps : KeepsAllBut [.stations, .exec] ((s.withBuild i b).onPlan p.id fun q => q.boundAt i) u := enterState_keeps ..
  have stations : u.stations = (s.withStation i { s.stations[i] with state := .building }).stations :=
    enterState_stations ..
  have builds : u.builds = (s.withBuild i b).builds := keeps.2.2 .builds (by simp)
  have plans : u.plans.plans = changeFirst (fun q => q.id == p.id) (fun q => q.boundAt i) s.plans.plans :=
    keeps.2.2 .plans (by simp)
  have jobs : u.engine.job = s.engine.job := keeps.2.2 .job (by simp)
  have change : ∀ q ∈ u.plans.plans, q ∈ s.plans.plans ∨ q = p.boundAt i := by
    intro q hq
    rw [plans] at hq
    rcases mem_changeFirst hq with old | ⟨x, hx, rfl⟩
    · exact .inl old
    · exact .inr (by rw [Option.some.inj (hx.symm.trans held)])
  have record : ∀ j : StationNo, j ≠ i → u.stations[j] = s.stations[j] ∧ u.builds[j] = s.builds[j] := fun j ne => by
    rw [stations, builds]
    exact ⟨withStation_other _ _ _ j ne, withBuild_other _ _ _ j ne⟩
  have here : u.stations[i] = { s.stations[i] with state := .building } := by rw [stations, withStation_same]
  have fits : ∀ j : StationNo, StationFits j s u.stations[j] := by
    intro j
    rcases eq_or_ne j i with rfl | ne
    · rw [here]
      exact ⟨.inl vacant, fun _ => own.close (.inr (.inl idle)), fun _ => .inl rfl⟩
    · rw [(record j ne).1]
      exact each j
  refine BindingsOk.bare (s := u) ⟨?_, fun q hq state => ?_, fun q hq state => ?_, fun q hq state => ?_,
    fun j => (fits j).close, fun j => (fits j).orders, ?_⟩ (.raiseFlags u)
  · rw [plans]
    exact rising.changeFirst fun _ _ => rfl
  · rcases change q hq with old | rfl
    · obtain ⟨j, hbound, hid, hpart, works⟩ := building q old state
      have ne : j ≠ i := fun same => vacant q old state (same ▸ hbound)
      obtain ⟨station, build⟩ := record j ne
      exact ⟨j, hbound, by rw [build, hid], by rw [build, hpart], by rwa [station]⟩
    · refine ⟨i, rfl, ?_, ?_, .inl (by rw [here])⟩
      all_goals rw [builds, withBuild_same]; rfl
  · rcases change q hq with old | rfl
    · exact bound q old state
    · exact absurd rfl state
  · rcases change q hq with old | rfl
    · exact draining q old state
    · exact absurd state (by simp [Plan.boundAt])
  · rw [jobs]
    exact job

theorem BindingsOk.offerPlan (h : BindingsOk s) (i : StationNo) : BindingsOk (offerPlan s i) := by
  rcases offerPlan_cases s i with same | ⟨p, e, idle, -, -, hp, eq⟩
  · rwa [same]
  · rw [eq]
    exact h.bindPlan idle (planFor_first hp).1.1 e

theorem BindingsOk.bindingAttempt (h : BindingsOk s) : BindingsOk (bindingAttempt s) := by
  have fold : ∀ (l : List StationNo) (u : State), BindingsOk u → BindingsOk (l.foldl Machine.offerPlan u) := by
    intro l
    induction l with
    | nil => exact fun _ hu => hu
    | cons i l ih => exact fun u hu => ih _ (hu.offerPlan i)
  exact fold _ s h

/-- A binding attempt binds nothing at a station that is not IDLE. -/
theorem NoPlanAt.binds (vacant : NoPlanAt i s) (b : Binds s t) (rising : RisingKeys Plan.key s.plans.plans)
    (busy : s.stations[i].state ≠ .idle) : NoPlanAt i t := by
  intro q hq state at_i
  have listed : q.id ∈ s.plans.plans.map Plan.id := b.ids ▸ List.mem_map_of_mem hq
  obtain ⟨p, hp, id⟩ := List.mem_map.mp listed
  obtain ⟨r, hr, origin⟩ := b.plan p.id p (plan_of_mem rising hp)
  have same : r = q := by
    rw [id, plan_of_mem (rising_of_ids b.ids rising) hq] at hr
    exact (Option.some.inj hr).symm
  subst same
  rcases origin with rfl | ⟨j, idle, rfl⟩
  · exact vacant r hp state at_i
  · obtain rfl : j = i := Option.some.inj at_i
    exact busy idle

/-! ### Line accounting (R73 to R76, R80) -/

/-- One line of a plan changed, its P not lowered. -/
theorem BindingsOk.onLine (h : BindingsOk s) (id : PlanId) (j : Nat) {g : PlanLine → PlanLine}
    (hg : ∀ l, (g l).required = l.required ∧ l.planned ≤ (g l).planned) :
    BindingsOk (s.onPlan id fun p => p.onLine j g) := by
  refine h.onPlan id (fun _ => rfl) fun p hp _ => ?_
  obtain ⟨building, bound, draining⟩ := h.fits hp
  refine ⟨building, bound, fun state l hl => ?_⟩
  obtain ⟨n, hn, rfl⟩ := List.getElem_of_mem hl
  have hn' : n < p.lines.length := by simpa [Plan.onLine] using hn
  have full := draining state _ (List.getElem_mem hn')
  have line : (p.onLine j g).lines[n] = if j = n then g p.lines[n] else p.lines[n] := List.getElem_modify ..
  rw [line]
  split_ifs
  · rw [(hg _).1]
    exact full.trans (hg _).2
  · exact full

theorem BindingsOk.planMore (h : BindingsOk s) (id : PlanId) (j : Nat) : BindingsOk (planMore id j s) := by
  unfold Machine.planMore
  split_ifs
  · exact h.onLine id j fun l => ⟨rfl, Nat.le_succ _⟩
  · exact h

/-- P − 1 leaves no plan DRAINING: the plan is open again (R80). -/
theorem BindingsOk.lessPlan (h : BindingsOk s) (id : PlanId) (p : Plan) (j : Nat) (g : PlanLine → PlanLine) :
    BindingsOk (lessPlan id p j g s) := by
  have changed : BindingsOk (s.onPlan id fun q => (q.onLine j g).reopened) := by
    refine h.onPlan id (fun q => (reopened_fixed _).1) fun q hq _ => ?_
    obtain ⟨building, bound, -⟩ := h.fits hq
    by_cases state : (q.onLine j g).state = .draining
    · have unbound : q.bound = none := bound fun e => nomatch e.symm.trans state
      rw [Plan.reopened, if_pos state]
      exact ⟨(nomatch ·), fun _ => unbound, (nomatch ·)⟩
    · rw [Plan.reopened, if_neg state]
      exact ⟨building, bound, fun e => absurd e state⟩
  unfold Machine.lessPlan
  dsimp only
  split_ifs
  · exact changed.bindingAttempt
  · exact changed

theorem BindingsOk.planLess (h : BindingsOk s) (id : Option PlanId) (j : Nat) : BindingsOk (planLess id j s) := by
  unfold Machine.planLess
  split
  · exact h
  · split
    · exact h
    · split_ifs
      · exact h.lessPlan ..
      · exact h

theorem BindingsOk.revertCase (h : BindingsOk s) (id : Option PlanId) (c : CaseRec) :
    BindingsOk (revertCase id s c) := by
  unfold Machine.revertCase
  split
  · unfold Machine.revertPlaced
    split
    · exact h
    · split
      · exact h
      · split_ifs
        · exact h.lessPlan ..
        · exact h
  · exact h.planLess ..

theorem BindingsOk.revertCases (h : BindingsOk s) (id : Option PlanId) (cs : List CaseRec) :
    BindingsOk (cs.foldl (Machine.revertCase id) s) := by
  induction cs generalizing s with
  | nil => exact h
  | cons c cs ih => exact ih (h.revertCase id c)

/-- The cases of orders that leave are taken off the build and off the lines. -/
theorem BindingsOk.unplace (h : BindingsOk s) (i : StationNo) (os : List Order) : BindingsOk (unplace i os s) := by
  have fold : ∀ (n : Option PlanId) (js : List Nat) (u : State), BindingsOk u →
      BindingsOk (js.foldl (fun s j => Machine.planLess n j s) u) := by
    intro n js
    induction js with
    | nil => exact fun _ hu => hu
    | cons j js ih => exact fun u hu => ih _ (hu.planLess n j)
  unfold Machine.unplace
  dsimp only
  split
  · exact h
  · exact fold _ _ _ (h.bare (.truncateBuild ..))

/-! ### Completion (R81) -/

/-- D + 1: a station that is to get the completion notice has lost its plan. -/
theorem BindingsOk.placeMore (h : BindingsOk s) (id : Option PlanId) (j : Nat) :
    BindingsOk (placeMore id j s).1 ∧ ∀ i, (placeMore id j s).2 = some i → NoPlanAt i (placeMore id j s).1 := by
  have same : BindingsOk s ∧ ∀ i : StationNo, (none : Option StationNo) = some i → NoPlanAt i s := ⟨h, fun _ e => nomatch e⟩
  unfold Machine.placeMore
  split
  · exact same
  · rename_i p named
    split
    · exact same
    · rename_i l _
      by_cases counted : l.placed < l.planned
      · rw [if_pos counted]
        dsimp only
        have placed : BindingsOk (s.onPlan p.id fun q => q.onLine j fun l => { l with placed := l.placed + 1 }) :=
          h.onLine p.id j fun l => ⟨rfl, le_rfl⟩
        obtain ⟨n, -, hn⟩ := Option.bind_eq_some_iff.mp named
        have held : p ∈ s.plans.plans := List.mem_of_find?_eq_some hn
        by_cases complete : (p.onLine j fun l => { l with placed := l.placed + 1 }).complete = true
        · rw [if_pos complete]
          refine ⟨(placed.bare (.report ..)).dropPlan p.id, fun i at_i q hq state at_i' => ?_⟩
          obtain ⟨building, bound⟩ : p.state = .building ∧ p.bound = some i := by
            split_ifs at at_i with building
            exact ⟨building, at_i⟩
          obtain ⟨listed, other⟩ := List.mem_filter.mp hq
          rw [(Bare.report ..).plans] at listed
          rcases mem_changeFirst listed with old | ⟨x, hx, rfl⟩
          · rw [h.one old held state building (at_i'.trans bound.symm)] at other
            simp [Plan.onLine] at other
          · have key : x.id = p.id := by simpa using List.find?_some hx
            simp [Plan.onLine, key] at other
        · rw [if_neg complete]
          exact ⟨placed, fun _ e => nomatch e⟩
      · rw [if_neg counted]
        exact same

/-! ### The part close (R79) -/

theorem BindingsOk.closePart (h : BindingsOk s) (i : StationNo) : BindingsOk (closePart i s) := by
  unfold Machine.closePart
  split
  · exact h
  · rename_i p _
    have closed : BindingsOk (s.onPlan p.id Plan.closed) := by
      refine h.onPlan p.id closed_id fun q _ _ => ?_
      rcases Bool.eq_false_or_eq_true q.hasOpen with hopen | shut
      · rw [Plan.closed, if_pos hopen]
        exact ⟨(nomatch ·), fun _ => rfl, (nomatch ·)⟩
      · rw [Plan.closed, if_neg (by simp [shut])]
        refine ⟨(nomatch ·), fun _ => rfl, fun _ l hl => ?_⟩
        simpa [PlanLine.isOpen] using (List.any_eq_false.mp shut) l hl
    dsimp only
    split_ifs
    · exact closed.bindingAttempt
    · exact closed

/-- After its part is closed, a station that is not IDLE has no plan. -/
theorem BindingsOk.closed_noPlanAt (h : BindingsOk s) (busy : s.stations[i].state ≠ .idle) :
    NoPlanAt i (Machine.closePart i s) := by
  unfold Machine.closePart
  split
  · rename_i none
    exact noPlanAt_iff.mpr none
  · rename_i p hp
    obtain ⟨held, building, bound⟩ := planAt_some hp
    have vacant : NoPlanAt i (s.onPlan p.id Plan.closed) := by
      intro q hq state at_i
      rcases mem_changeFirst hq with old | ⟨x, -, rfl⟩
      · obtain rfl := h.one old held state building (at_i.trans bound.symm)
        have left : (s.onPlan q.id Plan.closed).plan q.id = some q.closed :=
          plan_onPlan_same (plan_of_mem h.rising held) closed_id
        have rising : RisingKeys Plan.key (s.onPlan q.id Plan.closed).plans.plans :=
          h.rising.changeFirst fun x _ => by rw [Plan.key, closed_id, ← Plan.key]
        have same : q = q.closed := Option.some.inj ((plan_of_mem rising hq).symm.trans left)
        have cut : q.closed.bound = none := by
          unfold Plan.closed
          split_ifs <;> rfl
        rw [same, cut] at at_i
        cases at_i
      · unfold Plan.closed at state
        split_ifs at state
    dsimp only
    split_ifs
    · refine vacant.binds (bindingAttempt_binds _) ?_ busy
      exact h.rising.changeFirst fun x _ => by rw [Plan.key, closed_id, ← Plan.key]
    · exact vacant

/-! ### Admission (R67) -/

theorem BindingsOk.makePlan (h : BindingsOk s) (a : Admission) : BindingsOk (makePlan a s) := by
  refine BindingsOk.bindingAttempt (h.change (.of_same rfl rfl rfl) (h.rising.putKey _) fun p hp => ?_)
  rcases mem_putKey hp with rfl | old
  · exact ⟨(nomatch ·), fun _ => rfl, (nomatch ·)⟩
  · exact h.fits old

end Store

end Sys2Proof.Machine
end

section
/-!
PROOFS. `BindingsOk` along the operations of the station unit: closing, FAULT, the ends of orders, acknowledge, split and
RESTART (R82, R126 to R151).
-/

namespace Sys2Proof.Machine

theorem confirm_binding (b : Build) (k : Nat) (t : Tracking) : (b.confirm k t).binding = b.binding := by
  unfold Build.confirm
  split
  · split_ifs <;> rfl
  · rfl

theorem NoPlanAt.of_keeps {ps : List Part} {i : StationNo} {s t : State} (vacant : NoPlanAt i s)
    (h : KeepsAllBut ps s t) (hps : Part.plans ∉ ps) : NoPlanAt i t := by
  have plans : t.plans.plans = s.plans.plans := h.2.2 .plans hps
  rw [NoPlanAt, plans]
  exact vacant

section Stations

variable {s : State} {i : StationNo}

/-! ### Closing (R139, R141, R142) -/

theorem BindingsOk.closing_noPlanAt (h : BindingsOk s) (closing : s.stations[i].state = .closing) : NoPlanAt i s :=
  h.noPlanAt (by rw [closing]; decide) fun e => nomatch closing.symm.trans e

/-- A station without a plan and without an order entering AWAIT_EXCHANGE. -/
theorem BindingsOk.awaits (h : BindingsOk s) (vacant : NoPlanAt i s) {g : Station → Station}
    (empty : (g s.stations[i]).orders = []) : BindingsOk (awaitExchange i (s.onStation i g)) := by
  have entered : BindingsOk ((s.onStation i g).enterState i .awaitExchange) :=
    h.enter ⟨.inl vacant, (fun e => by rcases e with e | e | e <;> cases e), fun busy => absurd empty busy⟩
  exact (entered.bare (.exchangeCall ..)).bare (.report ..)

theorem BindingsOk.awaitExchange (h : BindingsOk s) (vacant : NoPlanAt i s) (empty : s.stations[i].orders = []) :
    BindingsOk (awaitExchange i s) := by
  have same : s.onStation i id = s := withStation_own s i
  have awaits := h.awaits (g := id) vacant empty
  rwa [same] at awaits

theorem BindingsOk.closingTest (h : BindingsOk s) (i : StationNo) : BindingsOk (closingTest i s) := by
  unfold Machine.closingTest
  split_ifs with test
  · obtain ⟨closing, empty, -⟩ := test
    exact h.awaitExchange (h.closing_noPlanAt closing) empty
  · exact h

/-- A station without a plan may enter CLOSING with any record. -/
theorem BindingsOk.enterClosed (h : BindingsOk s) (vacant : NoPlanAt i s) (g : Station → Station) :
    BindingsOk ((s.onStation i g).enterState i .closing) :=
  h.enter ⟨.inl vacant, (fun e => by rcases e with e | e | e <;> cases e), fun _ => .inr (.inl rfl)⟩

theorem BindingsOk.enterClosing (h : BindingsOk s) (vacant : NoPlanAt i s) (r : CloseReason) :
    BindingsOk (enterClosing i r s) := (h.enterClosed vacant _).closingTest i

/-- The part at a working station closed and the station CLOSING (R82, R140). -/
theorem BindingsOk.closes (h : BindingsOk s) (building : s.stations[i].state = .building) (r : CloseReason) :
    BindingsOk (Machine.enterClosing i r (Machine.closePart i s)) :=
  (h.closePart i).enterClosing (h.closed_noPlanAt (by rw [building]; decide)) r

theorem BindingsOk.completionNotice (h : BindingsOk s) (vacant : NoPlanAt i s) : BindingsOk (completionNotice i s) := by
  unfold Machine.completionNotice
  split
  · dsimp only
    split_ifs with empty
    · rw [onStation_get] at empty
      exact h.awaits vacant empty.1
    · exact h.enterClosed vacant _
  · rename_i fault
    refine h.onStation ⟨.inl vacant, fun e => ?_, (h.station i).orders⟩
    rcases e with e | e | e <;> cases fault.symm.trans e
  · exact h

theorem BindingsOk.notice {n : Option StationNo} (h : BindingsOk s) (vacant : ∀ i, n = some i → NoPlanAt i s) :
    BindingsOk (notice n s) := by
  cases n with
  | none => exact h
  | some j => exact h.completionNotice (vacant j rfl)

/-! ### FAULT (R145) -/

/-- Any station may enter FAULT of a cause that is no exchange time-out. -/
theorem BindingsOk.enterFault (h : BindingsOk s) {c : StationCause} (hc : c ≠ .exchangeTimeout) :
    BindingsOk ((s.onStation i fun st => { st with cause := c }).enterState i .fault) := by
  obtain ⟨plan, close, -⟩ := h.station i
  refine h.enter ⟨?_, (fun e => by rcases e with e | e | e <;> cases e), fun _ => .inr (.inr ⟨rfl, hc⟩)⟩
  rcases plan with vacant | building | ⟨-, -, none⟩
  · exact .inl vacant
  · exact .inr (.inr ⟨rfl, hc, close (.inr (.inr building))⟩)
  · exact .inr (.inr ⟨rfl, hc, none⟩)

theorem BindingsOk.faultWorking (h : BindingsOk s) {c : StationCause} (hc : c ≠ .exchangeTimeout) :
    BindingsOk (faultWorking i c s) := by
  have kept : Bare s (s.onStation i fun st =>
      { st with takeExpiry := none, placeExpiry := none,
                orders := (s.stations[i].orders.map Order.unknownIfTaken).filter fun o => o.state != .issued }) :=
    .onOrders ⟨rfl, rfl, rfl⟩ fun none => by dsimp only; rw [none]; rfl
  exact ((((((h.bare kept).bare (.withdraw ..)).unplace i _).bare (.toSpur ..)).bare (.cancelReplans i _)).enterFault
    hc).bare (.report ..)

theorem BindingsOk.stationFault (h : BindingsOk s) {c : StationCause} (hc : c ≠ .exchangeTimeout) :
    BindingsOk (stationFault i c s) := by
  unfold Machine.stationFault
  split_ifs
  · exact h.faultWorking hc
  · exact h

/-- A station in EXCHANGING, or in FAULT because an exchange took too long, has no plan and no order. -/
theorem BindingsOk.exchanging (h : BindingsOk s)
    (state : s.stations[i].state = .exchanging ∨ s.stations[i].state = .fault ∧ s.stations[i].cause = .exchangeTimeout) :
    NoPlanAt i s ∧ s.stations[i].orders = [] := by
  constructor
  · rcases state with state | ⟨state, cause⟩
    · exact h.noPlanAt (by rw [state]; decide) fun e => nomatch state.symm.trans e
    · exact h.noPlanAt (by rw [state]; decide) fun _ => cause
  · by_contra busy
    rcases state with state | ⟨state, cause⟩
    · rcases (h.station i).orders busy with e | e | ⟨e, -⟩ <;> cases state.symm.trans e
    · rcases (h.station i).orders busy with e | e | ⟨-, e⟩
      · cases state.symm.trans e
      · cases state.symm.trans e
      · exact e cause

theorem BindingsOk.faultExchange (h : BindingsOk s) (state : s.stations[i].state = .exchanging) :
    BindingsOk (faultExchange i s) := by
  obtain ⟨vacant, empty⟩ := h.exchanging (.inl state)
  have entered := h.enter (g := fun st => { st with exchangeExpiry := none, cause := .exchangeTimeout }) (n := .fault)
    ⟨.inl vacant, (fun e => by rcases e with e | e | e <;> cases e), fun busy => absurd empty busy⟩
  exact entered.bare (.report ..)

/-! ### The failure cascade (R133) -/

theorem BindingsOk.cutOrders (h : BindingsOk s) {kept : List Order} (hk : s.stations[i].orders = [] → kept = [])
    (leaving : List Order) (named : List OrderSeq) : BindingsOk (cutOrders i kept leaving named s) :=
  ((h.bare (.onOrders ⟨rfl, rfl, rfl⟩ hk)).unplace i leaving).bare (.withdraw ..)

theorem BindingsOk.cascade (h : BindingsOk s) {kept : List Order} (hk : s.stations[i].orders = [] → kept = [])
    (failed : Order) (later : List Order) (named : List OrderSeq) : BindingsOk (cascade i kept failed later named s) :=
  (((h.cutOrders hk (failed :: later) named).bare (.toSpur i later _)).bare (.askReplans i Order.tracking _ _)).bare
    (.issueDiscards ..)

/-! ### The ends of orders (R130 to R136, R146) -/

/-- DONE's effect on the case: the station that is to get the completion notice has lost its plan. -/
theorem BindingsOk.doneCase (h : BindingsOk s) (i : StationNo) (o : Order) :
    BindingsOk (doneCase i o s).1 ∧ ∀ j, (doneCase i o s).2 = some j → NoPlanAt j (doneCase i o s).1 := by
  unfold Machine.doneCase
  split
  · unfold Machine.casePlaced
    dsimp only
    split
    · exact ⟨h.bare (.dropTrack ..), fun _ e => nomatch e⟩
    · rename_i k _ _ c _
      have confirmed : BindingsOk (s.onBuild i fun b => b.confirm k o.tracking) :=
        h.bare (.onBuild (confirm_binding ..))
      obtain ⟨placed, vacant⟩ := confirmed.placeMore s.builds[i].planId c.line
      have ended : ∀ u b, Bare u (report b (u.dropTrack o.tracking)) := fun u _ => (Bare.dropTrack u _).trans (.report ..)
      exact ⟨placed.bare (ended ..), fun j hj => (ended ..).noPlanAt (vacant j hj)⟩
  · exact ⟨h.bare (.caseChuted ..), fun _ e => nomatch e⟩

theorem BindingsOk.orderDone (h : BindingsOk s) (i : StationNo) (o : Order) : BindingsOk (orderDone i o s) := by
  have popped : Bare s ((popOrder i s).onStation i fun st => { st with placeExpiry := none }) :=
    (Bare.popOrder i s).trans (.onOrders ⟨rfl, rfl, rfl⟩ fun none => none)
  obtain ⟨done, vacant⟩ := (h.bare popped).doneCase i o
  have issued := fun u => (Bare.startTake i u).trans (.issueDiscards i _)
  exact ((done.bare (issued _)).closingTest i).notice fun j hj =>
    ((issued _).noPlanAt (vacant j hj)).of_keeps (closingTest_elsewhere i _).keeps (by simp)

theorem BindingsOk.replyWorking (h : BindingsOk s) (i : StationNo) (q : OrderSeq) (out : ReplyOutcome) :
    BindingsOk (replyWorking i q out s) := by
  have sequence : BindingsOk (Machine.stationFault i .sequence s) := h.stationFault (by decide)
  unfold Machine.replyWorking
  split
  · exact sequence
  · split_ifs
    · split
      · exact h.bare (.orderTaken ..)
      · exact ((h.cascade (fun _ => rfl) ..).bare (.caseMissed ..)).closingTest i
      · exact h.orderDone ..
      · exact ((h.cascade (fun _ => rfl) ..).bare (.caseLost ..)).closingTest i
      · exact ((h.cutOrders (fun _ => rfl) ..).bare (.toSpur ..)).stationFault (by decide)
      · exact sequence
    · exact sequence

/-- DONE of an order taken out of its queue, with the notice (R146, R148). -/
theorem BindingsOk.endsDone (h : BindingsOk s) (i : StationNo) (o : Order) :
    BindingsOk (Machine.notice (Machine.doneCase i o (endOrder i o s)).2 (Machine.doneCase i o (endOrder i o s)).1) := by
  obtain ⟨done, vacant⟩ := (h.bare (.endOrder i o s)).doneCase i o
  exact done.notice vacant

theorem BindingsOk.removed (h : BindingsOk s) (i : StationNo) (o : Order) :
    BindingsOk (Machine.unplace i [o] (endOrder i o s)) := (h.bare (.endOrder i o s)).unplace i [o]

theorem BindingsOk.replyFault (h : BindingsOk s) (i : StationNo) (q : OrderSeq) (out : ReplyOutcome) :
    BindingsOk (replyFault i q out s) := by
  unfold Machine.replyFault
  split
  · exact h
  · split
    · exact h
    · exact h.endsDone ..
    · exact (h.removed ..).bare (.caseLost ..)
    · exact (h.removed ..).bare (.caseMissed ..)
    · exact (h.removed ..).bare (.headSpur ..)

theorem BindingsOk.orderReply (h : BindingsOk s) (i : StationNo) (q : OrderSeq) (out : ReplyOutcome) :
    BindingsOk (orderReply i q out s) := by
  unfold Machine.orderReply
  split_ifs
  · exact h
  · split
    · exact h.replyFault ..
    · exact h.replyWorking ..
    · exact h.replyWorking ..
    all_goals exact h

/-! ### Acknowledge (R147 to R149) -/

theorem BindingsOk.resolveUnknown (h : BindingsOk s) (i : StationNo) (d : Nat) : BindingsOk (resolveUnknown i d s) := by
  unfold Machine.resolveUnknown
  split
  · exact h
  · split_ifs
    · exact h.endsDone ..
    · exact (h.removed ..).bare (.caseMissed ..)

/-- The UNKNOWN order resolved, the station is in FAULT as before. -/
theorem resolveUnknown_fault (fault : s.stations[i].state = .fault) (d : Nat) :
    (resolveUnknown i d s).stations[i].state = .fault := by
  unfold Machine.resolveUnknown
  split
  · exact fault
  · rename_i o _
    have ended : (endOrder i o s).stations[i].state = .fault := ((Bare.endOrder i o s).station i).1.trans fault
    split_ifs
    · have done : (Machine.doneCase i o (endOrder i o s)).1.stations = (endOrder i o s).stations :=
        (doneCase_keeps i o _).2.2 .stations (by simp)
      exact (notice_fault (by rw [done, ended])).1
    · have own := (unplace_cutBack i [o] (s := endOrder i o s) (by rw [ended]; decide)).own
      rw [((Bare.caseMissed ..).station i).1, own, ended]

theorem BindingsOk.keepBuild (h : BindingsOk s) (fault : s.stations[i].state = .fault) (d : Nat) :
    BindingsOk (keepBuild i d s) := by
  unfold Machine.keepBuild
  have fault' := resolveUnknown_fault fault d
  have resolved := h.resolveUnknown i d
  generalize Machine.resolveUnknown i d s = u at fault' resolved
  dsimp only
  rw [onStation_get]
  refine BindingsOk.closingTest (BindingsOk.bare ?_ ((Bare.askReplans i SpurEntry.tracking _ _).trans
    (.issueDiscards i _))) i
  split_ifs with none
  · refine BindingsOk.bare (resolved.enter ?_) (.raiseFlags _)
    exact ⟨.inr (.inl rfl), fun _ => none, fun _ => .inl rfl⟩
  · refine resolved.enterClosed ?_ _
    rcases (resolved.station i).plan with vacant | building | ⟨-, -, closed⟩
    · exact vacant
    · cases fault'.symm.trans building
    · exact absurd closed none

theorem BindingsOk.discardBuild (h : BindingsOk s) (fault : s.stations[i].state = .fault) (d : Nat) :
    BindingsOk (discardBuild i d s) := by
  unfold Machine.discardBuild
  have fault' := resolveUnknown_fault fault d
  have resolved := h.resolveUnknown i d
  generalize Machine.resolveUnknown i d s = u at fault' resolved
  dsimp only
  have offers : ∀ n (cs : List CaseRec) (w : State), Offers w (cs.foldl (Machine.revertCase n) w) := by
    intro n cs
    induction cs with
    | nil => exact fun w => .refl w
    | cons c cs ih => exact fun w => (Offers.revertCase n w c).trans (ih _)
  have cut := resolved.bare (.truncateBuild i 0 u)
  have busy : (truncateBuild i 0 u).stations[i].state ≠ .idle := by
    rw [((Bare.truncateBuild i 0 u).station i).1, fault']
    decide
  have reverted := (cut.revertCases u.builds[i].planId u.builds[i].cases).bare
    (.report (.buildDiscarded i u.builds[i].planId u.builds[i].part u.builds[i].cases.length) _)
  have busy' := ((Bare.report (.buildDiscarded i u.builds[i].planId u.builds[i].part u.builds[i].cases.length)
    (u.builds[i].cases.foldl (Machine.revertCase u.builds[i].planId) (truncateBuild i 0 u))).station i).1
  rw [(offers u.builds[i].planId u.builds[i].cases _).stays busy] at busy'
  have vacant := reverted.closed_noPlanAt (busy'.symm ▸ busy)
  exact (((reverted.closePart i).enterClosed vacant _).bare (.issueDiscards i _)).closingTest i

theorem BindingsOk.recallExchange (h : BindingsOk s) (fault : s.stations[i].state = .fault)
    (cause : s.stations[i].cause = .exchangeTimeout) : BindingsOk (recallExchange i s) := by
  obtain ⟨vacant, empty⟩ := h.exchanging (.inr ⟨fault, cause⟩)
  have entered := h.enter (g := fun st => { st with cause := .none }) (n := .awaitExchange)
    ⟨.inl vacant, (fun e => by rcases e with e | e | e <;> cases e), fun busy => absurd empty busy⟩
  exact entered.bare (.exchangeCall ..)

/-! ### SET STATION, readiness and exchange (R126, R127, R143, R144) -/

theorem BindingsOk.bringOnline (h : BindingsOk s) (offline : s.stations[i].state = .offline) (kind : BaseKind) :
    BindingsOk (bringOnline i kind s) := by
  have vacant : NoPlanAt i s := h.noPlanAt (by rw [offline]; decide) fun e => nomatch offline.symm.trans e
  have online : BindingsOk ((s.onStation i fun st => { st with baseKind := kind }).enterState i .idle) := by
    refine h.enter ⟨.inl vacant, fun _ => (h.station i).close (.inl offline), fun busy => ?_⟩
    rcases (h.station i).orders busy with e | e | ⟨e, -⟩ <;> cases offline.symm.trans e
  unfold Machine.bringOnline
  dsimp only
  split_ifs
  · exact online.bindingAttempt
  · exact online

theorem BindingsOk.takeOffline (h : BindingsOk s) (idle : s.stations[i].state = .idle) :
    BindingsOk (s.enterState i .offline) := by
  have vacant : NoPlanAt i s := h.noPlanAt (by rw [idle]; decide) fun e => nomatch idle.symm.trans e
  have same : s.onStation i id = s := withStation_own s i
  have entered := h.enter (g := id) (n := .offline) ⟨.inl vacant, fun _ => (h.station i).close (.inr (.inl idle)),
    fun busy => by rcases (h.station i).orders busy with e | e | ⟨e, -⟩ <;> cases idle.symm.trans e⟩
  rwa [same] at entered

theorem BindingsOk.readyRises (h : BindingsOk s) (i : StationNo) : BindingsOk (readyRises i s) := by
  have risen := h.bare (.onOrders (i := i) (g := fun st => { st with ready := true }) ⟨rfl, rfl, rfl⟩ fun none => none)
  unfold Machine.readyRises
  dsimp only
  split_ifs
  · exact risen.bindingAttempt
  · exact risen

theorem BindingsOk.readyFalls (h : BindingsOk s) (i : StationNo) : BindingsOk (readyFalls i s) :=
  (h.bare (.onOrders ⟨rfl, rfl, rfl⟩ fun none => none)).stationFault (by decide)

theorem BindingsOk.exchangeStarts (h : BindingsOk s) (i : StationNo) : BindingsOk (exchangeStarts i s) := by
  unfold Machine.exchangeStarts
  split_ifs with awaiting
  · have vacant : NoPlanAt i s := h.noPlanAt (by rw [awaiting]; decide) fun e => nomatch awaiting.symm.trans e
    refine h.enter ⟨.inl vacant, (fun e => by rcases e with e | e | e <;> cases e), fun busy => ?_⟩
    rcases (h.station i).orders busy with e | e | ⟨e, -⟩ <;> cases awaiting.symm.trans e
  · exact h

theorem BindingsOk.exchangeEnds (h : BindingsOk s)
    (state : s.stations[i].state = .exchanging ∨ s.stations[i].state = .fault ∧ s.stations[i].cause = .exchangeTimeout) :
    BindingsOk (exchangeEnds i s) := by
  obtain ⟨vacant, empty⟩ := h.exchanging state
  let g : Station → Station := fun st => { st with exchangeExpiry := none, close := none, cause := .none }
  have keeps : KeepsAllBut [.builds] (s.onStation i g) ((s.onStation i g).onBuild i Build.clear) := withBuild_keeps ..
  have emptied : BindingsOk (((s.onStation i g).onBuild i Build.clear).enterState i .idle) := by
    have entering := enterState_keeps ((s.onStation i g).onBuild i Build.clear) i .idle
    have builds : (((s.onStation i g).onBuild i Build.clear).enterState i .idle).builds =
        ((s.onStation i g).withBuild i s.builds[i].clear).builds := entering.2.2 .builds (by simp)
    refine h.withStation (ps := [.stations, .builds, .exec])
      (((withStation_keeps ..).mono (by simp)).trans ((keeps.mono (by simp)).trans (entering.mono (by simp)))) (by simp)
      (fun j => ?_) ?_ (st := { g s.stations[i] with state := .idle })
      ⟨.inl vacant, fun _ => rfl, fun busy => absurd empty busy⟩
    · rw [builds]
      rcases eq_or_ne j i with rfl | ne
      · exact .inr ⟨rfl, vacant⟩
      · exact .inl (by rw [withBuild_other _ _ _ j ne]; rfl)
    · rw [enterState_stations]
      have path : (s.onStation i g).onBuild i Build.clear
          = ((s.withStation i (g s.stations[i])).withBuild i s.builds[i].clear) := rfl
      simp [path, State.withStation, State.withBuild]
  have told := emptied.bare (.report (.stationIdle i) _)
  unfold Machine.exchangeEnds
  dsimp only
  split_ifs
  · exact told.bindingAttempt
  · exact told

/-! ### Split and RESTART (R82, R151) -/

theorem BindingsOk.split (h : BindingsOk s) (i : StationNo) : BindingsOk (split s i) := by
  unfold Machine.split
  split_ifs with open_
  · exact h.closes open_.1 .split
  · exact h

theorem BindingsOk.endJob (h : BindingsOk s) (ex : List StationNo) : BindingsOk (endJob ex s) := by
  have fold : ∀ (l : List StationNo) (u : State), BindingsOk u → BindingsOk (l.foldl Machine.split u) := by
    intro l
    induction l with
    | nil => exact fun _ hu => hu
    | cons i l ih => exact fun u hu => ih _ (hu.split i)
  exact fold _ _ (h.bare (.setJob (fun _ e => by cases e) s))

theorem BindingsOk.restartStation (h : BindingsOk s) (i : StationNo) : BindingsOk (restartStation s i) := by
  have cleared : Bare s (s.onStation i fun st => { st with spur := [], takeExpiry := none, placeExpiry := none, orders := [] }) :=
    .onOrders ⟨rfl, rfl, rfl⟩ fun _ => rfl
  unfold Machine.restartStation
  dsimp only
  split_ifs
  · split
    · exact (h.bare cleared).closingTest i
    · exact h.bare (cleared.trans (.onOrders ⟨rfl, rfl, rfl⟩ fun none => none))
    all_goals exact h.bare cleared
  · exact (((h.bare cleared).bare (.withdraw ..)).unplace i _).enterFault (by decide)

theorem BindingsOk.restartBlocks (h : BindingsOk s) : BindingsOk (restartBlocks s) := by
  have fold : ∀ (l : List StationNo) (u : State), BindingsOk u → BindingsOk (l.foldl Machine.restartStation u) := by
    intro l
    induction l with
    | nil => exact fun _ hu => hu
    | cons i l ih => exact fun u hu => ih _ (hu.restartStation i)
  have stations := fold allStations s h
  exact (((stations.bare (.restartTracking _)).bare (.restartLanes _)).bare
    (t := armSupervision _) (.of_keeps (setSup_keeps _ _) (by simp))).bindingAttempt

end Stations

end Sys2Proof.Machine
end

section
/-!
PROOFS. `BindingsOk` along the jobs of the planning engine (chapter 5).
-/

namespace Sys2Proof.Machine

/-! ### The station of a placement (R40, R42) -/

/-- Every line tried at a station is evaluated at that station. -/
theorem tryLines_station {s : State} {i : StationNo} {e : BaseEntry} {art : Article} {w : Nat} {xs : List (Nat × PlanLine)}
    {r : EvalResult} (h : r ∈ tryLines (evalLine s i e art w) xs) : r.station = i := by
  induction xs with
  | nil => cases h
  | cons x xs ih =>
    unfold tryLines at h
    split_ifs at h
    · obtain rfl := List.mem_singleton.mp h
      rfl
    · rcases List.mem_cons.mp h with rfl | h
      · rfl
      · exact ih h

/-- A replan evaluation places at the station that it evaluates (R42). -/
theorem decideReplan_station {s : State} {i : StationNo} {art : Article} {w : Nat} {p : Placement}
    (h : decideReplan s i art w = some p) : p.station = i := by
  obtain ⟨rs, evaluated, placed⟩ := Option.bind_eq_some_iff.mp h
  obtain ⟨r, hr, hp⟩ := List.exists_of_findSome?_eq_some placed
  have at_i : r.station = i := by
    unfold evalStation at evaluated
    split at evaluated
    · injection evaluated with evaluated
      rw [← evaluated] at hr
      exact tryLines_station hr
    · cases evaluated
  unfold EvalResult.placement at hp
  split at hp
  · injection hp with hp
    rw [← hp, ← at_i]
  · cases hp

/-! ### Taking a job (R93, R95, R106, R107) -/

namespace Bare

theorem setSnapshot (t : Tracking) (art : Article) (w : Nat) (s : State) : Bare s (setSnapshot t art w s) :=
  of_same rfl rfl rfl rfl rfl

theorem addTrack (s : State) (e : Track) : Bare s (s.addTrack e) := of_same rfl rfl rfl rfl rfl

theorem setArrivals (s : State) (l : List Arrival) :
    Bare s { s with tracker := { s.tracker with arrivals := l } } := of_same rfl rfl rfl rfl rfl

/-- A job that is no replan's. -/
theorem startJob {j : Job} (h : ∀ r, j.work ≠ .replan r) (s : State) : Bare s (s.setJob (some j)) :=
  setJob (fun x e r _ hr _ => by
    obtain rfl := Option.some.inj e
    exact absurd hr (h r)) s

theorem noJob (s : State) : Bare s (s.setJob none) := setJob (fun _ e => by cases e) s

theorem planArrival (a : Arrival) (s : State) : Bare s (planArrival a s) := by
  unfold Machine.planArrival
  split_ifs
  · exact lateCase ..
  · split
    · exact rejectArrival ..
    · exact (setSnapshot ..).trans (startJob (fun _ e => by cases e) _)

theorem rerunArrival (a : Arrival) (art : Article) (w n : Nat) (s : State) : Bare s (rerunArrival a art w n s) :=
  startJob (fun _ e => by cases e) s

/-- The run of a replan's job: a placement at the replan's own station, or the REJECT order. -/
theorem runReplan {r : Replan} {s : State} (works : s.stations[r.station].works = true) (n : Nat) :
    Bare s (runReplan r n s) := by
  unfold Machine.runReplan
  dsimp only
  split
  · rename_i p found
    obtain ⟨x, -, chosen⟩ := Option.bind_eq_some_iff.mp found
    refine setJob (fun j e r' p' hr hp => ?_) s
    obtain rfl := Option.some.inj e
    obtain rfl := Work.replan.inj hr
    obtain rfl := Decision.place.inj hp
    exact decideReplan_station chosen
  · exact (noJob s).trans (rejectReplan works)

end Bare

section Jobs

variable {s : State} {i : StationNo}

theorem BindingsOk.missedOrder (h : BindingsOk s) (i : StationNo) (o : Order) : BindingsOk (missedOrder i o s) :=
  ((h.cascade (fun none => by rw [none]; rfl) ..).bare (.caseMissed ..)).closingTest i

theorem BindingsOk.duplicateFault (h : BindingsOk s) (st : TrackState) : BindingsOk (duplicateFault st s) := by
  unfold Machine.duplicateFault
  split
  · exact h.stationFault (by decide)
  all_goals exact h

theorem BindingsOk.rearrive (h : BindingsOk s) (t : Tracking) (st : TrackState) : BindingsOk (rearrive t st s) := by
  have returned : ∀ k st', BindingsOk ((laneReturn k t st' s).circulate t) := fun k st' =>
    (h.bare (.laneReturn k t st' s)).bare (.setTrack ..)
  unfold Machine.rearrive
  split
  · exact h.bare (.setTrack ..)
  · exact h.bare (.setTrack ..)
  · split
    · exact h.missedOrder ..
    · exact h.bare (.setTrack ..)
  · exact (((h.bare (.leaveSpur ..)).bare (.keepReplans ..)).bare (.setTrack ..)).closingTest _
  all_goals exact returned ..

theorem BindingsOk.handleArrival (h : BindingsOk s) (a : Arrival) : BindingsOk (handleArrival a s) := by
  have unseen : BindingsOk (untracked a s) := by
    unfold untracked
    split_ifs
    · exact h.bare (.report ..)
    · exact h
  have closed : BindingsOk (gateClosedArrival a s) := by
    unfold gateClosedArrival
    split
    · exact h
    · split_ifs
      · exact h.duplicateFault _
      · exact h.rearrive ..
  unfold Machine.handleArrival
  split
  · exact closed
  · split
    · split
      · exact unseen
      · exact h.bare ((Bare.addTrack s _).trans (.planArrival a _))
    · split
      · exact (h.bare ((Bare.sendDecision ..).trans (.report ..))).duplicateFault _
      · exact (h.rearrive ..).bare (.planArrival ..)

theorem BindingsOk.takeArrival (h : BindingsOk s) : BindingsOk (takeArrival s) := by
  unfold Machine.takeArrival
  split
  · exact h
  · split_ifs
    · exact BindingsOk.handleArrival (h.bare (.setArrivals s _)) _
    · exact h

theorem BindingsOk.takeReplan (h : BindingsOk s) : BindingsOk (takeReplan s) := by
  unfold Machine.takeReplan
  split
  · exact h
  · rename_i r _
    have out := h.bare (.takeOutReplan r s)
    dsimp only
    split_ifs with _ works
    · exact h
    · exact out.bare (.runReplan (Bool.and_eq_true_iff.mp works).2 0)
    · exact out

theorem BindingsOk.runHead (h : BindingsOk s) (k : LaneNo) (t : Tracking) (art : Article) (w n : Nat) :
    BindingsOk (runHead k t art w n s) := by
  unfold Machine.runHead
  dsimp only
  split
  · exact h.bare (.startJob (fun _ e => by cases e) s)
  · exact h.endJob _

theorem BindingsOk.takeLane (h : BindingsOk s) : BindingsOk (takeLane s) := by
  unfold Machine.takeLane
  split
  · exact h
  · rename_i k _
    have cleared := h.bare (.setFlag s k false)
    split_ifs
    · dsimp only
      split
      · exact cleared.runHead ..
      · exact cleared
    · exact h

/-! ### The commit attempt (R102 to R107) -/

theorem BindingsOk.commitPlace (h : BindingsOk s) (t : Tracking) (art : Article) (w : Nat) {p : Placement}
    (works : s.stations[p.station].works = true) {send : State → State} (hs : ∀ u, Bare u (send u)) :
    BindingsOk (commitPlace t art w p send s) := by
  have added := fun c => Bare.addCase p.station c s
  unfold Machine.commitPlace
  dsimp only
  cases s.builds[p.station].planId with
  | none =>
    have sent := fun c => (added c).trans (hs _)
    exact (h.bare (sent _)).bare (.issueOrder (by rwa [Station.works, ((sent _).station _).1]) ..)
  | some id =>
    have sent := fun c => hs (Machine.planMore id p.line (Machine.addCase p.station c s))
    have stations := fun c => planMore_stations id p.line (Machine.addCase p.station c s)
    refine (((h.bare (added _)).planMore id p.line).bare (sent _)).bare (.issueOrder ?_ ..)
    rwa [Station.works, ((sent _).station _).1, stations, ((added _).station _).1]

theorem BindingsOk.rerun (h : BindingsOk s) (j : Job) {again : Nat → State → State} {fallback : State → State}
    (ha : ∀ n, BindingsOk (again n s)) (hf : Bare s (fallback s)) : BindingsOk (rerun j again fallback s) := by
  unfold Machine.rerun
  split_ifs
  · exact ha _
  · exact (h.bare hf).endJob _

theorem BindingsOk.commitDecision (h : BindingsOk s) (j : Job) (a : Arrival) (art : Article) (w : Nat) :
    BindingsOk (commitDecision j a art w s) := by
  have again := h.rerun j (fun n => h.bare (.rerunArrival a art w n s)) (.passArrival a s)
  unfold Machine.commitDecision
  split
  · exact (h.bare (.passArrival ..)).endJob _
  · exact (h.bare (.rejectArrival ..)).endJob _
  · split_ifs with committed
    · exact (h.commitPlace _ _ _ ((works_iff _).mpr (.inl committed.1)) fun u => .sendDecision _ _ u).endJob _
    · exact again
  · split_ifs
    · exact (h.bare (.commitLane ..)).endJob _
    · exact again
  · exact h.endJob _

theorem BindingsOk.commitArrival (h : BindingsOk s) (j : Job) (a : Arrival) : BindingsOk (commitArrival j a s) := by
  unfold Machine.commitArrival
  split
  · split_ifs
    · exact (h.bare (.setTrack ..)).endJob _
    · exact h.endJob _
  · split
    · exact h.endJob _
    · split
      · exact (h.bare (.lateCase ..)).endJob _
      · split
        · exact (h.bare (.rejectArrival ..)).endJob _
        · split
          · exact h.commitDecision ..
          · exact h.endJob _

theorem BindingsOk.commitReplan (h : BindingsOk s) {j : Job} {r : Replan} (hj : s.engine.job = some j)
    (hr : j.work = .replan r) : BindingsOk (commitReplan j r s) := by
  unfold Machine.commitReplan
  split_ifs with idle
  · exact h.bare (.noJob s)
  · have works : s.stations[r.station].works = true := by
      simp only [Bool.or_eq_true, not_or, Bool.not_eq_true', Bool.not_eq_false] at idle
      exact idle.2
    split
    · rename_i p art w placed _
      have own : p.station = r.station := h.2.2.2.2.2.2 j r p hj hr placed
      have station : s.stations[p.station] = s.stations[r.station] := by simp only [own]
      split_ifs
      · have committed := h.commitPlace r.tracking art w (p := p) (by rw [station]; exact works) (send := id) fun u => .refl u
        exact committed.bare ((Bare.leaveSpur ..).trans (.noJob _))
      · exact h.rerun j (fun n => h.bare (.runReplan works n)) (.rejectReplan works)
    · exact h.bare (.noJob s)

theorem BindingsOk.commitHead (h : BindingsOk s) (j : Job) (k : LaneNo) (t : Tracking) :
    BindingsOk (commitHead j k t s) := by
  unfold Machine.commitHead
  dsimp only
  split
  · split_ifs
    · exact (h.bare (.releaseHead ..)).endJob _
    · refine h.rerun j (fun n => ?_) (.noRelease k s)
      split
      · exact h.runHead ..
      · exact (h.bare (.noRelease ..)).endJob _
    · exact (h.bare (.noRelease ..)).endJob _
  all_goals exact h.endJob _

theorem BindingsOk.commitAttempt (h : BindingsOk s) : BindingsOk (commitAttempt s) := by
  unfold Machine.commitAttempt
  split
  · exact h
  · rename_i j hj
    split
    · exact h.commitArrival ..
    · rename_i r hr
      exact h.commitReplan hj hr
    · exact h.commitHead ..

end Jobs

end Sys2Proof.Machine
end

section
/-!
PROOFS. What keeps the counts of the plan store and the agreement of plans and builds (R64, R71, R73 to R76, R79 to R81).
-/

namespace Sys2Proof.Machine

/-- An operation keeps the two invariants of the plan store, each by itself. -/
structure Sustains (s t : State) : Prop where
  counts   : CountsOk s → CountsOk t
  bindings : BindingsOk s → BindingsOk t

/-- A line of an admission record is within the range of a line, or stands in the record of the device. -/
def State.Carried (s : State) (l : LineRec) : Prop :=
  l.required ≤ 255 ∨ ∃ b, s.plans.admission = some b ∧ l ∈ b.lines

theorem CountsOk.carried {s : State} (h : CountsOk s) {l : LineRec} (hl : s.Carried l) : l.required ≤ 255 := by
  rcases hl with small | ⟨b, hb, hl⟩
  · exact small
  · exact h.2.1 b hb l hl

theorem CountsOk.of_same {s t : State} (h : CountsOk s) (hp : t.plans.plans = s.plans.plans)
    (ha : t.plans.admission = s.plans.admission) : CountsOk t := by
  rw [CountsOk, hp, ha]
  exact h

theorem CountsOk.bare {s t : State} (h : CountsOk s) (b : Bare s t) : CountsOk t := h.of_same b.plans b.admission

theorem insertLine_mem {l x : LineRec} {ls : List LineRec} (h : x ∈ insertLine l ls) : x = l ∨ x ∈ ls := by
  induction ls with
  | nil => exact .inl (List.mem_singleton.mp h)
  | cons m ls ih =>
    unfold insertLine at h
    split_ifs at h
    · exact List.mem_cons.mp h
    · rcases List.mem_cons.mp h with rfl | h
      · exact .inr (List.mem_cons_self ..)
      · exact (ih h).imp_right (List.mem_cons_of_mem m)

theorem orderLines_mem {ls : List LineRec} {x : LineRec} (h : x ∈ orderLines ls) : x ∈ ls := by
  induction ls using List.reverseRecOn with
  | nil => cases h
  | append_singleton ls l ih =>
    rw [orderLines_append] at h
    rcases insertLine_mem h with rfl | h
    · simp
    · exact List.mem_append_left _ (ih h)

theorem lineOf_required (p : List Byte) : (lineOf p).required ≤ 255 :=
  Nat.le_of_lt_succ (p.getD 5 0).isLt

/-- The plan made at the end of an admission starts with nothing planned (R67). -/
theorem CountsOk.makePlan {s : State} {a : Admission} (h : CountsOk s) (ha : ∀ l ∈ a.lines, s.Carried l) :
    CountsOk (makePlan a s) := by
  rw [makePlan_eq]
  refine (Works.bindingAttempt _).countsOk ⟨fun p hp => ?_, (fun b hb => nomatch (show none = some b from hb)), h.2.2.putKey _⟩
  rcases mem_putKey hp with rfl | old
  · intro l hl
    obtain ⟨x, hx, rfl⟩ := List.mem_map.mp hl
    exact ⟨le_rfl, Nat.zero_le _, h.carried (ha x (orderLines_mem hx))⟩
  · exact h.1 p old

namespace Sustains

variable {s t u : State}

theorem trans (h : Sustains s t) (k : Sustains t u) : Sustains s u := ⟨k.counts ∘ h.counts, k.bindings ∘ h.bindings⟩

theorem bare (h : Bare s t) : Sustains s t := ⟨fun k => k.bare h, fun k => k.bare h⟩

theorem refl (s : State) : Sustains s s := ⟨id, id⟩

/-- An operation of the blocks. -/
theorem works (w : Works s t) (h : BindingsOk s → BindingsOk t) : Sustains s t := ⟨w.countsOk, h⟩

/-- What keeps all parts that the invariants read. -/
theorem of_keeps {ps : List Part} (h : KeepsAllBut ps s t)
    (hps : Part.plans ∉ ps ∧ Part.admission ∉ ps ∧ Part.builds ∉ ps ∧ Part.stations ∉ ps ∧ Part.job ∉ ps) :
    Sustains s t := bare (.of_keeps h hps)

/-- A quiet operation that keeps the admission record. -/
theorem quiet (q : Quiet s t) (ha : t.plans.admission = s.plans.admission) : Sustains s t :=
  bare (.of_same q.plans ha q.builds q.stations q.job)

/-! ### The request unit and the link -/

theorem setSup (s : State) (x : SupTimer) : Sustains s (s.setSup x) := quiet (.setSup s x) rfl

theorem supervise (src : Byte) (s : State) : Sustains s (supervise src s) := by
  rw [supervise_eq]
  exact setSup s _

theorem settle (s : State) : Sustains s (settle s) := of_keeps (settle_keeps_parts s) (by simp)

theorem placeResponse (f : OwnFrame) (s : State) : Sustains s (placeResponse f s) := by
  refine quiet (.placeResponse f s) ?_
  unfold Machine.placeResponse
  split_ifs <;> rfl

theorem answer (f : RxFrame) (r : Response) (s : State) : Sustains s (answer f r s) := by
  unfold Machine.answer
  split_ifs
  · exact refl s
  · exact placeResponse _ s

theorem answerDone (k : Byte) (f : RxFrame) (r : ResultFields) (s : State) : Sustains s (answerDone k f r s) := answer f _ s

theorem refuse (k : Byte) (r : Reason) (i : Nat) (f : RxFrame) (s : State) : Sustains s (refuse k r i f s) := answer f _ s

theorem answerStation (k : Byte) (f : RxFrame) (i : StationNo) (s : State) : Sustains s (answerStation k f i s) :=
  answerDone k f _ s

theorem report (b : ReportBody) (s : State) : Sustains s (report b s) := bare (.report b s)

theorem forward (k : Byte) (f : RxFrame) (s : State) : Sustains s (forward k f s) := by
  refine quiet (.forward k f s) ?_
  unfold Machine.forward
  split
  all_goals
    split_ifs
    · rfl
    · rfl

theorem beginReply (k : Byte) (f : RxFrame) (items : List Item) (r : ResultFields) (w : List StationNo) (s : State) :
    Sustains s (beginReply k f items r w s) := quiet (.beginReply ..) rfl

theorem setExec (s : State) (e : Option Exec) : Sustains s (s.setExec e) :=
  of_keeps (setExec_keeps s e) (by simp)

theorem frameSent (p : Port) (s : State) : Sustains s (frameSent p s) := by
  refine quiet (.frameSent p s) ?_
  cases p with
  | a =>
    show (frameSentA s).plans.admission = _
    unfold frameSentA
    split
    · rfl
    · dsimp only
      split
      · split_ifs <;> rfl
      · rfl
  | b => rfl

theorem supervisionExpires (s : State) : Sustains s (supervisionExpires s) := by
  unfold Machine.supervisionExpires
  split
  · split_ifs
    · dsimp only
      split
      · exact (report ..).trans (setSup ..)
      · exact (report ..).trans ((of_keeps (setGate_keeps _ false) (by simp)).trans (setSup ..))
    · exact refl s
  all_goals exact refl s

theorem takeProbe (s : State) : Sustains s (takeProbe s) := by
  refine quiet (.takeProbe s) ?_
  unfold Machine.takeProbe
  split
  · rfl
  · split_ifs <;> rfl

/-! ### Loads (R163 to R165) -/

theorem finishLoad (e : Exec) (c : Completion) (r : Reason) (i : Nat) (res : ResultFields) (s : State) :
    Sustains s (finishLoad e c r i res s) := (setExec s (some { e with phase := .ending })).trans (placeResponse _ _)

/-- The admission record replaced. -/
theorem setAdmission {x : Option Admission} (h : ∀ a, x = some a → ∀ l ∈ a.lines, s.Carried l) :
    Sustains s (s.setAdmission x) :=
  ⟨fun k => ⟨k.1, fun a ha l hl => k.carried (h a ha l hl), k.2.2⟩,
    fun k => k.change (.of_same rfl rfl rfl) k.rising fun _ hp => k.fits hp⟩

theorem endLoad (e : Exec) (r : Reason) (i : Nat) (s : State) : Sustains s (endLoad e r i s) := by
  unfold Machine.endLoad
  refine trans ?_ (finishLoad e _ r i _ _)
  split_ifs
  · exact setAdmission (x := none) fun _ e => nomatch e
  · exact refl s

theorem makePlan {a : Admission} (ha : ∀ l ∈ a.lines, s.Carried l) : Sustains s (makePlan a s) :=
  ⟨fun k => k.makePlan ha, fun k => k.makePlan a⟩

theorem takeLine (e : Exec) (p : List Byte) (s : State) : Sustains s (takeLine e p s).1 := by
  unfold Machine.takeLine
  split
  · exact endLoad ..
  · rename_i a held
    split
    · exact endLoad ..
    · have carried : ∀ l ∈ ({ a with lines := a.lines ++ [lineOf p] } : Admission).lines, s.Carried l := by
        intro l hl
        rcases List.mem_append.mp hl with old | new
        · exact .inr ⟨a, held, old⟩
        · obtain rfl := List.mem_singleton.mp new
          exact .inl (lineOf_required p)
      dsimp only
      generalize ({ a with lines := a.lines ++ [lineOf p] } : Admission) = gathered at carried ⊢
      split_ifs
      · dsimp only
        exact (makePlan carried).trans (finishLoad ..)
      · exact setAdmission fun b hb => by
          obtain rfl := Option.some.inj hb
          exact carried

theorem takeArticle (e : Exec) (p : List Byte) (s : State) : Sustains s (takeArticle e p s).1 := by
  have stored : ∀ l : List Article, Sustains s { s with tables := { s.tables with articles := l } } := fun l =>
    bare (.of_same rfl rfl rfl rfl rfl)
  unfold Machine.takeArticle
  split
  · exact endLoad ..
  · dsimp only
    split_ifs
    · exact (stored _).trans (finishLoad ..)
    · exact stored _
    · exact endLoad ..

theorem takeRecords (ps : List (List Byte)) : ∀ (e : Exec) (s : State), Sustains s (takeRecords e ps s) := by
  induction ps with
  | nil => exact fun e s => setExec s (some { e with phase := .loading s.gapExpiry })
  | cons p ps ih =>
    intro e s
    have taken : Sustains s (takeRecord e p s).1 := by
      unfold takeRecord
      split_ifs
      · exact takeArticle ..
      · exact takeLine ..
    unfold Machine.takeRecords
    split
    · rename_i t ended
      rwa [ended] at taken
    · rename_i t x more
      rw [more] at taken
      exact taken.trans (ih x t)

theorem takeData (e : Exec) (p : List Byte) (s : State) : Sustains s (takeData e p s) := by
  unfold Machine.takeData
  split_ifs
  · exact endLoad ..
  · exact takeRecords ..

end Sustains

end Sys2Proof.Machine
end

section
/-!
PROOFS. Every step keeps the counts of the plan store and the agreement of plans and builds (O57).
-/

namespace Sys2Proof.Machine

namespace Sustains

variable {s t u : State}

/-! ### Operations that are no more than working ones on the way -/

/-- A change of a station record that keeps what `BindingsOk` reads. -/
theorem onRecord (i : StationNo) {g : Station → Station}
    (hg : (g s.stations[i]).state = s.stations[i].state ∧ (g s.stations[i]).cause = s.stations[i].cause
      ∧ (g s.stations[i]).close = s.stations[i].close)
    (fewer : s.stations[i].orders = [] → (g s.stations[i]).orders = []) : Sustains s (s.onStation i g) :=
  bare (.onOrders hg fewer)

theorem bindingAttempt (s : State) : Sustains s (bindingAttempt s) := works (.bindingAttempt s) (·.bindingAttempt)

/-- The counts read no station and no build. -/
theorem counts_of {v : State} (h : CountsOk s) (w : Works v t) (hp : v.plans = s.plans) : CountsOk t :=
  w.countsOk (h.of_same (by rw [hp]) (by rw [hp]))

theorem bringOnline {i : StationNo} (offline : s.stations[i].state = .offline) (kind : BaseKind) :
    Sustains s (bringOnline i kind s) := by
  refine ⟨fun h => ?_, (·.bringOnline offline kind)⟩
  have online : CountsOk ((s.onStation i fun st => { st with baseKind := kind }).enterState i .idle) :=
    counts_of h (.enterState (s.onStation i fun st => { st with baseKind := kind }) i .idle) rfl
  unfold Machine.bringOnline
  dsimp only
  split_ifs
  · exact (Works.bindingAttempt _).countsOk online
  · exact online

theorem recallExchange {i : StationNo} (fault : s.stations[i].state = .fault)
    (cause : s.stations[i].cause = .exchangeTimeout) : Sustains s (recallExchange i s) :=
  ⟨fun h => counts_of h ((Works.enterState (s.onStation i fun st => { st with cause := .none }) i .awaitExchange).trans
    (.exchangeCall i _)) rfl, (·.recallExchange fault cause)⟩

theorem exchangeStarts (i : StationNo) (s : State) : Sustains s (exchangeStarts i s) := by
  refine ⟨fun h => ?_, (·.exchangeStarts i)⟩
  unfold Machine.exchangeStarts
  split_ifs
  · exact counts_of h (.enterState (s.onStation i fun st =>
      { st with exchangeExpiry := some (after s.link.time s.req.settings.exchangeTimeout) }) i .exchanging) rfl
  · exact h

theorem exchangeEnds {i : StationNo}
    (state : s.stations[i].state = .exchanging ∨ s.stations[i].state = .fault ∧ s.stations[i].cause = .exchangeTimeout) :
    Sustains s (exchangeEnds i s) := by
  refine ⟨fun h => ?_, (·.exchangeEnds state)⟩
  have told : CountsOk (Machine.report (.stationIdle i) (((s.onStation i fun st =>
      { st with exchangeExpiry := none, close := none, cause := .none }).onBuild i Build.clear).enterState i .idle)) :=
    counts_of h ((Works.enterState ((s.onStation i fun st =>
      { st with exchangeExpiry := none, close := none, cause := .none }).onBuild i Build.clear) i .idle).trans
        (.report _ _)) rfl
  unfold Machine.exchangeEnds
  dsimp only
  split_ifs
  · exact (Works.bindingAttempt _).countsOk told
  · exact told

theorem readyRises (i : StationNo) (s : State) : Sustains s (readyRises i s) := by
  have risen : Sustains s (s.onStation i fun st => { st with ready := true }) := onRecord i ⟨rfl, rfl, rfl⟩ fun h => h
  unfold Machine.readyRises
  dsimp only
  split_ifs
  · exact risen.trans (bindingAttempt _)
  · exact risen

theorem stationFault (i : StationNo) {c : StationCause} (hc : c ≠ .exchangeTimeout) (s : State) :
    Sustains s (stationFault i c s) := works (.stationFault i c s) (·.stationFault hc)

theorem readyFalls (i : StationNo) (s : State) : Sustains s (readyFalls i s) :=
  (onRecord i ⟨rfl, rfl, rfl⟩ fun h => h).trans (stationFault i (by decide) _)

theorem takeArrival (s : State) : Sustains s (takeArrival s) := by
  refine ⟨fun h => ?_, (·.takeArrival)⟩
  rcases takeArrival_works s with same | ⟨a, rest, -, w⟩
  · rwa [same]
  · exact counts_of h w rfl

theorem restartBlocks (s : State) : Sustains s (restartBlocks s) := by
  refine ⟨fun h => ?_, (·.restartBlocks)⟩
  have stations := (Works.foldl restartStation Works.restartStation allStations s).countsOk h
  have blocks := (stations.bare (.restartTracking _)).bare (.restartLanes _)
  exact (Works.bindingAttempt _).countsOk (blocks.bare (t := armSupervision _) (.of_keeps (setSup_keeps _ _) (by simp)))

theorem powerOn (s : State) (node : Byte) : Sustains s (State.powerOn node) := by
  have stations : ∀ i : StationNo, (State.powerOn node).stations[i] = Station.powerOn := powerOn_station node
  have none : ∀ p : Plan, p ∉ (State.powerOn node).plans.plans := fun _ hp => nomatch hp
  refine ⟨fun _ => ⟨fun p hp => absurd hp (none p), (fun a ha => nomatch ha), List.Pairwise.nil⟩, fun _ => ?_⟩
  refine ⟨List.Pairwise.nil, fun p hp => absurd hp (none p), fun p hp => absurd hp (none p), fun p hp => absurd hp (none p),
    fun i _ => ?_, fun i busy => ?_, fun j r p hj => nomatch hj⟩
  · rw [stations]
    rfl
  · rw [stations] at busy
    exact absurd rfl busy

/-! ### Requests (chapter 8) -/

theorem request {k : Byte} {n : Nat} {bad : List Byte → Option Nat} {act : RxFrame → State → State} (f : RxFrame)
    (ha : ∀ s, Sustains s (act f s)) (s : State) : Sustains s (request k n bad act f s) := by
  refine (supervise f.src s).trans ?_
  unfold Machine.request
  dsimp only
  split_ifs
  · exact refl _
  · unfold takeRequest
    split_ifs
    · exact refl _
    · split
      · exact refuse ..
      · exact ha _

theorem handleSetTime (f : RxFrame) (s : State) : Sustains s (handleSetTime f s) := by
  refine trans ?_ (supervise f.src _)
  unfold takeRequest
  split_ifs
  · exact refl s
  · split
    · exact refuse ..
    · exact (bare (.moveTime s _)).trans (answerDone ..)

theorem handleSetSettings (f : RxFrame) (s : State) : Sustains s (handleSetSettings f s) := by
  unfold Machine.handleSetSettings
  split_ifs
  · have stored : Sustains s (storeSettings f s) := by
      unfold storeSettings
      exact bare (.of_same rfl rfl rfl rfl rfl)
    have timer : Sustains (storeSettings f s) (superviseSettings s.req.settings.controlNode f.src (storeSettings f s)) := by
      unfold superviseSettings
      split_ifs
      · exact setSup ..
      · exact setSup ..
      · exact refl _
    exact (stored.trans timer).trans (answerDone ..)
  · exact request f (fun s => refl s) s

theorem deleteArticle (f : RxFrame) (s : State) : Sustains s (deleteArticle f s) := by
  have stored : ∀ l : List Article, Sustains s { s with tables := { s.tables with articles := l } } := fun l =>
    of_keeps (withArticles_keeps s l) (by simp)
  unfold Machine.deleteArticle
  dsimp only
  split_ifs
  · exact (stored _).trans (answerDone ..)
  · exact refuse ..

theorem loadBase (f : RxFrame) (s : State) : Sustains s (loadBase f s) := by
  have stored : ∀ v : Vector (Option BaseEntry) 4, Sustains s { s with tables := { s.tables with bases := v } } := fun v =>
    of_keeps (withBases_keeps s v) (by simp)
  unfold Machine.loadBase
  dsimp only
  split
  · exact refuse ..
  · exact (stored _).trans (answerDone ..)

theorem loadKinds (f : RxFrame) (s : State) : Sustains s (loadKinds f s) :=
  (of_keeps (withKinds_keeps s _) (by simp)).trans (answerDone ..)

theorem loadLevels (f : RxFrame) (s : State) : Sustains s (loadLevels f s) :=
  (of_keeps (withLevels_keeps s _) (by simp)).trans (answerDone ..)

theorem withdrawPlan (f : RxFrame) (s : State) : Sustains s (withdrawPlan f s) := by
  unfold Machine.withdrawPlan
  split
  · exact refuse ..
  · split_ifs
    · exact (works (.dropPlan s _) (·.dropPlan _)).trans (answerDone ..)
    · exact refuse ..

theorem setStation (f : RxFrame) (s : State) : Sustains s (setStation f s) := by
  unfold Machine.setStation
  dsimp only
  split
  case h_1 offline =>
    split_ifs
    · exact (bringOnline offline _).trans (answerStation ..)
    · exact refuse ..
    · exact (onRecord _ ⟨rfl, rfl, rfl⟩ fun h => h).trans (answerStation ..)
  case h_2 idle =>
    split_ifs
    · exact answerStation ..
    · exact refuse ..
    · exact (works (.enterState s _ .offline) (·.takeOffline idle)).trans (answerStation ..)
  all_goals exact refuse ..

theorem closeStation (f : RxFrame) (s : State) : Sustains s (closeStation f s) := by
  unfold Machine.closeStation
  dsimp only
  split_ifs with building
  · exact (works ((Works.closePart _ s).trans (.enterClosing _ .request _)) (·.closes building .request)).trans
      (answerDone ..)
  · exact refuse ..

theorem acknowledgeFault (f : RxFrame) (s : State) : Sustains s (acknowledgeFault f s) := by
  unfold Machine.acknowledgeFault
  dsimp only
  by_cases fault : s.stations[stationOf f.payload].state = .fault
  · rw [if_neg (by simpa using fault)]
    split_ifs with cause
    · exact (recallExchange fault cause).trans (answerStation ..)
    · exact refuse ..
    · exact refuse ..
    · exact (works (.keepBuild ..) (·.keepBuild fault _)).trans (answerStation ..)
    · exact (works (.discardBuild ..) (·.discardBuild fault _)).trans (answerStation ..)
  · rw [if_pos fault]
    exact refuse ..

theorem flushLane (f : RxFrame) (s : State) : Sustains s (flushLane f s) := by
  unfold Machine.flushLane
  dsimp only
  split_ifs
  · exact refuse ..
  · exact (bare (.flush ..)).trans (answerDone ..)

theorem readPlan (f : RxFrame) (s : State) : Sustains s (readPlan f s) := by
  unfold Machine.readPlan
  split
  · exact refuse ..
  · exact beginReply ..

theorem probe (f : RxFrame) (s : State) : Sustains s (probe f s) := by
  unfold Machine.probe
  dsimp only
  split
  · exact refuse ..
  · exact of_keeps (setProbe_setExec_keeps s _ _) (by simp)

theorem restart (f : RxFrame) (s : State) : Sustains s (restart f s) := by
  have emptied : ∀ v : State, Sustains v { v with reports := { v.reports with queue := [], lost := 0 } } := fun v =>
    bare (.of_same rfl rfl rfl rfl rfl)
  have started : ∀ v, Sustains v (restartReports v) := fun v => (emptied v).trans (report ..)
  have unlatched : ∀ v : State, Sustains v { v with req := { v.req with latch := false } } := fun v =>
    bare (.of_same rfl rfl rfl rfl rfl)
  exact (((answerDone ..).trans (started _)).trans (unlatched _)).trans (restartBlocks _)

theorem admitPlan (f : RxFrame) (s : State) : Sustains s (admitPlan f s) := by
  unfold Machine.admitPlan
  split_ifs
  · exact refuse ..
  · have opened : Sustains s (s.setAdmission (some (admissionOf f.payload))) := setAdmission fun a ha l hl => by
      obtain rfl := Option.some.inj ha
      cases hl
    exact opened.trans (setExec _ _)

theorem handleData (f : RxFrame) (s : State) : Sustains s (handleData f s) := by
  refine (supervise f.src s).trans ?_
  unfold Machine.handleData
  dsimp only
  split
  · exact refl _
  · split_ifs
    · exact takeData ..
    · exact refl _

theorem handleReserved (k : Byte) (f : RxFrame) (s : State) : Sustains s (handleReserved k f s) := by
  refine (supervise f.src s).trans ?_
  unfold Machine.handleReserved
  dsimp only
  split_ifs
  · exact refl _
  · exact refuse ..

/-! ### Partner frames -/

theorem partner {k : Byte} {act : List Byte → State → State} (ha : ∀ p s, Sustains s (act p s)) (f : RxFrame) (s : State) :
    Sustains s (partner k act f s) := by
  unfold Machine.partner
  split_ifs
  · exact refl s
  · exact supervise f.src s
  · exact (supervise f.src s).trans (ha _ _)

theorem arrival (p : List Byte) (s : State) : Sustains s (arrival p s) := by
  unfold Machine.arrival
  dsimp only
  split_ifs
  · exact refl s
  · exact bare (.setArrivals s _)

theorem takeReply (p : List Byte) (s : State) : Sustains s (takeReply p s) := by
  unfold Machine.takeReply
  split
  · exact works (.orderReply ..) (·.orderReply ..)
  · exact refl s

theorem takeReady (p : List Byte) (s : State) : Sustains s (takeReady p s) := by
  unfold Machine.takeReady
  split
  · exact refl s
  · split_ifs
    · exact readyRises ..
    · exact readyFalls ..
    · exact refl s

theorem exchangeDone (i : StationNo) (s : State) : Sustains s (exchangeDone i s) := by
  unfold Machine.exchangeDone
  split_ifs with state
  · exact exchangeEnds state
  · exact refl s

theorem takeTransport {act : StationNo → State → State} (ha : ∀ i s, Sustains s (act i s)) (p : List Byte) (s : State) :
    Sustains s (takeTransport act p s) := by
  unfold Machine.takeTransport
  split
  · exact ha ..
  · exact refl s

theorem takeLaneFrame {act : LaneNo → Tracking → State → State} (ha : ∀ k t s, Bare s (act k t s)) (p : List Byte)
    (s : State) : Sustains s (takeLaneFrame act p s) := by
  unfold Machine.takeLaneFrame
  split
  · exact bare (ha ..)
  · exact refl s

/-! ### Frames and commands -/

/-- A frame consumed by its kind (R184). -/
theorem consume (k : Byte) (f : RxFrame) (s : State) : Sustains s (consumeByKind k f s) := by
  generalize hg : consumeByKind k f = g
  unfold consumeByKind at hg
  split at hg
  case h_31 =>
    split_ifs at hg <;> subst hg
    · exact handleReserved k f s
    · exact supervise f.src s
  all_goals subst hg
  · exact request f (act := describe) (fun s => answerDone ..) s
  · exact request f (act := readState) (fun s => answerDone ..) s
  · exact handleSetTime f s
  · exact handleSetSettings f s
  · exact request f (act := loadArticles) (fun s => setExec s _) s
  · exact request f (deleteArticle f) s
  · exact request f (loadBase f) s
  · exact request f (loadKinds f) s
  · exact request f (loadLevels f) s
  · exact request f (admitPlan f) s
  · exact request f (withdrawPlan f) s
  · exact request f (setStation f) s
  · exact request f (closeStation f) s
  · exact request f (acknowledgeFault f) s
  · exact request f (flushLane f) s
  · exact request f (probe f) s
  · exact request f (act := readBuild) (fun s => beginReply ..) s
  · exact request f (readPlan f) s
  · exact request f (act := readLane) (fun s => beginReply ..) s
  · exact request f (act := setGate) (fun s => (of_keeps (setGate_keeps s _) (by simp)).trans (answerDone ..)) s
  · exact request f (restart f) s
  · exact handleData f s
  · exact partner arrival f s
  · exact partner takeReply f s
  · exact partner takeReady f s
  · exact partner (takeLaneFrame Bare.laneEntered) f s
  · exact partner (takeLaneFrame Bare.laneReleased) f s
  · exact partner (takeLaneFrame fun k _ s => Bare.laneFlushed k s) f s
  · exact partner (takeTransport exchangeStarts) f s
  · exact partner (takeTransport exchangeDone) f s

/-- A frame received: discarded, forwarded, consumed, or the last two (R182, R183). -/
theorem receive (k : Byte) (f : RxFrame) (s : State) : Sustains s (receive k f (consumeByKind k f) s) := by
  unfold Machine.receive
  split_ifs
  · exact refl s
  · exact (forward k f s).trans (consume k f _)
  · exact consume k f s
  · exact forward k f s

/-- A command's effect between two services of the ports. -/
theorem live {effect : State → State} (he : ∀ s, Sustains s (effect s)) (e : live effect s = .next t) : Sustains s t := by
  unfold Machine.live at e
  injection e with e
  subst e
  split_ifs
  · exact refl s
  · exact ((settle s).trans (he _)).trans (settle _)

theorem gapExpired (s : State) : Sustains s (gapExpired s) := by
  unfold Machine.gapExpired
  split
  · exact refl s
  · split
    · split_ifs
      · exact endLoad ..
      · exact refl s
    all_goals exact refl s

theorem takeTimer (i : StationNo) (s : State) : Sustains s (takeTimer i s) := by
  unfold Machine.takeTimer
  split_ifs
  · exact stationFault i (by decide) s
  · exact refl s

theorem placeTimer (i : StationNo) (s : State) : Sustains s (placeTimer i s) := by
  unfold Machine.placeTimer
  split_ifs
  · exact stationFault i (by decide) s
  · exact refl s

theorem exchangeTimer (i : StationNo) (s : State) : Sustains s (exchangeTimer i s) := by
  unfold Machine.exchangeTimer
  split_ifs with expired
  · have exchanging : s.stations[i].state = .exchanging := eq_of_beq (Bool.and_eq_true_iff.mp expired).2
    exact works (.faultExchange i s) (·.faultExchange exchanging)
  · exact refl s

/-- Every command keeps the two invariants of the plan store. -/
theorem exec {c : Instr} (e : exec c s = .next t) : Sustains s t := by
  have fresh : ∀ (v : State), Bare (State.powerOn v.link.ownNode) v → Sustains s v := fun v k =>
    (powerOn s _).trans (bare k)
  cases c with
  | powerOnReset =>
    injection e with e
    subst e
    exact fresh _ (.of_same rfl rfl rfl rfl rfl)
  | resetEnd pins =>
    injection e with e
    subst e
    split_ifs
    · refine ((powerOn s (nodeOf pins)).trans ?_).trans (settle _)
      exact bare (.of_same rfl rfl rfl rfl rfl)
    · exact refl s
  | unknownKind k f => exact live (receive k f) e
  | discardedKindFrame k f => exact live (receive k f) e
  | passThrough p raw =>
    refine live (fun v => ?_) e
    unfold receiveRaw
    split
    · exact refl v
    · exact receive _ _ v
  | dataGapExpiry => exact live gapExpired e
  | supervisionExpiry => exact live supervisionExpires e
  | takeTimerExpiry i => exact live (takeTimer i) e
  | placeTimerExpiry i => exact live (placeTimer i) e
  | exchangeTimerExpiry i => exact live (exchangeTimer i) e
  | releaseTimerExpiry k => exact live (fun v => bare (.releaseTimer k v)) e
  | returnDeadline u => exact live (fun v => bare (.deadlinePasses u v)) e
  | takingAnArrival => exact live takeArrival e
  | replanJob => exact live (fun v => works (.takeReplan v) (·.takeReplan)) e
  | laneHeadJob => exact live (fun v => works (.takeLane v) (·.takeLane)) e
  | probeJob => exact live takeProbe e
  | commitAttempt => exact live (fun v => works (.commitAttempt v) (·.commitAttempt)) e
  | frameSent p => exact live (frameSent p) e
  | lineTimeTick => exact live (fun v => bare (.moveTime v _)) e
  | describe f => exact live (receive 0x10 f) e
  | readState f => exact live (receive 0x11 f) e
  | setTime f => exact live (receive 0x12 f) e
  | setSettings f => exact live (receive 0x13 f) e
  | loadArticles f => exact live (receive 0x14 f) e
  | deleteArticle f => exact live (receive 0x15 f) e
  | loadBase f => exact live (receive 0x16 f) e
  | loadKinds f => exact live (receive 0x17 f) e
  | loadLevels f => exact live (receive 0x18 f) e
  | admitPlan f => exact live (receive 0x19 f) e
  | withdrawPlan f => exact live (receive 0x1A f) e
  | setStation f => exact live (receive 0x1B f) e
  | closeStation f => exact live (receive 0x1C f) e
  | acknowledgeFault f => exact live (receive 0x1D f) e
  | flushLane f => exact live (receive 0x1E f) e
  | probe f => exact live (receive 0x1F f) e
  | readBuild f => exact live (receive 0x20 f) e
  | readPlan f => exact live (receive 0x21 f) e
  | readLane f => exact live (receive 0x22 f) e
  | setGate f => exact live (receive 0x23 f) e
  | restart f => exact live (receive 0x24 f) e
  | data f => exact live (receive 0x28 f) e
  | arrival f => exact live (receive 0x40 f) e
  | orderReply f => exact live (receive 0x52 f) e
  | readyChange f => exact live (receive 0x53 f) e
  | exchangeStart f => exact live (receive 0x70 f) e
  | exchangeDone f => exact live (receive 0x71 f) e
  | laneEntered f => exact live (receive 0x62 f) e
  | laneReleased f => exact live (receive 0x63 f) e
  | laneFlushed f => exact live (receive 0x64 f) e

/-- Every step keeps the two invariants of the plan store. -/
theorem step (e : step s = .next t) : Sustains s t := by
  unfold Machine.step at e
  split at e
  · injection e with e
    exact e ▸ refl s
  · have fetched : ∀ q, Bare s (s.withPending q) := fun q => .of_same rfl rfl rfl rfl rfl
    exact (bare (fetched _)).trans (exec e)

end Sustains

/-- Settles O57: the counts move as the rules of the plan store let them; and a plan is BUILDING exactly where its station
works on it: it is bound to an IDLE station and leaves BUILDING before that station leaves the states in which it may stand,
that is by the part close before CLOSING and by its completion before the notice. -/
theorem countsStayOrdered : Obligations.CountsStayOrdered :=
  ⟨fun _ _ h e => (Sustains.step e).counts h, fun _ _ h e => (Sustains.step e).bindings h⟩

end Sys2Proof.Machine
end

section
/-!
PROOFS. The UNKNOWN order of a station in FAULT resolved by a disposition (R148, step 1).
-/

namespace Sys2Proof.Machine

/-! ### Lane flags between two states (R116) -/

/-- No flag is cleared, and only flags of lanes that are READY and list a case are set. -/
def FlagsBetween (s t : State) : Prop :=
  (∀ k : LaneNo, s.flag k = true → t.flag k = true)
    ∧ ∀ k : LaneNo, t.flag k = true → s.flag k = true ∨ s.lanes[k].flaggable = true

theorem FlagsBetween.of_keeps {ps : List Part} {s t : State} (h : KeepsAllBut ps s t) (hps : Part.flags ∉ ps) :
    FlagsBetween s t := by
  have flags : t.engine.flags = s.engine.flags := h.2.2 .flags hps
  exact ⟨fun k e => by rwa [State.flag, flags], fun k e => .inl (by rwa [State.flag, ← flags])⟩

theorem FlagsBetween.trans {s t u : State} (h : FlagsBetween s t) (hl : t.lanes = s.lanes) (k : FlagsBetween t u) :
    FlagsBetween s u :=
  ⟨fun n e => k.1 n (h.1 n e), fun n e => (k.2 n e).elim (h.2 n) fun e => .inr (hl ▸ e)⟩

theorem Offers.flagsBetween {s t : State} (h : Offers s t) : FlagsBetween s t := ⟨h.flagsKept, h.flags⟩

theorem FlagsRaised.flagsBetween {s t : State} (h : FlagsRaised s t) : FlagsBetween s t :=
  ⟨fun k e => (h k).mpr (.inl e), fun k e => ((h k).mp e).imp_right (flaggable_iff _).mpr⟩

/-- Flags raised behind a part of an event. -/
theorem FlagsBetween.raised {s t u : State} (h : FlagsBetween s t) (hl : t.lanes = s.lanes) (k : FlagsRaised t u) :
    FlagsRaised s u := by
  intro n
  rw [k n, hl]
  constructor
  · rintro (e | e)
    · exact (h.2 n e).imp_right (flaggable_iff _).mp
    · exact .inr e
  · exact Or.imp_left (h.1 n)

/-! ### The cases of an order off the build -/

section Unplace

variable {s : State} {i : StationNo} {os : List Order}

/-- P − 1 for the orders that leave, behind the truncation of the build. -/
theorem unplace_lessens (i : StationNo) (os : List Order) (s : State) : ∃ m n g, Lessens n g m (unplace i os s)
    ∧ KeepsAllBut [.builds, .flags] s m ∧ FlagsBetween s m := by
  unfold unplace
  dsimp only
  split
  · exact ⟨s, none, _, .refl none s, (KeepsAllBut.refl s).mono (by simp), .of_keeps (.refl s) (by simp)⟩
  · rename_i k rest _
    refine ⟨truncateBuild i k s, _, _, Lessens.foldl (fun u j => Lessens.planLess s.builds[i].planId j u) _ _,
      (truncateBuild_cut i k s).1, ?_⟩
    unfold truncateBuild
    split_ifs
    · exact (FlagsBetween.of_keeps (withBuild_keeps s i (s.builds[i].truncate k)) (by simp)).trans rfl
        (raiseFlags_raised _).flagsBetween
    · exact .of_keeps (.refl s) (by simp)

theorem unplace_flagsBetween (i : StationNo) (os : List Order) (s : State) : FlagsBetween s (unplace i os s) := by
  obtain ⟨m, _, _, lessens, keeps, flags⟩ := unplace_lessens i os s
  exact flags.trans (keeps.2.2 .lanes (by simp)) lessens.toOffers.flagsBetween

/-- A BUILDING plan keeps all but its lines. -/
theorem unplace_building (rising : RisingKeys Plan.key s.plans.plans) {id : PlanId} {p q : Plan} (hp : s.plan id = some p)
    (building : p.state = .building) (hq : (unplace i os s).plan id = some q) : q = { p with lines := q.lines } := by
  obtain ⟨m, _, _, lessens, keeps, -⟩ := unplace_lessens i os s
  have plans : m.plans.plans = s.plans.plans := keeps.2.2 .plans (by simp)
  obtain ⟨r, hr, -, stays⟩ := lessens.lines id p (by rwa [State.plan, plans])
  obtain rfl : r = q := Option.some.inj (hr.symm.trans hq)
  exact stays (by rwa [plans]) building

end Unplace

/-! ### The resolution -/

/-- The UNKNOWN order of station `i`, the oldest of them. -/
def State.unknownAt (s : State) (i : StationNo) : Option Order := s.stations[i].orders.find? fun o => o.state == .unknown

/-- The parts that the resolution of an UNKNOWN order changes. -/
def resolvedParts : List Part := [.portB, .exec, .plans, .tracks, .flags, .builds, .stations, .reports]

/-- What the resolution `r` of the UNKNOWN order of station `i` leaves. -/
structure Resolved (i : StationNo) (d : Nat) (r : Resolution) (s u : State) : Prop where
  emits  : Emits r.frames r.reports resolvedParts s u
  own    : u.stations[i] = { s.stations[i] with orders := r.orders, close := r.close }
  build  : u.builds[i] = r.build
  plans  : ∀ p : Plan, s.plan p.id = some p → (u.plan p.id).map (·.lines) = r.plan p
  stays  : ∀ p q : Plan, s.plan p.id = some p → p.state = .building → u.plan p.id = some q → q = { p with lines := q.lines }
  others : OthersAfter i r.notice s u
  told   : BindingsOk s → ∀ j : StationNo, r.notice = some j → s.stations[j].state ≠ .idle
  flags  : FlagsBetween s u
  missed : ∀ o e, s.unknownAt i = some o → s.track o.tracking = some e →
             u.track o.tracking = if d = 1 then none else some (e.missed s)
  cut    : ∀ o, s.unknownAt i = some o → d ≠ 1 → CutFlags i [o] s u
  alone  : ∀ o, s.unknownAt i = some o → NoPlace u o.tracking
  placed : Placed u

section Resolution

variable {s : State} {i : StationNo} {d : Nat} {o : Order}

theorem unknownAt_mem (h : s.unknownAt i = some o) : o ∈ s.stations[i].orders := List.mem_of_find?_eq_some h

theorem resolution_known (h : s.unknownAt i = none) : resolution s i d =
    { orders := s.stations[i].orders, build := s.builds[i], close := s.stations[i].close, plan := fun p => some p.lines
      notice := none, frames := [], reports := [] } := by
  unfold State.unknownAt at h
  unfold resolution
  dsimp only
  rw [h]

theorem resolveUnknown_known (h : s.unknownAt i = none) : resolveUnknown i d s = s := by
  unfold State.unknownAt at h
  unfold resolveUnknown
  rw [h]

/-- What is left of the queue once the order has ended. -/
def leftOf (s : State) (i : StationNo) (o : Order) : List Order := s.stations[i].orders.filter fun x => x.seq != o.seq

theorem resolution_removed (h : s.unknownAt i = some o) (hd : d ≠ 1) : resolution s i d =
    { orders := leftOf s i o, build := cutBuild s i [o], close := s.stations[i].close
      plan := fun p => some (lessBy (leavingOn s i [o] p.id) p.lines), notice := none, frames := [], reports := [] } := by
  unfold State.unknownAt at h
  unfold resolution
  dsimp only
  rw [h]
  dsimp only
  rw [if_pos hd]
  rfl

theorem resolveUnknown_removed (h : s.unknownAt i = some o) (hd : d ≠ 1) :
    resolveUnknown i d s = caseMissed o.tracking (unplace i [o] (endOrder i o s)) := by
  unfold State.unknownAt at h
  unfold resolveUnknown
  rw [h]
  exact if_neg hd

/-- DONE of an order of station `i`, behind its end, with the notice (R146, R148). -/
theorem resolveUnknown_done (h : s.unknownAt i = some o) : resolveUnknown i 1 s =
    notice (doneCase i o (endOrder i o s)).2 (doneCase i o (endOrder i o s)).1 := by
  unfold State.unknownAt at h
  unfold resolveUnknown
  rw [h]
  exact if_pos rfl

theorem resolution_chuted (h : s.unknownAt i = some o) {r : RejectReason} (ho : o.target = .reject r) :
    resolution s i 1 =
      { orders := leftOf s i o, build := s.builds[i], close := s.stations[i].close, plan := fun p => some p.lines
        notice := none, frames := [], reports := [.caseRejected o.tracking (s.snapCode o.tracking) r] } := by
  unfold State.unknownAt at h
  unfold resolution
  dsimp only
  rw [h]
  dsimp only
  rw [if_neg (by simp), ho]
  rfl

theorem resolution_unbuilt (h : s.unknownAt i = some o) {k : Nat} (ho : o.target = .place k)
    (hc : s.builds[i].cases[k]? = none) : resolution s i 1 =
      { orders := leftOf s i o, build := s.builds[i], close := s.stations[i].close, plan := fun p => some p.lines
        notice := none, frames := [], reports := [] } := by
  unfold State.unknownAt at h
  unfold resolution
  dsimp only
  rw [h]
  dsimp only
  rw [if_neg (by simp), ho]
  dsimp only
  rw [hc]
  rfl

theorem resolution_uncounted (h : s.unknownAt i = some o) {k : Nat} {c : CaseRec} (ho : o.target = .place k)
    (hc : s.builds[i].cases[k]? = some c) (none : countedPlan s s.builds[i] c.line = none) : resolution s i 1 =
      { orders := leftOf s i o, build := confirmedBuild s i k c, close := s.stations[i].close
        plan := fun p => some p.lines, notice := .none, frames := [], reports := [placedReport s i o k c] } := by
  unfold State.unknownAt at h
  unfold resolution
  dsimp only
  rw [h]
  dsimp only
  rw [if_neg (by simp), ho]
  dsimp only
  rw [hc]
  dsimp only
  rw [none]
  rfl

theorem resolution_counted (h : s.unknownAt i = some o) {k : Nat} {c : CaseRec} (ho : o.target = .place k)
    (hc : s.builds[i].cases[k]? = some c) {p : Plan} {ls : List PlanLine}
    (counted : countedPlan s s.builds[i] c.line = some (p, ls)) (open_ : ¬ ∀ m ∈ ls, m.placed = m.required) :
    resolution s i 1 =
      { orders := leftOf s i o, build := confirmedBuild s i k c, close := s.stations[i].close
        plan := fun q => some (if q.id = p.id then ls else q.lines), notice := .none, frames := []
        reports := [placedReport s i o k c] } := by
  unfold State.unknownAt at h
  unfold resolution
  dsimp only
  rw [h]
  dsimp only
  rw [if_neg (by simp), ho]
  dsimp only
  rw [hc]
  dsimp only
  rw [counted]
  exact if_neg open_

/-- The other station that takes the completion notice. -/
def toldOther (i : StationNo) (told : Option StationNo) : Option StationNo := if told = some i then none else told

/-- The stations that call for their exchange at the notice. -/
def callsOf (s : State) (other : Option StationNo) : List StationNo := other.toList.filter fun j => decide (Calls s j)

theorem resolution_completed (h : s.unknownAt i = some o) {k : Nat} {c : CaseRec} (ho : o.target = .place k)
    (hc : s.builds[i].cases[k]? = some c) {p : Plan} {ls : List PlanLine}
    (counted : countedPlan s s.builds[i] c.line = some (p, ls)) (done : ∀ m ∈ ls, m.placed = m.required)
    {told : Option StationNo} (ht : told = if p.state = .building then p.bound else none) :
    resolution s i 1 =
      { orders := leftOf s i o, build := confirmedBuild s i k c
        close := if told = some i then some .complete else s.stations[i].close
        plan := fun q => if q.id = p.id then none else some q.lines, notice := toldOther i told
        frames := (callsOf s (toldOther i told)).map fun j => callFrame s j s.builds[j]
        reports := [.planDone p.id p.part, placedReport s i o k c]
          ++ (callsOf s (toldOther i told)).map fun j => closedReport j s.builds[j] (some .complete) } := by
  subst ht
  unfold State.unknownAt at h
  unfold resolution
  dsimp only
  rw [h]
  dsimp only
  rw [if_neg (by simp), ho]
  dsimp only
  rw [hc]
  dsimp only
  rw [counted]
  exact if_pos done

end Resolution

end Sys2Proof.Machine
end

section
/-!
PROOFS. What the resolution of an UNKNOWN order leaves is what `resolution` says (R148, step 1).
-/

namespace Sys2Proof.Machine

section Resolved

variable {s : State} {i : StationNo} {d : Nat} {o : Order}

/-! ### The order out of its queue -/

theorem endOrder_eq (i : StationNo) (o : Order) (s : State) :
    endOrder i o s = s.withStation i { s.stations[i] with orders := leftOf s i o } := rfl

theorem resolved_known (h : s.unknownAt i = none) (placed : Placed s) :
    Resolved i d (resolution s i d) s (resolveUnknown i d s) := by
  have none : ∀ o, ¬ s.unknownAt i = some o := fun o e => nomatch h.symm.trans e
  rw [resolution_known h, resolveUnknown_known h]
  exact ⟨(emits_refl s).mono (by simp), rfl, rfl, fun p hp => by rw [hp]; rfl,
    fun p q hp _ hq => by rw [Option.some.inj (hp.symm.trans hq)], fun j _ => ⟨(nomatch ·), fun _ => .inl rfl, fun _ => rfl⟩,
    fun _ _ => (nomatch ·), .of_keeps (.refl s) (by simp), fun o _ e => absurd e (none o), fun o e => absurd e (none o),
    fun o e => absurd e (none o), placed⟩

theorem resolved_removed (h : s.unknownAt i = some o) (hd : d ≠ 1) (fault : s.stations[i].state = .fault)
    (placed : Placed s) (counts : CountsOk s) : Resolved i d (resolution s i d) s (resolveUnknown i d s) := by
  have busy : s.stations[i].state ≠ .idle := by rw [fault]; decide
  have cut := endOrder_cut i o busy
  have removed := leaves_removed placed (unknownAt_mem h)
  have alone := removed.noPlace List.mem_cons_self
  have flags := unplace_flagsBetween i [o] (endOrder i o s)
  have stays := fun (p q : Plan) (hp : s.plan p.id = some p) (building : p.state = .building)
    (hq : (unplace i [o] (endOrder i o s)).plan p.id = some q) =>
      unplace_building (s := endOrder i o s) counts.2.2 hp building hq
  rw [resolution_removed h hd, resolveUnknown_removed h hd]
  obtain ⟨emits, own, ⟨build, lines, others⟩, cutFlags⟩ := cut
  have track := removed.track
  have placed' := removed.keeps.placed
  generalize unplace i [o] (endOrder i o s) = m at *
  have missed := caseMissed_keeps o.tracking m
  have ends := caseMissed_ends o.tracking m
  have stations : (caseMissed o.tracking m).stations = m.stations := missed.2.2 .stations (by simp)
  have builds : (caseMissed o.tracking m).builds = m.builds := missed.2.2 .builds (by simp)
  have plans : (caseMissed o.tracking m).plans.plans = m.plans.plans := missed.2.2 .plans (by simp)
  have same : (caseMissed o.tracking m).engine.flags = m.engine.flags := missed.2.2 .flags (by simp)
  have time : m.link.time = s.link.time := emits.keeps.2.2 .time (by simp)
  have settings : m.req.settings = s.req.settings := emits.keeps.2.2 .settings (by simp)
  refine ⟨(emits.andThen (.of_keeps missed (by simp)) (by simp)).mono (by simp [resolvedParts]), by rw [stations, own]; rfl,
    by rw [builds, build], fun p hp => ?_, fun p q hp building hq => ?_, fun j hj => ?_, fun _ _ => (nomatch ·), ?_,
        fun o' e ho he => ?_,
    fun o' ho _ => ?_, fun o' ho => ?_, (ends.keeps placed' alone)⟩
  · obtain ⟨q, hq, ls⟩ := lines counts p.id p hp
    rw [State.plan, plans, ← State.plan, hq, Option.map_some, ls]
  · rw [State.plan, plans, ← State.plan] at hq
    exact stays p q hp building hq
  · obtain ⟨station, build⟩ := others j hj
    rw [stations, builds]
    exact ⟨(nomatch ·), fun _ => station, build⟩
  · exact flags.trans (emits.keeps.2.2 .lanes (by simp)) (.of_keeps missed (by simp))
  · obtain rfl : o = o' := Option.some.inj (h.symm.trans ho)
    rw [if_neg hd, track_caseMissed, if_pos rfl, track, he, Option.map_some, Track.missed, Track.missed, time, settings]
  · obtain rfl : o = o' := Option.some.inj (h.symm.trans ho)
    refine cutFlags.imp (fun cut n hn hlen k => ?_) fun none e => same.trans (none e)
    rw [State.flag, same]
    exact cut n hn hlen k
  · obtain rfl : o = o' := Option.some.inj (h.symm.trans ho)
    exact (Keeps.caseMissed placed' alone).names _ alone

/-! ### DONE, with the notice behind it -/

/-- The frames of the notice are those of the other station, seen from before. -/
theorem notice_calls {m : State} {n : Option StationNo} (fault : m.stations[i].state = .fault)
    (same : ∀ j : StationNo, j ≠ i → m.stations[j] = s.stations[j]) :
    (n.toList.filter fun j => decide (Calls m j)) = callsOf s (toldOther i n) := by
  unfold callsOf toldOther
  cases n with
  | none => rfl
  | some j =>
    rw [Option.toList_some, List.filter_singleton]
    by_cases own : j = i
    · subst own
      have silent : ¬ Calls m j := fun calls => by cases fault.symm.trans calls.1
      rw [decide_eq_false silent, if_pos rfl]
      rfl
    · have agree : Calls m j ↔ Calls s j := by unfold Calls; rw [same j own]
      rw [if_neg fun e => own (Option.some.inj e), Option.toList_some, List.filter_singleton, decide_eq_decide.mpr agree]

theorem callsOf_other {j : StationNo} {n : Option StationNo} (h : j ∈ callsOf s (toldOther i n)) : j ≠ i := by
  rintro rfl
  have listed := List.mem_of_mem_filter h
  unfold toldOther at listed
  split_ifs at listed with own
  · cases listed
  · exact own (Option.mem_toList.mp listed)

/-- The parts that DONE of a case changes. -/
def casePartsDone : List Part := [.plans, .tracks, .builds, .reports]

/-- The case of an UNKNOWN order done, whatever the order's target and the counts. -/
theorem resolved_done {b : Build} {reports : List ReportBody} {ps : List Part} {plan : Plan → Option (List PlanLine)}
    {n : Option StationNo} (h : s.unknownAt i = some o) (fault : s.stations[i].state = .fault) (placed : Placed s)
    (done : CaseDone i o b reports ps (endOrder i o s) (doneCase i o (endOrder i o s)).1) (hps : ∀ p ∈ ps, p ∈ casePartsDone)
    (hn : (doneCase i o (endOrder i o s)).2 = n)
    (plans : ∀ p : Plan, s.plan p.id = some p → ((doneCase i o (endOrder i o s)).1.plan p.id).map (·.lines) = plan p)
    (stays : ∀ p q : Plan, s.plan p.id = some p → (doneCase i o (endOrder i o s)).1.plan p.id = some q →
      q = { p with lines := q.lines })
    (awake : BindingsOk s → ∀ j, n = some j → s.stations[j].state ≠ .idle) :
    Resolved i 1
      { orders := leftOf s i o, build := b, close := if n = some i then some .complete else s.stations[i].close
        plan := plan, notice := toldOther i n
        frames := (callsOf s (toldOther i n)).map fun j => callFrame s j s.builds[j]
        reports := reports ++ (callsOf s (toldOther i n)).map fun j => closedReport j s.builds[j] (some .complete) }
      s (resolveUnknown i 1 s) := by
  rw [resolveUnknown_done h, hn]
  have outside : ∀ p, p ∉ casePartsDone → p ∉ ps := fun p hp h => hp (hps p h)
  have left := leaves_endOrder placed (unknownAt_mem h) (Chores.refl (endOrder i o s)).still
  have alone := left.noPlace List.mem_cons_self
  have settled := Keeps.doneCase left.keeps.placed i alone
  have before : KeepsAllBut [.stations] s (endOrder i o s) := withStation_keeps ..
  have record : (endOrder i o s).stations[i] = { s.stations[i] with orders := leftOf s i o } := withStation_same ..
  have others : OtherStations i s (endOrder i o s) := withStation_other _ _ _
  have builds : (endOrder i o s).builds = s.builds := rfl
  generalize (doneCase i o (endOrder i o s)).1 = m at *
  have first := (Emits.of_keeps before (by simp)).after done.emits (by simp)
  have stations : m.stations = (endOrder i o s).stations :=
    done.emits.keeps.2.2 .stations (outside _ (by simp [casePartsDone]))
  have own : m.stations[i] = { s.stations[i] with orders := leftOf s i o } := by rw [stations, record]
  have same : ∀ j : StationNo, j ≠ i → m.stations[j] = s.stations[j] := fun j hj => by rw [stations, others j hj]
  have sameBuild : ∀ j : StationNo, j ≠ i → m.builds[j] = s.builds[j] := fun j hj => by rw [done.others j hj, builds]
  have sent := notice_emits n m
  have settings : Part.Same s m .settings :=
    first.keeps.2.2 .settings (by simp [outside .settings (by simp [casePartsDone])])
  have frames : ((n.toList.filter fun j => decide (Calls m j)).map fun j => callFrame m j m.builds[j])
      = (callsOf s (toldOther i n)).map fun j => callFrame s j s.builds[j] := by
    rw [notice_calls (s := s) (by rw [own]; exact fault) same]
    refine List.map_congr_left fun j hj => ?_
    rw [sameBuild j (callsOf_other hj), callFrame_congr settings]
  have closed : ((n.toList.filter fun j => decide (Calls m j)).map fun j => closedReport j m.builds[j] (some .complete))
      = (callsOf s (toldOther i n)).map fun j => closedReport j s.builds[j] (some .complete) := by
    rw [notice_calls (s := s) (by rw [own]; exact fault) same]
    refine List.map_congr_left fun j hj => ?_
    rw [sameBuild j (callsOf_other hj)]
  rw [frames, closed] at sent
  have whole := first.trans sent (by
    simp [outside .ownNode (by simp [casePartsDone]), outside .time (by simp [casePartsDone]),
      outside .levels (by simp [casePartsDone])])
  have noticing := sent.keeps
  have buildsT : (notice n m).builds = m.builds := noticing.2.2 .builds (by simp [closingParts])
  have plansT : (notice n m).plans.plans = m.plans.plans := noticing.2.2 .plans (by simp [closingParts])
  have told : ∀ j : StationNo, j ≠ i → (toldOther i n = some j ↔ n = some j) := by
    intro j hj
    unfold toldOther
    split_ifs with here
    · simp [here, Ne.symm hj]
    · rfl
  refine ⟨whole.mono fun p hp => ?_, ?_, by rw [buildsT, done.build], fun p hp => ?_, fun p q hp _ hq => ?_,
    fun j hj => ⟨fun hj' => ?_, fun hj' => .inl ?_, fun _ => by rw [buildsT, sameBuild j hj]⟩,
    fun bindings j hj => awake bindings j (by unfold toldOther at hj; split_ifs at hj; exact hj), ?_, fun o' e ho _ => ?_,
    fun _ _ hd => absurd rfl hd, fun o' ho => ?_, ((Chores.notice n m).keeps settled.placed).placed⟩
  · rcases List.mem_append.mp hp with hp | hp
    · rcases List.mem_append.mp hp with hp | hp
      · simp_all [resolvedParts]
      · have := hps p hp
        simp only [casePartsDone, List.mem_cons, List.not_mem_nil, or_false] at this
        rcases this with rfl | rfl | rfl | rfl <;> simp [resolvedParts]
    · simp only [closingParts, List.mem_cons, List.not_mem_nil, or_false] at hp
      rcases hp with rfl | rfl | rfl | rfl <;> simp [resolvedParts]
  · by_cases here : n = some i
    · subst here
      rw [notice_own, noticed, own, if_pos rfl]
      dsimp only
      rw [fault]
    · rw [notice_other here, own, if_neg here]
  · rw [State.plan, plansT, ← State.plan, plans p hp]
  · rw [State.plan, plansT, ← State.plan] at hq
    exact stays p q hp hq
  · rw [(told j hj).mp hj', notice_own, noticed, noticed, same j hj]
  · rw [notice_other fun e => hj' ((told j hj).mpr e), same j hj]
  · exact .of_keeps whole.keeps (by
      simp [closingParts, outside .flags (by simp [casePartsDone])])
  · obtain rfl : o = o' := Option.some.inj (h.symm.trans ho)
    rw [if_pos rfl, track_congr (noticing.2.2 .tracks (by simp [closingParts])), done.track, if_pos rfl]
  · obtain rfl : o = o' := Option.some.inj (h.symm.trans ho)
    exact ((Chores.notice n m).keeps settled.placed).names _ (settled.names _ alone)

/-- No plan is counted. -/
theorem resolved_uncounted {b : Build} {reports : List ReportBody} {ps : List Part} (h : s.unknownAt i = some o)
    (fault : s.stations[i].state = .fault) (placed : Placed s)
    (done : CaseDone i o b reports ps (endOrder i o s) (doneCase i o (endOrder i o s)).1)
    (hps : ∀ p ∈ ps, p ∈ casePartsDone) (quiet : (doneCase i o (endOrder i o s)).2 = none)
    (plans : (doneCase i o (endOrder i o s)).1.plans.plans = s.plans.plans) :
    Resolved i 1
      { orders := leftOf s i o, build := b, close := s.stations[i].close, plan := fun p => some p.lines, notice := none
        frames := [], reports := reports } s (resolveUnknown i 1 s) := by
  have held : ∀ id, (doneCase i o (endOrder i o s)).1.plan id = s.plan id := fun id => by
    rw [State.plan, plans, ← State.plan]
  have resolved := resolved_done (plan := fun p => some p.lines) h fault placed done hps quiet
    (fun p hp => by rw [held, hp]; rfl)
    (fun p q hp hq => by
      rw [held, hp] at hq
      rw [Option.some.inj hq]) fun _ _ => (nomatch ·)
  have quietReports : reports ++ [] = reports := List.append_nil reports
  rw [if_neg (by simp)] at resolved
  exact quietReports ▸ resolved

/-- The resolution of the UNKNOWN order. -/
theorem resolveUnknown_resolved (fault : s.stations[i].state = .fault) (placed : Placed s) (counts : CountsOk s)
    (provisional : ∀ o k c, s.unknownAt i = some o → d = 1 → o.target = .place k → s.builds[i].cases[k]? = some c →
      c.tracking = o.tracking ∧ c.status = .provisional) :
    Resolved i d (resolution s i d) s (resolveUnknown i d s) := by
  cases h : s.unknownAt i with
  | none => exact resolved_known h placed
  | some o =>
    by_cases hd : d = 1
    · subst hd
      cases ho : o.target with
      | reject r =>
        obtain ⟨quiet, done⟩ := doneCase_reject (i := i) ho (endOrder i o s)
        rw [resolution_chuted h ho]
        exact resolved_uncounted h fault placed done (by simp [casePartsDone]) quiet
          (done.emits.keeps.2.2 .plans (by simp))
      | place k =>
        cases hc : s.builds[i].cases[k]? with
        | none =>
          have path : doneCase i o (endOrder i o s) = ((endOrder i o s).dropTrack o.tracking, none) := by
            have absent : (endOrder i o s).builds[i].cases[k]? = none := hc
            rw [doneCase, ho]
            simp only [casePlaced, absent]
          rw [resolution_unbuilt h ho hc]
          refine resolved_uncounted (ps := [.tracks]) h fault placed ?_ (by simp [casePartsDone]) (by rw [path])
            (by rw [path]; rfl)
          rw [path]
          exact ⟨.of_keeps (dropTrack_keeps ..) (by simp), rfl, rfl, fun _ _ => rfl⟩
        | some c =>
          obtain ⟨named, status⟩ := provisional o k c h rfl ho hc
          cases counted : countedPlan s s.builds[i] c.line with
          | none =>
            obtain ⟨quiet, plans, done⟩ := doneCase_uncounted (s := endOrder i o s) ho hc named status counted
            rw [resolution_uncounted h ho hc counted]
            exact resolved_uncounted h fault placed done (by simp [casePartsDone]) quiet plans
          | some x =>
            obtain ⟨p, ls⟩ := x
            obtain ⟨⟨own, others, told⟩, done⟩ := doneCase_counted (s := endOrder i o s) ho hc named status counted
            obtain ⟨-, held, -⟩ := countedPlan_some counted
            have parts : ∀ x ∈ [Part.plans, .reports, .tracks, .builds, .reports], x ∈ casePartsDone := by
              simp [casePartsDone]
            have stays : ∀ q r : Plan, s.plan q.id = some q →
                (doneCase i o (endOrder i o s)).1.plan q.id = some r → r = { q with lines := r.lines } := by
              intro q r hq hr
              by_cases same : q.id = p.id
              · rw [same] at hq hr
                obtain rfl : p = q := Option.some.inj (held.symm.trans hq)
                rw [own] at hr
                split_ifs at hr
                rw [← Option.some.inj hr]
              · have old : s.plan q.id = some r := (others q.id same).symm.trans hr
                rw [Option.some.inj (hq.symm.trans old)]
            have kept : ∀ q : Plan, s.plan q.id = some q → ((doneCase i o (endOrder i o s)).1.plan q.id).map (·.lines) =
                if q.id = p.id then (if ∀ m ∈ ls, m.placed = m.required then none else some ls) else some q.lines := by
              intro q hq
              by_cases same : q.id = p.id
              · rw [if_pos same, same, own]
                split_ifs <;> rfl
              · have old : (doneCase i o (endOrder i o s)).1.plan q.id = some q := (others q.id same).trans hq
                rw [if_neg same, old]
                rfl
            by_cases complete : ∀ m ∈ ls, m.placed = m.required
            · have notified : (doneCase i o (endOrder i o s)).2 = if p.state = .building then p.bound else none := by
                rw [told]
                simp only [eq_true complete, true_and]
              rw [resolution_completed h ho hc counted complete rfl]
              have resolved := resolved_done h fault placed done parts notified kept stays fun bindings j hj => by
                split_ifs at hj with building
                obtain ⟨j', bound, -, -, working⟩ := bindings.2.1 p (List.mem_of_find?_eq_some held) building
                obtain rfl : j' = j := Option.some.inj (bound.symm.trans hj)
                rcases working with e | ⟨e, -⟩ <;> (rw [e]; decide)
              rw [countReports_append, if_pos complete] at resolved
              simp only [if_pos complete] at resolved
              exact resolved
            · have quiet : (doneCase i o (endOrder i o s)).2 = none := told.trans (if_neg fun both => complete both.1)
              rw [resolution_counted h ho hc counted complete]
              have resolved := resolved_done h fault placed done parts quiet kept stays fun _ _ => (nomatch ·)
              rw [countReports_append, if_neg complete] at resolved
              simp only [if_neg complete] at resolved
              have lines : (fun q : Plan => if q.id = p.id then some ls else some q.lines)
                  = fun q => some (if q.id = p.id then ls else q.lines) := by
                funext q
                split_ifs <;> rfl
              rw [lines] at resolved
              exact resolved
    · exact resolved_removed h hd fault placed counts

end Resolved

end Sys2Proof.Machine
end

section
/-!
PROOFS. A build kept and a build discarded, up to the REJECT orders and the closing test (R148, R149).
-/

namespace Sys2Proof.Machine

/-! ### A kept build (R148) -/

/-- What a kept build leaves of its station, before the REJECT orders and the closing test. -/
structure BuildKept (i : StationNo) (u v : State) : Prop where
  emits  : Emits [] [] [.stations, .exec, .flags, .replans] u v
  own    : v.stations[i] =
             { u.stations[i] with
               cause := .none, state := if u.stations[i].close = none then .building else .closing }
  others : OtherStations i u v
  asked  : ReplansAsked i ((u.stations[i].spur.filter fun e => !e.discard).map (·.tracking)) u v
  raised : u.stations[i].close = none → FlagsRaised u v
  flags  : u.stations[i].close ≠ none → Part.Same u v .flags

theorem enterState_other (s : State) (i : StationNo) (n : StationState) : OtherStations i s (s.enterState i n) := by
  intro j hj
  rw [enterState_stations, withStation_other _ _ _ j hj]

theorem keepBuild_kept (i : StationNo) (d : Nat) (s : State) : ∃ v, keepBuild i d s = closingTest i (issueDiscards i v)
    ∧ BuildKept i (resolveUnknown i d s) v := by
  unfold keepBuild
  generalize resolveUnknown i d s = u
  dsimp only
  refine ⟨_, rfl, ?_⟩
  have named := emits_withStation u i { u.stations[i] with cause := .none }
  have path : (u.onStation i fun st => { st with cause := .none }) = u.withStation i { u.stations[i] with cause := .none } :=
    rfl
  have record := withStation_same u i { u.stations[i] with cause := .none }
  have others := withStation_other u i { u.stations[i] with cause := .none }
  rw [path, record]
  generalize u.withStation i { u.stations[i] with cause := .none } = w at *
  have entered : ∀ n, (w.enterState i n).stations[i] = { u.stations[i] with cause := .none, state := n } := fun n => by
    rw [enterState_stations, withStation_same, record]
  have readied : ∃ x, x = (if u.stations[i].close = none then raiseFlags (w.enterState i .building)
      else w.enterState i .closing) ∧ Emits [] [] [.stations, .exec, .flags] u x
      ∧ x.stations[i] = { u.stations[i] with
          cause := .none, state := if u.stations[i].close = none then .building else .closing }
      ∧ OtherStations i u x ∧ (u.stations[i].close = none → FlagsRaised u x)
      ∧ (u.stations[i].close ≠ none → Part.Same u x .flags) := by
    refine ⟨_, rfl, ?_⟩
    split_ifs with none
    · have entering := (named.after (emits_enterState w i .building) (by simp)).mono (qs := [.stations, .exec]) (by simp)
      have enteredOwn := entered .building
      have enteredOthers := others.trans (enterState_other w i .building)
      generalize w.enterState i .building = y at *
      have raising := raiseFlags_keeps y
      have raisedFlags := raiseFlags_raised y
      have stations : (raiseFlags y).stations = y.stations := raising.2.2 .stations (by simp)
      generalize raiseFlags y = z at *
      exact ⟨(entering.andThen (.of_keeps raising (by simp)) (by simp)).mono (by simp),
        (congrArg (·[i]) stations).trans enteredOwn,
        enteredOthers.trans (.of_keeps raising (by simp)),
        fun _ => (FlagsBetween.of_keeps entering.keeps (by simp)).raised (entering.keeps.2.2 .lanes (by simp)) raisedFlags,
        fun h => absurd none h⟩
    · have entering := named.after (emits_enterState w i .closing) (by simp)
      exact ⟨entering.mono (by simp), entered .closing, others.trans (enterState_other w i .closing),
        fun h => absurd h none, fun _ => entering.keeps.2.2 .flags (by simp)⟩
  obtain ⟨x, hx, emits, own, others', raised, flags⟩ := readied
  rw [← hx]
  have spur : x.stations[i].spur = u.stations[i].spur := by rw [own]
  rw [spur]
  obtain ⟨keeps, asks⟩ := askReplans_asks i SpurEntry.tracking (u.stations[i].spur.filter fun e => !e.discard) x
  have stations := keeps.2.2 .stations (by simp)
  have same := keeps.2.2 .flags (by simp)
  generalize (u.stations[i].spur.filter fun e => !e.discard).foldl (fun s e => askReplan i e.tracking s) x = v at *
  have stations' : v.stations = x.stations := stations
  refine ⟨(emits.andThen (.of_keeps keeps (by simp)) (by simp)).mono (by simp), by rw [stations', own],
    others'.trans (.of_keeps keeps (by simp)), asks.congr (emits.keeps.2.2 .replans (by simp)) (Part.Same.refl v .replans),
    fun none => ?_, fun some => (flags some).trans same⟩
  intro k
  have flag : v.flag k = x.flag k := by
    have flags : v.engine.flags = x.engine.flags := same
    rw [State.flag, flags, State.flag]
  rw [flag]
  exact raised none k

/-! ### A discarded build (R149) -/

/-- The report of a discarded build. -/
def discardedReport (u : State) (i : StationNo) : ReportBody :=
  .buildDiscarded i u.builds[i].planId u.builds[i].part u.builds[i].cases.length

/-- The record of a station whose build is discarded. -/
def Station.discarded (st : Station) : Station :=
  { st with
    spur := st.spur.map fun e => { e with discard := true }, cause := .none, close := some .discard, state := .closing }

/-- What a discarded build leaves, before the REJECT orders and the closing test. -/
structure BuildDiscarded (i : StationNo) (u v : State) : Prop where
  emits  : Emits [] [discardedReport u i] [.plans, .stations, .builds, .flags, .exec, .reports] u v
  own    : v.stations[i] = u.stations[i].discarded
  others : OthersMayBind i u v
  build  : v.builds[i] = u.builds[i].truncate 0
  raised : u.builds[i].cases ≠ [] → FlagsRaised u v
  flags  : FlagsBetween u v
  gone   : ∀ id, u.plan id = none → v.plan id = none
  lines  : CountsOk u → ∀ id p, u.plan id = some p → ∃ q, v.plan id = some q
             ∧ q.lines = if u.builds[i].planId = some id then takenBack u.builds[i].cases p.lines else p.lines
  closed : BindingsOk u → ∀ p q : Plan, u.plan p.id = some p → p.state = .building → p.bound = some i →
             v.plan p.id = some q → PartClosed i p q

theorem truncate_nil (b : Build) : (b.truncate 0).cases = [] := by
  unfold Build.truncate
  split_ifs with h
  · exact List.eq_nil_of_length_eq_zero ((length_rebuild b (b.cases.take 0)).trans (by simp))
  · exact List.eq_nil_of_length_eq_zero (Nat.eq_zero_of_not_pos h)

theorem OthersMayBind.trans {i : StationNo} {s t u : State} (h : OthersMayBind i s t) (k : OthersMayBind i t u) :
    OthersMayBind i s u := by
  intro j hj
  obtain ⟨station, build⟩ := h j hj
  obtain ⟨station', build'⟩ := k j hj
  constructor
  · rcases station with same | ⟨idle, bound⟩
    · rwa [same] at station'
    · rcases station' with same' | ⟨idle', -⟩
      · exact .inr ⟨idle, same'.trans bound⟩
      · rw [bound] at idle'
        cases idle'
  · intro busy
    rw [build' (by rw [station.resolve_right fun e => busy e.1]; exact busy), build busy]

theorem OthersMayBind.of_offers {s t : State} (h : Offers s t) (i : StationNo) : OthersMayBind i s t :=
  fun j _ => ⟨h.station j, h.build j⟩

theorem OthersMayBind.of_others {i : StationNo} {s t : State} (stations : OtherStations i s t) (builds : OtherBuilds i s t) :
    OthersMayBind i s t := fun j hj => ⟨.inl (stations j hj), fun _ => builds j hj⟩

theorem OtherBuilds.of_keeps {i : StationNo} {s t : State} {ps : List Part} (h : KeepsAllBut ps s t)
    (hps : Part.builds ∉ ps) : OtherBuilds i s t := by
  have builds : t.builds = s.builds := h.2.2 .builds hps
  exact fun j _ => by rw [builds]

/-- The cases off the build and their counts taken back, with the report (R149). -/
structure Reverted (i : StationNo) (u y : State) : Prop where
  emits  : Emits [] [discardedReport u i] [.plans, .stations, .builds, .flags, .exec, .reports] u y
  own    : y.stations[i] = u.stations[i]
  others : OthersMayBind i u y
  build  : y.builds[i] = u.builds[i].truncate 0
  raised : u.builds[i].cases ≠ [] → FlagsRaised u y
  flags  : FlagsBetween u y
  ids    : y.plans.plans.map Plan.id = u.plans.plans.map Plan.id
  lines  : ∀ id p, u.plan id = some p → ∃ q, y.plan id = some q
             ∧ (CountsOk u → q.lines = if u.builds[i].planId = some id then takenBack u.builds[i].cases p.lines else p.lines)
             ∧ (RisingKeys Plan.key u.plans.plans → p.state = .building → q = { p with lines := q.lines })

theorem reverted (i : StationNo) {u : State} (busy : u.stations[i].state ≠ .idle) :
    Reverted i u (report (discardedReport u i)
      (u.builds[i].cases.foldl (revertCase u.builds[i].planId) (truncateBuild i 0 u))) := by
  obtain ⟨keeps, build, others, raised⟩ := truncateBuild_cut i 0 u
  have between : FlagsBetween u (truncateBuild i 0 u) := by
    by_cases cases : 0 < u.builds[i].cases.length
    · exact (raised cases).flagsBetween
    · rw [truncateBuild, if_neg cases]
      exact .of_keeps (.refl u) (by simp)
  have stations : (truncateBuild i 0 u).stations = u.stations := keeps.2.2 .stations (by simp)
  have plans : (truncateBuild i 0 u).plans.plans = u.plans.plans := keeps.2.2 .plans (by simp)
  have lanes : (truncateBuild i 0 u).lanes = u.lanes := keeps.2.2 .lanes (by simp)
  generalize truncateBuild i 0 u = m at *
  have lessens := Lessens.foldl (fun v c => Lessens.revertCase u.builds[i].planId v c) u.builds[i].cases m
  generalize u.builds[i].cases.foldl (revertCase u.builds[i].planId) m = x at *
  have busyM : m.stations[i].state ≠ .idle := by rwa [stations]
  have told := emits_report (discardedReport u i) x
  have stationsY : (report (discardedReport u i) x).stations = x.stations := told.keeps.2.2 .stations (by simp)
  have buildsY : (report (discardedReport u i) x).builds = x.builds := told.keeps.2.2 .builds (by simp)
  have plansY : (report (discardedReport u i) x).plans.plans = x.plans.plans := told.keeps.2.2 .plans (by simp)
  have flagsY : FlagsBetween x (report (discardedReport u i) x) := .of_keeps told.keeps (by simp)
  have sameY := told.keeps.2.2 .flags (by simp)
  generalize report (discardedReport u i) x = y at *
  have first := ((Emits.of_keeps keeps (by simp)).after lessens.toOffers.emits (by simp)).trans told (by simp)
  refine ⟨first.mono (by simp), by rw [stationsY, lessens.stays busyM, stations], ?_, by
    rw [buildsY, lessens.build i busyM, build], fun cases k => ?_, ?_, ?_, fun id p hp => ?_⟩
  · exact ((OthersMayBind.of_others (.of_keeps keeps (by simp)) others).trans (.of_offers lessens.toOffers i)).trans
      (.of_others (.of_keeps told.keeps (by simp)) (.of_keeps told.keeps (by simp)))
  · have flag : y.flag k = x.flag k := by
      have flags : y.engine.flags = x.engine.flags := sameY
      rw [State.flag, flags, State.flag]
    rw [flag]
    exact (raised (List.length_pos_iff.mpr cases)).offers lanes lessens.toOffers k
  · exact (between.trans lanes lessens.toOffers.flagsBetween).trans (lessens.lanes.trans lanes) flagsY
  · rw [plansY, lessens.ids, plans]
  · obtain ⟨q, hq, lines, stays⟩ := lessens.lines id p (by rwa [State.plan, plans])
    refine ⟨q, by rwa [State.plan, plansY], fun counts => ?_, fun rising => stays (by rwa [plans])⟩
    rw [lines, foldl_takeBack _ (countsOk_lines counts hp)]

theorem discardBuild_discarded {i : StationNo} {d : Nat} {s : State}
    (busy : (resolveUnknown i d s).stations[i].state ≠ .idle) :
    ∃ v, discardBuild i d s = closingTest i (issueDiscards i v) ∧ BuildDiscarded i (resolveUnknown i d s) v := by
  unfold discardBuild
  generalize resolveUnknown i d s = u at busy
  have taken := reverted i busy
  have bindings : BindingsOk u → BindingsOk (report (discardedReport u i)
      (u.builds[i].cases.foldl (revertCase u.builds[i].planId) (truncateBuild i 0 u))) := fun h =>
    ((h.bare (.truncateBuild i 0 u)).revertCases _ _).bare (.report ..)
  have path : report (.buildDiscarded i u.builds[i].planId u.builds[i].part u.builds[i].cases.length)
      (u.builds[i].cases.foldl (revertCase u.builds[i].planId) (truncateBuild i 0 u))
      = report (discardedReport u i) (u.builds[i].cases.foldl (revertCase u.builds[i].planId) (truncateBuild i 0 u)) := rfl
  dsimp only
  rw [path]
  refine ⟨_, rfl, ?_⟩
  generalize report (discardedReport u i)
    (u.builds[i].cases.foldl (revertCase u.builds[i].planId) (truncateBuild i 0 u)) = y at *
  have busyY : y.stations[i].state ≠ .idle := by rwa [taken.own]
  have part := closePart_closes i y
  generalize closePart i y = z at *
  have ownZ : z.stations[i] = u.stations[i] := by rw [part.stays busyY, taken.own]
  have marked := emits_withStation z i { z.stations[i] with
    spur := z.stations[i].spur.map fun e => { e with discard := true }, cause := .none, close := some .discard }
  have markedOwn := withStation_same z i { z.stations[i] with
    spur := z.stations[i].spur.map fun e => { e with discard := true }, cause := .none, close := some .discard }
  have markedOthers := withStation_other z i { z.stations[i] with
    spur := z.stations[i].spur.map fun e => { e with discard := true }, cause := .none, close := some .discard }
  rw [onStation_eq]
  generalize z.withStation i { z.stations[i] with
    spur := z.stations[i].spur.map fun e => { e with discard := true }, cause := .none, close := some .discard } = w at *
  have last := (marked.after (emits_enterState w i .closing) (by simp)).mono (qs := [.stations, .exec]) (by simp)
  have own : (w.enterState i .closing).stations[i] = u.stations[i].discarded := by
    rw [enterState_stations, withStation_same, markedOwn, ownZ, Station.discarded]
  have others := markedOthers.trans (enterState_other w i .closing)
  generalize w.enterState i .closing = v at *
  have builds : v.builds = z.builds := last.keeps.2.2 .builds (by simp)
  have plans : v.plans.plans = z.plans.plans := last.keeps.2.2 .plans (by simp)
  have flags : v.engine.flags = z.engine.flags := last.keeps.2.2 .flags (by simp)
  have lanesY : y.lanes = u.lanes := taken.emits.keeps.2.2 .lanes (by simp)
  have whole := (taken.emits.andThen part.emits (by simp)).andThen last (by simp)
  refine ⟨whole.mono (by simp), own, ?_, by rw [builds, part.build i busyY, taken.build], fun cases k => ?_, ?_,
    fun id none => ?_, fun counts id p hp => ?_, fun ok p q hp building bound hq => ?_⟩
  · exact (taken.others.trans (.of_offers part.toOffers i)).trans (.of_others others (.of_keeps last.keeps (by simp)))
  · have flag : v.flag k = z.flag k := by rw [State.flag, flags, State.flag]
    rw [flag]
    exact (taken.raised cases).offers lanesY part.toOffers k
  · exact (taken.flags.trans lanesY part.flagsBetween).trans (part.lanes.trans lanesY) (.of_keeps last.keeps (by simp))
  · rw [State.plan, plans, ← State.plan]
    exact (plan_none_of_ids (part.ids.trans taken.ids)).mpr none
  · obtain ⟨r, hr, lines, -⟩ := taken.lines id p hp
    obtain ⟨q, hq, same⟩ := part.lines id r hr
    exact ⟨q, by rwa [State.plan, plans], same.trans (lines counts)⟩
  · have okY := bindings ok
    obtain ⟨r, hr, -, stays⟩ := taken.lines p.id p hp
    have same := stays ok.rising building
    have building' : r.state = .building := by rw [same]; exact building
    have bound' : r.bound = some i := by rw [same]; exact bound
    have id : r.id = p.id := plan_id hr
    have at_i : y.planAt i = some r := okY.planAt (List.mem_of_find?_eq_some hr) building' bound'
    obtain ⟨q', hq', lines, closed⟩ := part.closed okY.rising busyY r at_i
    rw [State.plan, plans, ← State.plan, ← id, hq'] at hq
    obtain rfl := Option.some.inj hq
    have number : r.part = p.part := by rw [same]
    unfold PartClosed
    rw [lines]
    rw [number] at closed
    split_ifs at closed ⊢
    · exact ⟨closed.1, closed.2.1⟩
    · exact closed

end Sys2Proof.Machine
end

section
/-!
PROOFS. ACKNOWLEDGE FAULT (R147 to R149).
-/

namespace Sys2Proof.Machine

/-! ### Whatever the state: the parts changed -/

/-- These parts change at most, and a device READY for requests stays so. -/
structure Changes (ps : List Part) (s t : State) : Prop where
  keeps : KeepsAllBut ps s t
  ready : s.req.exec = none → Part.Same s t .exec

namespace Changes

variable {ps qs : List Part} {s t u : State}

theorem of_keeps (h : KeepsAllBut ps s t) (hps : Part.exec ∉ ps) : Changes ps s t := ⟨h, fun _ => h.2.2 .exec hps⟩

theorem mono (h : Changes ps s t) (hs : ∀ p ∈ ps, p ∈ qs) : Changes qs s t := ⟨h.keeps.mono hs, h.ready⟩

theorem trans (h : Changes ps s t) (k : Changes ps t u) : Changes ps s u :=
  ⟨h.keeps.trans k.keeps, fun none => (h.ready none).trans (k.ready ((h.ready none).1.trans none))⟩

end Changes

theorem Emits.changes {frames : List (Nat × OwnBody)} {reports : List ReportBody} {ps : List Part} {s t : State}
    (h : Emits frames reports ps s t) : Changes ps s t := ⟨h.keeps, h.ready⟩

section Weak

variable {s : State} {i : StationNo} {d : Nat}

/-- What an order issue leaves of queue and spur list: orders it adds are ISSUED, and no case joins the spur. -/
def Station.IssuesTo (st st' : Station) : Prop :=
  (∀ o ∈ st'.orders, o ∈ st.orders ∨ o.state = .issued) ∧ ∀ e ∈ st'.spur, e ∈ st.spur

theorem Station.IssuesTo.trans {st st' st'' : Station} (h : st.IssuesTo st') (k : st'.IssuesTo st'') : st.IssuesTo st'' :=
  ⟨fun o ho => (k.1 o ho).elim (h.1 o) .inr, fun e he => h.2 e (k.2 e he)⟩

theorem issueDiscard_issues (i : StationNo) (s : State) : s.stations[i].IssuesTo (issueDiscard i s).stations[i] := by
  have same : s.stations[i].IssuesTo s.stations[i] := ⟨fun _ h => .inl h, fun _ h => h⟩
  unfold issueDiscard
  split_ifs
  · split
    · rename_i e _
      obtain ⟨-, stations⟩ := issueOrder_emits i e.tracking (.reject .discard) (.reject .discard)
        (leaveSpur i e.tracking s)
      have own : (rejectOrder i e.tracking .discard s).stations[i] =
          (leaveSpur i e.tracking s).stations[i].issue e.tracking (.reject .discard) (leaveSpur i e.tracking s).takeExpiry :=
        (congrArg (·[i]) stations).trans (withStation_same ..)
      have left : (leaveSpur i e.tracking s).stations[i]
          = { s.stations[i] with spur := s.stations[i].spur.filter fun x => x.tracking != e.tracking } := onStation_get ..
      rw [own, left]
      refine ⟨fun o ho => ?_, fun x hx => List.mem_of_mem_filter hx⟩
      rcases List.mem_append.mp ho with old | new
      · exact .inl old
      · rw [List.mem_singleton.mp new]
        exact .inr rfl
    · exact same
  · exact same

theorem issueDiscards_issues (i : StationNo) (s : State) : s.stations[i].IssuesTo (issueDiscards i s).stations[i] :=
  (((issueDiscard_issues i s).trans (issueDiscard_issues i _)).trans (issueDiscard_issues i _)).trans
    (issueDiscard_issues i _)

/-- What REJECT orders and closing test leave of a station, whatever the state before. -/
structure GoesOnClosing (i : StationNo) (v x : State) : Prop where
  changes : Changes [.portB, .exec, .stations, .tracks, .reports] v x
  issues  : v.stations[i].IssuesTo x.stations[i]
  record  : x.stations[i].cause = v.stations[i].cause ∧ x.stations[i].close = v.stations[i].close
  state   : x.stations[i].state = v.stations[i].state
              ∨ v.stations[i].state = .closing ∧ x.stations[i].state = .awaitExchange

theorem goesOnClosing (i : StationNo) (v : State) : GoesOnClosing i v (closingTest i (issueDiscards i v)) := by
  have issued := Changes.of_keeps ((issueDiscards_elsewhere i v).keeps.mono
    (qs := [.portB, .stations, .tracks]) (by simp)) (by simp)
  obtain ⟨state, cause, close⟩ := (Bare.issueDiscards i v).station i
  have issues := issueDiscards_issues i v
  generalize issueDiscards i v = w at *
  replace issued := issued.mono (qs := [.portB, .exec, .stations, .tracks, .reports]) (by simp)
  by_cases closing : w.stations[i].state = .closing
  · obtain ⟨emits, stations⟩ := closingTest_emits closing
    have own := (congrArg (·[i]) stations).trans (withStation_same ..)
    dsimp only at own
    refine ⟨issued.trans (emits.changes.mono (by simp [closingParts])), ?_, ?_, ?_⟩
    · rw [own]
      exact issues
    · rw [own]
      exact ⟨cause, close⟩
    · rw [own]
      dsimp only
      split_ifs
      · exact .inr ⟨state.symm.trans closing, rfl⟩
      · exact .inl (closing.symm.trans state)
  · rw [closingTest_idle fun h => absurd h closing]
    exact ⟨issued, issues, ⟨cause, close⟩, .inl state⟩

/-- What the resolution of an UNKNOWN order leaves of the station, whatever the state before. -/
structure ResolvesTo (i : StationNo) (s u : State) : Prop where
  changes : Changes resolvedParts s u
  fault   : u.stations[i].state = .fault
  orders  : u.stations[i].orders = match s.unknownAt i with
              | none => s.stations[i].orders
              | some o => leftOf s i o
  known   : s.unknownAt i = none → u = s

theorem resolveUnknown_resolvesTo (fault : s.stations[i].state = .fault) (d : Nat) :
    ResolvesTo i s (resolveUnknown i d s) := by
  have fault' := resolveUnknown_fault fault d
  cases h : s.unknownAt i with
  | none =>
    rw [resolveUnknown_known h] at fault' ⊢
    exact ⟨(Changes.of_keeps (.refl s) (by simp)).mono (by simp), fault, by rw [h], fun _ => rfl⟩
  | some o =>
    refine ⟨?_, fault', ?_, fun none => nomatch h.symm.trans none⟩
    all_goals by_cases hd : d = 1
    · subst hd
      rw [resolveUnknown_done h]
      have ended : Changes [.stations] s (endOrder i o s) := .of_keeps (withStation_keeps ..) (by simp)
      have done := Changes.of_keeps (doneCase_keeps i o (endOrder i o s)) (by simp)
      have noticed := (notice_emits (doneCase i o (endOrder i o s)).2 (doneCase i o (endOrder i o s)).1).changes
      exact ((ended.mono (by simp [resolvedParts])).trans (done.mono (by simp [resolvedParts]))).trans
        (noticed.mono (by simp [resolvedParts, closingParts]))
    · rw [resolveUnknown_removed h hd]
      have cut := (endOrder_cut i o (s := s) (by rw [fault]; decide)).emits.changes
      exact (cut.mono (by simp [resolvedParts])).trans
        ((Changes.of_keeps (caseMissed_keeps o.tracking _) (by simp)).mono (by simp [resolvedParts]))
    · subst hd
      rw [resolveUnknown_done h, h]
      have stations : (doneCase i o (endOrder i o s)).1.stations = (endOrder i o s).stations :=
        (doneCase_keeps i o _).2.2 .stations (by simp)
      have own : (endOrder i o s).stations[i] = { s.stations[i] with orders := leftOf s i o } := withStation_same ..
      rw [(notice_fault (by rw [stations, own]; exact fault)).2.2, stations, own]
    · rw [resolveUnknown_removed h hd, h]
      have stations : (caseMissed o.tracking (unplace i [o] (endOrder i o s))).stations
          = (unplace i [o] (endOrder i o s)).stations := (caseMissed_keeps ..).2.2 .stations (by simp)
      rw [stations, (endOrder_cut i o (s := s) (by rw [fault]; decide)).own]
      rfl

/-- No order is UNKNOWN once the oldest is resolved. -/
theorem ResolvesTo.noUnknown {u : State} (h : ResolvesTo i s u) (ok : StationsOk s) :
    ∀ o ∈ u.stations[i].orders, o.state ≠ .unknown := by
  rw [h.orders]
  cases hu : s.unknownAt i with
  | none => exact fun o ho e => by simpa [e] using List.find?_eq_none.mp hu o ho
  | some o =>
    intro x hx unknown
    obtain ⟨listed, other⟩ := List.mem_filter.mp hx
    have state : o.state = .unknown := by simpa using List.find?_some hu
    have head : ∀ y ∈ s.stations[i].orders, y.state = .unknown → some y = s.stations[i].orders.head? := by
      intro y hy e
      cases hos : s.stations[i].orders with
      | nil => rw [hos] at hy; cases hy
      | cons z rest =>
        rw [hos] at hy
        rcases List.mem_cons.mp hy with rfl | later
        · rfl
        · have issued := (ok i).2 y (by rw [hos]; exact later)
          rw [issued] at e
          cases e
    have same : x = o := Option.some.inj ((head x listed unknown).trans (head o (unknownAt_mem hu) state).symm)
    simp [same] at other

end Weak

/-! ### The other stations -/

section Others

variable {i : StationNo} {n : Option StationNo} {s u t : State}

theorem noticed_awake {j : StationNo} (h : s.stations[j].state ≠ .idle) : (noticed s j).state ≠ .idle := by
  unfold noticed
  split
  · dsimp only
    split_ifs <;> decide
  · rename_i fault
    dsimp only
    rw [fault]
    decide
  · exact h

theorem OthersAfter.mayBind (h : OthersAfter i n s u) (awake : ∀ j : StationNo, n = some j → s.stations[j].state ≠ .idle)
    (k : OthersMayBind i u t) : OthersAfter i n s t := by
  intro j hj
  obtain ⟨own, other, build⟩ := h j hj
  obtain ⟨station, build'⟩ := k j hj
  have stays : ∀ st : Station, u.stations[j] = st → st.state ≠ .idle → t.stations[j] = st := fun st same busy =>
    (station.resolve_right fun e => busy (same ▸ e.1)).trans same
  refine ⟨fun told => stays _ (own told) (noticed_awake (awake j told)), fun untold => ?_, fun busy => ?_⟩
  · rcases other untold with same | ⟨idle, bound⟩
    · rwa [same] at station
    · exact .inr ⟨idle, stays _ bound (by simp)⟩
  · have busy' : u.stations[j].state ≠ .idle := by
      by_cases told : n = some j
      · rw [own told]
        exact noticed_awake busy
      · rwa [(other told).resolve_right fun e => busy e.1]
    rw [build' busy', build busy]

theorem OthersAfter.behind (h : OthersAfter i n s u) (stations : OtherStations i u t) (builds : OtherBuilds i u t) :
    OthersAfter i n s t := by
  intro j hj
  rw [stations j hj, builds j hj]
  exact h j hj

end Others

/-- The cases that no place names keep their entries when a station goes on closing. -/
theorem goesOnClosing_track {i : StationNo} {v : State} (placed : Placed v) {u : Tracking} (alone : NoPlace v u) :
    (closingTest i (issueDiscards i v)).track u = v.track u := by
  by_cases closing : v.stations[i].state = .closing
  · have discards := issueDiscards_chutes closing (placed.spur i).1
    have spared : (issueDiscards i v).track u = v.track u := discards.kept u fun listed => by
      obtain ⟨e, he, rfl⟩ := List.mem_map.mp listed
      exact alone (.spur i) (e.tracking, 0)
        (List.mem_map.mpr ⟨e, List.mem_of_mem_filter ((List.take_sublist ..).subset he), rfl⟩) rfl
    have state : (issueDiscards i v).stations[i].state = .closing := ((Bare.issueDiscards i v).station i).1.trans closing
    rw [track_congr ((closingTest_emits state).1.keeps.2.2 .tracks (by simp [closingParts])), spared]
  · rw [issueDiscards_idle closing, closingTest_idle fun h => absurd h closing]

end Sys2Proof.Machine
end

section
/-!
PROOFS. ACKNOWLEDGE FAULT (R147 to R149): O39.
-/

namespace Sys2Proof.Machine

section Acknowledge

variable {f : RxFrame} {s : State}

/-! ### The cases of an ACKNOWLEDGE FAULT (R147) -/

theorem acknowledge_other (h : s.stations[stationOf f.payload].state ≠ .fault) :
    acknowledgeFault f s = refuse 0x1D .wrongState 0 f s := if_pos h

section Fault

variable (fault : s.stations[stationOf f.payload].state = .fault)
include fault

theorem acknowledge_recall (cause : s.stations[stationOf f.payload].cause = .exchangeTimeout) :
    acknowledgeFault f s = answerStation 0x1D f (stationOf f.payload) (recallExchange (stationOf f.payload) s) :=
  (if_neg (not_not_intro fault)).trans (if_pos cause)

variable (cause : s.stations[stationOf f.payload].cause ≠ .exchangeTimeout)
include cause

theorem acknowledge_notReady (ready : s.stations[stationOf f.payload].ready = false) :
    acknowledgeFault f s = refuse 0x1D .wrongState 0 f s :=
  ((if_neg (not_not_intro fault)).trans (if_neg cause)).trans (if_pos (by rw [ready]; rfl))

variable (ready : s.stations[stationOf f.payload].ready = true)
include ready

theorem acknowledge_undisposed (unknown : ∃ o ∈ s.stations[stationOf f.payload].orders, o.state = .unknown)
    (none : u8At f.payload 2 = 0) : acknowledgeFault f s = refuse 0x1D .badField 3 f s := by
  have listed : (s.stations[stationOf f.payload].orders.any fun o => o.state == .unknown) = true := by
    obtain ⟨o, ho, state⟩ := unknown
    exact List.any_eq_true.mpr ⟨o, ho, by rw [state]; rfl⟩
  refine (((if_neg (not_not_intro fault)).trans (if_neg cause)).trans (if_neg (by rw [ready]; decide))).trans (if_pos ?_)
  rw [listed, none]
  rfl

theorem acknowledge_taken
    (disposed : (∃ o ∈ s.stations[stationOf f.payload].orders, o.state = .unknown) → u8At f.payload 2 ≠ 0) :
    acknowledgeFault f s = answerStation 0x1D f (stationOf f.payload)
      (if u8At f.payload 1 = 0 then keepBuild (stationOf f.payload) (u8At f.payload 2) s
        else discardBuild (stationOf f.payload) (u8At f.payload 2) s) := by
  have settled : ¬ ((s.stations[stationOf f.payload].orders.any fun o => o.state == .unknown)
      && u8At f.payload 2 == 0) = true := by
    intro both
    obtain ⟨listed, none⟩ := Bool.and_eq_true_iff.mp both
    obtain ⟨o, ho, state⟩ := List.any_eq_true.mp listed
    exact disposed ⟨o, ho, eq_of_beq state⟩ (eq_of_beq none)
  refine (((if_neg (not_not_intro fault)).trans (if_neg cause)).trans (if_neg (by rw [ready]; decide))).trans
    ((if_neg settled).trans ?_)
  split_ifs <;> rfl

end Fault

/-! ### The answer -/

/-- The acknowledge answered, behind an act that changes these parts. -/
theorem acknowledge_answered {x : State} {ps : List Part} (h : TakenAt 0x1D 3 f s) (hb : badAcknowledge f.payload = none)
    (hact : acknowledgeFault f (s.setSup (fedTimer f.src s)) = answerStation 0x1D f (stationOf f.payload) x)
    (changes : Changes (.exec :: ps) (s.setSup (fedTimer f.src s)) x)
    (hps : Part.portA ∉ ps ∧ Part.exec ∉ ps ∧ Part.ownNode ∉ ps ∧ Part.sup ∉ ps) :
    ∃ t, exec (.acknowledgeFault f) s = .next t
      ∧ AnsweredDone 0x1D f (.stationState t.stations[stationOf f.payload].state) s t
      ∧ KeepsAllBut (.portA :: .portB :: .sup :: ps) s t
      ∧ Emits [] [] [.portA, .portB] x t := by
  have changed := changes.keeps.but (changes.ready h.ready)
  obtain ⟨t, run, put, sup, keeps, joined⟩ := request_answered_with h hb hact changed hps
  have stations : t.stations = x.stations := keeps.2.2 .stations (by simp)
  refine ⟨t, run, by rw [stations]; exact ⟨put, sup⟩, ?_, keeps, joined,
    reports_eq (keeps.2.2 .reports (by simp)) (keeps.2.2 .levels (by simp)), fun _ => keeps.2.2 .exec (by simp)⟩
  exact ((setSup_keeps ..).mono (by simp)).trans ((changed.mono (by simp +contextual)).trans (keeps.mono (by simp)))

/-- The parts that a kept or a discarded build changes, but for the watch of a reply. -/
def acknowledgedParts : List Part := [.portB, .plans, .tracks, .replans, .flags, .builds, .stations, .reports]

theorem keepBuild_changes {v : State} (fault : v.stations[stationOf f.payload].state = .fault) (d : Nat) :
    Changes (.exec :: acknowledgedParts) v (keepBuild (stationOf f.payload) d v) := by
  obtain ⟨w, path, kept⟩ := keepBuild_kept (stationOf f.payload) d v
  rw [path]
  exact (((resolveUnknown_resolvesTo fault d).changes.mono (by simp [resolvedParts, acknowledgedParts])).trans
    (kept.emits.changes.mono (by simp [acknowledgedParts]))).trans
      ((goesOnClosing _ w).changes.mono (by simp [acknowledgedParts]))

theorem discardBuild_changes {v : State} (fault : v.stations[stationOf f.payload].state = .fault) (d : Nat) :
    Changes (.exec :: acknowledgedParts) v (discardBuild (stationOf f.payload) d v) := by
  obtain ⟨w, path, discarded⟩ := discardBuild_discarded (i := stationOf f.payload) (d := d) (s := v)
    (by rw [resolveUnknown_fault fault]; decide)
  rw [path]
  exact (((resolveUnknown_resolvesTo fault d).changes.mono (by simp [resolvedParts, acknowledgedParts])).trans
    (discarded.emits.changes.mono (by simp [acknowledgedParts]))).trans
      ((goesOnClosing _ w).changes.mono (by simp [acknowledgedParts]))

/-! ### What a kept and a discarded build leave (R148, R149) -/

/-- The same station records, builds and entries: what `AnsweredDone` adds behind an act. -/
theorem afterAnswer {x t : State} (final : Emits [] [] [.portA, .portB] x t) :
    t.stations = x.stations ∧ t.builds = x.builds ∧ t.tracker.tracks = x.tracker.tracks
      ∧ t.plans.plans = x.plans.plans ∧ t.engine.flags = x.engine.flags ∧ Part.Same x t .replans :=
  ⟨final.keeps.2.2 .stations (by simp), final.keeps.2.2 .builds (by simp), final.keeps.2.2 .tracks (by simp),
    final.keeps.2.2 .plans (by simp), final.keeps.2.2 .flags (by simp), final.keeps.2.2 .replans (by simp)⟩

/-- Where the REJECT orders and the closing test start: a station in CLOSING in `v`, behind the frames and reports of the
event. -/
theorem closesWith_acknowledged {i : StationNo} {st : Station} {b : Build} {frames : List (Nat × OwnBody)}
    {reports : List ReportBody} {ps : List Part} {v t : State} (before : Emits frames reports ps s v)
    (hps : Part.ownNode ∉ ps ∧ Part.time ∉ ps ∧ Part.levels ∉ ps ∧ Part.settings ∉ ps) (own : v.stations[i] = st)
    (build : v.builds[i] = b) (closing : st.state = .closing) (nextSeq : st.nextSeq = s.stations[i].nextSeq)
    (ready : st.ready = s.stations[i].ready) (kind : st.baseKind = s.stations[i].baseKind) (placed : Placed v)
    (final : Emits [] [] [.portA, .portB] (closingTest i (issueDiscards i v)) t) :
    ClosesWith st.cause st.close ReportsTaken i st.orders st.spur b frames reports s t ∧ OtherStations i v t
      ∧ KeepsAllBut [.portA, .portB, .exec, .stations, .tracks, .reports] v t := by
  subst own build
  obtain ⟨once, tracked⟩ := placed.spur i
  obtain ⟨closes, keeps, others, -⟩ := closes_of_discards before hps closing nextSeq once
    (fun e he => by obtain ⟨x, hx, -⟩ := tracked e he; rw [hx]; rfl) ((emits_refl _).mono (by simp)) fun _ _ => rfl
  have whole := closes.emits.andThen final (by simp [hps])
  rw [List.append_nil] at closes whole
  refine ⟨closes.closesWith ready kind (final.keeps.2.2 .stations (by simp)) (final.keeps.2.2 .tracks (by simp))
    whole.joined whole.told, others.trans (.of_keeps final.keeps (by simp)), ?_⟩
  exact (keeps.mono (by simp)).trans (final.keeps.mono (by simp))

theorem CutFlags.sameFlags {i : StationNo} {os : List Order} {u t : State} (h : CutFlags i os s u)
    (flags : Part.Same u t .flags) : CutFlags i os s t :=
  ⟨fun n hn less => (h.1 n hn less).congr (Part.Same.refl s .flags) (Part.Same.refl s .lanes) flags,
    fun none => Eq.trans (b := u.engine.flags) flags (h.2 none)⟩

/-- The same places and entries, whatever else changes. -/
theorem Placed.congr {u v : State} (h : Placed u) (tracks : Part.Same u v .tracks) (named : ∀ p, v.named p = u.named p) :
    Placed v := by
  have tracks' : v.tracker.tracks = u.tracker.tracks := tracks
  refine ⟨by rw [tracks']; exact h.keys, fun p => by rw [named]; exact h.once p, fun p x hx => ?_⟩
  rw [track_congr tracks]
  exact h.state p x (named p ▸ hx)

theorem NoPlace.congr {u v : State} {x : Tracking} (h : NoPlace u x) (named : ∀ p, v.named p = u.named p) : NoPlace v x :=
  fun p y hy => h p y (named p ▸ hy)

/-- The places are the same when the queue and the spur of one station name the same cases, and the others keep theirs. -/
theorem named_of_station {i : StationNo} {u v : State} (lanes : v.lanes = u.lanes)
    (orders : v.stations[i].orders = u.stations[i].orders)
    (spur : v.stations[i].spur.map SpurEntry.tracking = u.stations[i].spur.map SpurEntry.tracking)
    (others : ∀ j : StationNo, j ≠ i →
      v.stations[j].orders = u.stations[j].orders ∧ v.stations[j].spur = u.stations[j].spur) (p : Place) :
    v.named p = u.named p := by
  have spurs : ∀ es : List SpurEntry, es.map (fun x => (x.tracking, (0 : OrderSeq)))
      = (es.map SpurEntry.tracking).map fun t => (t, 0) := fun es => by rw [List.map_map]; rfl
  cases p with
  | lane k => simp only [State.named, lanes]
  | queue j =>
    by_cases hj : j = i
    · rw [hj, State.named, State.named, orders]
    · rw [State.named, State.named, (others j hj).1]
  | spur j =>
    by_cases hj : j = i
    · rw [hj, State.named, State.named, spurs, spurs, spur]
    · rw [State.named, State.named, (others j hj).2]

theorem BuildKept.named {i : StationNo} {u v : State} (kept : BuildKept i u v) : ∀ p, v.named p = u.named p :=
  named_of_station (kept.emits.keeps.2.2 .lanes (by simp)) (by rw [kept.own]) (by rw [kept.own])
    fun j hj => by rw [kept.others j hj]; exact ⟨rfl, rfl⟩

theorem BuildDiscarded.named {i : StationNo} {u v : State} (gone : BuildDiscarded i u v) : ∀ p, v.named p = u.named p :=
  named_of_station (gone.emits.keeps.2.2 .lanes (by simp)) (by rw [gone.own]; rfl)
    (by rw [gone.own, Station.discarded, List.map_map]; rfl) fun j hj => by
      rcases (gone.others j hj).1 with same | ⟨-, bound⟩
      · rw [same]
        exact ⟨rfl, rfl⟩
      · rw [bound]
        exact ⟨rfl, rfl⟩

section Goes

variable {i : StationNo} {d : Nat} {t : State}
variable (resolved : Resolved i d (resolution s i d) s (resolveUnknown i d s))

include resolved in
/-- The case of the resolved order, once the station has gone on. -/
theorem resolved_track {v : State} (tracks : Part.Same (resolveUnknown i d s) v .tracks)
    (named : ∀ p, v.named p = (resolveUnknown i d s).named p)
    (final : Emits [] [] [.portA, .portB] (closingTest i (issueDiscards i v)) t) {o : Order} {e : Track}
    (h : s.unknownAt i = some o) (he : s.track o.tracking = some e) :
    t.track o.tracking = if d = 1 then none else some (e.missed s) := by
  rw [track_congr (final.keeps.2.2 .tracks (by simp)),
    goesOnClosing_track (resolved.placed.congr tracks named) ((resolved.alone o h).congr named), track_congr tracks]
  exact resolved.missed o e h he

include resolved in
/-- A kept build whose station has no close reason: back to BUILDING (R148). -/
theorem keepBuild_building {v : State} (kept : BuildKept i (resolveUnknown i d s) v)
    (open_ : (resolution s i d).close = none)
    (final : Emits [] [] [.portA, .portB] (closingTest i (issueDiscards i v)) t) :
    t.stations[i] = { s.stations[i] with
        orders := (resolution s i d).orders, cause := .none, close := none, state := .building }
      ∧ FlagsRaised s t ∧ JoinedB (resolution s i d).frames s t ∧ ReportsTaken (resolution s i d).reports s t := by
  have noClose : (resolveUnknown i d s).stations[i].close = none := by rw [resolved.own, open_]
  have own : v.stations[i] = { s.stations[i] with
      orders := (resolution s i d).orders, cause := .none, close := none, state := .building } := by
    rw [kept.own, if_pos noClose, resolved.own, open_]
  have building : v.stations[i].state ≠ .closing := by rw [own]; simp
  rw [issueDiscards_idle building, closingTest_idle fun h => absurd h building] at final
  have whole := (resolved.emits.andThen kept.emits (by simp [resolvedParts])).andThen final (by simp [resolvedParts])
  have stations : t.stations = v.stations := final.keeps.2.2 .stations (by simp)
  have raised := resolved.flags.raised (resolved.emits.keeps.2.2 .lanes (by simp [resolvedParts])) (kept.raised noClose)
  exact ⟨by rw [stations, own], raised.congr (Part.Same.refl s .flags) (Part.Same.refl s .lanes)
    (final.keeps.2.2 .flags (by simp)), whole.joined, whole.told⟩

include resolved in
/-- A kept build whose station has a close reason: the station goes on closing (R148, step 4). -/
theorem keepBuild_closing {v : State} (kept : BuildKept i (resolveUnknown i d s) v)
    (some : (resolution s i d).close ≠ none)
    (final : Emits [] [] [.portA, .portB] (closingTest i (issueDiscards i v)) t) :
    ClosesWith .none (resolution s i d).close ReportsTaken i (resolution s i d).orders s.stations[i].spur
      (resolution s i d).build (resolution s i d).frames (resolution s i d).reports s t := by
  have hasClose : (resolveUnknown i d s).stations[i].close ≠ none := by rw [resolved.own]; exact some
  have own : v.stations[i] = { s.stations[i] with
      orders := (resolution s i d).orders, close := (resolution s i d).close, cause := .none, state := .closing } := by
    rw [kept.own, if_neg hasClose, resolved.own]
  have builds : v.builds = (resolveUnknown i d s).builds := kept.emits.keeps.2.2 .builds (by simp)
  have placed := resolved.placed.congr (kept.emits.keeps.2.2 .tracks (by simp)) kept.named
  exact (closesWith_acknowledged (resolved.emits.andThen kept.emits (by simp [resolvedParts])) (by simp [resolvedParts])
    own (by rw [builds, resolved.build]) rfl rfl rfl rfl placed final).1

include resolved in
theorem keepBuild_goesOn (final : Emits [] [] [.portA, .portB] (keepBuild i d s) t) :
    KeepGoesOn i (resolution s i d) s t ∧ OthersAfter i (resolution s i d).notice s t
      ∧ (∀ o, s.unknownAt i = some o → d ≠ 1 → (resolution s i d).close ≠ none → CutFlags i [o] s t)
      ∧ ∀ o e, s.unknownAt i = some o → s.track o.tracking = some e →
          t.track o.tracking = if d = 1 then none else some (e.missed s) := by
  obtain ⟨v, path, kept⟩ := keepBuild_kept i d s
  rw [path] at final
  have gone := (goesOnClosing i v).changes.keeps
  have last := (gone.mono (qs := [.portA, .portB, .exec, .stations, .tracks, .reports]) (by simp)).trans
    (final.keeps.mono (by simp))
  have behind := (kept.emits.keeps.mono
    (qs := [.portA, .portB, .exec, .stations, .tracks, .reports, .flags, .replans]) (by simp)).trans (last.mono (by simp))
  have plans : t.plans.plans = (resolveUnknown i d s).plans.plans := behind.2.2 .plans (by simp)
  have builds : t.builds = (resolveUnknown i d s).builds := behind.2.2 .builds (by simp)
  have others : OtherStations i v t := ((issueDiscards_elsewhere i v).others.trans
    (closingTest_elsewhere i _).others).trans (.of_keeps final.keeps (by simp))
  refine ⟨⟨by rw [builds, resolved.build], fun p hp => ?_, ?_, fun none => keepBuild_building resolved kept none final,
    fun some => keepBuild_closing resolved kept some final⟩, ?_, fun o ho hd hclose => ?_, fun o e ho he => ?_⟩
  · rw [State.plan, plans, ← State.plan]
    exact resolved.plans p hp
  · have asked := kept.asked
    have spur : (resolveUnknown i d s).stations[i].spur = s.stations[i].spur := by rw [resolved.own]
    rw [spur] at asked
    exact asked.congr (resolved.emits.keeps.2.2 .replans (by simp [resolvedParts])) (last.2.2 .replans (by simp))
  · exact resolved.others.behind (kept.others.trans others) (.of_keeps behind (by simp))
  · have close : (resolveUnknown i d s).stations[i].close ≠ none := by rw [resolved.own]; exact hclose
    exact (resolved.cut o ho hd).sameFlags ((kept.flags close).trans (last.2.2 .flags (by simp)))
  · exact resolved_track resolved (kept.emits.keeps.2.2 .tracks (by simp)) kept.named final ho he

theorem cutBuild_planId (s : State) (i : StationNo) (os : List Order) : (cutBuild s i os).planId = s.builds[i].planId := by
  unfold cutBuild
  split
  · rw [Build.planId, truncate_binding, Build.planId]
  · rfl

/-- The resolution leaves the build bound to its plan. -/
theorem resolution_planId (s : State) (i : StationNo) (d : Nat) :
    (resolution s i d).build.planId = s.builds[i].planId := by
  cases h : s.unknownAt i with
  | none => rw [resolution_known h]
  | some o =>
    by_cases hd : d = 1
    · subst hd
      cases ho : o.target with
      | reject r => rw [resolution_chuted h ho]
      | place k =>
        cases hc : s.builds[i].cases[k]? with
        | none => rw [resolution_unbuilt h ho hc]
        | some c =>
          cases counted : countedPlan s s.builds[i] c.line with
          | none =>
            rw [resolution_uncounted h ho hc counted]
            rfl
          | some pl =>
            obtain ⟨p, ls⟩ := pl
            by_cases done : ∀ m ∈ ls, m.placed = m.required
            · rw [resolution_completed h ho hc counted done rfl]
              rfl
            · rw [resolution_counted h ho hc counted done]
              rfl
    · rw [resolution_removed h hd]
      exact cutBuild_planId s i [o]

include resolved in
/-- The plans of a discarded build (R149, steps 1 and 4). -/
theorem discardBuild_plans {v : State} (gone : BuildDiscarded i (resolveUnknown i d s) v)
    (counts : CountsOk (resolveUnknown i d s)) (bindings : BindingsOk (resolveUnknown i d s)) (p : Plan)
    (hp : s.plan p.id = some p) : match (resolution s i d).plan p with
      | none => v.plan p.id = none
      | some ls => ∃ q, v.plan p.id = some q
          ∧ q.lines = (if s.builds[i].planId = some p.id then takenBack (resolution s i d).build.cases ls else ls)
          ∧ (p.state = .building → p.bound = some i → PartClosed i p q) := by
  rw [← resolved.plans p hp]
  cases hu : (resolveUnknown i d s).plan p.id with
  | none => exact gone.gone p.id hu
  | some r =>
    obtain ⟨q, hq, lines⟩ := gone.lines counts p.id r hu
    rw [resolved.build, resolution_planId] at lines
    refine ⟨q, hq, lines, fun building bound => ?_⟩
    have same := resolved.stays p r hp building hu
    exact gone.closed bindings { p with lines := r.lines } q (hu.trans (congrArg some same)) building bound hq

include resolved in
theorem discardBuild_goesOn {v : State} (gone : BuildDiscarded i (resolveUnknown i d s) v)
    (counts : CountsOk (resolveUnknown i d s)) (bindings : BindingsOk (resolveUnknown i d s))
    (final : Emits [] [] [.portA, .portB] (closingTest i (issueDiscards i v)) t) :
    DiscardGoesOn i (resolution s i d) s t := by
  have closed := (goesOnClosing i v).changes.keeps
  have last := (closed.mono (qs := [.portA, .portB, .exec, .stations, .tracks, .reports]) (by simp)).trans
    (final.keeps.mono (by simp))
  have build : v.builds[i] = (resolution s i d).build.truncate 0 := by rw [gone.build, resolved.build]
  have own : v.stations[i] = { s.stations[i].discarded with orders := (resolution s i d).orders } := by
    rw [gone.own, resolved.own]
    rfl
  have report : discardedReport (resolveUnknown i d s) i = .buildDiscarded i (resolution s i d).build.planId
      (resolution s i d).build.part (resolution s i d).build.cases.length := by rw [discardedReport, resolved.build]
  have builds : t.builds = v.builds := last.2.2 .builds (by simp)
  have plans : t.plans.plans = v.plans.plans := last.2.2 .plans (by simp)
  have whole := resolved.emits.trans gone.emits (by simp [resolvedParts])
  rw [List.append_nil, report] at whole
  have placed := resolved.placed.congr (gone.emits.keeps.2.2 .tracks (by simp)) gone.named
  obtain ⟨replans, waiting⟩ := ((whole.keeps.mono (qs := .portA :: resolvedParts)
    (by simp [resolvedParts])).trans
    (last.mono (by simp [resolvedParts]))).2.2 .replans (by simp [resolvedParts])
  refine ⟨by rw [builds, build], fun cases => ?_, fun p hp => ?_, replans, waiting, ?_⟩
  · have raised := resolved.flags.raised (resolved.emits.keeps.2.2 .lanes (by simp [resolvedParts]))
      (gone.raised (by rw [resolved.build]; exact cases))
    exact raised.congr (Part.Same.refl s .flags) (Part.Same.refl s .lanes) (last.2.2 .flags (by simp))
  · simp only [State.plan, plans]
    exact discardBuild_plans resolved gone counts bindings p hp
  · exact (closesWith_acknowledged whole (by simp [resolvedParts]) own build rfl rfl rfl rfl placed final).1

include resolved in
theorem discardBuild_others {v : State} (gone : BuildDiscarded i (resolveUnknown i d s) v) (bindings : BindingsOk s)
    (final : Emits [] [] [.portA, .portB] (closingTest i (issueDiscards i v)) t) :
    OthersAfter i (resolution s i d).notice s t := by
  have others : OtherStations i v t := ((issueDiscards_elsewhere i v).others.trans
    (closingTest_elsewhere i _).others).trans (.of_keeps final.keeps (by simp))
  have builds : OtherBuilds i v t := .of_keeps (((goesOnClosing i v).changes.keeps.mono
    (qs := [.portA, .portB, .exec, .stations, .tracks, .reports]) (by simp)).trans (final.keeps.mono (by simp))) (by simp)
  exact resolved.others.mayBind (resolved.told bindings) (gone.others.trans (.of_others others builds))

end Goes

/-! ### Whatever the state before (R148, R149) -/

section Leaves

variable {v t : State} {i : StationNo} {d : Nat} (fault : v.stations[i].state = .fault)
include fault

theorem keepBuild_leaves (ok : StationsOk v) (final : Emits [] [] [.portA, .portB] (keepBuild i d v) t) :
    t.stations[i].cause = .none ∧ (∀ o ∈ t.stations[i].orders, o.state ≠ .unknown)
      ∧ (t.stations[i].close = none → t.stations[i].state = .building)
      ∧ (t.stations[i].close ≠ none → t.stations[i].state = .closing ∨ t.stations[i].state = .awaitExchange)
      ∧ ((¬ ∃ o ∈ v.stations[i].orders, o.state = .unknown) →
        t.stations[i].close = v.stations[i].close ∧ t.builds[i] = v.builds[i]) := by
  have resolves := resolveUnknown_resolvesTo fault d
  have settled := resolves.noUnknown ok
  obtain ⟨w, path, kept⟩ := keepBuild_kept i d v
  rw [path] at final
  have gone := goesOnClosing i w
  have stations : t.stations = (closingTest i (issueDiscards i w)).stations := final.keeps.2.2 .stations (by simp)
  have builds : t.builds = (resolveUnknown i d v).builds := ((kept.emits.keeps.mono
    (qs := [.portA, .portB, .exec, .stations, .tracks, .reports, .flags, .replans]) (by simp)).trans
      ((gone.changes.keeps.mono (by simp)).trans (final.keeps.mono (by simp)))).2.2 .builds (by simp)
  obtain ⟨cause, close⟩ := gone.record
  obtain ⟨orders, -⟩ := gone.issues
  have state := gone.state
  rw [kept.own] at cause close orders state
  rw [stations]
  refine ⟨cause, fun o ho => ?_, fun none => ?_, fun some => ?_, fun known => ?_⟩
  · rcases orders o ho with old | issued
    · exact settled o old
    · rw [issued]
      decide
  · have none' : (resolveUnknown i d v).stations[i].close = .none := close.symm.trans none
    rw [if_pos none'] at state
    exact state.resolve_right fun e => nomatch e.1
  · have some' : (resolveUnknown i d v).stations[i].close ≠ none := fun e => some (close.trans e)
    rw [if_neg some'] at state
    exact state.imp_right And.right
  · have none : v.unknownAt i = none := List.find?_eq_none.mpr fun o ho e => known ⟨o, ho, eq_of_beq e⟩
    have same := resolves.known none
    exact ⟨close.trans (by rw [same]), by rw [builds, same]⟩

theorem discardBuild_leaves (final : Emits [] [] [.portA, .portB] (discardBuild i d v) t) :
    t.stations[i].cause = .none ∧ t.stations[i].close = some .discard
      ∧ (t.stations[i].state = .closing ∨ t.stations[i].state = .awaitExchange)
      ∧ t.builds[i].cases = [] ∧ ∀ e ∈ t.stations[i].spur, e.discard = true := by
  obtain ⟨w, path, discarded⟩ := discardBuild_discarded (i := i) (d := d) (s := v)
    (by rw [resolveUnknown_fault fault]; decide)
  rw [path] at final
  have gone := goesOnClosing i w
  have stations : t.stations = (closingTest i (issueDiscards i w)).stations := final.keeps.2.2 .stations (by simp)
  have builds : t.builds = w.builds := ((gone.changes.keeps.mono
    (qs := [.portA, .portB, .exec, .stations, .tracks, .reports]) (by simp)).trans
      (final.keeps.mono (by simp))).2.2 .builds (by simp)
  obtain ⟨cause, close⟩ := gone.record
  obtain ⟨-, spur⟩ := gone.issues
  have state := gone.state
  rw [discarded.own] at cause close spur state
  rw [stations, builds, discarded.build]
  refine ⟨cause, close, state.imp_right And.right, truncate_nil _, fun e he => ?_⟩
  obtain ⟨x, -, rfl⟩ := List.mem_map.mp (spur e he)
  rfl

end Leaves

/-! ### The completions -/

/-- The exchange called again (R142, R147). -/
theorem recallExchange_emits (i : StationNo) (s : State) :
    Emits [callFrame s i s.builds[i]] [] [.stations, .exec, .portB] s (recallExchange i s)
      ∧ (recallExchange i s).stations[i] = { s.stations[i] with cause := .none, state := .awaitExchange }
      ∧ OtherStations i s (recallExchange i s) := by
  have named := emits_withStation s i { s.stations[i] with cause := .none }
  have own := withStation_same s i { s.stations[i] with cause := .none }
  have others := withStation_other s i { s.stations[i] with cause := .none }
  rw [recallExchange, onStation_eq]
  generalize s.withStation i { s.stations[i] with cause := .none } = w at *
  have entered := named.after (emits_enterState w i .awaitExchange) (by simp)
  have enteredOwn : (w.enterState i .awaitExchange).stations[i]
      = { s.stations[i] with cause := .none, state := .awaitExchange } := by
    rw [enterState_stations, withStation_same, own]
  have enteredOthers := OtherStations.trans others (enterState_other w i .awaitExchange)
  generalize w.enterState i .awaitExchange = x at *
  have call := exchangeCall_emits i (s := s) (u := x) (entered.keeps.2.2 .settings (by simp))
    (entered.keeps.2.2 .builds (by simp))
  have stations : (exchangeCall i x).stations = x.stations := call.keeps.2.2 .stations (by simp)
  exact ⟨(entered.after call (by simp)).mono (by simp), by rw [stations, enteredOwn],
    enteredOthers.trans (.of_keeps call.keeps (by simp))⟩

section Completes

variable (h : TakenAt 0x1D 3 f s) (hb : badAcknowledge f.payload = none)
variable (fault : s.stations[stationOf f.payload].state = .fault)
include h hb fault

/-- The return from an exchange timeout (R147). -/
theorem acknowledge_recalls (cause : s.stations[stationOf f.payload].cause = .exchangeTimeout) :
    ∃ t, exec (.acknowledgeFault f) s = .next t ∧ AnsweredDone 0x1D f (.stationState .awaitExchange) s t
      ∧ t.stations[stationOf f.payload] =
          { s.stations[stationOf f.payload] with cause := .none, state := .awaitExchange }
      ∧ OtherStations (stationOf f.payload) s t
      ∧ OnB (ownFrameB s s.req.settings.transportNode (.exchangeCall (stationOf f.payload)
          s.builds[stationOf f.payload].planId s.builds[stationOf f.payload].part
          s.builds[stationOf f.payload].cases.length s.builds[stationOf f.payload].totalWeight
          s.builds[stationOf f.payload].topHeight)) t
      ∧ KeepsAllBut [.portA, .portB, .sup, .stations] s t := by
  have hact := acknowledge_recall (f := f) (s := s.setSup (fedTimer f.src s)) fault cause
  obtain ⟨recalled, own, others⟩ := recallExchange_emits (stationOf f.payload) (s.setSup (fedTimer f.src s))
  obtain ⟨t, run, done, keeps, final⟩ := acknowledge_answered h hb hact (recalled.changes.mono
    (qs := [.exec, .portB, .stations]) (by simp)) (by simp)
  have stations : t.stations = (recallExchange (stationOf f.payload) (s.setSup (fedTimer f.src s))).stations :=
    final.keeps.2.2 .stations (by simp)
  have joined : JoinedB [callFrame s (stationOf f.payload) s.builds[stationOf f.payload]] s t :=
    (recalled.andThen final (by simp)).joined
  rw [stations, own] at done
  exact ⟨t, run, done, by rw [stations, own]; rfl, others.trans (.of_keeps final.keeps (by simp)),
    joined.onB List.mem_cons_self, keeps.mono (by simp)⟩

variable (cause : s.stations[stationOf f.payload].cause ≠ .exchangeTimeout)
variable (ready : s.stations[stationOf f.payload].ready = true)
variable (disposed : (∃ o ∈ s.stations[stationOf f.payload].orders, o.state = .unknown) → u8At f.payload 2 ≠ 0)
include cause ready disposed

/-- A build kept, and the answer (R148). -/
theorem acknowledge_keeps (keep : u8At f.payload 1 = 0) :
    ∃ t, exec (.acknowledgeFault f) s = .next t
      ∧ AnsweredDone 0x1D f (.stationState t.stations[stationOf f.payload].state) s t
      ∧ KeepsAllBut [.portA, .portB, .sup, .plans, .tracks, .replans, .flags, .builds, .stations, .reports] s t
      ∧ Emits [] [] [.portA, .portB]
          (keepBuild (stationOf f.payload) (u8At f.payload 2) (s.setSup (fedTimer f.src s))) t := by
  have hact := acknowledge_taken (f := f) (s := s.setSup (fedTimer f.src s)) fault cause ready disposed
  rw [if_pos keep] at hact
  have changes := keepBuild_changes (v := s.setSup (fedTimer f.src s)) fault (u8At f.payload 2)
  obtain ⟨t, run, done, keeps, final⟩ := acknowledge_answered h hb hact changes (by simp [acknowledgedParts])
  exact ⟨t, run, done, keeps.mono (by simp [acknowledgedParts]), final⟩

/-- A build discarded, and the answer (R149). -/
theorem acknowledge_discards (discard : u8At f.payload 1 ≠ 0) :
    ∃ t, exec (.acknowledgeFault f) s = .next t
      ∧ AnsweredDone 0x1D f (.stationState t.stations[stationOf f.payload].state) s t
      ∧ KeepsAllBut [.portA, .portB, .sup, .plans, .tracks, .replans, .flags, .builds, .stations, .reports] s t
      ∧ Emits [] [] [.portA, .portB]
          (discardBuild (stationOf f.payload) (u8At f.payload 2) (s.setSup (fedTimer f.src s))) t := by
  have hact := acknowledge_taken (f := f) (s := s.setSup (fedTimer f.src s)) fault cause ready disposed
  rw [if_neg discard] at hact
  have changes := discardBuild_changes (v := s.setSup (fedTimer f.src s)) fault (u8At f.payload 2)
  obtain ⟨t, run, done, keeps, final⟩ := acknowledge_answered h hb hact changes (by simp [acknowledgedParts])
  exact ⟨t, run, done, keeps.mono (by simp [acknowledgedParts]), final⟩

end Completes

/-- Settles O39, from the parts of the acknowledge: the UNKNOWN order resolved, the build kept or discarded, and the REJECT
orders with the closing test behind it. -/
theorem acknowledgeFaultCompletes : Obligations.AcknowledgeFaultCompletes := by
  intro f s h hb
  dsimp only
  refine ⟨fun working => request_declined h hb (acknowledge_other working), acknowledge_recalls h hb,
    fun fault cause notReady => request_declined h hb (acknowledge_notReady fault cause notReady),
    fun fault cause ready unknown none => request_declined h hb (acknowledge_undisposed fault cause ready unknown none),
    fun fault cause ready disposed ok keep => ?_, fun fault cause ready disposed discard => ?_,
    fun fault cause ready disposed cases counts bindings provisional => ?_⟩
  · obtain ⟨t, run, done, keeps, final⟩ := acknowledge_keeps h hb fault cause ready disposed keep
    exact ⟨t, run, done, keeps, keepBuild_leaves (v := s.setSup (fedTimer f.src s)) fault ok final⟩
  · obtain ⟨t, run, done, keeps, final⟩ :=
      acknowledge_discards h hb fault cause ready disposed (by rw [discard]; decide)
    exact ⟨t, run, done, keeps, discardBuild_leaves (v := s.setSup (fedTimer f.src s)) fault final⟩
  · have resolved := resolveUnknown_resolved (s := s.setSup (fedTimer f.src s)) (i := stationOf f.payload) fault
      (placed_setSup ((casesOk_iff s).mp cases).1 _) counts provisional
    by_cases keep : u8At f.payload 1 = 0
    · obtain ⟨t, run, done, keeps, final⟩ := acknowledge_keeps h hb fault cause ready disposed keep
      obtain ⟨goesOn, others, cut, track⟩ := keepBuild_goesOn resolved final
      exact ⟨t, run, done, keeps, others, track, fun _ => ⟨goesOn, cut⟩, fun e => nomatch keep.symm.trans e⟩
    · obtain ⟨t, run, done, keeps, final⟩ := acknowledge_discards h hb fault cause ready disposed keep
      obtain ⟨v, path, gone⟩ := discardBuild_discarded (i := stationOf f.payload) (d := u8At f.payload 2)
        (s := s.setSup (fedTimer f.src s))
        (by rw [resolveUnknown_fault (s := s.setSup (fedTimer f.src s)) fault]; decide)
      rw [path] at final
      have goesOn := discardBuild_goesOn resolved gone ((Works.resolveUnknown ..).countsOk counts)
        (BindingsOk.resolveUnknown (s := s.setSup (fedTimer f.src s)) bindings _ _) final
      exact ⟨t, run, done, keeps, discardBuild_others (s := s.setSup (fedTimer f.src s)) resolved gone bindings final,
        fun o e ho he => resolved_track resolved (gone.emits.keeps.2.2 .tracks (by simp)) gone.named final ho he,
        fun e => absurd e keep, fun _ => goesOn⟩

end Acknowledge

end Sys2Proof.Machine
end

section
/-!
PROOFS. The exhausted stations handed over at a job's end (R82, R94).
-/

namespace Sys2Proof.Machine

/-! ### Which plan is BUILDING at a station -/

/-- The id of the plan that is BUILDING at station `i`, the first of them. -/
def State.postAt (s : State) (i : StationNo) : Option PlanId := (s.planAt i).map Plan.id

/-- A plan is BUILDING at station `i`. -/
def Plan.IsAt (i : StationNo) (p : Plan) : Prop := p.state = .building ∧ p.bound = some i

/-- No plan of this id is bound to station `i`. -/
def Unbound (i : StationNo) (id : PlanId) (s : State) : Prop := ∀ q, s.plan id = some q → q.bound ≠ some i

theorem postAt_congr {i : StationNo} {s t : State} (ids : t.plans.plans.map Plan.id = s.plans.plans.map Plan.id)
    (rising : RisingKeys Plan.key s.plans.plans)
    (same : ∀ id p q, s.plan id = some p → t.plan id = some q → (q.IsAt i ↔ p.IsAt i)) : t.postAt i = s.postAt i := by
  have rising' := rising_of_ids ids rising
  have length : s.plans.plans.length = t.plans.plans.length := by simpa using (congrArg List.length ids).symm
  have paired : List.Forall₂ (fun p q : Plan => q.id = p.id ∧ (q.IsAt i ↔ p.IsAt i)) s.plans.plans t.plans.plans := by
    refine List.forall₂_iff_get.mpr ⟨length, fun n hp hq => ?_⟩
    have id : (t.plans.plans.get ⟨n, hq⟩).id = (s.plans.plans.get ⟨n, hp⟩).id := by
      have at_n := congrArg (·[n]?) ids
      simpa [List.getElem?_eq_getElem hp, List.getElem?_eq_getElem hq] using at_n
    refine ⟨id, same _ _ _ (plan_of_mem rising (List.get_mem ..)) ?_⟩
    rw [← id]
    exact plan_of_mem rising' (List.get_mem ..)
  unfold State.postAt State.planAt
  generalize s.plans.plans = ps at paired
  generalize t.plans.plans = qs at paired
  induction paired with
  | nil => rfl
  | @cons p q ps qs head _ ih =>
    obtain ⟨id, isAt⟩ := head
    have agree : (q.state == .building && q.bound == some i) = (p.state == .building && p.bound == some i) := by
      rw [Bool.eq_iff_iff]
      simpa [Plan.IsAt] using isAt
    rw [List.find?_cons, List.find?_cons, agree]
    split
    · simp [id]
    · exact ih

/-! ### Plans at a busy station, beside binding attempts and part closes elsewhere -/

section Busy

variable {s t : State} {i j : StationNo} {id : PlanId} (rising : RisingKeys Plan.key s.plans.plans)
variable (busy : s.stations[i].state ≠ .idle)
include rising busy

theorem Binds.postAt (b : Binds s t) : t.postAt i = s.postAt i := by
  refine postAt_congr b.ids rising fun id p q hp hq => ?_
  by_cases queued : p.state = .queued
  · obtain ⟨r, hr, origin⟩ := b.plan id p hp
    obtain rfl : r = q := Option.some.inj (hr.symm.trans hq)
    rcases origin with rfl | ⟨k, idle, rfl⟩
    · rfl
    · exact ⟨fun ⟨_, at_i⟩ => absurd (Option.some.inj at_i ▸ idle) busy, fun ⟨building, _⟩ => nomatch queued.symm.trans building⟩
  · rw [Option.some.inj (hq.symm.trans (b.queued rising id p hp queued))]

omit rising in
theorem Binds.unbound (b : Binds s t) (h : Unbound i id s) : Unbound i id t := by
  intro q hq
  obtain ⟨p, hp⟩ : ∃ p, s.plan id = some p := Option.ne_none_iff_exists'.mp fun none =>
    nomatch ((plan_none_of_ids b.ids).mpr none).symm.trans hq
  obtain ⟨r, hr, origin⟩ := b.plan id p hp
  obtain rfl : r = q := Option.some.inj (hr.symm.trans hq)
  rcases origin with rfl | ⟨k, idle, rfl⟩
  · exact h r hp
  · exact fun at_i => busy (Option.some.inj at_i ▸ idle)

theorem closePart_elsewhere (other : j ≠ i) : (closePart j s).postAt i = s.postAt i
    ∧ (Unbound i id s → Unbound i id (closePart j s)) := by
  unfold closePart
  cases hp : s.planAt j with
  | none => exact ⟨rfl, fun h => h⟩
  | some p =>
    obtain ⟨held, building, bound⟩ := planAt_some hp
    have cleared : p.closed.bound = none := by unfold Plan.closed; split_ifs <;> rfl
    have ids := ids_onPlan s p.id closed_id
    have posts : (s.onPlan p.id Plan.closed).postAt i = s.postAt i := by
      refine postAt_congr ids rising fun id x y hx hy => ?_
      by_cases same : id = p.id
      · subst same
        obtain rfl : p = x := Option.some.inj ((plan_of_mem rising held).symm.trans hx)
        obtain rfl : p.closed = y := Option.some.inj ((plan_onPlan_same hx closed_id).symm.trans hy)
        unfold Plan.IsAt
        rw [cleared, bound]
        exact ⟨(nomatch ·.2), fun e => absurd (Option.some.inj e.2) other⟩
      · rw [plan_onPlan_other same closed_id, hx] at hy
        rw [Option.some.inj hy]
    have unbound : Unbound i id s → Unbound i id (s.onPlan p.id Plan.closed) := by
      intro h q hq
      by_cases same : id = p.id
      · subst same
        rw [plan_onPlan_same (plan_of_mem rising held) closed_id] at hq
        rw [← Option.some.inj hq, cleared]
        exact nofun
      · rw [plan_onPlan_other same closed_id] at hq
        exact h q hq
    dsimp only
    split_ifs
    · have binds := bindingAttempt_binds (s.onPlan p.id Plan.closed)
      exact ⟨(binds.postAt (rising_of_ids ids rising) busy).trans posts,
          fun h => Binds.unbound (s := s.onPlan p.id Plan.closed) busy binds (unbound h)⟩
    · exact ⟨posts, unbound⟩

end Busy

/-! ### One split (R82) -/

/-- Station `i` split off the plan of this id. -/
def SplitOff (i : StationNo) (id : PlanId) (s : State) : Prop :=
  s.stations[i].close = some .split ∧ (s.stations[i].state = .closing ∨ s.stations[i].state = .awaitExchange)
    ∧ Unbound i id s

section Split

variable {s : State} {i j : StationNo} {id : PlanId}

/-- The parts that splits change. -/
def splitParts : List Part := [.exec, .portB, .plans, .stations, .builds, .flags, .reports]

theorem split_emits (s : State) (j : StationNo) : ∃ frames reports, Emits frames reports splitParts s (split s j) := by
  unfold split
  split_ifs with h
  · have busy : s.stations[j].state ≠ .idle := by rw [h.1]; decide
    have part := closePart_closes j s
    have whole := part.emits.trans (enterClosing_emits j .split (closePart j s)).1 (by simp)
    exact ⟨_, _, whole.mono (by simp [splitParts, closingParts])⟩
  · exact ⟨[], [], (emits_refl s).mono (by simp)⟩

/-- A split closes a part and changes its own station. -/
theorem split_after (s : State) (j : StationNo) : split s j = s ∨ Part.Same (closePart j s) (split s j) .plans
    ∧ OtherStations j (closePart j s) (split s j) := by
  unfold split
  split_ifs
  · obtain ⟨emits, stations⟩ := enterClosing_emits j .split (closePart j s)
    exact .inr ⟨emits.keeps.2.2 .plans (by simp [closingParts]), fun k hk => by rw [stations, withStation_other _ _ _ k hk]⟩
  · exact .inl rfl

variable (rising : RisingKeys Plan.key s.plans.plans)
include rising

theorem split_rising (j : StationNo) : RisingKeys Plan.key (split s j).plans.plans := by
  rcases split_after s j with same | ⟨plans, -⟩
  · rwa [same]
  · have plans' : (split s j).plans.plans = (closePart j s).plans.plans := plans
    rw [plans']
    exact rising_of_ids (closePart_closes j s).ids rising

theorem split_elsewhere (busy : s.stations[i].state ≠ .idle) (other : j ≠ i) :
    (split s j).stations[i] = s.stations[i] ∧ (split s j).postAt i = s.postAt i
      ∧ (Unbound i id s → Unbound i id (split s j)) := by
  rcases split_after s j with same | ⟨plans, others⟩
  · rw [same]
    exact ⟨rfl, rfl, fun h => h⟩
  · obtain ⟨post, unbound⟩ := closePart_elsewhere (id := id) rising busy other
    have plans' : (split s j).plans.plans = (closePart j s).plans.plans := plans
    refine ⟨(others i other.symm).trans ((closePart_closes j s).stays busy), ?_, fun h q hq => unbound h q ?_⟩
    · rw [State.postAt, State.planAt, plans', ← State.planAt, ← State.postAt, post]
    · rwa [State.plan, plans', ← State.plan] at hq

theorem SplitOff.split (h : SplitOff i id s) (other : j ≠ i) : SplitOff i id (split s j) := by
  obtain ⟨close, state, unbound⟩ := h
  have busy : s.stations[i].state ≠ .idle := by rcases state with e | e <;> rw [e] <;> decide
  obtain ⟨own, -, keeps⟩ := split_elsewhere (id := id) rising busy other
  unfold SplitOff
  rw [own]
  exact ⟨close, state, keeps unbound⟩

theorem split_own (building : s.stations[i].state = .building) (post : s.postAt i = some id) :
    SplitOff i id (split s i) := by
  obtain ⟨p, hp, rfl⟩ := Option.map_eq_some_iff.mp post
  have busy : s.stations[i].state ≠ .idle := by rw [building]; decide
  have part := closePart_closes i s
  obtain ⟨q, hq, -, left⟩ := part.closed rising busy p hp
  obtain ⟨emits, stations⟩ := enterClosing_emits i .split (closePart i s)
  have splits : Machine.split s i = enterClosing i .split (closePart i s) := if_pos ⟨building, by rw [hp]; rfl⟩
  have plans : (enterClosing i .split (closePart i s)).plans.plans = (closePart i s).plans.plans :=
    emits.keeps.2.2 .plans (by simp [closingParts])
  unfold SplitOff
  rw [splits, stations, withStation_same]
  refine ⟨rfl, ?_, fun r hr => ?_⟩
  · dsimp only
    split_ifs
    · exact .inr rfl
    · exact .inl rfl
  · rw [State.plan, plans, ← State.plan, hq] at hr
    obtain rfl := Option.some.inj hr
    split_ifs at left
    · obtain ⟨-, queued | ⟨-, k, other, bound⟩, -⟩ := left
      · rw [queued.2]
        exact nofun
      · rw [bound]
        exact fun e => other (Option.some.inj e)
    · rw [left.2.2]
      exact nofun

end Split

/-! ### All of them -/

theorem splitOff_foldl {i : StationNo} {id : PlanId} (l : List StationNo) : ∀ s : State,
    RisingKeys Plan.key s.plans.plans → i ∉ l → SplitOff i id s → SplitOff i id (l.foldl split s) := by
  induction l with
  | nil => exact fun _ _ _ h => h
  | cons j l ih =>
    intro s rising out h
    exact ih _ (split_rising rising j) (List.not_mem_of_not_mem_cons out)
      (h.split rising (List.ne_of_not_mem_cons out).symm)

theorem foldl_splitsOff {i : StationNo} {id : PlanId} (l : List StationNo) (nodup : l.Nodup) (listed : i ∈ l) : ∀ s : State,
    RisingKeys Plan.key s.plans.plans → s.stations[i].state = .building → s.postAt i = some id →
    SplitOff i id (l.foldl split s) := by
  induction l with
  | nil => cases listed
  | cons j l ih =>
    intro s rising building post
    obtain ⟨out, nodup⟩ := List.nodup_cons.mp nodup
    rw [List.foldl_cons]
    by_cases own : j = i
    · subst own
      exact splitOff_foldl l _ (split_rising rising j) out (split_own rising building post)
    · have later := (List.mem_cons.mp listed).resolve_left (Ne.symm own)
      obtain ⟨station, posts, -⟩ := split_elsewhere (id := id) rising (by rw [building]; decide) own
      exact ih nodup later _ (split_rising rising j) (by rwa [station]) (by rwa [posts])

theorem handOver_splitsOff {ex : List StationNo} {s : State} (rising : RisingKeys Plan.key s.plans.plans) {i : StationNo}
    (hi : i ∈ ex) {id : PlanId} (building : s.stations[i].state = .building) (post : s.postAt i = some id) :
    SplitOff i id (handOver ex s) := by
  have every : ∀ k : StationNo, k ∈ allStations := by decide
  exact foldl_splitsOff _ ((by decide : allStations.Nodup).filter _)
    (List.mem_filter.mpr ⟨every i, List.contains_iff_mem.mpr hi⟩) s rising building post

theorem handOver_emits (ex : List StationNo) (s : State) :
    ∃ frames reports, Emits frames reports splitParts s (handOver ex s) := by
  unfold handOver
  generalize allStations.filter (fun i => ex.contains i) = l
  induction l generalizing s with
  | nil => exact ⟨[], [], (emits_refl s).mono (by simp)⟩
  | cons j l ih =>
    obtain ⟨frames, reports, first⟩ := split_emits s j
    obtain ⟨frames', reports', rest⟩ := ih (split s j)
    exact ⟨_, _, (first.trans rest (by simp [splitParts])).mono (by simp)⟩

theorem handOver_nil (s : State) : handOver [] s = s := by
  have none : (allStations.filter fun i => ([] : List StationNo).contains i) = [] := by decide
  rw [handOver, none]
  rfl

/-- The stations handed over behind changes that leave what is BUILDING where. -/
theorem handedOver_of {ex : List StationNo} {s y t : State} {ps : List Part}
    (rising : RisingKeys Plan.key y.plans.plans)
    (before : ∀ i : StationNo, s.stations[i].state = .building →
      y.stations[i].state = .building ∧ y.postAt i = s.postAt i)
    (behind : KeepsAllBut ps (handOver ex y) t) (hps : Part.plans ∉ ps ∧ Part.stations ∉ ps) : HandedOver ex s t := by
  intro i hi p building hp
  obtain ⟨building', post⟩ := before i building
  have stations : t.stations = (handOver ex y).stations := behind.2.2 .stations hps.2
  have plans : t.plans.plans = (handOver ex y).plans.plans := behind.2.2 .plans hps.1
  obtain ⟨close, state, unbound⟩ := handOver_splitsOff (id := p.id) rising hi building'
    (by rw [post, State.postAt, hp]; rfl)
  rw [stations]
  refine ⟨close, state, fun q hq => unbound q ?_⟩
  rwa [State.plan, plans] at hq

end Sys2Proof.Machine
end

section
/-!
PROOFS. COMMIT_ATTEMPT for an arrival's job (R102 to R104).
-/

namespace Sys2Proof.Machine

/-! ### Events that send or report nothing -/

section Displays

variable {frames : List (Nat × OwnBody)} {reports : List ReportBody} {ps : List Part} {s x t : State}

/-- What an event that queues no report shows. -/
theorem Displays.unreported (h : Displays frames [] ps s x t) (served : Served s) : KeepsAllBut (.portB :: ps) s t := by
  obtain ⟨portA, reports⟩ := h.reported.quiet served
  have told : Part.Same s t .reports := by simp [Part.Same, reports]
  exact ((h.keeps.mono (qs := .reports :: .portA :: .portB :: ps) (by simp +contextual)).but told).but portA

theorem Displays.silent (h : Displays [] [] ps s x t) (served : Served s) (hB : Part.portB ∉ ps) : KeepsAllBut ps s t :=
  (h.unreported served).but (h.portB hB)

end Displays

/-! ### What the ends of an arrival leave (R96, R97, R100, R101) -/

/-- An entry with one circuit more (R91). -/
def Track.bumped (e : Track) : Track := { e with circuits := min 16 (e.circuits + 1) }

/-- The DECISION frame of a case. -/
def decisionFrame (s : State) (u : Tracking) (d : DecTarget) : Nat × OwnBody :=
  (s.req.settings.sorterNode, .decision u d)

section Ends

variable (s : State) (u : Tracking)

theorem onTrack_keeps (g : Track → Track) : KeepsAllBut [.tracks] s (s.onTrack u g) := by
  refine ⟨rfl, rfl, fun p hp => ?_⟩
  cases p <;> simp_all [Part.Same, State.onTrack]

theorem bump_keeps : KeepsAllBut [.tracks] s (s.bump u) := onTrack_keeps ..

theorem track_bump (v : Tracking) : (s.bump u).track v = if v = u then (s.track v).map Track.bumped else s.track v :=
  track_onTrack s u v fun _ => rfl

theorem circulate_keeps : KeepsAllBut [.tracks] s (s.circulate u) := setTrack_keeps ..

theorem track_circulate (v : Tracking) : (s.circulate u).track v =
    if v = u then (s.track v).map fun e => { e with state := .circulating s.returnDeadline } else s.track v :=
  track_setTrack ..

theorem setJob_keeps (j : Option Job) : KeepsAllBut [.job] s (s.setJob j) := by
  refine ⟨rfl, rfl, fun p hp => ?_⟩
  cases p <;> simp_all [Part.Same, State.setJob]

theorem sendDecision_emits (d : DecTarget) : Emits [decisionFrame s u d] [] [.portB] s (sendDecision u d s) :=
  emits_issueB ..

theorem passArrival_emits (a : Arrival) :
    Emits [decisionFrame s a.tracking .pass] [] [.portB, .tracks] s (passArrival a s)
      ∧ ∀ v, (passArrival a s).track v = (s.bump a.tracking).track v := by
  refine ⟨(sendDecision_emits s a.tracking .pass).andThen (.of_keeps (bump_keeps ..) (by simp)) (by simp), fun v => ?_⟩
  rw [passArrival, track_bump, track_bump]
  rfl

theorem lateCase_emits (a : Arrival) :
    Emits [] [.caseLate a.tracking (some (ageAt s.link.time a.scan))] [.tracks, .reports] s (lateCase a s)
      ∧ ∀ v, (lateCase a s).track v = (s.bump a.tracking).track v := by
  have bumped : Emits [] [] [.tracks] s (s.bump a.tracking) := .of_keeps (bump_keeps ..) (by simp)
  have told := emits_report (.caseLate a.tracking (some (ageAt s.link.time a.scan))) (s.bump a.tracking)
  exact ⟨bumped.after told (by simp), track_congr (told.keeps.2.2 .tracks (by simp))⟩

theorem rejectArrival_emits (a : Arrival) (r : RejectReason) :
    Emits [decisionFrame s a.tracking (.reject r)] [.caseRejected a.tracking (some a.code) r]
        [.portB, .tracks, .reports] s (rejectArrival a r s)
      ∧ ∀ v, (rejectArrival a r s).track v = (s.dropTrack a.tracking).track v := by
  have sent := sendDecision_emits s a.tracking (.reject r)
  have dropped : Emits [] [] [.tracks] _ ((sendDecision a.tracking (.reject r) s).dropTrack a.tracking) :=
    .of_keeps (dropTrack_keeps ..) (by simp)
  have told := emits_report (.caseRejected a.tracking (some a.code) r)
    ((sendDecision a.tracking (.reject r) s).dropTrack a.tracking)
  refine ⟨((sent.andThen dropped (by simp)).trans told (by simp)).mono (by simp), fun v => ?_⟩
  refine (track_congr (told.keeps.2.2 .tracks (by simp)) v).trans ?_
  rw [track_dropTrack, track_dropTrack]
  rfl

/-- A lane record replaced. -/
def State.withLane (s : State) (k : LaneNo) (l : Lane) : State := { s with lanes := s.lanes.set k l }

theorem withLane_keeps (k : LaneNo) (l : Lane) : KeepsAllBut [.lanes] s (s.withLane k l) := by
  refine ⟨rfl, rfl, fun p hp => ?_⟩
  cases p <;> simp_all [Part.Same, State.withLane]

theorem withLane_same (k : LaneNo) (l : Lane) : (s.withLane k l).lanes[k] = l := by simp [State.withLane]

theorem withLane_other (k : LaneNo) (l : Lane) : OtherLanes k s (s.withLane k l) := by
  intro j hj
  have ne : k.val ≠ j.val := fun e => hj (Fin.ext e.symm)
  simp only [State.withLane, Fin.getElem_fin, Vector.getElem_set_ne _ _ ne]

theorem commitLane_emits (k : LaneNo) :
    Emits [decisionFrame s u (.lane k)] [.caseHeld u k] [.portB, .tracks, .lanes, .reports] s (commitLane k u s)
      ∧ (commitLane k u s).lanes = (s.withLane k { s.lanes[k] with list := s.lanes[k].list ++ [u] }).lanes
      ∧ ∀ v, (commitLane k u s).track v = (s.setTrack u (.holdPending k)).track v := by
  have listed := Emits.of_keeps (withLane_keeps s k { s.lanes[k] with list := s.lanes[k].list ++ [u] }) (by simp)
  have tracked := Emits.of_keeps (setTrack_keeps (s.withLane k { s.lanes[k] with list := s.lanes[k].list ++ [u] }) u
    (.holdPending k)) (by simp)
  have sent := sendDecision_emits (holdEntry k u s) u (.lane k)
  have told := emits_report (.caseHeld u k) (sendDecision u (.lane k) (holdEntry k u s))
  have held := listed.andThen tracked (by simp)
  refine ⟨((held.after sent (by simp)).trans told (by simp)).mono (by simp), ?_, fun v => ?_⟩
  · exact told.keeps.2.2 .lanes (by simp)
  · refine (track_congr (told.keeps.2.2 .tracks (by simp)) v).trans ?_
    refine (track_congr (sent.keeps.2.2 .tracks (by simp)) v).trans ?_
    rw [track_setTrack, holdEntry, track_setTrack]
    rfl

end Ends

/-! ### A station decision committed (R102) -/

theorem addCase_adds (i : StationNo) (c : CaseRec) (s : State) :
    KeepsAllBut [.builds, .flags] s (addCase i c s) ∧ (addCase i c s).builds[i] = s.builds[i].add c
      ∧ OtherBuilds i s (addCase i c s) ∧ FlagsRaised s (addCase i c s) := by
  have path : s.onBuild i (fun b => b.add c) = s.withBuild i (s.builds[i].add c) := rfl
  unfold addCase
  rw [path]
  generalize s.builds[i].add c = b
  have raised := raiseFlags_keeps (s.withBuild i b)
  have builds : (raiseFlags (s.withBuild i b)).builds = (s.withBuild i b).builds := raised.2.2 .builds (by simp)
  refine ⟨((withBuild_keeps ..).mono (by simp)).trans (raised.mono (by simp)), by rw [builds, withBuild_same],
    fun j hj => ?_, raiseFlags_raised (s.withBuild i b)⟩
  rw [builds, withBuild_other _ _ _ j hj]

theorem issue_issuedTo {s v : State} {i : StationNo} (stations : Part.Same s v .stations) (time : Part.Same s v .time)
    (settings : Part.Same s v .settings) (u : Tracking) (d : OrderTarget) :
    v.stations[i].issue u d v.takeExpiry = issuedTo s i u d := by
  have stations' : v.stations = s.stations := stations
  have time' : v.link.time = s.link.time := time
  have settings' : v.req.settings = s.req.settings := settings
  simp only [Station.issue, issuedTo, stations', State.takeExpiry, time', settings', List.contains_eq_mem,
    decide_eq_true_eq, List.isEmpty_iff]

/-- The frames of a committed station decision: DECISION and ORDER. -/
def placeFrames (u : Tracking) (art : Article) (w : Nat) (p : Placement) (s : State) : List (Nat × OwnBody) :=
  [decisionFrame s u (.station p.station), (s.req.settings.cellNodeOf p.station,
    .order p.station s.stations[p.station].nextSeq u
      (placeFrame (caseRecordOf art u w p s.stations[p.station].nextSeq)))]

/-- What a committed station decision leaves (R102, changes 1 to 5). -/
structure CommittedPlace (u : Tracking) (art : Article) (w : Nat) (p : Placement) (id : PlanId) (plan : Plan) (l : PlanLine)
    (s t : State) : Prop where
  build  : t.builds[p.station] = s.builds[p.station].add (caseRecordOf art u w p s.stations[p.station].nextSeq)
  builds : OtherBuilds p.station s t
  own    : t.stations[p.station] = issuedTo s p.station u (.place s.builds[p.station].cases.length)
  others : OtherStations p.station s t
  raised : FlagsRaised s t
  plan   : t.plan id = some { plan with lines := plan.lines.set p.line { l with planned := l.planned + 1 } }
  track  : t.track u = (s.track u).map fun e => { e with state := .toStation p.station s.stations[p.station].nextSeq }

/-- The same behind changes of other parts. -/
theorem CommittedPlace.behind {u : Tracking} {art : Article} {w : Nat} {p : Placement} {id : PlanId} {plan : Plan}
    {l : PlanLine} {s y t : State} {ps : List Part} (h : CommittedPlace u art w p id plan l s y)
    (rest : KeepsAllBut ps y t)
    (hps : Part.builds ∉ ps ∧ Part.stations ∉ ps ∧ Part.flags ∉ ps ∧ Part.plans ∉ ps ∧ Part.tracks ∉ ps) :
    CommittedPlace u art w p id plan l s t := by
  obtain ⟨hbuilds, hstations, hflags, hplans, htracks⟩ := hps
  have builds : t.builds = y.builds := rest.2.2 .builds hbuilds
  have stations : t.stations = y.stations := rest.2.2 .stations hstations
  have plans : t.plans.plans = y.plans.plans := rest.2.2 .plans hplans
  exact ⟨by rw [builds, h.build], fun j hj => by rw [builds, h.builds j hj], by rw [stations, h.own],
    fun j hj => by rw [stations, h.others j hj],
    h.raised.congr (Part.Same.refl s .flags) (Part.Same.refl s .lanes) (rest.2.2 .flags hflags),
    by rw [State.plan, plans, ← State.plan, h.plan], by rw [track_congr (rest.2.2 .tracks htracks), h.track]⟩

theorem commitPlace_commits {u : Tracking} {art : Article} {w : Nat} {p : Placement} {id : PlanId} {plan : Plan}
    {l : PlanLine} {s : State} (named : s.builds[p.station].planId = some id) (hp : s.plan id = some plan)
    (hl : plan.lines[p.line]? = some l) (less : l.planned < l.required) :
    Emits (placeFrames u art w p s) [] [.portB, .plans, .tracks, .flags, .builds, .stations] s
        (commitPlace u art w p (sendDecision u (.station p.station)) s)
      ∧ CommittedPlace u art w p id plan l s (commitPlace u art w p (sendDecision u (.station p.station)) s) := by
  generalize hc : caseRecordOf art u w p s.stations[p.station].nextSeq = c
  have path : commitPlace u art w p (sendDecision u (.station p.station)) s
      = issueOrder p.station u (.place s.builds[p.station].cases.length) (placeFrame c)
          (sendDecision u (.station p.station) (planMore id p.line (addCase p.station c s))) := by
    unfold commitPlace
    dsimp only
    rw [named, hc]
  obtain ⟨added, build, otherBuilds, raised⟩ := addCase_adds p.station c s
  rw [path]
  have plans : (addCase p.station c s).plans.plans = s.plans.plans := added.2.2 .plans (by simp)
  generalize addCase p.station c s = x at *
  obtain ⟨counted, more⟩ := planMore_open (s := x) (id := id) (j := p.line) (p := plan) (by rwa [State.plan, plans]) hl less
  generalize planMore id p.line x = y at *
  have upto := (Emits.of_keeps added (by simp)).andThen (.of_keeps more (by simp)) (by simp)
  have sent := upto.after (sendDecision_emits y u (.station p.station)) (by simp)
  have settings : y.req.settings = s.req.settings := upto.keeps.2.2 .settings (by simp)
  have same := (sendDecision_emits y u (.station p.station)).keeps
  generalize sendDecision u (.station p.station) y = z at *
  have stations : z.stations = s.stations := sent.keeps.2.2 .stations (by simp)
  obtain ⟨issued, after⟩ := issueOrder_emits p.station u (.place s.builds[p.station].cases.length) (placeFrame c) z
  have settingsZ : z.req.settings = s.req.settings := sent.keeps.2.2 .settings (by simp)
  have track := track_issueOrder p.station u (.place s.builds[p.station].cases.length) (placeFrame c) z u
  have issuedTo := issue_issuedTo (i := p.station) (sent.keeps.2.2 .stations (by simp)) (sent.keeps.2.2 .time (by simp))
    (sent.keeps.2.2 .settings (by simp)) u (.place s.builds[p.station].cases.length)
  generalize issueOrder p.station u (.place s.builds[p.station].cases.length) (placeFrame c) z = t at *
  have whole := sent.trans issued (by simp)
  have later : KeepsAllBut [.portB, .stations, .tracks] y t := (same.mono (by simp)).trans issued.keeps
  have rest : KeepsAllBut [.plans, .portB, .stations, .tracks] x t := (more.mono (by simp)).trans (later.mono (by simp))
  have builds : t.builds = x.builds := rest.2.2 .builds (by simp)
  have frame : decisionFrame y u (.station p.station) = decisionFrame s u (.station p.station) := by
    rw [decisionFrame, settings, decisionFrame]
  rw [frame, settingsZ, stations] at whole
  have plansT : t.plans.plans = y.plans.plans := later.2.2 .plans (by simp)
  subst hc
  refine ⟨whole.mono (by simp), by rw [builds, build], fun j hj => by rw [builds, otherBuilds j hj], ?_, fun j hj => ?_,
    ?_, by rwa [State.plan, plansT], ?_⟩
  · rw [after, withStation_same, issuedTo]
  · rw [after, withStation_other _ _ _ j hj, stations]
  · exact raised.congr (Part.Same.refl s .flags) (Part.Same.refl s .lanes) (rest.2.2 .flags (by simp))
  · rw [track, if_pos rfl, track_congr (sent.keeps.2.2 .tracks (by simp)), stations]

end Sys2Proof.Machine
end

section
/-!
PROOFS. COMMIT_ATTEMPT for an arrival's job (R102 to R104): O52.
-/

namespace Sys2Proof.Machine

section Commit

variable {s : State} {j : Job} {a : Arrival}

/-! ### The cases of the attempt (R103) -/

theorem commit_closed (gate : s.engine.gate = false) : commitArrival j a s =
    endJob j.exhausted (if (s.track a.tracking).isSome then s.circulate a.tracking else s) :=
  if_pos (by rw [gate]; rfl)

theorem commit_gone (none : s.track a.tracking = none) : commitArrival j a s = endJob j.exhausted s := by
  cases gate : s.engine.gate with
  | false =>
    rw [commit_closed gate, none]
    rfl
  | true =>
    unfold commitArrival
    rw [gate, none]
    rfl

section Tracked

variable {e : Track} (gate : s.engine.gate = true) (he : s.track a.tracking = some e)
include gate he

theorem commit_tracked : commitArrival j a s =
    if s.isLate a then endJob j.exhausted (lateCase a s)
    else if j.decision.countsCircuits && decide (s.req.settings.maxCircuits < e.circuits) then
      endJob j.exhausted (rejectArrival a .circuits s)
    else
      match e.snap with
      | some art => commitDecision j a art e.weight s
      | none => endJob j.exhausted s := by
  unfold commitArrival
  rw [gate, he]
  rfl

theorem commit_late (late : s.req.settings.decisionWindow < ageAt s.link.time a.scan) :
    commitArrival j a s = endJob j.exhausted (lateCase a s) :=
  (commit_tracked gate he).trans (if_pos (decide_eq_true late))

variable (early : ¬ s.req.settings.decisionWindow < ageAt s.link.time a.scan)
include early

theorem commit_spent (counts : j.decision.countsCircuits = true) (spent : s.req.settings.maxCircuits < e.circuits) :
    commitArrival j a s = endJob j.exhausted (rejectArrival a .circuits s) :=
  ((commit_tracked gate he).trans (if_neg (by simpa [State.isLate] using early))).trans
    (if_pos (by rw [counts, decide_eq_true spent]; rfl))

theorem commit_decides {art : Article} (snap : e.snap = some art)
    (fresh : j.decision.countsCircuits = true → ¬ s.req.settings.maxCircuits < e.circuits) :
    commitArrival j a s = commitDecision j a art e.weight s := by
  refine ((commit_tracked gate he).trans (if_neg (by simpa [State.isLate] using early))).trans ((if_neg ?_).trans ?_)
  · intro both
    obtain ⟨counts, spent⟩ := Bool.and_eq_true_iff.mp both
    exact fresh counts (of_decide_eq_true spent)
  · rw [snap]

end Tracked

/-! ### The checks of a station decision (R102) -/

theorem placeChecks_iff {u : Tracking} {p : Placement} : placeChecks s u p = true ↔
    (s.builds[p.station].binding.isSome = true ∧ s.builds[p.station].revision = p.revision
      ∧ s.builds[p.station].cases.length < 96 ∧ ∀ c ∈ s.builds[p.station].cases, c.tracking ≠ u)
    ∧ s.stations[p.station].orders.length < 4
    ∧ ∃ id, s.builds[p.station].planId = some id ∧ s.takesPlanned id p.line = true := by
  unfold placeChecks
  generalize s.builds[p.station] = b
  generalize s.stations[p.station].orders.length = n
  have listed : (∃ id, b.planId = some id ∧ s.takesPlanned id p.line = true) ↔
      (match b.planId with
        | some id => s.takesPlanned id p.line
        | none => false) = true := by
    cases b.planId <;> simp
  rw [listed]
  simp only [Build.takesAdd, Bool.and_eq_true, decide_eq_true_eq, beq_iff_eq, Bool.not_eq_true', List.any_eq_false,
    and_assoc]
  exact Iff.rfl

theorem placeChecks_passes {u : Tracking} {p : Placement} {id : PlanId} {plan : Plan} {l : PlanLine}
    (named : s.builds[p.station].planId = some id) (revision : s.builds[p.station].revision = p.revision)
    (room : s.builds[p.station].cases.length < 96) (fresh : ∀ c ∈ s.builds[p.station].cases, c.tracking ≠ u)
    (queue : s.stations[p.station].orders.length < 4) (hp : s.plan id = some plan) (hl : plan.lines[p.line]? = some l)
    (less : l.planned < l.required) : placeChecks s u p = true := by
  have bound : s.builds[p.station].binding.isSome = true := by
    obtain ⟨b, hb, -⟩ := Option.map_eq_some_iff.mp named
    rw [hb]
    rfl
  exact placeChecks_iff.mpr ⟨⟨bound, revision, room, fresh⟩, queue, id, named,
    by simpa [takesPlanned_eq hp hl, PlanLine.isOpen] using less⟩

theorem placeChecks_blocked {u : Tracking} {p : Placement} (blocked : PlaceBlocked s u p) :
    ¬ placeChecks s u p = true := by
  intro passes
  obtain ⟨⟨-, revision, room, fresh⟩, queue, id, named, line⟩ := placeChecks_iff.mp passes
  rcases blocked with other | full | ⟨c, hc, same⟩ | queued | shut
  · exact other revision
  · exact absurd room (Nat.not_lt.mpr full)
  · exact fresh c hc same
  · exact absurd queue (Nat.not_lt.mpr queued)
  · unfold State.takesPlanned at line
    split at line
    · rename_i l found
      obtain ⟨plan, hp, hl⟩ := Option.bind_eq_some_iff.mp found
      have less : l.planned < l.required := by simpa [PlanLine.isOpen] using line
      exact absurd less (Nat.not_lt.mpr (shut id plan l named hp hl))
    · cases line

/-! ### The event -/

/-- What a commit attempt that ends its job behind `y`, with nothing to hand over, shows. -/
structure CommitEnds (frames : List (Nat × OwnBody)) (reports : List ReportBody) (ps : List Part) (s y t : State) :
    Prop where
  job      : t.engine.job = none
  displays : Displays frames reports (.job :: ps) s (y.setJob none) t
  served   : Served s

namespace CommitEnds

variable {frames : List (Nat × OwnBody)} {reports : List ReportBody} {ps : List Part} {y t : State}

/-- Behind the change of the job nothing but the ports and the reports moves. -/
theorem rest (h : CommitEnds frames reports ps s y t) : KeepsAllBut [.job, .portA, .portB, .reports] y t :=
  ((setJob_keeps y none).mono (by simp)).trans (h.displays.service.mono (by simp))

theorem track (h : CommitEnds frames reports ps s y t) (u : Tracking) : t.track u = y.track u :=
  track_congr (h.rest.2.2 .tracks (by simp)) u

/-- One that sends nothing to port B. -/
theorem unsent (h : CommitEnds frames reports ps s y t) (hB : Part.portB ∉ ps) :
    KeepsAllBut (.portA :: .reports :: .job :: ps) s t := h.displays.quietB (by simp [hB])

/-- One that queues no report. -/
theorem unreported (h : CommitEnds frames [] ps s y t) : KeepsAllBut (.portB :: .job :: ps) s t :=
  h.displays.unreported h.served

theorem silent (h : CommitEnds [] [] ps s y t) (hB : Part.portB ∉ ps) : KeepsAllBut (.job :: ps) s t :=
  h.displays.silent h.served (by simp [hB])

end CommitEnds

section Runs

variable (running : Running s) (hj : s.engine.job = some j) (hw : j.work = .arrival a)
include hj hw

theorem commitAttempt_arrival : commitAttempt s = commitArrival j a s := by
  unfold commitAttempt
  rw [hj]
  dsimp only
  rw [hw]

include running

theorem commit_run : exec .commitAttempt s = .next (settle (commitArrival j a s)) := by
  rw [← commitAttempt_arrival hj hw]
  exact live_running running commitAttempt

/-- The event of an attempt, as its command shows it. -/
theorem commit_shows {x : State} {frames : List (Nat × OwnBody)} {reports : List ReportBody} {ps : List Part}
    (hact : commitArrival j a s = x) (emits : Emits frames reports ps s x)
    (hps : Part.portA ∉ ps ∧ Part.ownNode ∉ ps ∧ Part.settings ∉ ps) :
    exec .commitAttempt s = .next (settle x) ∧ Displays frames reports ps s x (settle x) := by
  have done : Works s x := hact ▸ Works.commitArrival ..
  exact ⟨hact ▸ commit_run running hj hw, emits.displays running.served' hps done.replying⟩

theorem commit_ends {y : State} {frames : List (Nat × OwnBody)} {reports : List ReportBody} {ps : List Part}
    (nothing : j.exhausted = []) (hact : commitArrival j a s = endJob j.exhausted y) (emits : Emits frames reports ps s y)
    (hps : (Part.portA ∉ ps ∧ Part.ownNode ∉ ps ∧ Part.settings ∉ ps) ∧ Part.time ∉ ps ∧ Part.levels ∉ ps) :
    ∃ t, exec .commitAttempt s = .next t ∧ CommitEnds frames reports ps s y t := by
  rw [nothing, endJob, handOver_nil] at hact
  have ended := (emits.andThen (.of_keeps (setJob_keeps y none) (by simp)) ⟨hps.1.2.1, hps.2⟩).mono
    (qs := .job :: ps) (by simp [or_comm])
  obtain ⟨run, displays⟩ := commit_shows running hj hw hact ended (by simpa using hps.1)
  exact ⟨_, run, displays.service.2.2 .job (by simp), displays, running.served'⟩

end Runs

/-! ### What the decisions come to -/

section Decisions

variable {art : Article} {w : Nat}

theorem commitDecision_pass (h : j.decision = .pass) :
    commitDecision j a art w s = endJob j.exhausted (passArrival a s) := by
  unfold commitDecision
  rw [h]

theorem commitDecision_reject {r : RejectReason} (h : j.decision = .reject r) :
    commitDecision j a art w s = endJob j.exhausted (rejectArrival a r s) := by
  unfold commitDecision
  rw [h]

theorem commitDecision_place {p : Placement} (h : j.decision = .place p) : commitDecision j a art w s =
    if s.stations[p.station].state = .building ∧ placeChecks s a.tracking p = true then
      endJob j.exhausted (commitPlace a.tracking art w p (sendDecision a.tracking (.station p.station)) s)
    else rerun j (rerunArrival a art w) (passArrival a) s := by
  unfold commitDecision
  rw [h]

theorem commitDecision_lane {k : LaneNo} (h : j.decision = .lane k) : commitDecision j a art w s =
    if s.lanes[k].state = .ready ∧ s.lanes[k].hasRoom = true then endJob j.exhausted (commitLane k a.tracking s)
    else rerun j (rerunArrival a art w) (passArrival a) s := by
  unfold commitDecision
  rw [h]

theorem commitDecision_release {x : Option (StationNo × Revision)} (h : j.decision = .release x) :
    commitDecision j a art w s = endJob j.exhausted s := by
  unfold commitDecision
  rw [h]

end Decisions

/-! ### Which plans stand behind the end of a job -/

/-- Changes behind which each station that was BUILDING is so with the same plan. -/
structure Stands (s y : State) : Prop where
  rising : RisingKeys Plan.key s.plans.plans → RisingKeys Plan.key y.plans.plans
  posts  : RisingKeys Plan.key s.plans.plans → ∀ i : StationNo, s.stations[i].state = .building →
             y.stations[i].state = .building ∧ y.postAt i = s.postAt i

theorem Bare.stands {s y : State} (h : Bare s y) : Stands s y :=
  ⟨fun rising => by rwa [h.plans], fun _ i building =>
    ⟨(h.station i).1.trans building, by rw [State.postAt, State.planAt, h.plans]; rfl⟩⟩

theorem Stands.trans {s y z : State} (h : Stands s y) (k : Stands y z) : Stands s z :=
  ⟨fun rising => k.rising (h.rising rising), fun rising i building => by
    obtain ⟨building', posts⟩ := h.posts rising i building
    obtain ⟨building'', posts'⟩ := k.posts (h.rising rising) i building'
    exact ⟨building'', posts'.trans posts⟩⟩

theorem planMore_stands (id : PlanId) (n : Nat) (s : State) : Stands s (planMore id n s) := by
  unfold planMore
  split_ifs
  · have ids := ids_onPlan s id (g := fun p => p.onLine n fun l => { l with planned := l.planned + 1 }) fun _ => rfl
    refine ⟨rising_of_ids ids, fun rising i building => ⟨building, postAt_congr ids rising fun other p q hp hq => ?_⟩⟩
    rw [plan_onPlan s id other (g := fun p => p.onLine n fun l => { l with planned := l.planned + 1 }) fun _ => rfl, hp] at hq
    split_ifs at hq
    · rw [← Option.some.inj hq]
      rfl
    · rw [Option.some.inj hq]
  · exact (Bare.refl s).stands

theorem commitPlace_stands (u : Tracking) (art : Article) (w : Nat) {p : Placement}
    (building : s.stations[p.station].state = .building) (d : DecTarget) :
    Stands s (commitPlace u art w p (sendDecision u d) s) := by
  have added := fun c => Bare.addCase p.station c s
  unfold commitPlace
  dsimp only
  cases s.builds[p.station].planId with
  | none =>
    have sent := fun c => (added c).trans (Bare.sendDecision u d _)
    exact ((sent _).trans (.issueOrder ((works_iff _).mpr (.inl (((sent _).station _).1.trans building))) ..)).stands
  | some id =>
    have sent := fun c => Bare.sendDecision u d (planMore id p.line (addCase p.station c s))
    have stations := fun c => planMore_stations id p.line (addCase p.station c s)
    refine ((added _).stands.trans (planMore_stands id p.line _)).trans
      ((sent _).trans (.issueOrder ((works_iff _).mpr (.inl ?_)) ..)).stands
    rw [((sent _).station _).1, stations, ((added _).station _).1, building]

/-- An attempt runs again, or ends its job behind changes that leave what is BUILDING where. -/
theorem commitArrival_cases (j : Job) (a : Arrival) (s : State) :
    (∃ x, commitArrival j a s = s.setJob (some x)) ∨ ∃ y, commitArrival j a s = endJob j.exhausted y ∧ Stands s y := by
  have same := (Bare.refl s).stands
  have passed := (Bare.passArrival a s).stands
  have again : ∀ art w, (∃ x, rerun j (rerunArrival a art w) (passArrival a) s = s.setJob (some x))
      ∨ ∃ y, rerun j (rerunArrival a art w) (passArrival a) s = endJob j.exhausted y ∧ Stands s y := by
    intro art w
    unfold rerun
    split_ifs
    · exact .inl ⟨_, rfl⟩
    · exact .inr ⟨_, rfl, passed⟩
  cases gate : s.engine.gate with
  | false =>
    refine .inr ⟨_, commit_closed gate, ?_⟩
    split_ifs
    · exact (Bare.setTrack ..).stands
    · exact same
  | true =>
    cases he : s.track a.tracking with
    | none => exact .inr ⟨s, commit_gone he, same⟩
    | some e =>
      rw [commit_tracked gate he]
      split_ifs
      · exact .inr ⟨_, rfl, (Bare.lateCase a s).stands⟩
      · exact .inr ⟨_, rfl, (Bare.rejectArrival a .circuits s).stands⟩
      · split
        · rename_i art _
          cases hd : j.decision with
          | pass => exact .inr ⟨_, commitDecision_pass hd, passed⟩
          | reject r => exact .inr ⟨_, commitDecision_reject hd, (Bare.rejectArrival a r s).stands⟩
          | release x => exact .inr ⟨s, commitDecision_release hd, same⟩
          | place p =>
            rw [commitDecision_place hd]
            split_ifs with ok
            · exact .inr ⟨_, rfl, commitPlace_stands _ _ _ ok.1 _⟩
            · exact again art e.weight
          | lane k =>
            rw [commitDecision_lane hd]
            split_ifs
            · exact .inr ⟨_, rfl, (Bare.commitLane k a.tracking s).stands⟩
            · exact again art e.weight
        · exact .inr ⟨s, rfl, same⟩

theorem endJob_handsOver {ex : List StationNo} {y t : State} {ps : List Part} (stands : Stands s y)
    (rising : RisingKeys Plan.key s.plans.plans) (behind : KeepsAllBut ps (endJob ex y) t)
    (hps : Part.plans ∉ ps ∧ Part.stations ∉ ps) : HandedOver ex s t :=
  handedOver_of (y := y.setJob none) (stands.rising rising) (stands.posts rising) behind hps

theorem endJob_emits (ex : List StationNo) (y : State) :
    ∃ frames reports, Emits frames reports (.job :: splitParts) y (endJob ex y) := by
  obtain ⟨frames, reports, handed⟩ := handOver_emits ex (y.setJob none)
  have ended : Emits [] [] [.job] y (y.setJob none) := .of_keeps (setJob_keeps y none) (by simp)
  exact ⟨frames, reports, ended.after handed (by simp)⟩

end Commit

end Sys2Proof.Machine
end

section
/-!
PROOFS. COMMIT_ATTEMPT for an arrival's job, by the decision of its run: O52.
-/

namespace Sys2Proof.Machine

theorem rerunArrival_served {s : State} (h : Served s) (a : Arrival) (art : Article) (w n : Nat) :
    settle (rerunArrival a art w n s) = rerunArrival a art w n s :=
  settle_noted h (setJob_keeps s _) (by simp) ⟨rfl, rfl⟩

section Completes

variable {s : State} {j : Job} {a : Arrival} (running : Running s) (hj : s.engine.job = some j)
variable (hw : j.work = .arrival a) (nothing : j.exhausted = [])

include running hj hw nothing

theorem commit_untracked (none : s.track a.tracking = none) :
    ∃ t, exec .commitAttempt s = .next t ∧ KeepsAllBut [.job] s t ∧ t.engine.job = .none := by
  obtain ⟨t, run, ends⟩ := commit_ends running hj hw nothing (commit_gone none) (emits_refl s) (by simp)
  exact ⟨t, run, ends.silent (by simp), ends.job⟩

section Tracked

variable {e : Track} (he : s.track a.tracking = some e)
include he

theorem commit_circulates (gate : s.engine.gate = false) :
    ∃ t, exec .commitAttempt s = .next t ∧ KeepsAllBut [.tracks, .job] s t ∧ t.engine.job = none
      ∧ t.track a.tracking =
          some { e with state := .circulating (after s.link.time s.req.settings.returnTimeout) } := by
  have hact : commitArrival j a s = endJob j.exhausted (s.circulate a.tracking) :=
    (commit_closed gate).trans (by rw [he]; rfl)
  obtain ⟨t, run, ends⟩ := commit_ends running hj hw nothing hact
    (.of_keeps (circulate_keeps ..) (by simp)) (by simp)
  refine ⟨t, run, (ends.silent (by simp)).mono (by simp), ends.job, ?_⟩
  rw [ends.track, track_circulate, if_pos rfl, he]
  rfl

/-- An attempt that passes the case (R100, R104). -/
theorem commit_passes (hact : commitArrival j a s = endJob j.exhausted (passArrival a s)) :
    ∃ t, exec .commitAttempt s = .next t ∧ KeepsAllBut [.portB, .tracks, .job] s t ∧ t.engine.job = none
      ∧ t.track a.tracking = some e.bumped ∧ JoinedB [decisionFrame s a.tracking .pass] s t := by
  obtain ⟨emits, tracks⟩ := passArrival_emits s a
  obtain ⟨t, run, ends⟩ := commit_ends running hj hw nothing hact emits (by simp)
  refine ⟨t, run, ends.unreported.mono (by simp), ends.job, ?_, ends.displays.joined⟩
  rw [ends.track, tracks, track_bump, if_pos rfl, he]
  rfl

omit he in
/-- An attempt that rejects the case (R97, R103). -/
theorem commit_rejects {r : RejectReason} (hact : commitArrival j a s = endJob j.exhausted (rejectArrival a r s)) :
    ∃ t, exec .commitAttempt s = .next t ∧ KeepsAllBut [.portA, .portB, .tracks, .job, .reports] s t
      ∧ t.engine.job = none ∧ t.track a.tracking = none ∧ JoinedB [decisionFrame s a.tracking (.reject r)] s t
      ∧ Reported (.caseRejected a.tracking (some a.code) r) s t := by
  obtain ⟨emits, tracks⟩ := rejectArrival_emits s a r
  obtain ⟨t, run, ends⟩ := commit_ends running hj hw nothing hact emits (by simp)
  refine ⟨t, run, ends.displays.keeps.mono (by simp), ends.job, ?_, ends.displays.joined,
    ends.displays.reported.reported running.served'⟩
  rw [ends.track, tracks, track_dropTrack, if_pos rfl]

/-- An attempt whose checks have failed (R104). -/
theorem commit_runsAgain {art : Article}
    (hact : commitArrival j a s = rerun j (rerunArrival a art e.weight) (passArrival a) s) :
    (j.reruns < 3 → ∃ t, exec .commitAttempt s = .next t ∧ KeepsAllBut [.job] s t ∧ t.engine.job = some
      { work := j.work, decision := (decideArrival s a.tracking art e.weight).1
        exhausted := (decideArrival s a.tracking art e.weight).2, reruns := j.reruns + 1, cancelled := false })
    ∧ (3 ≤ j.reruns → ∃ t, exec .commitAttempt s = .next t ∧ KeepsAllBut [.portB, .tracks, .job] s t
      ∧ t.engine.job = none ∧ t.track a.tracking = some e.bumped
      ∧ JoinedB [decisionFrame s a.tracking .pass] s t) := by
  unfold rerun at hact
  refine ⟨fun left => ?_, fun spent => ?_⟩
  · rw [if_pos (show j.reruns < Config.maxReruns from left)] at hact
    have run := commit_run running hj hw
    rw [hact, rerunArrival_served running.served'] at run
    exact ⟨_, run, setJob_keeps s _, by rw [hw]; rfl⟩
  · rw [if_neg (show ¬ j.reruns < Config.maxReruns from Nat.not_lt.mpr spent)] at hact
    exact commit_passes running hj hw nothing he hact

variable (gate : s.engine.gate = true)
include gate

theorem commit_comesLate (late : s.req.settings.decisionWindow < ageAt s.link.time a.scan) :
    ∃ t, exec .commitAttempt s = .next t ∧ KeepsAllBut [.portA, .tracks, .job, .reports] s t ∧ t.engine.job = none
      ∧ t.track a.tracking = some e.bumped
      ∧ Reported (.caseLate a.tracking (some (ageAt s.link.time a.scan))) s t := by
  obtain ⟨emits, tracks⟩ := lateCase_emits s a
  obtain ⟨t, run, ends⟩ := commit_ends running hj hw nothing (commit_late gate he late) emits (by simp)
  refine ⟨t, run, (ends.unsent (by simp)).mono (by simp), ends.job, ?_,
    ends.displays.reported.reported running.served'⟩
  rw [ends.track, tracks, track_bump, if_pos rfl, he]
  rfl

variable (early : ¬ s.req.settings.decisionWindow < ageAt s.link.time a.scan) {art : Article} (snap : e.snap = some art)
include early snap

theorem commit_holds {k : LaneNo} (fresh : ¬ s.req.settings.maxCircuits < e.circuits) (hd : j.decision = .lane k)
    (ready : s.lanes[k].state = .ready) (room : s.lanes[k].list.length < 24) :
    ∃ t, exec .commitAttempt s = .next t
      ∧ KeepsAllBut [.portA, .portB, .tracks, .job, .lanes, .reports] s t ∧ OtherLanes k s t ∧ t.engine.job = none
      ∧ t.lanes[k] = { s.lanes[k] with list := s.lanes[k].list ++ [a.tracking] }
      ∧ t.track a.tracking = some { e with state := .holdPending k }
      ∧ JoinedB [decisionFrame s a.tracking (.lane k)] s t ∧ Reported (.caseHeld a.tracking k) s t := by
  have hact := commit_decides (j := j) gate he early snap fun _ => fresh
  rw [commitDecision_lane hd, if_pos ⟨ready, decide_eq_true room⟩] at hact
  obtain ⟨emits, lanes, tracks⟩ := commitLane_emits s a.tracking k
  obtain ⟨t, run, ends⟩ := commit_ends running hj hw nothing hact emits (by simp)
  have lanes' : t.lanes = (commitLane k a.tracking s).lanes := ends.rest.2.2 .lanes (by simp)
  refine ⟨t, run, ends.displays.keeps.mono (by simp), fun n hn => ?_, ends.job, ?_, ?_, ends.displays.joined,
    ends.displays.reported.reported running.served'⟩
  · rw [lanes', lanes, withLane_other _ _ _ n hn]
  · rw [lanes', lanes, withLane_same]
  · rw [ends.track, tracks, track_setTrack, if_pos rfl, he]
    rfl

theorem commit_places {p : Placement} {id : PlanId} {plan : Plan} {l : PlanLine}
    (fresh : ¬ s.req.settings.maxCircuits < e.circuits) (hd : j.decision = .place p)
    (building : s.stations[p.station].state = .building) (named : s.builds[p.station].planId = some id)
    (revision : s.builds[p.station].revision = p.revision) (room : s.builds[p.station].cases.length < 96)
    (unlisted : ∀ c ∈ s.builds[p.station].cases, c.tracking ≠ a.tracking)
    (queue : s.stations[p.station].orders.length < 4) (hp : s.plan id = some plan) (hl : plan.lines[p.line]? = some l)
    (less : l.planned < l.required) :
    ∃ t, exec .commitAttempt s = .next t ∧ t.engine.job = none
      ∧ KeepsAllBut [.portB, .plans, .tracks, .flags, .job, .builds, .stations] s t
      ∧ CommittedPlace a.tracking art e.weight p id plan l s t
      ∧ JoinedB (placeFrames a.tracking art e.weight p s) s t := by
  have hact := commit_decides (j := j) gate he early snap fun _ => fresh
  rw [commitDecision_place hd, if_pos ⟨building, placeChecks_passes named revision room unlisted queue hp hl less⟩] at hact
  obtain ⟨emits, committed⟩ := commitPlace_commits (u := a.tracking) (art := art) (w := e.weight) named hp hl less
  obtain ⟨t, run, ends⟩ := commit_ends running hj hw nothing hact emits (by simp)
  exact ⟨t, run, ends.job, ends.unreported.mono (by simp), committed.behind ends.rest (by simp), ends.displays.joined⟩

end Tracked

end Completes

/-- The stations handed over by an attempt that ends its job (R94). -/
theorem commit_handsOver {s t : State} {j : Job} {a : Arrival} (running : Running s) (hj : s.engine.job = some j)
    (hw : j.work = .arrival a) (rising : RisingKeys Plan.key s.plans.plans) (run : exec .commitAttempt s = .next t)
    (ended : t.engine.job = none) : HandedOver j.exhausted s t := by
  have same : t = settle (commitArrival j a s) := Host.Outcome.next.inj (run.symm.trans (commit_run running hj hw))
  have behind : KeepsAllBut [.portA, .portB, .exec, .reports] (commitArrival j a s) t := same ▸ settle_keeps_parts _
  rcases commitArrival_cases j a s with ⟨x, again⟩ | ⟨y, ends, stands⟩
  · have job : t.engine.job = (commitArrival j a s).engine.job := behind.2.2 .job (by simp)
    rw [again, ended] at job
    cases job
  · rw [ends] at behind
    exact endJob_handsOver stands rising behind (by simp)

/-- A case passed with the exhausted stations of its run handed over (R94, R100). -/
theorem commit_passesOn {s : State} {j : Job} {a : Arrival} {e : Track} {art : Article} (running : Running s)
    (hj : s.engine.job = some j) (hw : j.work = .arrival a) (he : s.track a.tracking = some e)
    (snap : e.snap = some art) (gate : s.engine.gate = true)
    (early : ¬ s.req.settings.decisionWindow < ageAt s.link.time a.scan) (hd : j.decision = .pass)
    (rising : RisingKeys Plan.key s.plans.plans) : ∃ t, exec .commitAttempt s = .next t
      ∧ KeepsAllBut [.portA, .portB, .exec, .plans, .tracks, .flags, .job, .builds, .stations, .reports] s t
      ∧ t.engine.job = none ∧ t.track a.tracking = some e.bumped
      ∧ OnB (ownFrameB s s.req.settings.sorterNode (.decision a.tracking .pass)) t ∧ HandedOver j.exhausted s t := by
  have hact := commit_decides (j := j) gate he early snap fun counts => by rw [hd] at counts; cases counts
  rw [commitDecision_pass hd] at hact
  obtain ⟨emits, tracks⟩ := passArrival_emits s a
  obtain ⟨frames, reports, handed⟩ := endJob_emits j.exhausted (passArrival a s)
  have whole := emits.trans handed (by simp)
  obtain ⟨run, displays⟩ := commit_shows running hj hw hact whole (by simp [splitParts])
  have job : (endJob j.exhausted (passArrival a s)).engine.job = none := by
    obtain ⟨_, _, splits⟩ := handOver_emits j.exhausted ((passArrival a s).setJob none)
    exact splits.keeps.2.2 .job (by simp [splitParts])
  have ended : (settle (endJob j.exhausted (passArrival a s))).engine.job = none :=
    Eq.trans (displays.service.2.2 .job (by simp)) job
  refine ⟨_, run, displays.keeps.mono (by simp [splitParts]), ended, ?_,
    displays.joined.onB List.mem_cons_self, commit_handsOver running hj hw rising run ended⟩
  rw [track_congr (displays.service.2.2 .tracks (by simp)), track_congr (handed.keeps.2.2 .tracks (by simp [splitParts])),
    tracks, track_bump, if_pos rfl, he]
  rfl

/-- Settles O52: the tests of an attempt in their order, then its decision. -/
theorem arrivalCommitCompletes : Obligations.ArrivalCommitCompletes := by
  refine ⟨fun s running none => ?_, fun s j a running hj hw nothing gone =>
      commit_untracked running hj hw nothing gone, fun s j a e art running hj hw nothing he snap => ?_,
    fun s j a e art running hj hw he snap gate early hd rising =>
      commit_passesOn running hj hw he snap gate (Nat.not_lt.mpr early) hd rising,
    fun s t j a running hj hw rising run ended => commit_handsOver running hj hw rising run ended, fun _ _ => rfl⟩
  · have idle : commitAttempt s = s := by rw [commitAttempt, none]
    refine (live_served running (effect := commitAttempt) ?_).trans (by rw [idle])
    rw [idle]
    exact running.served'
  · dsimp only
    have again := fun hact => commit_runsAgain running hj hw nothing he (art := art) hact
    refine ⟨commit_circulates running hj hw nothing he, commit_comesLate running hj hw nothing he,
      fun gate early hd => ?_, fun r gate early hd => ?_, fun gate early spent placing => ?_,
      fun k gate early fresh hd ready room => commit_holds running hj hw nothing he gate early snap fresh hd ready room,
      fun p id plan l gate early fresh hd building named revision room unlisted queue hp hl less => ?_,
      fun k gate early fresh hd blocked => again ?_, fun p gate early fresh hd blocked => again ?_⟩
    · refine commit_passes running hj hw nothing he ?_
      rw [commit_decides gate he early snap (fun counts => by rw [hd] at counts; cases counts), commitDecision_pass hd]
    · refine commit_rejects running hj hw nothing ?_
      rw [commit_decides gate he early snap (fun counts => by rw [hd] at counts; cases counts), commitDecision_reject hd]
    · refine commit_rejects running hj hw nothing (commit_spent gate he early ?_ spent)
      rcases placing with ⟨p, hd⟩ | ⟨k, hd⟩ <;> rw [hd] <;> rfl
    · obtain ⟨t, run, job, keeps, committed, joined⟩ := commit_places running hj hw nothing he gate early snap fresh hd
        building named revision room unlisted queue hp hl less
      refine ⟨t, run, job, keeps, committed.others, committed.builds, committed.build, committed.raised, committed.plan,
        committed.own, ?_, joined⟩
      rw [committed.track, he]
      rfl
    · rw [commit_decides gate he early snap fun _ => fresh, commitDecision_lane hd, if_neg]
      rintro ⟨ready, room⟩
      rcases blocked with other | full
      · exact other ready
      · exact absurd (of_decide_eq_true room) (Nat.not_lt.mpr full)
    · rw [commit_decides gate he early snap fun _ => fresh, commitDecision_place hd, if_neg]
      rintro ⟨building, passes⟩
      rcases blocked with other | shut
      · exact other building
      · exact placeChecks_blocked shut passes

end Sys2Proof.Machine
end

section
/-!
PROOFS. What an arrival's run decides (R95, R97, R99 to R101): hold or pass, and what it does not look at.
-/

namespace Sys2Proof.Machine

/-! ### Hold or pass (R77, R78, R100, R101) -/

theorem openQuantity_eq (s : State) (code : ArticleCode) : s.openQuantity code =
    (((s.plans.plans.flatMap (·.lines)).filter fun l => l.code == code).map fun l => l.required - l.planned).sum := by
  have one : ∀ ls : List PlanLine, (ls.map fun l => if l.code = code then l.required - l.planned else 0).sum
      = ((ls.filter fun l => l.code == code).map fun l => l.required - l.planned).sum := by
    intro ls
    induction ls with
    | nil => rfl
    | cons l ls ih =>
      by_cases h : l.code = code <;> simp [h, ih]
  unfold State.openQuantity
  induction s.plans.plans with
  | nil => rfl
  | cons p ps ih =>
    rw [List.map_cons, List.sum_cons, ih, List.flatMap_cons, List.filter_append, List.map_append, List.sum_append,
      ← one p.lines, Plan.openFor]

theorem heldQuantity_eq (s : State) (code : ArticleCode) (u : Tracking) : s.heldQuantity code u =
    (s.tracker.tracks.filter fun e => e.tracking != u && e.snap.map (·.code) == some code
      && match e.state with
        | .holdPending _ | .held _ | .releasing _ | .returning _ => true
        | .circulating _ | .toStation _ _ | .spurHeld _ => false).length := by
  rw [State.heldQuantity, List.countP_eq_length_filter]
  congr 2
  funext e
  cases e.snap <;> cases e.state <;> simp [TrackState.isHeld]

/-- A lane that a hold decision may choose. -/
def State.holdsAt (s : State) (k : LaneNo) : Prop := s.lanes[k].state = .ready ∧ s.lanes[k].list.length < 24

/-- The lane `k` is at least as good as `j` for a hold decision: fewer cases, or as many and a lower number. -/
def State.LaneBefore (s : State) (k j : LaneNo) : Prop :=
  s.lanes[k].list.length < s.lanes[j].list.length ∨ s.lanes[k].list.length = s.lanes[j].list.length ∧ k ≤ j

/-- The choice among the lanes that have been compared. -/
def State.ChosenLane (s : State) (done : List LaneNo) : Option LaneNo → Prop
  | none => ∀ j ∈ done, ¬ s.holdsAt j
  | some k => s.holdsAt k ∧ ∀ j ∈ done, s.holdsAt j → s.LaneBefore k j

theorem State.LaneBefore.length_le {s : State} {k j : LaneNo} (h : s.LaneBefore k j) :
    s.lanes[k].list.length ≤ s.lanes[j].list.length := h.elim Nat.le_of_lt fun e => Nat.le_of_eq e.1

theorem betterLane_chosen {s : State} {done : List LaneNo} {acc : Option LaneNo} (h : s.ChosenLane done acc) {k : LaneNo}
    (later : ∀ j, acc = some j → j ≤ k) :
    s.ChosenLane (done ++ [k]) (betterLane s acc k) ∧ ∀ j, betterLane s acc k = some j → j ≤ k := by
  have self : s.LaneBefore k k := .inr ⟨rfl, le_refl k⟩
  unfold betterLane
  by_cases room : s.holdsAt k
  · rw [if_pos ⟨room.1, decide_eq_true room.2⟩]
    cases acc with
    | none =>
      refine ⟨⟨room, fun j hj holds => ?_⟩, fun j e => (Option.some.inj e) ▸ le_refl k⟩
      rcases List.mem_append.mp hj with old | new
      · exact absurd holds (h j old)
      · exact List.mem_singleton.mp new ▸ self
    | some n =>
      obtain ⟨holds, best⟩ := h
      dsimp only
      split_ifs with fewer
      · refine ⟨⟨room, fun j hj holds' => ?_⟩, fun j e => (Option.some.inj e) ▸ le_refl k⟩
        rcases List.mem_append.mp hj with old | new
        · exact .inl (Nat.lt_of_lt_of_le fewer (best j old holds').length_le)
        · exact List.mem_singleton.mp new ▸ self
      · refine ⟨⟨holds, fun j hj holds' => ?_⟩, fun j e => (Option.some.inj e) ▸ later n rfl⟩
        rcases List.mem_append.mp hj with old | new
        · exact best j old holds'
        · rw [List.mem_singleton.mp new]
          rcases Nat.lt_or_eq_of_le (Nat.not_lt.mp fewer) with less | same
          · exact .inl less
          · exact .inr ⟨same, later n rfl⟩
  · rw [if_neg fun e => room ⟨e.1, of_decide_eq_true e.2⟩]
    refine ⟨?_, later⟩
    cases acc with
    | none =>
      intro j hj
      rcases List.mem_append.mp hj with old | new
      · exact h j old
      · exact List.mem_singleton.mp new ▸ room
    | some n =>
      refine ⟨h.1, fun j hj holds => ?_⟩
      rcases List.mem_append.mp hj with old | new
      · exact h.2 j old holds
      · exact absurd (List.mem_singleton.mp new ▸ holds) room

theorem holdLane_chosen (s : State) : s.ChosenLane allLanes (holdLane s) := by
  have zero : s.ChosenLane [] none := fun _ h => nomatch h
  have none : ∀ j : LaneNo, (Option.none : Option LaneNo) = some j → j ≤ 0 := fun _ h => nomatch h
  have up : ∀ {k n : LaneNo} {acc : Option LaneNo}, k ≤ n → (∀ j, acc = some j → j ≤ k) → ∀ j, acc = some j → j ≤ n :=
    fun hkn h j e => le_trans (h j e) hkn
  have first := betterLane_chosen (k := 0) zero none
  have second := betterLane_chosen (k := 1) first.1 (up (by decide) first.2)
  have third := betterLane_chosen (k := 2) second.1 (up (by decide) second.2)
  exact (betterLane_chosen (k := 3) third.1 (up (by decide) third.2)).1

theorem mem_allLanes (k : LaneNo) : k ∈ allLanes := by revert k; decide

theorem holdLane_none {s : State} (h : ∀ k, ¬ s.holdsAt k) : holdLane s = none := by
  have chosen := holdLane_chosen s
  cases hold : holdLane s with
  | none => rfl
  | some k =>
    rw [hold] at chosen
    exact absurd chosen.1 (h k)

theorem holdLane_some {s : State} {k : LaneNo} (room : s.holdsAt k) (best : ∀ j, s.holdsAt j → s.LaneBefore k j) :
    holdLane s = some k := by
  have chosen := holdLane_chosen s
  cases hold : holdLane s with
  | none =>
    rw [hold] at chosen
    exact absurd room (chosen k (mem_allLanes k))
  | some n =>
    rw [hold] at chosen
    obtain ⟨holds, first⟩ := chosen
    have back := first k (mem_allLanes k) room
    rcases best n holds with less | ⟨same, le⟩
    · exact absurd less (Nat.not_lt.mpr back.length_le)
    · rcases back with less | ⟨-, ge⟩
      · omega
      · rw [le_antisymm ge le]

theorem holdOrPass_surplus {s : State} {code : ArticleCode} {u : Tracking}
    (h : s.openQuantity code ≤ s.heldQuantity code u) : holdOrPass s code u = .reject .surplus :=
  if_neg (Nat.not_lt.mpr h)

theorem holdOrPass_wanted {s : State} {code : ArticleCode} {u : Tracking}
    (h : s.heldQuantity code u < s.openQuantity code) : holdOrPass s code u =
      match holdLane s with
      | some k => .lane k
      | none => .pass := if_pos h

/-! ### The run of an arrival (R100) -/

theorem decideArrival_stations (s : State) (u : Tracking) (art : Article) (w : Nat) :
    (decideArrival s u art w).2 = (stationChoice s art w).2 := by
  unfold decideArrival
  dsimp only
  split <;> rfl

theorem decideArrival_place {s : State} {u : Tracking} {art : Article} {w : Nat} {p : Placement}
    (h : (stationChoice s art w).1 = some p) : (decideArrival s u art w).1 = .place p := by
  unfold decideArrival
  dsimp only
  rw [h]

theorem decideArrival_noPlace {s : State} {u : Tracking} {art : Article} {w : Nat}
    (h : (stationChoice s art w).1 = none) : (decideArrival s u art w).1 = holdOrPass s art.code u := by
  unfold decideArrival
  dsimp only
  rw [h]

/-! ### What a run does not look at: the arrivals, and the entry of its own case -/

theorem stationChoice_tracker (s : State) (x : Tracker) (art : Article) (w : Nat) :
    stationChoice { s with tracker := x } art w = stationChoice s art w := by
  have inserted : ∀ (i : StationNo) (l : List StationNo), insertStation { s with tracker := x } i l = insertStation s i l := by
    intro i l
    induction l with
    | nil => rfl
    | cons n l ih =>
      unfold insertStation
      rw [ih]
      rfl
  have chosen : ∀ l : List StationNo, chooseFrom { s with tracker := x } art w l = chooseFrom s art w l := by
    intro l
    induction l with
    | nil => rfl
    | cons n l ih =>
      unfold chooseFrom
      rw [ih]
      rfl
  have ordered : ∀ l : List StationNo, byDue { s with tracker := x } l = byDue s l := by
    intro l
    unfold byDue
    congr 1
    funext acc i
    exact inserted i acc
  unfold stationChoice chooseAmong
  rw [chosen, ordered]
  rfl

/-- The entries of the other cases are the same. -/
def OthersTracked (u : Tracking) (s t : State) : Prop :=
  t.tracker.tracks.filter (fun e => e.tracking != u) = s.tracker.tracks.filter fun e => e.tracking != u

theorem heldQuantity_congr {s t : State} {u : Tracking} (h : OthersTracked u s t) (code : ArticleCode) :
    t.heldQuantity code u = s.heldQuantity code u := by
  have split : ∀ v : State, v.heldQuantity code u = (v.tracker.tracks.filter fun e => e.tracking != u).countP fun e =>
      e.state.isHeld && (match e.snap with | some a => a.code == code | none => false) := by
    intro v
    rw [State.heldQuantity, List.countP_filter]
    congr 1
    funext e
    exact (Bool.and_assoc ..).trans (Bool.and_comm ..)
  rw [split, split, h]

theorem decideArrival_tracker {s : State} {x : Tracker} {u : Tracking} (h : OthersTracked u s { s with tracker := x })
    (art : Article) (w : Nat) : decideArrival { s with tracker := x } u art w = decideArrival s u art w := by
  have hold : holdOrPass { s with tracker := x } art.code u = holdOrPass s art.code u := by
    unfold holdOrPass
    rw [heldQuantity_congr h]
    rfl
  unfold decideArrival
  rw [stationChoice_tracker, hold]

theorem acceptance_tracker {s : State} {x : Tracker} {a : Arrival}
    (h : ((({ s with tracker := x } : State).track a.tracking).map (·.circuits)).getD 0
      = ((s.track a.tracking).map (·.circuits)).getD 0) :
    acceptance { s with tracker := x } a = acceptance s a := by
  unfold acceptance
  rw [h]
  rfl

theorem othersTracked_onTrack (s : State) (u : Tracking) {g : Track → Track} (hg : ∀ e, (g e).tracking = e.tracking) :
    OthersTracked u s (s.onTrack u g) := by
  unfold OthersTracked State.onTrack
  dsimp only
  induction s.tracker.tracks with
  | nil => rfl
  | cons e l ih =>
    unfold changeFirst
    split_ifs with h
    · have own : (e.tracking != u) = false := by simpa using h
      rw [List.filter_cons_of_neg (by simp [hg, own]), List.filter_cons_of_neg (by simp [own])]
    · rw [List.filter_cons, List.filter_cons, ih]

theorem othersTracked_addTrack (s : State) (e : Track) : OthersTracked e.tracking s (s.addTrack e) := by
  unfold OthersTracked State.addTrack
  dsimp only
  induction s.tracker.tracks with
  | nil => simp [putKey]
  | cons y l ih =>
    unfold putKey
    split_ifs with less same
    · simp
    · have own : y.tracking = e.tracking := BitVec.eq_of_toNat_eq same.symm
      simp [own]
    · rw [List.filter_cons, List.filter_cons, ih]

/-! ### The handling of an arrival on the loop (R95, steps 4 to 6) -/

section Plan

variable {a : Arrival} {s : State}

theorem planArrival_late (late : s.req.settings.decisionWindow < ageAt s.link.time a.scan) :
    planArrival a s = lateCase a s := if_pos (decide_eq_true late)

theorem planArrival_early (early : ¬ s.req.settings.decisionWindow < ageAt s.link.time a.scan) : planArrival a s =
    match acceptance s a with
    | .error r => rejectArrival a r s
    | .ok art => (setSnapshot a.tracking art a.weight s).setJob (some
        { work := .arrival a, decision := (decideArrival s a.tracking art a.weight).1
          exhausted := (decideArrival s a.tracking art a.weight).2, reruns := 0, cancelled := false }) := by
  have decided : ∀ art, decideArrival (setSnapshot a.tracking art a.weight s) a.tracking art a.weight
      = decideArrival s a.tracking art a.weight := fun art =>
    decideArrival_tracker (x := (setSnapshot a.tracking art a.weight s).tracker)
      (othersTracked_onTrack s a.tracking (g := fun e => { e with snap := some art, weight := a.weight }) fun _ => rfl) _ _
  unfold planArrival
  rw [if_neg (by simpa [State.isLate] using early)]
  cases acceptance s a with
  | error r => rfl
  | ok art =>
    dsimp only
    rw [decided]

end Plan

end Sys2Proof.Machine
end

section
/-!
PROOFS. Re-arrivals off the loop, the spur and the hold lanes (R98, R115, R139).
-/

namespace Sys2Proof.Machine

/-! ### Back on the loop (R91) -/

/-- An entry back on the loop, with a new deadline. -/
def Track.back (s : State) (e : Track) : Track :=
  { e with state := .circulating (after s.link.time s.req.settings.returnTimeout) }

theorem Track.back_congr {s t : State} (time : Part.Same s t .time) (settings : Part.Same s t .settings) (e : Track) :
    e.back t = e.back s := by
  have time' : t.link.time = s.link.time := time
  have settings' : t.req.settings = s.req.settings := settings
  rw [Track.back, Track.back, time', settings']

theorem track_circulate_own {s v : State} {u : Tracking} {e : Track} (time : Part.Same s v .time)
    (settings : Part.Same s v .settings) (he : v.track u = some e) : (v.circulate u).track u = some (e.back s) := by
  rw [track_circulate, if_pos rfl, he, Option.map_some, ← Track.back_congr time settings]
  rfl

/-! ### Off the spur (R98) -/

section Spur

variable (i : StationNo) (u : Tracking) (s : State)

/-- The case off the spur list and its replan ended, before the closing test. -/
def spurLeft : State := (keepReplans (fun r => r.tracking != u) (leaveSpur i u s)).circulate u

theorem spurReturn_eq : spurReturn i u s = closingTest i (spurLeft i u s) := rfl

/-- The record of a station whose spur list the case has left. -/
def Station.withoutSpur (st : Station) (u : Tracking) : Station :=
  { st with spur := st.spur.filter fun x => x.tracking != u }

theorem spurLeft_keeps : KeepsAllBut [.tracks, .replans, .stations] s (spurLeft i u s) := by
  have left : KeepsAllBut [.stations] s (leaveSpur i u s) := withStation_keeps ..
  exact (left.mono (by simp)).trans (((keepReplans_queue _ _).1.mono (by simp)).trans
    ((circulate_keeps _ u).mono (by simp)))

theorem spurLeft_stations : (spurLeft i u s).stations = (s.withStation i (s.stations[i].withoutSpur u)).stations := rfl

theorem spurLeft_own : (spurLeft i u s).stations[i] = s.stations[i].withoutSpur u := by
  rw [spurLeft_stations, withStation_same]

theorem spurLeft_replans : (spurLeft i u s).engine.replans ++ (spurLeft i u s).engine.waiting =
      (s.engine.replans ++ s.engine.waiting).filter (fun r => r.tracking != u)
    ∧ ((spurLeft i u s).engine.waiting = [] ∨ 32 ≤ (spurLeft i u s).engine.replans.length) := by
  refine ⟨(keepReplans_queue (fun r => r.tracking != u) (leaveSpur i u s)).2, ?_⟩
  have engine : (spurLeft i u s).engine = (keepReplans (fun r => r.tracking != u) (leaveSpur i u s)).engine := rfl
  rw [engine]
  simp only [keepReplans, refillReplans, Config.replanCapacity, List.drop_eq_nil_iff, List.length_append,
    List.length_take]
  omega

/-- The closing test behind it leaves the entries and the replans. -/
theorem spurReturn_rest : KeepsAllBut [.portB, .exec, .stations, .reports] (spurLeft i u s) (spurReturn i u s)
    ∧ OtherStations i s (spurReturn i u s) := by
  have test := closingTest_elsewhere i (spurLeft i u s)
  refine ⟨test.keeps, .trans (fun j hj => ?_) test.others⟩
  rw [spurLeft_stations, withStation_other _ _ _ j hj]

theorem spurReturn_track {e : Track} (he : s.track u = some e) : (spurReturn i u s).track u = some (e.back s) := by
  rw [track_congr ((spurReturn_rest i u s).1.2.2 .tracks (by simp)) u]
  exact track_circulate_own (Part.Same.refl s .time) (Part.Same.refl s .settings) he

theorem spurReturn_stays {i : StationNo} {u : Tracking} {s : State}
    (h : ¬ (s.stations[i].state = .closing ∧ (s.stations[i].withoutSpur u).Emptied)) :
    spurReturn i u s = spurLeft i u s := by
  refine closingTest_idle (s := spurLeft i u s) fun closing emptied => h ?_
  rw [spurLeft_own] at closing emptied
  exact ⟨closing, emptied⟩

theorem spurReturn_calls {i : StationNo} {u : Tracking} {s : State} (closing : s.stations[i].state = .closing)
    (emptied : (s.stations[i].withoutSpur u).Emptied) :
    Emits [callFrame s i s.builds[i]] [closedReport i s.builds[i] s.stations[i].close]
        (.tracks :: .replans :: closingParts) s (spurReturn i u s)
      ∧ (spurReturn i u s).stations[i] = { s.stations[i].withoutSpur u with state := .awaitExchange } := by
  have left := Emits.of_keeps (spurLeft_keeps i u s) (by simp)
  obtain ⟨test, stations⟩ := closingTest_emits (i := i) (s := spurLeft i u s) (by rw [spurLeft_own]; exact closing)
  have builds : (spurLeft i u s).builds = s.builds := left.keeps.2.2 .builds (by simp)
  have reason : (s.stations[i].withoutSpur u).close = s.stations[i].close := rfl
  rw [spurLeft_own, if_pos emptied, if_pos emptied, builds, reason,
    callFrame_congr (left.keeps.2.2 .settings (by simp))] at test
  rw [spurLeft_own, if_pos emptied] at stations
  refine ⟨(left.after test (by simp)).mono (by simp [closingParts]), ?_⟩
  rw [spurReturn_eq, stations, withStation_same]

end Spur

/-! ### Lane records and flags -/

section Lanes

variable (s : State) (k : LaneNo)

theorem withLane_again (l l' : Lane) : (s.withLane k l).withLane k l' = s.withLane k l' := by
  simp [State.withLane]

theorem setFlag_keeps (v : Bool) : KeepsAllBut [.flags] s (s.setFlag k v) := by
  refine ⟨rfl, rfl, fun p hp => ?_⟩
  cases p <;> simp_all [Part.Same, State.setFlag]

theorem flag_setFlag_same (v : Bool) : (s.setFlag k v).flag k = v := by simp [State.flag, State.setFlag]

theorem flag_setFlag_other (v : Bool) {n : LaneNo} (h : n ≠ k) : (s.setFlag k v).flag n = s.flag n := by
  have ne : k.val ≠ n.val := fun e => h (Fin.ext e.symm)
  simp only [State.flag, State.setFlag, Fin.getElem_fin, Vector.getElem_set_ne _ _ ne]

/-- What a change of one lane leaves: its record, its flag, and the others' flags. -/
structure LaneChanged (l : Lane) (flag : Bool) (reports : List ReportBody) (s t : State) : Prop where
  emits  : Emits [] reports [.flags, .lanes, .reports] s t
  own    : t.lanes[k] = l
  others : OtherLanes k s t
  flag   : t.flag k = flag
  flags  : ∀ n : LaneNo, n ≠ k → t.flag n = s.flag n

theorem laneChanged_record (l : Lane) : LaneChanged k l (s.flag k) [] s (s.withLane k l) :=
  ⟨(Emits.of_keeps (withLane_keeps s k l) (by simp)).mono (by simp), withLane_same .., withLane_other s k l, rfl,
    fun _ _ => rfl⟩

theorem laneFault_ready {cause : LaneCause} {l : Lane} (ready : l.state = .ready) :
    LaneChanged k { l with state := .fault, cause := cause } false [.laneFault k cause l.list.length] s
      (laneFault k cause (s.withLane k l)) := by
  have own := withLane_same s k l
  have again := withLane_again s k l { l with state := .fault, cause := cause }
  have fault : laneFault k cause (s.withLane k l) = report (.laneFault k cause l.list.length)
      ((s.withLane k { l with state := .fault, cause := cause }).setFlag k false) := by
    have path : (s.withLane k l).onLane k (fun l => { l with state := .fault, cause := cause })
        = (s.withLane k l).withLane k { (s.withLane k l).lanes[k] with state := .fault, cause := cause } := rfl
    have left := withLane_same s k { l with state := .fault, cause := cause }
    unfold laneFault
    dsimp only
    rw [if_pos (by rw [own]; exact ready), path, own, again, setFlag_lanes, left]
  rw [fault]
  have listed := withLane_keeps s k { l with state := .fault, cause := cause }
  have left := withLane_same s k { l with state := .fault, cause := cause }
  have others := withLane_other s k { l with state := .fault, cause := cause }
  have same : ∀ n, (s.withLane k { l with state := .fault, cause := cause }).flag n = s.flag n := fun _ => rfl
  generalize s.withLane k { l with state := .fault, cause := cause } = a at *
  have cleared := setFlag_keeps a k false
  have told := emits_report (.laneFault k cause l.list.length) (a.setFlag k false)
  have lanes : (report (.laneFault k cause l.list.length) (a.setFlag k false)).lanes = a.lanes :=
    Eq.trans (told.keeps.2.2 .lanes (by simp)) (cleared.2.2 .lanes (by simp))
  have flags : (report (.laneFault k cause l.list.length) (a.setFlag k false)).engine.flags
      = (a.setFlag k false).engine.flags := told.keeps.2.2 .flags (by simp)
  have first := (Emits.of_keeps listed (by simp)).andThen (.of_keeps cleared (by simp)) (by simp)
  refine ⟨(first.after told (by simp)).mono (by simp), by rw [lanes, left], fun n hn => by rw [lanes, others n hn], ?_,
    fun n hn => ?_⟩
  · rw [State.flag, flags, ← State.flag, flag_setFlag_same]
  · rw [State.flag, flags, ← State.flag, flag_setFlag_other a k false hn, same]

theorem laneFault_other {cause : LaneCause} (h : s.lanes[k].state ≠ .ready) : laneFault k cause s = s := if_neg h

theorem flagIfListed_raises {l : Lane} (listed : l.state = .ready ∧ l.list ≠ []) :
    LaneChanged k l true [] s (flagIfListed k (s.withLane k l)) := by
  have record := laneChanged_record s k l
  have flags : flagIfListed k (s.withLane k l) = (s.withLane k l).setFlag k true :=
    if_pos (by rw [withLane_same]; exact (flaggable_iff l).mpr listed)
  rw [flags]
  generalize s.withLane k l = a at *
  have raised := setFlag_keeps a k true
  exact ⟨(record.emits.andThen (.of_keeps raised (by simp)) (by simp)).mono (by simp), record.own, record.others,
    flag_setFlag_same .., fun n hn => (flag_setFlag_other a k true hn).trans (record.flags n hn)⟩

theorem flagIfListed_other {l : Lane} (h : ¬ (l.state = .ready ∧ l.list ≠ [])) :
    flagIfListed k (s.withLane k l) = s.withLane k l :=
  if_neg (by rw [withLane_same]; exact fun e => h ((flaggable_iff l).mp e))

/-! ### Off a hold lane (R115) -/

/-- The record of a lane whose list the case has left. -/
def Lane.without (l : Lane) (u : Tracking) : Lane := { l with list := l.list.filter fun v => v != u }

/-- The same, with its release ended when the case was RELEASING. -/
def Lane.returned (l : Lane) (u : Tracking) (st : TrackState) : Lane :=
  if st = .releasing k then { l.without u with inFlight := none, expiry := none } else l.without u

variable (u : Tracking)

theorem laneReturn_pending : laneReturn k u (.holdPending k) s =
    if s.lanes[k].list.head? = some u then flagIfListed k (s.withLane k (s.lanes[k].without u))
    else s.withLane k (s.lanes[k].without u) := by
  unfold laneReturn
  dsimp only
  by_cases h : s.lanes[k].list.head? = some u
  · rw [if_pos h, if_pos (by rw [h]; exact beq_self_eq_true _)]
    rfl
  · rw [if_neg h, if_neg (by simpa using h)]
    rfl

theorem laneReturn_confirmed {st : TrackState} (h : st = .held k ∨ st = .releasing k) :
    laneReturn k u st s = laneFault k .caseReturned (s.withLane k (s.lanes[k].returned k u st)) := by
  rcases h with rfl | rfl
  · rfl
  · have again := withLane_again s k (s.lanes[k].without u)
      { s.lanes[k].without u with inFlight := none, expiry := none }
    rw [Lane.returned, if_pos rfl, ← again]
    unfold laneReturn
    dsimp only
    have own := withLane_same s k (s.lanes[k].without u)
    have path : (s.onLane k fun l => { l with list := l.list.filter fun v => v != u })
        = s.withLane k (s.lanes[k].without u) := rfl
    have path' : ∀ w : State, (w.onLane k fun l => { l with inFlight := none, expiry := none })
        = w.withLane k { w.lanes[k] with inFlight := none, expiry := none } := fun _ => rfl
    rw [path, path', own]

/-- What the return of a listed case leaves of its lane. -/
structure LaneLeft (st : TrackState) (s t : State) : Prop where
  emits  : ∃ reports, Emits [] reports [.flags, .lanes, .reports] s t
  others : OtherLanes k s t
  flags  : ∀ n : LaneNo, n ≠ k → t.flag n = s.flag n
  gone   : u ∉ t.lanes[k].list
  pends  : st = .holdPending k → t.lanes[k] = s.lanes[k].without u ∧ t.reports = s.reports
             ∧ (t.flag k = true ↔ s.flag k = true
                 ∨ s.lanes[k].list.head? = some u ∧ s.lanes[k].state = .ready ∧ (s.lanes[k].without u).list ≠ [])
  lies   : st ≠ .holdPending k →
             if s.lanes[k].state = .ready then
               t.lanes[k] = { s.lanes[k].returned k u st with state := .fault, cause := .caseReturned }
                 ∧ t.flag k = false
                 ∧ ReportsTaken [.laneFault k .caseReturned (s.lanes[k].without u).list.length] s t
             else t.lanes[k] = s.lanes[k].returned k u st ∧ t.flag k = s.flag k ∧ t.reports = s.reports

theorem Lane.without_gone (l : Lane) : u ∉ (l.without u).list := by simp [Lane.without]

theorem Lane.returned_eq (l : Lane) (st : TrackState) :
    (l.returned k u st).list = (l.without u).list ∧ (l.returned k u st).state = l.state := by
  unfold Lane.returned
  split_ifs <;> exact ⟨rfl, rfl⟩

theorem LaneChanged.pending {flag : Bool} {s t : State} (c : LaneChanged k (s.lanes[k].without u) flag [] s t)
    (raised : flag = true ↔ s.flag k = true
      ∨ s.lanes[k].list.head? = some u ∧ s.lanes[k].state = .ready ∧ (s.lanes[k].without u).list ≠ []) :
    LaneLeft k u (.holdPending k) s t :=
  ⟨⟨_, c.emits⟩, c.others, c.flags, by rw [c.own]; exact Lane.without_gone u _, fun _ => ⟨c.own, c.emits.told, by
    rw [c.flag]; exact raised⟩, fun h => absurd rfl h⟩

theorem laneReturn_left {st : TrackState} (h : st = .holdPending k ∨ st = .held k ∨ st = .releasing k) :
    LaneLeft k u st s (laneReturn k u st s) := by
  have record := laneChanged_record s k (s.lanes[k].without u)
  rcases h with rfl | confirmed
  · rw [laneReturn_pending]
    split_ifs with head
    · by_cases listed : (s.lanes[k].without u).state = .ready ∧ (s.lanes[k].without u).list ≠ []
      · exact (flagIfListed_raises s k listed).pending k u ⟨fun _ => .inr ⟨head, listed⟩, fun _ => rfl⟩
      · rw [flagIfListed_other s k listed]
        exact record.pending k u ⟨.inl, fun e => e.resolve_right fun x => listed x.2⟩
    · exact record.pending k u ⟨.inl, fun e => e.resolve_right fun x => head x.1⟩
  · have other : st ≠ .holdPending k := by rcases confirmed with rfl | rfl <;> exact nofun
    obtain ⟨list, state⟩ := Lane.returned_eq k u s.lanes[k] st
    have gone : u ∉ (s.lanes[k].returned k u st).list := list ▸ Lane.without_gone u _
    rw [laneReturn_confirmed s k u confirmed]
    by_cases ready : s.lanes[k].state = .ready
    · have c := laneFault_ready s k (cause := .caseReturned) (l := s.lanes[k].returned k u st) (state.trans ready)
      refine ⟨⟨_, c.emits⟩, c.others, c.flags, by rw [c.own]; exact gone, fun e => absurd e other, fun _ => ?_⟩
      rw [if_pos ready, ← list]
      exact ⟨c.own, c.flag, c.emits.told⟩
    · have c := laneChanged_record s k (s.lanes[k].returned k u st)
      rw [laneFault_other _ k (by rw [withLane_same, state]; exact ready)]
      refine ⟨⟨_, c.emits⟩, c.others, c.flags, by rw [c.own]; exact gone, fun e => absurd e other, fun _ => ?_⟩
      rw [if_neg ready]
      exact ⟨c.own, c.flag, c.emits.told⟩

end Lanes

end Sys2Proof.Machine
end

section
/-!
PROOFS. A re-arrival with its order ISSUED: NO_CASE of an order that need not be the oldest (R98, R136).
-/

namespace Sys2Proof.Machine

/-! ### REJECT orders, whatever the state before (R150) -/

section Discards

theorem issueDiscard_cases (i : StationNo) (s : State) : issueDiscard i s = s ∨ ∃ e : SpurEntry, issueDiscard i s =
    issueOrder i e.tracking (.reject .discard) (.reject .discard) (leaveSpur i e.tracking s) := by
  unfold issueDiscard
  split_ifs
  · split
    · exact .inr ⟨_, rfl⟩
    · exact .inl rfl
  · exact .inl rfl

/-- Whatever the state before: frames sent and no report, and the entries keep all but their states. -/
structure MovesCases (ps : List Part) (s t : State) : Prop where
  emits : ∃ frames, Emits frames [] ps s t
  track : ∀ u e, s.track u = some e → ∃ st, t.track u = some { e with state := st }

theorem MovesCases.trans {ps : List Part} {s t u : State} (h : MovesCases ps s t) (k : MovesCases ps t u)
    (hps : Part.ownNode ∉ ps ∧ Part.time ∉ ps ∧ Part.levels ∉ ps) : MovesCases ps s u := by
  obtain ⟨frames, emits⟩ := h.emits
  obtain ⟨frames', emits'⟩ := k.emits
  refine ⟨⟨_, (emits.trans emits' hps).mono (by simp)⟩, fun v e he => ?_⟩
  obtain ⟨st, hst⟩ := h.track v e he
  obtain ⟨st', hst'⟩ := k.track v _ hst
  exact ⟨st', hst'⟩

theorem MovesCases.mono {ps qs : List Part} {s t : State} (h : MovesCases ps s t) (hs : ∀ p ∈ ps, p ∈ qs) :
    MovesCases qs s t := ⟨h.emits.imp fun _ e => e.mono hs, h.track⟩

theorem MovesCases.of_emits {ps : List Part} {s t : State} {frames : List (Nat × OwnBody)}
    (h : Emits frames [] ps s t) (hps : Part.tracks ∉ ps) : MovesCases ps s t :=
  ⟨⟨frames, h⟩, fun u e he => ⟨e.state, (track_congr (h.keeps.2.2 .tracks hps) u).trans he⟩⟩

/-- The parts that REJECT orders change. -/
def discardParts : List Part := [.portB, .stations, .tracks]

theorem issueDiscard_discards (i : StationNo) (s : State) : MovesCases discardParts s (issueDiscard i s) := by
  rcases issueDiscard_cases i s with same | ⟨e, issued⟩
  · rw [same]
    exact (MovesCases.of_emits (emits_refl s) (by simp)).mono (by simp)
  · rw [issued]
    have left : Emits [] [] [.stations] s (leaveSpur i e.tracking s) :=
      .of_keeps (withStation_keeps s i (s.stations[i].withoutSpur e.tracking)) (by simp)
    obtain ⟨emits, -⟩ := issueOrder_emits i e.tracking (.reject .discard) (.reject .discard) (leaveSpur i e.tracking s)
    refine ⟨⟨_, (left.after emits (by simp)).mono (by simp [discardParts])⟩, fun u x hx => ?_⟩
    have old : (leaveSpur i e.tracking s).track u = some x := hx
    rw [track_issueOrder, old]
    split_ifs
    · exact ⟨_, rfl⟩
    · exact ⟨x.state, rfl⟩

theorem issueDiscards_discards (i : StationNo) (s : State) : MovesCases discardParts s (issueDiscards i s) :=
  (((issueDiscard_discards i s).trans (issueDiscard_discards i _) (by simp [discardParts])).trans
    (issueDiscard_discards i _) (by simp [discardParts])).trans (issueDiscard_discards i _) (by simp [discardParts])

/-- The timers of a station whose queue has been cut back to `kept`, while REJECT orders are issued (R132, R138). -/
def Station.TimedFrom (kept : List Order) (place take : Option Timer) (now : Timer) (st : Station) : Prop :=
  st.placeExpiry = place
    ∧ st.takeExpiry = (if kept ≠ [] then take else if st.orders = [] then none else some now)
    ∧ (kept ≠ [] → st.orders ≠ [])

theorem issueDiscard_timed {i : StationNo} {s : State} {kept : List Order} {place take : Option Timer}
    (h : s.stations[i].TimedFrom kept place take s.takeExpiry) :
    (issueDiscard i s).stations[i].TimedFrom kept place take s.takeExpiry := by
  rcases issueDiscard_cases i s with same | ⟨e, issued⟩
  · rwa [same]
  · obtain ⟨-, stations⟩ := issueOrder_emits i e.tracking (.reject .discard) (.reject .discard) (leaveSpur i e.tracking s)
    have left : (leaveSpur i e.tracking s).stations[i] = s.stations[i].withoutSpur e.tracking := onStation_get ..
    obtain ⟨hplace, htake, hkept⟩ := h
    rw [issued, stations, withStation_same, left]
    refine ⟨hplace, ?_, fun _ => by simp [Station.issue]⟩
    by_cases empty : s.stations[i].orders = []
    · have none : ¬ kept ≠ [] := fun e => hkept e empty
      rw [if_neg none]
      simp only [Station.issue, Station.withoutSpur, empty]
      rfl
    · simp only [Station.issue, Station.withoutSpur, List.isEmpty_eq_false_iff.mpr empty, Bool.false_eq_true, if_false,
        htake, if_neg empty]
      simp

theorem takeExpiry_congr {s t : State} (time : Part.Same s t .time) (settings : Part.Same s t .settings) :
    t.takeExpiry = s.takeExpiry := by
  have time' : t.link.time = s.link.time := time
  have settings' : t.req.settings = s.req.settings := settings
  rw [State.takeExpiry, State.takeExpiry, time', settings']

theorem issueDiscards_timed {i : StationNo} {s : State} {kept : List Order} {place take : Option Timer}
    (h : s.stations[i].TimedFrom kept place take s.takeExpiry) :
    (issueDiscards i s).stations[i].TimedFrom kept place take s.takeExpiry := by
  have step : ∀ v : State, v.takeExpiry = s.takeExpiry ∧ v.stations[i].TimedFrom kept place take s.takeExpiry →
      (issueDiscard i v).takeExpiry = s.takeExpiry
        ∧ (issueDiscard i v).stations[i].TimedFrom kept place take s.takeExpiry := by
    rintro v ⟨same, timed⟩
    obtain ⟨_, emits⟩ := (issueDiscard_discards i v).emits
    refine ⟨(takeExpiry_congr (emits.keeps.2.2 .time (by simp [discardParts]))
      (emits.keeps.2.2 .settings (by simp [discardParts]))).trans same, ?_⟩
    rw [← same] at timed ⊢
    exact issueDiscard_timed timed
  exact (step _ (step _ (step _ (step s ⟨rfl, h⟩)))).2

end Discards

/-! ### The effects, whatever the state before -/

/-- The parts that a re-arrival with an ISSUED order changes. -/
def missedParts : List Part := [.portB, .exec, .plans, .tracks, .replans, .flags, .builds, .stations, .reports]

theorem cutOrders_emits (i : StationNo) (kept leaving : List Order) (named : List OrderSeq) (s : State) :
    ∃ frames, Emits frames [] cutParts s (cutOrders i kept leaving named s) := by
  have queue : KeepsAllBut [.stations] s (s.onStation i fun st =>
      { st with
        orders := kept
        takeExpiry := if kept.isEmpty then none else st.takeExpiry
        placeExpiry := if kept.isEmpty then none else st.placeExpiry }) := withStation_keeps ..
  have path : cutOrders i kept leaving named s = withdraw i named (unplace i leaving (s.onStation i fun st =>
      { st with
        orders := kept
        takeExpiry := if kept.isEmpty then none else st.takeExpiry
        placeExpiry := if kept.isEmpty then none else st.placeExpiry })) := rfl
  rw [path]
  generalize s.onStation i _ = a at *
  obtain ⟨b, _, _, lessens, cut, -⟩ := unplace_lessens i leaving a
  have placed := (Emits.of_keeps cut (by simp)).andThen lessens.toOffers.emits (by simp)
  generalize unplace i leaving a = c at *
  have withdrawn : Emits (withdrawFrames c i named) [] [.portB, .stations] c (withdraw i named c) :=
    ⟨withdraw_keeps .., withdraw_joined .., reportsTaken_nil (reports_eq ((withdraw_keeps ..).2.2 .reports (by simp))
      ((withdraw_keeps ..).2.2 .levels (by simp))), fun _ => (withdraw_keeps ..).2.2 .exec (by simp)⟩
  exact ⟨_, (((Emits.of_keeps queue (by simp)).andThen placed (by simp)).after withdrawn (by simp)).mono
    (by simp [cutParts])⟩

theorem closingTest_some (i : StationNo) (s : State) :
    ∃ frames reports, Emits frames reports closingParts s (closingTest i s) := by
  by_cases closing : s.stations[i].state = .closing
  · exact ⟨_, _, (closingTest_emits closing).1⟩
  · rw [closingTest_idle fun h => absurd h closing]
    exact ⟨[], [], (emits_refl s).mono (by simp)⟩

/-- The parts that the cascade changes. -/
def cascadeParts : List Part := [.portB, .exec, .plans, .flags, .builds, .stations, .tracks, .replans]

theorem cascade_moves (i : StationNo) (kept : List Order) (failed : Order) (later : List Order) (named : List OrderSeq)
    (s : State) : MovesCases cascadeParts s (cascade i kept failed later named s) := by
  rw [cascade_eq]
  unfold cascadeSpur
  obtain ⟨frames, cut⟩ := cutOrders_emits i kept (failed :: later) named s
  generalize cutOrders i kept (failed :: later) named s = a at *
  have spur := toSpur_keeps i later a
  have tracked := track_toSpur i later a
  generalize toSpur i later a = b at *
  obtain ⟨asked, -⟩ := askReplans_asks i Order.tracking (later.filter fun o => !o.discards) b
  generalize (later.filter fun o => !o.discards).foldl (fun s o => askReplan i o.tracking s) b = c at *
  have toSpur : MovesCases cascadeParts a b := by
    refine ⟨⟨[], (Emits.of_keeps spur (by simp)).mono (by simp [cascadeParts])⟩, fun u e he => ?_⟩
    rw [tracked, he]
    split_ifs
    · exact ⟨_, rfl⟩
    · exact ⟨e.state, rfl⟩
  have first := (MovesCases.of_emits cut (by simp [cutParts])).mono (qs := cascadeParts) (by simp [cutParts, cascadeParts])
  have asks := (MovesCases.of_emits (Emits.of_keeps asked (by simp)) (by simp)).mono (qs := cascadeParts)
    (by simp [cascadeParts])
  exact ((first.trans toSpur (by simp [cascadeParts])).trans asks (by simp [cascadeParts])).trans
    ((issueDiscards_discards i c).mono (by simp [discardParts, cascadeParts])) (by simp [cascadeParts])

/-- The cascade of a missed order, before the closing test. -/
def missedCascade (i : StationNo) (kept : List Order) (o : Order) (later : List Order) (s : State) : State :=
  caseMissed o.tracking (cascade i kept o later (o.seq :: later.map Order.seq) s)

theorem missedOrder_eq {i : StationNo} {o : Order} {kept later : List Order} {s : State}
    (hos : s.stations[i].orders = kept ++ o :: later) (first : ∀ x ∈ kept, x.tracking ≠ o.tracking) :
    missedOrder i o s = closingTest i (missedCascade i kept o later s) := by
  have before : s.stations[i].orders.takeWhile (fun p => p.tracking != o.tracking) = kept := by
    rw [hos, List.takeWhile_append_of_pos fun x hx => by simpa using first x hx, List.takeWhile_cons]
    simp
  have behind : (s.stations[i].orders.dropWhile fun p => p.tracking != o.tracking).tail = later := by
    rw [hos, List.dropWhile_append_of_pos fun x hx => by simpa using first x hx, List.dropWhile_cons]
    simp
  unfold missedOrder missedCascade
  dsimp only
  rw [before, behind]

theorem missedOrder_path (i : StationNo) (o : Order) (s : State) :
    ∃ kept later, missedOrder i o s = closingTest i (missedCascade i kept o later s) := ⟨_, _, rfl⟩

theorem missedCascade_emits (i : StationNo) (kept : List Order) (o : Order) (later : List Order) (s : State) :
    ∃ frames, Emits frames [] cascadeParts s (missedCascade i kept o later s) := by
  obtain ⟨frames, emits⟩ := (cascade_moves i kept o later (o.seq :: later.map Order.seq) s).emits
  exact ⟨frames, (emits.andThen (.of_keeps (caseMissed_keeps o.tracking _) (by simp)) (by simp [cascadeParts])).mono
    (by simp [cascadeParts])⟩

theorem missedCascade_track (i : StationNo) (kept : List Order) {o : Order} (later : List Order) {s : State} {e : Track}
    (he : s.track o.tracking = some e) : (missedCascade i kept o later s).track o.tracking = some (e.missed s) := by
  have moves := cascade_moves i kept o later (o.seq :: later.map Order.seq) s
  obtain ⟨frames, emits⟩ := moves.emits
  obtain ⟨st, hst⟩ := moves.track o.tracking e he
  rw [missedCascade, track_caseMissed, if_pos rfl, hst, Track.missed_congr (emits.keeps.2.2 .time (by simp [cascadeParts]))
    (emits.keeps.2.2 .settings (by simp [cascadeParts]))]
  rfl

theorem missedOrder_emits (i : StationNo) (o : Order) (s : State) :
    ∃ frames reports, Emits frames reports missedParts s (missedOrder i o s) := by
  obtain ⟨kept, later, path⟩ := missedOrder_path i o s
  obtain ⟨frames, missed⟩ := missedCascade_emits i kept o later s
  obtain ⟨frames', reports, closes⟩ := closingTest_some i (missedCascade i kept o later s)
  rw [path]
  exact ⟨_, _, (missed.trans closes (by simp [cascadeParts])).mono (by simp [cascadeParts, closingParts, missedParts])⟩

/-- The case of the order is back on the loop. -/
theorem missedOrder_track {i : StationNo} {o : Order} {s : State} {e : Track} (he : s.track o.tracking = some e) :
    (missedOrder i o s).track o.tracking = some (e.missed s) := by
  obtain ⟨kept, later, path⟩ := missedOrder_path i o s
  rw [path, track_congr ((closingTest_elsewhere i _).keeps.2.2 .tracks (by simp))]
  exact missedCascade_track i kept later he

/-! ### At a working station -/

section Works

variable {i : StationNo} {o : Order} {kept later : List Order} {s : State}

/-- What the cascade of a missed order leaves before its REJECT orders. -/
def missedSpur (i : StationNo) (kept : List Order) (o : Order) (later : List Order) (s : State) : State :=
  cascadeSpur i kept o later (o.seq :: later.map Order.seq) s

theorem missedCascade_eq : missedCascade i kept o later s
    = caseMissed o.tracking (issueDiscards i (missedSpur i kept o later s)) := rfl

variable (works : s.stations[i].works = true)
include works

theorem missed_busy : s.stations[i].state ≠ .idle := by
  rcases (works_iff _).mp works with e | e <;> rw [e] <;> decide

theorem missedSpur_own : (missedSpur i kept o later s).stations[i] =
    { s.stations[i].cutTo kept (o.seq :: later.map Order.seq) with spur := s.stations[i].spur ++ spurOf later } :=
  (cascadeSpur_of i kept o later (o.seq :: later.map Order.seq) (missed_busy works)).own

/-- The parts behind the cut of the orders. -/
theorem missed_behind : KeepsAllBut [.portB, .exec, .stations, .tracks, .reports] (missedSpur i kept o later s)
      (closingTest i (missedCascade i kept o later s))
    ∧ OtherStations i (missedSpur i kept o later s) (closingTest i (missedCascade i kept o later s)) := by
  have issued := issueDiscards_elsewhere i (missedSpur i kept o later s)
  have missed := caseMissed_keeps o.tracking (issueDiscards i (missedSpur i kept o later s))
  have test := closingTest_elsewhere i (missedCascade i kept o later s)
  exact ⟨(issued.keeps.mono (by simp)).trans ((missed.mono (by simp)).trans (test.keeps.mono (by simp))),
    issued.others.trans (.trans (.of_keeps missed (by simp)) test.others)⟩

theorem missed_cascades : CascadeSpur i kept o later (o.seq :: later.map Order.seq) s (missedSpur i kept o later s) :=
  cascadeSpur_of i kept o later (o.seq :: later.map Order.seq) (missed_busy works)

theorem missed_timers : (closingTest i (missedCascade i kept o later s)).stations[i].TimedFrom kept
    (if kept = [] then none else s.stations[i].placeExpiry) s.stations[i].takeExpiry
    (after s.link.time s.req.settings.takeTimeout) := by
  have emits := (missed_cascades (kept := kept) (o := o) (later := later) works).emits
  have own := missedSpur_own (kept := kept) (o := o) (later := later) works
  have now := takeExpiry_congr (emits.keeps.2.2 .time (by simp [cutParts])) (emits.keeps.2.2 .settings (by simp [cutParts]))
  have cut : (missedSpur i kept o later s).stations[i].TimedFrom kept
      (if kept = [] then none else s.stations[i].placeExpiry) s.stations[i].takeExpiry
      (missedSpur i kept o later s).takeExpiry := by
    rw [own]
    refine ⟨rfl, ?_, fun h => h⟩
    by_cases none : kept = [] <;> simp [Station.cutTo, none]
  have issued := issueDiscards_timed cut
  rw [now] at issued
  have same : (missedCascade i kept o later s).stations = (issueDiscards i (missedSpur i kept o later s)).stations :=
    (caseMissed_keeps ..).2.2 .stations (by simp)
  rw [← same] at issued
  generalize missedCascade i kept o later s = w at *
  by_cases closing : w.stations[i].state = .closing
  · rw [(closingTest_emits closing).2, withStation_same]
    exact issued
  · rw [closingTest_idle fun h => absurd h closing]
    exact issued

/-- In BUILDING neither REJECT orders nor a closing test. -/
theorem missed_building (building : s.stations[i].state = .building) :
    closingTest i (missedCascade i kept o later s) = caseMissed o.tracking (missedSpur i kept o later s) := by
  have own := missedSpur_own (kept := kept) (o := o) (later := later) works
  have same : (caseMissed o.tracking (missedSpur i kept o later s)).stations = (missedSpur i kept o later s).stations :=
    (caseMissed_keeps ..).2.2 .stations (by simp)
  have idle : (missedSpur i kept o later s).stations[i].state ≠ .closing := by
    rw [own, Station.cutTo, building]
    decide
  rw [missedCascade_eq, issueDiscards_idle idle, closingTest_idle fun closing => absurd (same ▸ closing) idle]

theorem missed_stays (building : s.stations[i].state = .building) :
    (closingTest i (missedCascade i kept o later s)).stations[i] =
        { s.stations[i].cutTo kept (o.seq :: later.map Order.seq) with spur := s.stations[i].spur ++ spurOf later }
      ∧ JoinedB (withdrawFrames s i (o.seq :: later.map Order.seq)) s (closingTest i (missedCascade i kept o later s))
      ∧ (closingTest i (missedCascade i kept o later s)).reports = s.reports := by
  have emits := (missed_cascades (kept := kept) (o := o) (later := later) works).emits.andThen
    (.of_keeps (caseMissed_keeps o.tracking _) (by simp)) (by simp [cutParts])
  have same : (caseMissed o.tracking (missedSpur i kept o later s)).stations = (missedSpur i kept o later s).stations :=
    (caseMissed_keeps ..).2.2 .stations (by simp)
  rw [missed_building works building]
  exact ⟨by rw [same, missedSpur_own works], emits.joined, emits.told⟩

section Placed

variable (cases : CasesOk s) (hos : s.stations[i].orders = kept ++ o :: later)
include cases hos

omit works in
theorem missedSpur_placed : Placed (missedSpur i kept o later s) ∧ NoPlace (missedSpur i kept o later s) o.tracking :=
  cascadeSpur_placed ((casesOk_iff s).mp cases).1 _ (by rw [hos])

omit works in
theorem missed_placed : Placed (closingTest i (missedCascade i kept o later s)) := by
  obtain ⟨there, alone⟩ := missedSpur_placed cases hos
  have discards := Keeps.issueDiscards there i
  have missed := (caseMissed_ends o.tracking _).keeps discards.placed (discards.names _ alone)
  exact ((Chores.closingTest i _).keeps missed).placed

theorem missed_closes (closing : s.stations[i].state = .closing) :
    Closes i (missedSpur i kept o later s).stations[i] (missedSpur i kept o later s).builds[i]
      (withdrawFrames s i (o.seq :: later.map Order.seq)) []
      (cutParts ++ [.tracks, .replans] ++ [.portB, .exec, .stations, .tracks, .reports]) s
      (closingTest i (missedCascade i kept o later s)) := by
  obtain ⟨there, alone⟩ := missedSpur_placed cases hos
  obtain ⟨once, held⟩ := there.spur i
  have own := missedSpur_own (kept := kept) (o := o) (later := later) works
  have ends := caseMissed_ends o.tracking (issueDiscards i (missedSpur i kept o later s))
  exact (closes_of_discards (missed_cascades works).emits (by simp [cutParts]) (by rw [own]; exact closing) (by rw [own]; rfl)
    once (fun e he => by obtain ⟨x, hx, -⟩ := held e he; rw [hx]; rfl) ends.emits (fun e he => ends.track _ fun same =>
      alone (.spur i) (e.tracking, 0) (List.mem_map.mpr ⟨e, he, rfl⟩) same)).1

theorem missed_goesOn (closing : s.stations[i].state = .closing) :
    ClosingGoesOn ReportsTaken i kept (s.stations[i].spur ++ spurOf later) (cutBuild s i (o :: later))
      (withdrawFrames s i (o.seq :: later.map Order.seq)) [] s (closingTest i (missedCascade i kept o later s)) := by
  have closes := missed_closes works cases hos closing
  have own := missedSpur_own (kept := kept) (o := o) (later := later) works
  have goesOn := closes.closesWith (queues := ReportsTaken) (t := closingTest i (missedCascade i kept o later s))
    (by rw [own]; rfl) (by rw [own]; rfl) (Part.Same.refl _ .stations) (Part.Same.refl _ .tracks) closes.emits.joined
    closes.emits.told
  rw [own, (missed_cascades works).unplaced.1] at goesOn
  exact goesOn

/-- Unmarked cases that have joined the spur list are still there. -/
theorem missed_listed : ∀ e ∈ (missedSpur i kept o later s).stations[i].spur, e.discard = false →
    e ∈ (closingTest i (missedCascade i kept o later s)).stations[i].spur := by
  intro e he unmarked
  rcases (works_iff _).mp works with building | closing
  · rwa [(missed_stays works building).1, ← missedSpur_own works]
  · obtain ⟨w, left⟩ := (missed_closes works cases hos closing).own
    rw [left, List.mem_filter]
    refine ⟨he, ?_⟩
    rw [Bool.not_eq_true', Bool.eq_false_iff, ne_eq, List.contains_iff_mem]
    exact fun marked => Bool.false_ne_true (unmarked.symm.trans (chuted_discard marked))

end Placed

theorem missed_cascaded (hos : s.stations[i].orders = kept ++ o :: later) :
    Cascaded i o later s (closingTest i (missedCascade i kept o later s)) := by
  obtain ⟨behind, others⟩ := missed_behind (kept := kept) (o := o) (later := later) works
  refine (missed_cascades works).cascaded ((KeepsAllBut.refl s).mono (qs := []) (by simp)) (by simp) behind (by simp) others
    fun cases x hx unmarked => spurHeld_of_listed (missed_placed cases hos) rfl
      (missed_listed works cases hos ⟨x.tracking, x.discards⟩ ?_ unmarked)
  rw [missedSpur_own works]
  exact List.mem_append_right _ (List.mem_map_of_mem hx)

end Works

end Sys2Proof.Machine
end

section
/-!
PROOFS. TAKING_AN_ARRIVAL (R95 to R99, R110): the event, and what its parts show.
-/

namespace Sys2Proof.Machine

/-! ### The second part of an event -/

section Second

variable {frames frames' : List (Nat × OwnBody)} {reports reports' : List ReportBody} {ps qs : List Part}
variable {s m x t : State}

theorem taking_append (told : ReportsTaken reports s m) (levels : Part.Same s m .levels) (time : Part.Same s m .time) :
    taking s (reports ++ reports') = taking m reports' := by
  have first : m.reports = reports.foldl (fun u b =>
      if (reportNow s b).level = 0 then u else u.take (reportNow s b)) s.reports := told
  unfold taking
  simp only [reportNow_congr levels time]
  rw [List.foldl_append, first]

/-- The parts that port A and the reports rest on. -/
def reportingParts : List Part := [.portA, .ownNode, .settings, .levels, .time]

theorem ReportedAll.behind (h : ReportedAll (reports ++ reports') s t) (first : Emits frames reports ps s m)
    (hps : ∀ p ∈ reportingParts, p ∉ ps) : ReportedAll reports' m t := by
  have same : ∀ p ∈ reportingParts, Part.Same s m p := fun p hp => first.keeps.2.2 p (hps p hp)
  obtain ⟨portA, fwdA, slot, waiting, held⟩ := same .portA (by simp [reportingParts])
  have node : m.link.ownNode = s.link.ownNode := same .ownNode (by simp [reportingParts])
  have settings : m.req.settings = s.req.settings := same .settings (by simp [reportingParts])
  obtain ⟨fwd, slot', waiting', held', shown⟩ := h
  rw [taking_append first.told (same .levels (by simp [reportingParts])) (same .time (by simp [reportingParts]))] at shown
  refine ⟨fwd.trans fwdA.symm, slot'.trans slot.symm, waiting'.trans waiting.symm, held'.trans held.symm, ?_⟩
  rwa [portA, node, settings]

/-- What the ports show of an event in two parts, from the state between them. -/
theorem Emits.settles (served : Served s) (first : Emits frames reports ps s m) (second : Emits frames' reports' qs m x)
    (hps : ∀ p ∈ reportingParts, p ∉ ps) (hqs : ∀ p ∈ reportingParts, p ∉ qs)
    (reply : replying x.req.exec = replying s.req.exec ∧ x.req.late = s.req.late) :
    KeepsAllBut (.portA :: .portB :: .reports :: qs) m (settle x) ∧ JoinedB frames' m (settle x)
      ∧ ReportedAll reports' m (settle x) ∧ KeepsAllBut [.portA, .portB, .reports] x (settle x) := by
  have out : ∀ p ∈ reportingParts, p ∉ ps ++ qs := fun p hp => by simp [hps p hp, hqs p hp]
  have whole := (first.trans second ⟨hps _ (by simp [reportingParts]), hps _ (by simp [reportingParts]),
    hps _ (by simp [reportingParts])⟩).displays served ⟨out _ (by simp [reportingParts]), out _ (by simp [reportingParts]),
      out _ (by simp [reportingParts])⟩ reply
  exact ⟨(second.keeps.mono (by simp +contextual)).trans (whole.service.mono (by simp)),
    second.joined.settled (second.keeps.2.2 .ownNode (hqs _ (by simp [reportingParts]))),
    whole.reported.behind first hps, whole.service⟩

end Second

/-! ### A re-arrival, whatever its entry (R98) -/

section Rearrive

variable {s : State} {u : Tracking}

/-- The parts that a re-arrival changes. -/
def rearriveParts : List Part := .lanes :: missedParts

theorem circulate_emits (s : State) (u : Tracking) : Emits [] [] [.tracks] s (s.circulate u) :=
  .of_keeps (circulate_keeps ..) (by simp)

theorem spurReturn_emits (i : StationNo) (u : Tracking) (s : State) :
    ∃ frames reports, Emits frames reports missedParts s (spurReturn i u s) := by
  obtain ⟨frames, reports, closes⟩ := closingTest_some i (spurLeft i u s)
  have left := Emits.of_keeps (spurLeft_keeps i u s) (by simp)
  exact ⟨frames, reports, (left.after closes (by simp)).mono (by simp [closingParts, missedParts])⟩

/-- A case in a lane's list, in any of the three states. -/
def TrackState.ListedIn (k : LaneNo) (st : TrackState) : Prop := st = .holdPending k ∨ st = .held k ∨ st = .releasing k

theorem rearrive_listed {k : LaneNo} {st : TrackState} (h : st.ListedIn k) :
    rearrive u st s = (laneReturn k u st s).circulate u := by
  rcases h with rfl | rfl | rfl <;> rfl

theorem rearrive_onLoop {st : TrackState} {d : Timer} (h : st = .circulating d ∨ st = .returning d) :
    rearrive u st s = s.circulate u := by
  rcases h with rfl | rfl <;> rfl

theorem orderOf_some {i : StationNo} {o : Order} (h : s.orderOf i u = some o) : o.tracking = u := by
  simpa using List.find?_some h

theorem rearrive_emits (u : Tracking) (st : TrackState) (s : State) :
    ∃ frames reports, Emits frames reports rearriveParts s (rearrive u st s) := by
  have loop := (circulate_emits s u).mono (qs := rearriveParts) (by simp [rearriveParts, missedParts])
  have listed : ∀ k, st.ListedIn k → ∃ frames reports, Emits frames reports rearriveParts s (rearrive u st s) := by
    intro k h
    rw [rearrive_listed h]
    obtain ⟨reports, left⟩ := (laneReturn_left s k u h).emits
    exact ⟨[], reports, (left.andThen (circulate_emits _ u) (by simp)).mono (by simp [rearriveParts, missedParts])⟩
  cases st with
  | circulating d => exact ⟨[], [], loop⟩
  | returning d => exact ⟨[], [], loop⟩
  | holdPending k => exact listed k (.inl rfl)
  | held k => exact listed k (.inr (.inl rfl))
  | releasing k => exact listed k (.inr (.inr rfl))
  | spurHeld i =>
    obtain ⟨frames, reports, left⟩ := spurReturn_emits i u s
    exact ⟨frames, reports, left.mono (by simp +contextual [rearriveParts])⟩
  | toStation i q =>
    unfold rearrive
    dsimp only
    cases s.orderOf i u with
    | none => exact ⟨[], [], loop⟩
    | some o =>
      obtain ⟨frames, reports, missed⟩ := missedOrder_emits i o s
      exact ⟨frames, reports, missed.mono (by simp +contextual [rearriveParts])⟩

theorem rearrive_back {e : Track} (he : s.track u = some e) : ∃ e', (rearrive u e.state s).track u = some e'
    ∧ e'.state = .circulating (after s.link.time s.req.settings.returnTimeout) := by
  have loop : (s.circulate u).track u = some (e.back s) :=
    track_circulate_own (Part.Same.refl s .time) (Part.Same.refl s .settings) he
  have listed : ∀ k, e.state.ListedIn k → (rearrive u e.state s).track u = some (e.back s) := by
    intro k h
    rw [rearrive_listed h]
    obtain ⟨reports, left⟩ := (laneReturn_left s k u h).emits
    exact track_circulate_own (left.keeps.2.2 .time (by simp)) (left.keeps.2.2 .settings (by simp))
      ((track_congr (left.keeps.2.2 .tracks (by simp)) u).trans he)
  cases hst : e.state with
  | circulating d => exact ⟨_, loop, rfl⟩
  | returning d => exact ⟨_, loop, rfl⟩
  | holdPending k => exact ⟨_, hst ▸ listed k (.inl hst), rfl⟩
  | held k => exact ⟨_, hst ▸ listed k (.inr (.inl hst)), rfl⟩
  | releasing k => exact ⟨_, hst ▸ listed k (.inr (.inr hst)), rfl⟩
  | spurHeld i => exact ⟨_, spurReturn_track i u s he, rfl⟩
  | toStation i q =>
    unfold rearrive
    dsimp only
    cases ho : s.orderOf i u with
    | none => exact ⟨_, loop, rfl⟩
    | some o =>
      obtain rfl := orderOf_some ho
      exact ⟨_, missedOrder_track he, rfl⟩

theorem rearrive_offSpur (i : StationNo) (s : State) :
    ∀ x ∈ (rearrive u (.spurHeld i) s).stations[i].spur, x.tracking ≠ u := by
  have left : ∀ x ∈ (s.stations[i].withoutSpur u).spur, x.tracking ≠ u := fun x hx => by
    simpa using (List.mem_filter.mp hx).2
  have path : rearrive u (.spurHeld i) s = spurReturn i u s := rfl
  rw [path]
  by_cases calls : s.stations[i].state = .closing ∧ (s.stations[i].withoutSpur u).Emptied
  · rw [(spurReturn_calls calls.1 calls.2).2]
    exact left
  · rw [spurReturn_stays calls, spurLeft_own]
    exact left

theorem rearrive_offLane {k : LaneNo} {st : TrackState} (h : st.ListedIn k) (s : State) :
    u ∉ (rearrive u st s).lanes[k].list := by
  rw [rearrive_listed h]
  exact (laneReturn_left s k u h).gone

end Rearrive

/-! ### The event (R93, R95) -/

/-- The state with the arrival taken out of the arrival queue. -/
def State.took (s : State) (rest : List Arrival) : State := { s with tracker := { s.tracker with arrivals := rest } }

section Takes

variable {s : State} {a : Arrival} {rest : List Arrival}

theorem took_keeps (s : State) (rest : List Arrival) : KeepsAllBut [.arrivals] s (s.took rest) := by
  refine ⟨rfl, rfl, fun p hp => ?_⟩
  cases p <;> simp_all [Part.Same, State.took]

theorem took_emits (s : State) (rest : List Arrival) : Emits [] [] [.arrivals] s (s.took rest) :=
  .of_keeps (took_keeps ..) (by simp)

theorem arrival_untaken (h : s.takesArrival = false ∨ s.tracker.arrivals = []) : takeArrival s = s := by
  unfold takeArrival
  rcases h with other | empty
  · rw [other]
    split <;> rfl
  · rw [empty]

variable (running : Running s) (takes : s.takesArrival = true) (queue : s.tracker.arrivals = a :: rest)
include running takes queue

theorem arrival_runs : exec .takingAnArrival s = .next (settle (handleArrival a (s.took rest))) := by
  have taken : takeArrival s = handleArrival a (s.took rest) := by
    unfold takeArrival
    rw [queue]
    exact if_pos takes
  rw [← taken]
  exact live_running running takeArrival

omit running takes queue in
theorem handled_works (a : Arrival) (s : State) (rest : List Arrival) :
    (handleArrival a (s.took rest)).tracker.arrivals = rest
      ∧ replying (handleArrival a (s.took rest)).req.exec = replying s.req.exec
      ∧ (handleArrival a (s.took rest)).req.late = s.req.late := by
  have works := Works.handleArrival a (s.took rest)
  exact ⟨works.arrivals, works.replying⟩

omit running takes queue in
theorem settled_arrivals (x : State) : (settle x).tracker.arrivals = x.tracker.arrivals :=
  (settle_keeps_parts x).2.2 .arrivals (by simp)

/-- What the event shows of the handling of its arrival. -/
theorem arrival_shows {x : State} {frames : List (Nat × OwnBody)} {reports : List ReportBody} {ps : List Part}
    (hact : handleArrival a (s.took rest) = x) (emits : Emits frames reports ps s x)
    (hps : Part.portA ∉ ps ∧ Part.ownNode ∉ ps ∧ Part.settings ∉ ps) :
    ∃ t, exec .takingAnArrival s = .next t ∧ t.tracker.arrivals = rest ∧ Displays frames reports ps s x t := by
  obtain ⟨arrivals, reply⟩ := handled_works a s rest
  rw [hact] at arrivals reply
  exact ⟨_, hact ▸ arrival_runs running takes queue, (settled_arrivals x).trans arrivals,
    emits.displays running.served' hps reply⟩

/-- What it shows of a handling in two parts, from the state between them. -/
theorem arrival_showsBehind {m x : State} {frames frames' : List (Nat × OwnBody)} {reports reports' : List ReportBody}
    {ps qs : List Part} (hact : handleArrival a (s.took rest) = x) (first : Emits frames reports ps (s.took rest) m)
    (second : Emits frames' reports' qs m x) (hps : ∀ p ∈ reportingParts, p ∉ ps) (hqs : ∀ p ∈ reportingParts, p ∉ qs) :
    ∃ t, exec .takingAnArrival s = .next t ∧ t.tracker.arrivals = rest
      ∧ KeepsAllBut (.portA :: .portB :: .reports :: qs) m t ∧ JoinedB frames' m t ∧ ReportedAll reports' m t
      ∧ KeepsAllBut [.portA, .portB, .reports] x t := by
  obtain ⟨arrivals, reply⟩ := handled_works a s rest
  rw [hact] at arrivals reply
  have whole := (took_emits s rest).after first (by simp)
  refine ⟨_, hact ▸ arrival_runs running takes queue, (settled_arrivals x).trans arrivals,
    whole.settles running.served' second (fun p hp => ?_) hqs reply⟩
  have out : p ≠ .arrivals := by rintro rfl; simp [reportingParts] at hp
  simp [out, hps p hp]

end Takes

end Sys2Proof.Machine
end

section
/-!
PROOFS. TAKING_AN_ARRIVAL of a case on the loop (R95, steps 4 to 6; R96, R97).
-/

namespace Sys2Proof.Machine

/-! ### The ends of the handling -/

/-- An entry with the snapshot and the weight of an accepted arrival (R97). -/
def Track.accepted (e : Track) (art : Article) (w : Nat) : Track := { e with snap := some art, weight := w }

theorem track_setSnapshot (s : State) (u : Tracking) (art : Article) (w : Nat) (v : Tracking) :
    (setSnapshot u art w s).track v = if v = u then (s.track v).map (·.accepted art w) else s.track v :=
  track_onTrack s u v fun _ => rfl

/-- The job of an accepted arrival, with what its run has decided (R95, step 6). -/
def jobOf (s : State) (a : Arrival) (art : Article) : Job :=
  { work := .arrival a, decision := (decideArrival s a.tracking art a.weight).1
    exhausted := (decideArrival s a.tracking art a.weight).2, reruns := 0, cancelled := false }

theorem planArrival_rejects {a : Arrival} {s : State} {r : RejectReason}
    (early : ¬ s.req.settings.decisionWindow < ageAt s.link.time a.scan) (accepts : acceptance s a = .error r) :
    planArrival a s = rejectArrival a r s := by
  rw [planArrival_early early, accepts]

theorem planArrival_plans {a : Arrival} {s : State} {art : Article}
    (early : ¬ s.req.settings.decisionWindow < ageAt s.link.time a.scan) (accepts : acceptance s a = .ok art) :
    planArrival a s = (setSnapshot a.tracking art a.weight s).setJob (some (jobOf s a art)) := by
  rw [planArrival_early early, accepts]
  rfl

theorem plans_emits (s : State) (u : Tracking) (art : Article) (w : Nat) (j : Option Job) :
    Emits [] [] [.tracks, .job] s ((setSnapshot u art w s).setJob j) :=
  (Emits.of_keeps (onTrack_keeps ..) (by simp)).andThen (.of_keeps (setJob_keeps ..) (by simp)) (by simp)

theorem plans_track (s : State) (u : Tracking) (art : Article) (w : Nat) (j : Option Job) :
    ((setSnapshot u art w s).setJob j).track u = (s.track u).map (·.accepted art w) :=
  (track_setSnapshot s u art w u).trans (if_pos rfl)

/-! ### The entry of a case on the loop (R95, steps 2 and 3) -/

/-- An arrival on the loop (R95): a first one that finds room in the table, or one whose case circulates or returns. -/
def State.onLoop (s : State) (u : Tracking) : Prop :=
  s.track u = none ∧ s.tracker.tracks.length < 160
    ∨ ∃ e d, s.track u = some e ∧ (e.state = .circulating d ∨ e.state = .returning d)

/-- The circuits counted of a case before its arrival. -/
def State.circuitsOf (s : State) (u : Tracking) : Nat := ((s.track u).map (·.circuits)).getD 0

/-- The state in which an arrival on the loop is handled on: its entry circulates, the other entries are as they were. -/
structure Enters (a : Arrival) (rest : List Arrival) (e : Track) (s m : State) : Prop where
  path     : handleArrival a (s.took rest) = planArrival a m
  tracker  : m = { s with tracker := m.tracker }
  emits    : Emits [] [] [.arrivals, .tracks] s m
  track    : m.track a.tracking = some e
  state    : e.state = .circulating (after s.link.time s.req.settings.returnTimeout)
  circuits : e.circuits = s.circuitsOf a.tracking
  others   : OthersTracked a.tracking s m

section OnLoop

variable {s m t : State} {a : Arrival} {rest : List Arrival} {e : Track}

theorem handleArrival_first (gate : s.engine.gate = true) (none : s.track a.tracking = none)
    (room : s.tracker.tracks.length < 160) :
    handleArrival a (s.took rest) =
      planArrival a ((s.took rest).addTrack (newTrack a.tracking (s.took rest).returnDeadline)) := by
  unfold handleArrival
  rw [if_neg (show ¬ (!(s.took rest).engine.gate) = true by rw [show (s.took rest).engine.gate = true from gate]; simp),
    show (s.took rest).track a.tracking = .none from none]
  exact if_neg (Nat.not_le.mpr room)

theorem handleArrival_again (gate : s.engine.gate = true) (he : s.track a.tracking = some e)
    (single : s.isDuplicate a.tracking e.state = false) :
    handleArrival a (s.took rest) = planArrival a (rearrive a.tracking e.state (s.took rest)) := by
  unfold handleArrival
  rw [if_neg (show ¬ (!(s.took rest).engine.gate) = true by rw [show (s.took rest).engine.gate = true from gate]; simp),
    show (s.took rest).track a.tracking = some e from he]
  exact if_neg (by rw [show (s.took rest).isDuplicate a.tracking e.state = false from single]; simp)

theorem enters_first (gate : s.engine.gate = true) (none : s.track a.tracking = none)
    (room : s.tracker.tracks.length < 160) : ∃ e m, Enters a rest e s m := by
  refine ⟨_, _, handleArrival_first gate none room, rfl,
    (took_emits s rest).after (.of_keeps (ps := [.tracks]) ?_ (by simp)) (by simp),
    (track_addTrack ..).trans (if_pos rfl), rfl, ?_,
    othersTracked_addTrack (s.took rest) (newTrack a.tracking (s.took rest).returnDeadline)⟩
  · refine ⟨rfl, rfl, fun p hp => ?_⟩
    cases p <;> simp_all [Part.Same, State.addTrack]
  · rw [State.circuitsOf, none]
    rfl

theorem enters_again {d : Timer} (gate : s.engine.gate = true) (he : s.track a.tracking = some e)
    (state : e.state = .circulating d ∨ e.state = .returning d) : ∃ e m, Enters a rest e s m := by
  have single : s.isDuplicate a.tracking e.state = false := by rcases state with h | h <;> rw [h] <;> rfl
  refine ⟨{ e with state := .circulating s.returnDeadline }, (s.took rest).circulate a.tracking,
    (handleArrival_again gate he single).trans (congrArg _ (rearrive_onLoop state)), rfl,
    (took_emits s rest).after (circulate_emits ..) (by simp), ?_, rfl, ?_,
    othersTracked_onTrack (s.took rest) a.tracking fun _ => rfl⟩
  · rw [track_circulate, if_pos rfl, show (s.took rest).track a.tracking = some e from he]
    rfl
  · rw [State.circuitsOf, he]
    rfl

theorem enters_of_onLoop (gate : s.engine.gate = true) (h : s.onLoop a.tracking) : ∃ e m, Enters a rest e s m := by
  rcases h with ⟨none, room⟩ | ⟨e, d, he, state⟩
  · exact enters_first gate none room
  · exact enters_again gate he state

section Entered

variable (h : Enters a rest e s m)
include h

theorem Enters.link : m.link = s.link := by rw [h.tracker]
theorem Enters.req : m.req = s.req := by rw [h.tracker]

theorem Enters.late_iff : (m.req.settings.decisionWindow < ageAt m.link.time a.scan)
    ↔ s.req.settings.decisionWindow < ageAt s.link.time a.scan := by rw [h.link, h.req]

theorem Enters.acceptance : acceptance m a = Machine.acceptance s a := by
  have same : m.circuitsOf a.tracking = s.circuitsOf a.tracking := by
    rw [State.circuitsOf, h.track]
    exact h.circuits
  rw [h.tracker] at same ⊢
  exact acceptance_tracker same

theorem Enters.jobOf (art : Article) : jobOf m a art = Machine.jobOf s a art := by
  have others := h.others
  have decided : decideArrival m a.tracking art a.weight = decideArrival s a.tracking art a.weight := by
    rw [h.tracker] at others ⊢
    exact decideArrival_tracker others art a.weight
  rw [Machine.jobOf, decided]
  rfl

variable (running : Running s) (takes : s.takesArrival = true) (queue : s.tracker.arrivals = a :: rest)
include running takes queue

/-- A late arrival on the loop (R96). -/
theorem Enters.late (late : s.req.settings.decisionWindow < ageAt s.link.time a.scan) :
    ∃ t e', exec .takingAnArrival s = .next t ∧ t.tracker.arrivals = rest
      ∧ KeepsAllBut [.portA, .arrivals, .tracks, .reports] s t ∧ t.track a.tracking = some e'
      ∧ e'.circuits = min 16 (s.circuitsOf a.tracking + 1)
      ∧ e'.state = .circulating (after s.link.time s.req.settings.returnTimeout)
      ∧ Reported (.caseLate a.tracking (some (ageAt s.link.time a.scan))) s t := by
  obtain ⟨emits, tracks⟩ := lateCase_emits m a
  rw [h.link] at emits
  obtain ⟨t, run, arrivals, shows⟩ := arrival_shows running takes queue
    (h.path.trans (planArrival_late (h.late_iff.mpr late))) (h.emits.after emits (by simp)) (by simp)
  refine ⟨t, e.bumped, run, arrivals, (shows.quietB (by simp)).mono (by simp), ?_,
    congrArg (fun n => min 16 (n + 1)) h.circuits, h.state, shows.reported.reported running.served'⟩
  rw [track_congr (shows.service.2.2 .tracks (by simp)), tracks, track_bump, if_pos rfl, h.track]
  rfl

variable (early : ¬ s.req.settings.decisionWindow < ageAt s.link.time a.scan)
include early

/-- An arrival on the loop that fails an acceptance check (R97). -/
theorem Enters.rejects {r : RejectReason} (accepts : Machine.acceptance s a = .error r) :
    ∃ t, exec .takingAnArrival s = .next t ∧ t.tracker.arrivals = rest
      ∧ KeepsAllBut [.portA, .portB, .arrivals, .tracks, .reports] s t ∧ t.track a.tracking = none
      ∧ JoinedB [decisionFrame s a.tracking (.reject r)] s t
      ∧ Reported (.caseRejected a.tracking (some a.code) r) s t := by
  obtain ⟨emits, tracks⟩ := rejectArrival_emits m a r
  rw [decisionFrame, h.req] at emits
  obtain ⟨t, run, arrivals, shows⟩ := arrival_shows running takes queue
    (h.path.trans (planArrival_rejects (h.late_iff.not.mpr early) (h.acceptance.trans accepts)))
    (h.emits.after emits (by simp)) (by simp)
  refine ⟨t, run, arrivals, shows.keeps.mono (by simp), ?_, shows.joined, shows.reported.reported running.served'⟩
  rw [track_congr (shows.service.2.2 .tracks (by simp)), tracks, track_dropTrack, if_pos rfl]

/-- An arrival on the loop that is accepted and planned (R95, step 6; R97). -/
theorem Enters.plans {art : Article} (accepts : Machine.acceptance s a = .ok art) :
    ∃ t e', exec .takingAnArrival s = .next t ∧ t.tracker.arrivals = rest
      ∧ KeepsAllBut [.arrivals, .tracks, .job] s t ∧ t.track a.tracking = some e' ∧ e'.snap = some art
      ∧ e'.weight = a.weight ∧ e'.circuits = s.circuitsOf a.tracking
      ∧ e'.state = .circulating (after s.link.time s.req.settings.returnTimeout)
      ∧ t.engine.job = some (Machine.jobOf s a art) := by
  have emits := h.emits.after (plans_emits m a.tracking art a.weight (some (Machine.jobOf m a art))) (by simp)
  obtain ⟨t, run, arrivals, shows⟩ := arrival_shows running takes queue
    (h.path.trans (planArrival_plans (h.late_iff.not.mpr early) (h.acceptance.trans accepts))) emits (by simp)
  refine ⟨t, e.accepted art a.weight, run, arrivals, (shows.silent running.served' (by simp)).mono (by simp), ?_,
    rfl, rfl, h.circuits, h.state, ?_⟩
  · rw [track_congr (shows.service.2.2 .tracks (by simp)), plans_track, h.track]
    rfl
  · have job : t.engine.job = some (Machine.jobOf m a art) := shows.service.2.2 .job (by simp)
    rw [job, h.jobOf]

end Entered

end OnLoop

/-! ### A tracked arrival handled on from its re-arrival -/

section GoesOn

variable {s : State} {a : Arrival} {rest : List Arrival} (running : Running s) (takes : s.takesArrival = true)
variable (queue : s.tracker.arrivals = a :: rest)
include running takes queue

theorem arrival_goesOn {m : State} {e : Track} {frames : List (Nat × OwnBody)} {reports : List ReportBody}
    {ps : List Part} (path : handleArrival a (s.took rest) = planArrival a m)
    (first : Emits frames reports ps (s.took rest) m) (hps : ∀ p ∈ reportingParts, p ∉ ps)
    (he : m.track a.tracking = some e) : ∃ t, exec .takingAnArrival s = .next t ∧ GoesOn a e m t := by
  unfold GoesOn
  dsimp only
  split
  next late =>
    obtain ⟨emits, tracks⟩ := lateCase_emits m a
    obtain ⟨t, run, -, keeps, joined, reported, same⟩ := arrival_showsBehind running takes queue
      (path.trans (planArrival_late late)) first emits hps (by simp [reportingParts])
    refine ⟨t, run, keeps.mono (by simp), joined, reported, ?_⟩
    rw [track_congr (same.2.2 .tracks (by simp)), tracks, track_bump, if_pos rfl, he]
    rfl
  next early =>
    cases accepts : acceptance m a with
    | error r =>
      obtain ⟨emits, tracks⟩ := rejectArrival_emits m a r
      obtain ⟨t, run, -, keeps, joined, reported, same⟩ := arrival_showsBehind running takes queue
        (path.trans (planArrival_rejects early accepts)) first emits hps (by simp [reportingParts])
      refine ⟨t, run, keeps.mono (by simp), joined, reported, ?_⟩
      rw [track_congr (same.2.2 .tracks (by simp)), tracks, track_dropTrack, if_pos rfl]
    | ok art =>
      obtain ⟨t, run, -, keeps, joined, reported, same⟩ := arrival_showsBehind running takes queue
        (path.trans (planArrival_plans early accepts)) first (plans_emits ..) hps (by simp [reportingParts])
      refine ⟨t, run, keeps.mono (by simp), joined, reported, ?_, same.2.2 .job (by simp)⟩
      rw [track_congr (same.2.2 .tracks (by simp)), plans_track, he]
      rfl

end GoesOn

end Sys2Proof.Machine
end

section
/-!
PROOFS. TAKING_AN_ARRIVAL with the gate closed, with a full table, and of a duplicate (R95, R99, R110).
-/

namespace Sys2Proof.Machine

section Closed

variable {s : State} {a : Arrival} {rest : List Arrival} {e : Track}

theorem handleArrival_closed (gate : s.engine.gate = false) :
    handleArrival a (s.took rest) = gateClosedArrival a (s.took rest) := by
  unfold handleArrival
  exact if_pos (by rw [show (s.took rest).engine.gate = false from gate]; rfl)

theorem gateClosed_untracked (none : s.track a.tracking = none) :
    gateClosedArrival a (s.took rest) = s.took rest := by
  unfold gateClosedArrival
  rw [show (s.took rest).track a.tracking = .none from none]

theorem gateClosed_again (he : s.track a.tracking = some e) (single : s.isDuplicate a.tracking e.state = false) :
    gateClosedArrival a (s.took rest) = rearrive a.tracking e.state (s.took rest) := by
  unfold gateClosedArrival
  rw [show (s.took rest).track a.tracking = some e from he]
  exact if_neg (by rw [show (s.took rest).isDuplicate a.tracking e.state = false from single]; simp)

theorem gateClosed_duplicate (he : s.track a.tracking = some e) (double : s.isDuplicate a.tracking e.state = true) :
    gateClosedArrival a (s.took rest) = duplicateFault e.state (s.took rest) := by
  unfold gateClosedArrival
  rw [show (s.took rest).track a.tracking = some e from he]
  exact if_pos double

theorem handleArrival_full (gate : s.engine.gate = true) (none : s.track a.tracking = none)
    (full : 160 ≤ s.tracker.tracks.length) : handleArrival a (s.took rest) = untracked a (s.took rest) := by
  unfold handleArrival
  rw [if_neg (show ¬ (!(s.took rest).engine.gate) = true by rw [show (s.took rest).engine.gate = true from gate]; simp),
    show (s.took rest).track a.tracking = .none from none]
  exact if_pos full

/-- The state in which the DECISION and the report of a duplicate stand, before its station fails (R99). -/
def State.toldTwice (s : State) (a : Arrival) (rest : List Arrival) : State :=
  report (.caseRejected a.tracking (some a.code) .duplicate)
    (sendDecision a.tracking (.reject .duplicate) (s.took rest))

theorem handleArrival_duplicate (gate : s.engine.gate = true) (he : s.track a.tracking = some e)
    (double : s.isDuplicate a.tracking e.state = true) :
    handleArrival a (s.took rest) = duplicateFault e.state (s.toldTwice a rest) := by
  unfold handleArrival
  rw [if_neg (show ¬ (!(s.took rest).engine.gate) = true by rw [show (s.took rest).engine.gate = true from gate]; simp),
    show (s.took rest).track a.tracking = some e from he]
  exact if_pos double

theorem toldTwice_emits (s : State) (a : Arrival) (rest : List Arrival) :
    Emits [decisionFrame s a.tracking (.reject .duplicate)] [.caseRejected a.tracking (some a.code) .duplicate]
      [.arrivals, .portB, .reports] s (s.toldTwice a rest) :=
  (took_emits s rest).after ((sendDecision_emits (s.took rest) a.tracking (.reject .duplicate)).trans
    (emits_report (.caseRejected a.tracking (some a.code) .duplicate) _) (by simp)) (by simp)

variable (running : Running s) (takes : s.takesArrival = true) (queue : s.tracker.arrivals = a :: rest)
include running takes queue

theorem arrival_passesBy (gate : s.engine.gate = false) (none : s.track a.tracking = none) :
    ∃ t, exec .takingAnArrival s = .next t ∧ t.tracker.arrivals = rest ∧ KeepsAllBut [.arrivals] s t := by
  obtain ⟨t, run, arrivals, shows⟩ := arrival_shows running takes queue
    ((handleArrival_closed gate).trans (gateClosed_untracked none)) (took_emits s rest) (by simp)
  exact ⟨t, run, arrivals, shows.silent running.served' (by simp)⟩

theorem arrival_full (gate : s.engine.gate = true) (none : s.track a.tracking = none)
    (full : 160 ≤ s.tracker.tracks.length) :
    ∃ t, exec .takingAnArrival s = .next t ∧ t.tracker.arrivals = rest ∧ KeepsAllBut [.portA, .arrivals, .reports] s t
      ∧ if s.req.settings.decisionWindow < ageAt s.link.time a.scan then Reported (.caseLate a.tracking .none) s t
        else t.reports = s.reports := by
  have path := handleArrival_full (rest := rest) gate none full
  unfold untracked at path
  split
  next late =>
    rw [if_pos (show (s.took rest).isLate a = true from decide_eq_true late)] at path
    obtain ⟨t, run, arrivals, shows⟩ := arrival_shows running takes queue path
      ((took_emits s rest).after (emits_report ..) (by simp)) (by simp)
    exact ⟨t, run, arrivals, (shows.quietB (by simp)).mono (by simp), shows.reported.reported running.served'⟩
  next early =>
    rw [if_neg (show ¬ (s.took rest).isLate a = true from fun h => early (of_decide_eq_true h))] at path
    obtain ⟨t, run, arrivals, shows⟩ := arrival_shows running takes queue path (took_emits s rest) (by simp)
    have keeps := shows.silent running.served' (by simp)
    exact ⟨t, run, arrivals, keeps.mono (by simp), reports_eq (keeps.2.2 .reports (by simp)) (keeps.2.2 .levels (by simp))⟩

/-- A re-arrival with the gate closed (R98, R110). -/
theorem arrival_returns (gate : s.engine.gate = false) (he : s.track a.tracking = some e)
    (single : s.isDuplicate a.tracking e.state = false) :
    ∃ t e', exec .takingAnArrival s = .next t ∧ t.tracker.arrivals = rest ∧ t.track a.tracking = some e'
      ∧ e'.state = .circulating (after s.link.time s.req.settings.returnTimeout)
      ∧ (∀ i, e.state = .spurHeld i → ∀ x ∈ t.stations[i].spur, x.tracking ≠ a.tracking)
      ∧ (∀ k, e.state.ListedIn k → a.tracking ∉ t.lanes[k].list)
      ∧ KeepsAllBut [.portA, .portB, .reports] (rearrive a.tracking e.state (s.took rest)) t
      ∧ JoinedB [] (rearrive a.tracking e.state (s.took rest)) t
      ∧ ReportedAll [] (rearrive a.tracking e.state (s.took rest)) t := by
  obtain ⟨frames, reports, first⟩ := rearrive_emits a.tracking e.state (s.took rest)
  obtain ⟨t, run, arrivals, keeps, joined, reported, -⟩ := arrival_showsBehind running takes queue
    ((handleArrival_closed gate).trans (gateClosed_again he single)) first (emits_refl _)
    (by simp [reportingParts, rearriveParts, missedParts]) (by simp)
  obtain ⟨e', back, state⟩ := rearrive_back (s := s.took rest) (u := a.tracking) he
  have lanes : t.lanes = _ := keeps.2.2 .lanes (by simp)
  have stations : t.stations = _ := keeps.2.2 .stations (by simp)
  refine ⟨t, e', run, arrivals, (track_congr (keeps.2.2 .tracks (by simp)) _).trans back, state, fun i hi => ?_,
    fun k hk => ?_, keeps, joined, reported⟩
  · rw [stations, hi]
    exact rearrive_offSpur i (s.took rest)
  · rw [lanes]
    exact rearrive_offLane hk (s.took rest)

/-- A re-arrival with the gate open (R95, R98). -/
theorem arrival_again (gate : s.engine.gate = true) (he : s.track a.tracking = some e)
    (single : s.isDuplicate a.tracking e.state = false) :
    ∃ t e', exec .takingAnArrival s = .next t ∧ (rearrive a.tracking e.state (s.took rest)).track a.tracking = some e'
      ∧ e'.state = .circulating (after s.link.time s.req.settings.returnTimeout)
      ∧ GoesOn a e' (rearrive a.tracking e.state (s.took rest)) t := by
  obtain ⟨frames, reports, first⟩ := rearrive_emits a.tracking e.state (s.took rest)
  obtain ⟨e', back, state⟩ := rearrive_back (s := s.took rest) (u := a.tracking) he
  obtain ⟨t, run, goes⟩ := arrival_goesOn running takes queue (handleArrival_again gate he single) first
    (by simp [reportingParts, rearriveParts, missedParts]) back
  exact ⟨t, e', run, back, state, goes⟩

end Closed

/-! ### Duplicates (R99) -/

section Duplicates

variable {s : State} {a : Arrival} {rest : List Arrival} {i : StationNo}

theorem stationFault_works {cause : StationCause} (works : s.stations[i].works = true) :
    stationFault i cause s = faultWorking i cause s := if_pos ((works_iff _).mp works)

theorem stationFault_idle {cause : StationCause} (works : s.stations[i].works = false) :
    stationFault i cause s = s :=
  if_neg fun h => Bool.false_ne_true (works.symm.trans ((works_iff _).mpr h))

/-- The parts that an event before a fault may change without the fault seeing it. -/
def toldParts : List Part := [.arrivals, .portB, .reports]

/-- A station's fault behind what its event has sent and reported (R145). -/
structure FaultBehind (i : StationNo) (cause : StationCause) (frames : List (Nat × OwnBody)) (reports : List ReportBody)
    (s t : State) : Prop where
  keeps    : KeepsAllBut (.arrivals :: faultParts) s t
  faulted  : StationFaulted i cause s t
  joined   : JoinedB (frames ++ withdrawFrames s i ((issuedAt s i).map (·.seq))) s t
  reported : ReportedAll (reports ++ [.stationFault i cause s.stations[i].state (unknownOf t.stations[i].orders)]) s t
  track    : ∀ u, t.track u = if u ∈ (issuedAt s i).map Order.tracking then
               (s.track u).map fun e => { e with state := .spurHeld i } else s.track u

theorem faultWorking_behind {cause : StationCause} {frames : List (Nat × OwnBody)} {reports : List ReportBody} {y : State}
    (before : Emits frames reports toldParts s y) (works : s.stations[i].works = true) (served : Served s)
    (reply : replying (faultWorking i cause y).req.exec = replying s.req.exec
      ∧ (faultWorking i cause y).req.late = s.req.late) :
    FaultBehind i cause frames reports s (settle (faultWorking i cause y)) := by
  have stations : y.stations = s.stations := before.keeps.2.2 .stations (by simp [toldParts])
  have issued : issuedAt y i = issuedAt s i := by rw [issuedAt, issuedAt, stations]
  have settings : y.req.settings = s.req.settings := before.keeps.2.2 .settings (by simp [toldParts])
  have named : withdrawFrames y i ((issuedAt y i).map (·.seq)) = withdrawFrames s i ((issuedAt s i).map (·.seq)) := by
    rw [issued, withdrawFrames, settings, ← withdrawFrames]
  have busy : y.stations[i].state ≠ .idle := by
    rw [stations]
    rcases (works_iff _).mp works with h | h <;> rw [h] <;> exact nofun
  have faults := faultWorking_faults i cause busy
  generalize faultWorking i cause y = x at *
  have joined := before.joined.trans faults.joined (before.keeps.2.2 .ownNode (by simp [toldParts]))
  have told := before.told.trans faults.report (before.keeps.2.2 .levels (by simp [toldParts]))
    (before.keeps.2.2 .time (by simp [toldParts]))
  have keeps : KeepsAllBut [.arrivals, .portB, .exec, .plans, .tracks, .replans, .flags, .job, .builds, .stations, .reports]
      s x := (before.keeps.mono (by simp [toldParts])).trans (faults.keeps.mono (by simp))
  have shows := displays_of keeps joined told served (by simp) reply
  have orders : (settle x).stations = x.stations := shows.service.2.2 .stations (by simp)
  refine ⟨shows.keeps.mono (by simp [faultParts]), faults.faulted.congr before.keeps (by simp [toldParts])
      (fun j _ => by rw [stations]) (by rw [stations]) (shows.service.mono (by simp)), ?_, ?_, fun u => ?_⟩
  · rw [← named]
    exact shows.joined
  · have reported := shows.reported
    rwa [stations, ← orders] at reported
  · rw [track_congr (shows.service.2.2 .tracks (by simp)), faults.track, issued,
      track_congr (before.keeps.2.2 .tracks (by simp [toldParts]))]

end Duplicates

end Sys2Proof.Machine
end

section
/-!
PROOFS. TAKING_AN_ARRIVAL of a duplicate (R99), with the gate open and closed.
-/

namespace Sys2Proof.Machine

section Duplicate

variable {s : State} {a : Arrival} {rest : List Arrival} {i : StationNo} {q : OrderSeq} {e : Track}

theorem isDuplicate_iff (s : State) (u : Tracking) (i : StationNo) (q : OrderSeq) :
    s.isDuplicate u (.toStation i q) = true ↔
      ∃ o, s.stations[i].orders.find? (fun o => o.tracking == u) = some o ∧ o.state ≠ .issued := by
  unfold State.isDuplicate State.orderOf
  dsimp only
  cases s.stations[i].orders.find? fun o => o.tracking == u with
  | none => simp
  | some o => simp

theorem isDuplicate_elsewhere (s : State) (u : Tracking) {st : TrackState} (h : ∀ i q, st ≠ .toStation i q) :
    s.isDuplicate u st = false := by
  cases st with
  | toStation i q => exact absurd rfl (h i q)
  | circulating d => rfl
  | spurHeld i => rfl
  | holdPending k => rfl
  | held k => rfl
  | releasing k => rfl
  | returning d => rfl

/-- The case of a duplicate has no ISSUED order, so the fault of its station leaves its entry. -/
theorem duplicate_unissued {u : Tracking} (cases : CasesOk s) (double : s.isDuplicate u (.toStation i q) = true) :
    u ∉ (issuedAt s i).map Order.tracking := by
  obtain ⟨o, first, taken⟩ := (isDuplicate_iff ..).mp double
  have once := ((casesOk_iff s).mp cases).1.once (.queue i)
  rw [State.named, List.map_map] at once
  intro listed
  obtain ⟨x, hx, same⟩ := List.mem_map.mp listed
  obtain ⟨hx, issued⟩ := List.mem_filter.mp hx
  have named : o.tracking = u := by simpa using List.find?_some first
  have equal : x = o := List.inj_on_of_nodup_map once hx (List.mem_of_find?_eq_some first) (same.trans named.symm)
  exact taken (by simpa [equal] using issued)

theorem duplicateFault_toStation (state : e.state = .toStation i q) (y : State) :
    duplicateFault e.state y = stationFault i .duplicate y := by rw [state]; rfl

variable (running : Running s) (takes : s.takesArrival = true) (queue : s.tracker.arrivals = a :: rest)
include running takes queue

/-- An arrival that fails a working station. -/
theorem arrival_faults {frames : List (Nat × OwnBody)} {reports : List ReportBody} {y : State} {cause : StationCause}
    (hact : handleArrival a (s.took rest) = stationFault i cause y) (before : Emits frames reports toldParts s y)
    (works : s.stations[i].works = true) :
    ∃ t, exec .takingAnArrival s = .next t ∧ t.tracker.arrivals = rest ∧ FaultBehind i cause frames reports s t := by
  have stations : y.stations = s.stations := before.keeps.2.2 .stations (by simp [toldParts])
  rw [stationFault_works (by rw [stations]; exact works)] at hact
  obtain ⟨arrivals, reply⟩ := handled_works a s rest
  rw [hact] at arrivals reply
  exact ⟨_, hact ▸ arrival_runs running takes queue, (settled_arrivals _).trans arrivals,
    faultWorking_behind before works running.served' reply⟩

/-- An arrival that would fail a station that is not working. -/
theorem arrival_faultsNone {frames : List (Nat × OwnBody)} {reports : List ReportBody} {ps : List Part} {y : State}
    {cause : StationCause} (hact : handleArrival a (s.took rest) = stationFault i cause y)
    (before : Emits frames reports ps s y) (hps : ∀ p ∈ ps, p ∈ toldParts) (works : s.stations[i].works = false) :
    ∃ t, exec .takingAnArrival s = .next t ∧ t.tracker.arrivals = rest ∧ Displays frames reports ps s y t := by
  have stations : y.stations = s.stations := before.keeps.2.2 .stations fun h => by simpa [toldParts] using hps _ h
  rw [stationFault_idle (by rw [stations]; exact works)] at hact
  refine arrival_shows running takes queue hact before ⟨fun h => ?_, fun h => ?_, fun h => ?_⟩ <;>
    simpa [toldParts] using hps _ h

theorem arrival_duplicate (gate : s.engine.gate = true) (he : s.track a.tracking = some e)
    (state : e.state = .toStation i q) (double : s.isDuplicate a.tracking e.state = true) :
    ∃ t, exec .takingAnArrival s = .next t ∧ t.tracker.arrivals = rest
      ∧ OnB (ownFrameB s s.req.settings.sorterNode (.decision a.tracking (.reject .duplicate))) t
      ∧ (CasesOk s → t.track a.tracking = some e)
      ∧ (s.stations[i].works = true → t.stations[i].state = .fault ∧ t.stations[i].cause = .duplicate)
      ∧ (s.stations[i].works = false → t.stations = s.stations)
      ∧ (s.stations[i].works = true → KeepsAllBut (.arrivals :: faultParts) s t ∧ StationFaulted i .duplicate s t
        ∧ JoinedB (decisionFrame s a.tracking (.reject .duplicate)
            :: withdrawFrames s i ((issuedAt s i).map (·.seq))) s t
        ∧ ReportedAll [.caseRejected a.tracking (some a.code) .duplicate,
            .stationFault i .duplicate s.stations[i].state (unknownOf t.stations[i].orders)] s t)
      ∧ (s.stations[i].works = false → KeepsAllBut [.portA, .portB, .arrivals, .reports] s t
        ∧ JoinedB [decisionFrame s a.tracking (.reject .duplicate)] s t
        ∧ Reported (.caseRejected a.tracking (some a.code) .duplicate) s t) := by
  have hact : handleArrival a (s.took rest) = stationFault i .duplicate (s.toldTwice a rest) :=
    (handleArrival_duplicate gate he double).trans (duplicateFault_toStation state _)
  have before := toldTwice_emits s a rest
  by_cases works : s.stations[i].works = true
  · obtain ⟨t, run, arrivals, fault⟩ := arrival_faults running takes queue hact before works
    refine ⟨t, run, arrivals, fault.joined.onB List.mem_cons_self, fun cases => ?_,
      fun _ => ⟨fault.faulted.1, fault.faulted.2.1⟩, fun idle => ?_,
      fun _ => ⟨fault.keeps, fault.faulted, fault.joined, fault.reported⟩, fun idle => ?_⟩
    · rw [fault.track, if_neg (duplicate_unissued cases (state ▸ double)), he]
    all_goals exact absurd works (by rw [idle]; exact Bool.false_ne_true)
  · have idle : s.stations[i].works = false := by simpa using works
    obtain ⟨t, run, arrivals, shows⟩ := arrival_faultsNone running takes queue hact before (by simp [toldParts]) idle
    exact ⟨t, run, arrivals, shows.joined.onB List.mem_cons_self,
      fun _ => (track_congr (shows.keeps.2.2 .tracks (by simp)) _).trans he, fun h => absurd h works,
      fun _ => shows.keeps.2.2 .stations (by simp), fun h => absurd h works,
      fun _ => ⟨shows.keeps.mono (by simp), shows.joined, shows.reported.reported running.served'⟩⟩

theorem arrival_duplicateClosed (gate : s.engine.gate = false) (he : s.track a.tracking = some e)
    (state : e.state = .toStation i q) (double : s.isDuplicate a.tracking e.state = true) :
    ∃ t, exec .takingAnArrival s = .next t ∧ t.tracker.arrivals = rest
      ∧ (s.stations[i].works = false → KeepsAllBut [.arrivals] s t)
      ∧ (s.stations[i].works = true → KeepsAllBut (.arrivals :: faultParts) s t ∧ FaultEntered i .duplicate s t
        ∧ JoinedB (withdrawFrames s i ((issuedAt s i).map (·.seq))) s t) := by
  have hact : handleArrival a (s.took rest) = stationFault i .duplicate (s.took rest) :=
    ((handleArrival_closed gate).trans (gateClosed_duplicate he double)).trans (duplicateFault_toStation state _)
  have before := took_emits s rest
  by_cases works : s.stations[i].works = true
  · obtain ⟨t, run, arrivals, fault⟩ := arrival_faults running takes queue hact
      (before.mono (by simp [toldParts])) works
    exact ⟨t, run, arrivals, fun idle => absurd works (by rw [idle]; exact Bool.false_ne_true),
      fun _ => ⟨fault.keeps, ⟨fault.faulted, fault.joined, fault.reported.reported running.served'⟩, fault.joined⟩⟩
  · have idle : s.stations[i].works = false := by simpa using works
    obtain ⟨t, run, arrivals, shows⟩ := arrival_faultsNone running takes queue hact before (by simp [toldParts]) idle
    exact ⟨t, run, arrivals, fun _ => shows.silent running.served' (by simp), fun h => absurd h works⟩

end Duplicate

end Sys2Proof.Machine
end

section
/-!
PROOFS. What a re-arrival leaves, by the state of its entry (R98, R115, R136, R139), and what a run decides (R102): O50.
-/

namespace Sys2Proof.Machine

section Rearrives

variable {s : State} {u : Tracking} {e : Track} (he : s.track u = some e)
include he

theorem rearrive_circulates {d : Timer} (state : e.state = .circulating d ∨ e.state = .returning d) :
    (rearrive u e.state s).track u = some (e.back s) ∧ KeepsAllBut [.tracks] s (rearrive u e.state s) := by
  rw [rearrive_onLoop state]
  exact ⟨track_circulate_own (Part.Same.refl s .time) (Part.Same.refl s .settings) he, circulate_keeps ..⟩

theorem rearrive_leavesSpur {i : StationNo} (state : e.state = .spurHeld i) :
    let st := s.stations[i]
    let left := st.spur.filter fun x => x.tracking != u
    let m := rearrive u e.state s
    m.track u = some (e.back s) ∧ OtherStations i s m
    ∧ KeepsAllBut [.portB, .exec, .tracks, .replans, .stations, .reports] s m
    ∧ m.engine.replans ++ m.engine.waiting = (s.engine.replans ++ s.engine.waiting).filter (fun r => r.tracking != u)
    ∧ (m.engine.waiting = [] ∨ 32 ≤ m.engine.replans.length)
    ∧ if st.state = .closing ∧ st.orders = [] ∧ left = [] then
        m.stations[i] = { st with spur := left, state := .awaitExchange }
        ∧ JoinedB [callFrame s i s.builds[i]] s m ∧ ReportsTaken [closedReport i s.builds[i] st.close] s m
      else m.stations[i] = { st with spur := left } ∧ m.link = s.link ∧ m.reports = s.reports := by
  have path : rearrive u e.state s = spurReturn i u s := by rw [state]; rfl
  dsimp only
  rw [path]
  obtain ⟨rest, others⟩ := spurReturn_rest i u s
  obtain ⟨replans, waiting⟩ := rest.2.2 .replans (by simp)
  rw [replans, waiting]
  obtain ⟨queues, refilled⟩ := spurLeft_replans i u s
  refine ⟨spurReturn_track i u s he, others, ((spurLeft_keeps i u s).mono (by simp)).trans (rest.mono (by simp)), queues,
    refilled, ?_⟩
  split
  next empty =>
    obtain ⟨calls, own⟩ := spurReturn_calls (u := u) empty.1 empty.2
    exact ⟨own, calls.joined, calls.told⟩
  next stays =>
    rw [spurReturn_stays stays]
    exact ⟨spurLeft_own i u s, rfl, rfl⟩

theorem rearrive_leavesLane {k : LaneNo} (state : e.state.ListedIn k) :
    let l := s.lanes[k]
    let left := l.list.filter fun v => v != u
    let m := rearrive u e.state s
    m.track u = some (e.back s) ∧ OtherLanes k s m ∧ (∀ j : LaneNo, j ≠ k → m.flag j = s.flag j)
    ∧ KeepsAllBut [.tracks, .flags, .lanes, .reports] s m
    ∧ (e.state = .holdPending k → m.lanes[k] = { l with list := left } ∧ m.reports = s.reports
        ∧ (m.flag k = true ↔ s.flag k = true ∨ l.list.head? = some u ∧ l.state = .ready ∧ left ≠ []))
    ∧ (e.state ≠ .holdPending k →
        let kept : Lane :=
          if e.state = .releasing k then { l with list := left, inFlight := none, expiry := none }
          else { l with list := left }
        if l.state = .ready then
          m.lanes[k] = { kept with state := .fault, cause := .caseReturned } ∧ m.flag k = false
          ∧ ReportsTaken [.laneFault k .caseReturned left.length] s m
        else m.lanes[k] = kept ∧ m.flag k = s.flag k ∧ m.reports = s.reports) := by
  dsimp only
  rw [rearrive_listed state]
  obtain ⟨⟨reports, emits⟩, others, flags, -, pends, lies⟩ := laneReturn_left s k u state
  generalize laneReturn k u e.state s = m at *
  exact ⟨track_circulate_own (emits.keeps.2.2 .time (by simp)) (emits.keeps.2.2 .settings (by simp))
      ((track_congr (emits.keeps.2.2 .tracks (by simp)) u).trans he), others, flags,
    (emits.keeps.mono (by simp)).trans ((circulate_keeps m u).mono (by simp)), pends, lies⟩

theorem rearrive_leavesQueue {i : StationNo} {q : OrderSeq} {kept later : List Order} {o : Order}
    (state : e.state = .toStation i q) (hos : s.stations[i].orders = kept ++ o :: later)
    (first : ∀ x ∈ kept, x.tracking ≠ u) (own : o.tracking = u) (works : s.stations[i].works = true) :
    let st := s.stations[i]
    let frames := withdrawFrames s i ((o :: later).map (·.seq))
    let m := rearrive u e.state s
    m.track u = some { e.back s with circuits := min 16 (e.circuits + 1) }
    ∧ KeepsAllBut [.portB, .exec, .plans, .tracks, .replans, .flags, .builds, .stations, .reports] s m
    ∧ Cascaded i o later s m
    ∧ m.stations[i].placeExpiry = (if kept = [] then none else st.placeExpiry)
    ∧ m.stations[i].takeExpiry =
        (if kept ≠ [] then st.takeExpiry else if m.stations[i].orders = [] then none
         else some (after s.link.time s.req.settings.takeTimeout))
    ∧ (st.state = .building →
        m.stations[i].state = .building ∧ m.stations[i].orders = kept ∧ m.stations[i].close = st.close
        ∧ m.stations[i].spur = st.spur ++ spurOf later ∧ m.stations[i].withdrawn = (o :: later).map (·.seq)
        ∧ JoinedB frames s m ∧ m.reports = s.reports)
    ∧ (st.state = .closing → CasesOk s →
        ClosingGoesOn ReportsTaken i kept (st.spur ++ spurOf later) (cutBuild s i (o :: later)) frames [] s m) := by
  subst own
  have found : s.orderOf i o.tracking = some o := by
    rw [State.orderOf, hos, List.find?_append, List.find?_eq_none.mpr fun x hx => by simpa using first x hx]
    simp
  have path : rearrive o.tracking e.state s = missedOrder i o s := by
    rw [state]
    unfold rearrive
    dsimp only
    rw [found]
  obtain ⟨frames, reports, emits⟩ := missedOrder_emits i o s
  have back := missedOrder_track (i := i) he
  dsimp only
  rw [path]
  rw [missedOrder_eq hos first] at emits back ⊢
  obtain ⟨place, take, -⟩ := missed_timers (kept := kept) (o := o) (later := later) works
  refine ⟨back, emits.keeps, missed_cascaded works hos, place, take, fun building => ?_,
    fun closing cases => missed_goesOn works cases hos closing⟩
  obtain ⟨left, joined, told⟩ := missed_stays (kept := kept) (o := o) (later := later) works building
  rw [left]
  exact ⟨building, rfl, rfl, rfl, rfl, joined, told⟩

end Rearrives

/-! ### What a run decides (R102) -/

theorem decideArrival_holdsOrPasses {s : State} {u : Tracking} {art : Article} {wanted held : Nat}
    (openQuantity : s.openQuantity art.code = wanted) (heldQuantity : s.heldQuantity art.code u = held) (w : Nat) :
    let room := fun k : LaneNo => s.lanes[k].state = .ready ∧ s.lanes[k].list.length < 24
    let d := decideArrival s u art w
    d.2 = (stationChoice s art w).2
    ∧ (∀ p, (stationChoice s art w).1 = some p → d.1 = .place p)
    ∧ ((stationChoice s art w).1 = none →
      (wanted ≤ held → d.1 = .reject .surplus)
      ∧ (held < wanted → (∀ k, ¬ room k) → d.1 = .pass)
      ∧ ∀ k, held < wanted → room k →
        (∀ j, room j → s.lanes[k].list.length < s.lanes[j].list.length
          ∨ s.lanes[k].list.length = s.lanes[j].list.length ∧ k ≤ j) →
        d.1 = .lane k) := by
  subst openQuantity heldQuantity
  refine ⟨decideArrival_stations .., fun p => decideArrival_place, fun noPlace => ?_⟩
  rw [decideArrival_noPlace noPlace]
  refine ⟨holdOrPass_surplus, fun wanted full => ?_, fun k wanted room best => ?_⟩
  · rw [holdOrPass_wanted wanted, holdLane_none full]
  · rw [holdOrPass_wanted wanted, holdLane_some room best]

/-- Settles O50: the event is carried out as `handleArrival` on the state without the arrival; what it shows of a case on
the loop, a re-arrival and a duplicate is put together from what each part sends, reports and leaves. -/
theorem takingAnArrivalCompletes : Obligations.TakingAnArrivalCompletes := by
  unfold Obligations.TakingAnArrivalCompletes
  refine ⟨fun s running other => ?_, fun s a rest running takes queue => ?_, isDuplicate_iff,
    fun s u st => isDuplicate_elsewhere s u, fun s u e he => ?_, fun s u art w => ?_⟩
  · exact (live_served running (effect := takeArrival) (by rw [arrival_untaken other]; exact running.served')).trans
      (congrArg _ (arrival_untaken other))
  · refine ⟨arrival_passesBy running takes queue, fun e => arrival_returns running takes queue,
      arrival_full running takes queue, fun gate onLoop late => ?_, fun r gate onLoop early accepts => ?_,
      fun art gate onLoop early accepts => ?_, fun e => arrival_again running takes queue,
      fun e i q gate he state double => arrival_duplicate running takes queue gate he state double,
      fun e i q gate he state double => arrival_duplicateClosed running takes queue gate he state double⟩
    all_goals obtain ⟨e, m, entered⟩ := enters_of_onLoop (rest := rest) gate onLoop
    · exact entered.late running takes queue late
    · exact entered.rejects running takes queue early accepts
    · exact entered.plans running takes queue early accepts
  · exact ⟨fun d => rearrive_circulates he, fun i => rearrive_leavesSpur he, fun k => rearrive_leavesLane he,
      fun i q kept later o state hos first own _ works => rearrive_leavesQueue he state hos first own works⟩
  · exact decideArrival_holdsOrPasses (openQuantity_eq s art.code) (heldQuantity_eq s art.code u) w

end Sys2Proof.Machine
end

section
/-!
PROOFS. RESTART (R162): its response goes first, and what the blocks do behind it.
-/

namespace Sys2Proof.Machine

/-! ### A RESPONSE before the effect of its request -/

/-- The state `u` with port A as in `s`. -/
def State.withA (u s : State) : State :=
  { u with
    link := { u.link with portA := s.link.portA, fwdA := s.link.fwdA, slot := s.link.slot }
    req := { u.req with waiting := s.req.waiting, heldFinal := s.req.heldFinal } }

theorem withA_keeps (u s : State) : KeepsAllBut [.portA] u (u.withA s) := by
  refine ⟨rfl, rfl, fun p hp => ?_⟩
  cases p <;> simp_all [Part.Same, State.withA]

theorem placeResponse_keeps (fr : OwnFrame) (s : State) : KeepsAllBut [.portA] s (placeResponse fr s) := by
  refine ⟨?_, ?_, fun p hp => ?_⟩
  · unfold placeResponse
    split_ifs <;> rfl
  · unfold placeResponse
    split_ifs <;> rfl
  · unfold placeResponse
    split_ifs <;> cases p <;> simp_all [Part.Same]

/-- A response placed first stands as one placed last. -/
theorem placeResponse_withA {fr : OwnFrame} {s x : State} (h : Part.Same (placeResponse fr s) x .portA) :
    placeResponse fr (x.withA s) = x := by
  obtain ⟨inReset, ⟨_, _, _, _, _, _, _, _, _⟩, ⟨_, _, _, _, _, _, _⟩, tables, plans, tracker, engine, builds,
    stations, lanes, reports, draws, pending⟩ := x
  obtain ⟨portA, fwdA, slot, waiting, held⟩ := h
  unfold placeResponse at portA fwdA slot waiting held ⊢
  cases hs : s.link.slot <;> cases hw : s.req.waiting <;> simp_all [State.withA]

theorem request_answered_first {k : Byte} {n : Nat} {bad : List Byte → Option Nat} {act : RxFrame → State → State}
    {f : RxFrame} {s x : State} {r : Response} (h : TakenAt k n f s) (hb : bad f.payload = none)
    (hact : act f (s.setSup (fedTimer f.src s)) = x)
    (first : Part.Same (placeResponse (responseFrame s f r) s) x .portA) (exec : Part.Same s x .exec) :
    ∃ t, live (receive k f (request k n bad act f)) s = .next t
      ∧ PutOnA (responseFrame s f r) s t ∧ KeepsAllBut [.portA, .portB] x t ∧ JoinedB [] x t := by
  have served := h.toRunning.served'
  obtain ⟨put, keeps, joined⟩ := settle_put_with (u := x.withA s) (responseFrame s f r) served ⟨rfl, rfl, rfl, rfl, rfl⟩
    h.room fun hs => exec.1 ▸ served.no_reply hs
  rw [placeResponse_withA first] at put keeps joined
  refine ⟨settle x, ?_, put, ((withA_keeps x s).mono (by simp)).trans keeps,
    joined.before (s := x) ⟨rfl, rfl, rfl, rfl⟩ rfl⟩
  rw [live_directed h.toDirected, request_taken h hb, hact]

end Sys2Proof.Machine
end

section
/-!
PROOFS. RESTART at one station (R151).
-/

namespace Sys2Proof.Machine

/-! ### P − 1 with no DRAINING plan (R74, R80) -/

/-- No plan is DRAINING, so that no P − 1 reopens one. -/
def NoneDraining (s : State) : Prop := ∀ p ∈ s.plans.plans, p.state ≠ .draining

theorem lessPlan_still {s : State} (none : NoneDraining s) {id : PlanId} {p : Plan} (hp : s.plan id = some p) (j : Nat)
    (g : PlanLine → PlanLine) : KeepsAllBut [.plans] s (lessPlan id p j g s) ∧ NoneDraining (lessPlan id p j g s) := by
  have open_ : p.state ≠ .draining := none p (List.mem_of_find?_eq_some hp)
  have path : lessPlan id p j g s = s.onPlan id fun q => (q.onLine j g).reopened := if_neg open_
  rw [path]
  refine ⟨⟨rfl, rfl, fun part hpart => ?_⟩, fun q hq => ?_⟩
  · cases part <;> simp_all [Part.Same, State.onPlan]
  · rcases mem_changeFirst hq with old | ⟨r, hr, rfl⟩
    · exact none q old
    · have same : (r.onLine j g).state = r.state := rfl
      have other := none r (List.mem_of_find?_eq_some hr)
      rw [Plan.reopened, if_neg (by rw [same]; exact other), same]
      exact other

theorem planLess_still {s : State} (none : NoneDraining s) (n : Option PlanId) (j : Nat) :
    KeepsAllBut [.plans] s (planLess n j s) ∧ NoneDraining (planLess n j s) := by
  have stays : KeepsAllBut [.plans] s s ∧ NoneDraining s := ⟨(KeepsAllBut.refl s).mono (by simp), none⟩
  unfold planLess
  split
  · exact stays
  next p hp =>
    obtain ⟨id, -, hp⟩ := Option.bind_eq_some_iff.mp hp
    obtain rfl := plan_id hp
    split
    · exact stays
    · split_ifs
      · exact lessPlan_still none hp j _
      · exact stays

theorem foldl_planLess_still (n : Option PlanId) (js : List Nat) {s : State} (none : NoneDraining s) :
    KeepsAllBut [.plans] s (js.foldl (fun s j => planLess n j s) s)
      ∧ NoneDraining (js.foldl (fun s j => planLess n j s) s) := by
  induction js generalizing s with
  | nil => exact ⟨(KeepsAllBut.refl s).mono (by simp), none⟩
  | cons j js ih =>
    obtain ⟨keeps, left⟩ := planLess_still none n j
    obtain ⟨keeps', left'⟩ := ih left
    exact ⟨keeps.trans keeps', left'⟩

theorem unplace_still {i : StationNo} {os : List Order} {s : State} (none : NoneDraining s) :
    KeepsAllBut [.plans, .builds, .flags] s (unplace i os s) ∧ NoneDraining (unplace i os s)
      ∧ (unplace i os s).builds[i] = cutBuild s i os ∧ OtherBuilds i s (unplace i os s) := by
  unfold unplace cutBuild
  dsimp only
  cases os.filterMap Order.caseIndex with
  | nil => exact ⟨(KeepsAllBut.refl s).mono (by simp), none, rfl, fun _ _ => rfl⟩
  | cons k rest =>
    obtain ⟨keeps, own, others, -⟩ := truncateBuild_cut i k s
    have plans : (truncateBuild i k s).plans.plans = s.plans.plans := keeps.2.2 .plans (by simp)
    obtain ⟨lessens, left⟩ := foldl_planLess_still s.builds[i].planId
      ((k :: rest).filterMap fun j => s.builds[i].cases[j]?.map (·.line)) (s := truncateBuild i k s)
      (fun p hp => none p (plans ▸ hp))
    dsimp only
    generalize ((k :: rest).filterMap fun j => s.builds[i].cases[j]?.map (·.line)).foldl
      (fun s' j => planLess s.builds[i].planId j s') (truncateBuild i k s) = t at *
    have builds : t.builds = (truncateBuild i k s).builds := lessens.2.2 .builds (by simp)
    exact ⟨(keeps.mono (by simp)).trans (lessens.mono (by simp)), left, by rw [builds, own]; rfl,
      fun j hj => by rw [builds, others j hj]⟩

/-! ### One station -/

/-- A station that calls for its exchange at a RESTART: in CLOSING with nothing on order. -/
abbrev State.callsOnRestart (s : State) (i : StationNo) : Prop := s.stations[i].state = .closing ∧ s.stations[i].orders = []

/-- The frames that a RESTART sends for a station. -/
def restartFrames (s : State) (i : StationNo) : List (Nat × OwnBody) :=
  if s.stations[i].orders ≠ [] then withdrawFrames s i (s.stations[i].orders.map (·.seq))
  else if s.callsOnRestart i then [callFrame s i s.builds[i]] else []

/-- The reports that it queues for a station. -/
def restartClosed (s : State) (i : StationNo) : List ReportBody :=
  if s.callsOnRestart i then [closedReport i s.builds[i] s.stations[i].close] else []

/-- The parts that it changes at the stations. -/
def restartParts : List Part := [.portB, .exec, .plans, .flags, .builds, .stations, .reports]

/-- The record of a station with its lists and the timers of its orders gone. -/
def Station.bared (st : Station) : Station := { st with orders := [], spur := [], takeExpiry := none, placeExpiry := none }

/-- What a RESTART leaves of one station. -/
structure Restarts (i : StationNo) (s t : State) : Prop where
  emits  : Emits (restartFrames s i) (restartClosed s i) restartParts s t
  own    : t.stations[i] = restarted s i
  others : OthersMayBind i s t
  build  : s.stations[i].state ≠ .idle → t.builds[i] = cutBuild s i s.stations[i].orders
  lines  : CountsOk s → BindingsOk s → ∀ id p, s.plan id = some p → ∃ q, t.plan id = some q
             ∧ q.lines = lessBy (leavingOn s i s.stations[i].orders id) p.lines
  still  : NoneDraining s → NoneDraining t ∧ OtherStations i s t ∧ OtherBuilds i s t
             ∧ t.builds[i] = cutBuild s i s.stations[i].orders

section Station

variable {s t : State} {i : StationNo}

theorem restarted_calls (orders : s.stations[i].orders = []) (closing : s.stations[i].state = .closing) :
    restarted s i = { s.stations[i].bared with state := .awaitExchange } := by
  unfold restarted
  dsimp only
  rw [if_neg (fun h => h orders), if_pos closing]
  rfl

theorem restarted_exchanges (orders : s.stations[i].orders = []) (exchanging : s.stations[i].state = .exchanging) :
    restarted s i =
      { s.stations[i].bared with exchangeExpiry := some (after s.link.time s.req.settings.exchangeTimeout) } := by
  unfold restarted
  dsimp only
  rw [if_neg (fun h => h orders), if_neg (by rw [exchanging]; exact nofun), if_pos exchanging]
  rfl

theorem restarted_rests (orders : s.stations[i].orders = []) (open_ : s.stations[i].state ≠ .closing)
    (still : s.stations[i].state ≠ .exchanging) : restarted s i = s.stations[i].bared := by
  unfold restarted
  dsimp only
  rw [if_neg (fun h => h orders), if_neg open_, if_neg still]
  rfl

theorem restartStation_bared (orders : s.stations[i].orders = []) : restartStation s i =
    match s.stations[i].state with
    | .closing => closingTest i (s.withStation i s.stations[i].bared)
    | .exchanging => s.withStation i
        { s.stations[i].bared with exchangeExpiry := some (after s.link.time s.req.settings.exchangeTimeout) }
    | .building | .fault | .offline | .idle | .awaitExchange => s.withStation i s.stations[i].bared := by
  have record := withStation_same s i s.stations[i].bared
  have path : (s.onStation i fun st => { st with spur := [], takeExpiry := none, placeExpiry := none, orders := [] })
      = s.withStation i s.stations[i].bared := rfl
  unfold restartStation
  dsimp only
  rw [path, if_pos (by rw [orders]; rfl), record]
  have state : s.stations[i].bared.state = s.stations[i].state := rfl
  rw [state]
  cases hs : s.stations[i].state with
  | exchanging =>
    dsimp only
    rw [onStation_eq, record, withStation_again, ← hs]
    rfl
  | closing => rfl
  | building => rfl
  | fault => rfl
  | offline => rfl
  | idle => rfl
  | awaitExchange => rfl

theorem restartStation_ordered (orders : s.stations[i].orders ≠ []) : restartStation s i =
    ((unplace i s.stations[i].orders (withdraw i (s.stations[i].orders.map (·.seq))
      (s.withStation i s.stations[i].bared))).onStation i fun st => { st with cause := .restart }).enterState i .fault := by
  unfold restartStation
  dsimp only
  rw [if_neg (by simpa using orders)]
  rfl

/-- A station with nothing on order. -/
theorem restarts_of_bared (orders : s.stations[i].orders = [])
    (emits : Emits (restartFrames s i) (restartClosed s i) [.portB, .exec, .stations, .reports] s t)
    (own : t.stations[i] = restarted s i) (others : OtherStations i s t) : Restarts i s t := by
  have builds : t.builds = s.builds := emits.keeps.2.2 .builds (by simp)
  have plans : t.plans.plans = s.plans.plans := emits.keeps.2.2 .plans (by simp)
  have build : t.builds[i] = cutBuild s i s.stations[i].orders := by
    rw [builds, orders]
    rfl
  refine ⟨emits.mono (by simp [restartParts]), own,
    .of_others others (.of_keeps emits.keeps (by simp)), fun _ => build, fun counts _ id p hp => ⟨p, ?_, ?_⟩,
    fun none => ⟨fun p hp => none p (plans ▸ hp), others, .of_keeps emits.keeps (by simp), build⟩⟩
  · rwa [State.plan, plans]
  · have nothing : leavingOn s i s.stations[i].orders id = fun _ => 0 := by
      funext j
      rw [orders]
      unfold leavingOn
      split_ifs <;> rfl
    rw [nothing, lessBy_zero (countsOk_lines counts hp)]

theorem restarts_of_record (orders : s.stations[i].orders = []) (other : s.stations[i].state ≠ .closing)
    {st : Station} (own : restarted s i = st) : Restarts i s (s.withStation i st) := by
  have emits := (emits_withStation s i st).mono (qs := [.portB, .exec, .stations, .reports]) (by simp)
  refine restarts_of_bared orders ?_ ((withStation_same ..).trans own.symm) (withStation_other s i st)
  rwa [restartFrames, if_neg (fun h => h orders), if_neg (fun h => other h.1), restartClosed, if_neg fun h => other h.1]

theorem restarts_calls (orders : s.stations[i].orders = []) (closing : s.stations[i].state = .closing) :
    Restarts i s (closingTest i (s.withStation i s.stations[i].bared)) := by
  have record := withStation_same s i s.stations[i].bared
  have emptied : s.stations[i].bared.Emptied := ⟨rfl, rfl⟩
  have reason : s.stations[i].bared.close = s.stations[i].close := rfl
  have others := withStation_other s i s.stations[i].bared
  have bared := emits_withStation s i s.stations[i].bared
  generalize s.withStation i s.stations[i].bared = a at *
  obtain ⟨test, stations⟩ := closingTest_emits (i := i) (s := a) (by rw [record]; exact closing)
  have builds : a.builds = s.builds := bared.keeps.2.2 .builds (by simp)
  rw [record, if_pos emptied, if_pos emptied, builds, reason, callFrame_congr (bared.keeps.2.2 .settings (by simp))] at test
  rw [record, if_pos emptied] at stations
  refine restarts_of_bared orders ?_ ?_ (others.trans (closingTest_elsewhere i a).others)
  · rw [restartFrames, if_neg (fun h => h orders), if_pos ⟨closing, orders⟩, restartClosed, if_pos ⟨closing, orders⟩]
    exact (bared.after test (by simp)).mono (by simp [closingParts])
  · rw [stations, withStation_same, restarted_calls orders closing]

/-- P − 1 for orders that leave, whatever the state of their station. -/
theorem unplace_moves (i : StationNo) (os : List Order) (s : State) :
    Emits [] [] [.plans, .stations, .builds, .flags, .exec] s (unplace i os s) ∧ OthersMayBind i s (unplace i os s)
      ∧ ((unplace i os s).stations[i] = s.stations[i]
        ∨ (unplace i os s).stations[i] = { s.stations[i] with state := .building }) := by
  unfold unplace
  dsimp only
  cases os.filterMap Order.caseIndex with
  | nil => exact ⟨(emits_refl s).mono (by simp), fun _ _ => ⟨.inl rfl, fun _ => rfl⟩, .inl rfl⟩
  | cons k rest =>
    obtain ⟨keeps, -, others, -⟩ := truncateBuild_cut i k s
    have stations : (truncateBuild i k s).stations = s.stations := keeps.2.2 .stations (by simp)
    have lessens := (Lessens.foldl (fun u j => Lessens.planLess s.builds[i].planId j u)
      ((k :: rest).filterMap fun j => s.builds[i].cases[j]?.map (·.line)) (truncateBuild i k s)).toOffers
    refine ⟨((Emits.of_keeps keeps (by simp)).andThen lessens.emits (by simp)).mono (by simp),
      (OthersMayBind.of_others (.of_keeps keeps (by simp)) others).trans (.of_offers lessens i), ?_⟩
    rw [← stations]
    exact (lessens.station i).imp_right And.right

/-- The state of a RESTART at a station with orders, before the P − 1 for them. -/
def restartWithdrawn (i : StationNo) (s : State) : State :=
  withdraw i (s.stations[i].orders.map (·.seq)) (s.withStation i s.stations[i].bared)

/-- The end of a RESTART at such a station. -/
def restartFaulted (i : StationNo) (s : State) : State :=
  (s.onStation i fun st => { st with cause := .restart }).enterState i .fault

theorem restartWithdrawn_emits (i : StationNo) (s : State) :
    Emits (withdrawFrames s i (s.stations[i].orders.map (·.seq))) [] [.portB, .stations] s (restartWithdrawn i s) := by
  have bared := emits_withStation s i s.stations[i].bared
  have keeps := withdraw_keeps i (s.stations[i].orders.map (·.seq)) (s.withStation i s.stations[i].bared)
  have withdrawn : Emits _ [] _ _ (restartWithdrawn i s) := ⟨keeps, withdraw_joined .., reportsTaken_nil (reports_eq
    (keeps.2.2 .reports (by simp)) (keeps.2.2 .levels (by simp))), fun _ => keeps.2.2 .exec (by simp)⟩
  exact (bared.after withdrawn (by simp)).mono (by simp)

theorem restartWithdrawn_own (orders : s.stations[i].orders ≠ []) : (restartWithdrawn i s).stations[i] =
    { s.stations[i].bared with withdrawn := s.stations[i].orders.map (·.seq) } := by
  rw [restartWithdrawn, withdraw_own, withStation_same, withdrawnBy, if_neg (by simpa using orders)]

theorem restartFaulted_emits (i : StationNo) (s : State) :
    Emits [] [] [.stations, .exec] s (restartFaulted i s) ∧ OtherStations i s (restartFaulted i s)
      ∧ (restartFaulted i s).stations[i] = { s.stations[i] with state := .fault, cause := .restart } := by
  have caused := emits_withStation s i { s.stations[i] with cause := .restart }
  have others := withStation_other s i { s.stations[i] with cause := .restart }
  have own := withStation_same s i { s.stations[i] with cause := .restart }
  rw [restartFaulted, onStation_eq]
  generalize s.withStation i { s.stations[i] with cause := .restart } = w at *
  exact ⟨(caused.after (emits_enterState w i .fault) (by simp)).mono (by simp),
    others.trans (enterState_other w i .fault), by rw [enterState_stations, withStation_same, own]⟩

theorem restarted_ordered (orders : s.stations[i].orders ≠ []) : restarted s i =
    { s.stations[i].bared with
      withdrawn := s.stations[i].orders.map (·.seq), state := .fault, cause := .restart } := by
  unfold restarted
  exact if_pos orders

theorem bindings_busy (bindings : BindingsOk s) (orders : s.stations[i].orders ≠ []) : s.stations[i].state ≠ .idle := by
  obtain ⟨-, -, -, -, -, working, -⟩ := bindings
  rcases working i orders with h | h | ⟨h, -⟩ <;> rw [h] <;> exact nofun

/-- A station with orders (R151). -/
theorem restarts_ordered (orders : s.stations[i].orders ≠ []) : Restarts i s (restartStation s i) := by
  have path : restartStation s i = restartFaulted i (unplace i s.stations[i].orders (restartWithdrawn i s)) :=
    restartStation_ordered orders
  rw [path]
  have first := restartWithdrawn_emits i s
  have firstOwn := restartWithdrawn_own orders
  have firstOthers : OtherStations i s (restartWithdrawn i s) :=
    (withStation_other s i s.stations[i].bared).trans (withdraw_other i _ _)
  generalize restartWithdrawn i s = w at *
  have builds : w.builds = s.builds := first.keeps.2.2 .builds (by simp)
  have plans : w.plans.plans = s.plans.plans := first.keeps.2.2 .plans (by simp)
  obtain ⟨second, mayBind, stays⟩ := unplace_moves i s.stations[i].orders w
  have cut : s.stations[i].state ≠ .idle → CutBack i s.stations[i].orders w (unplace i s.stations[i].orders w) :=
    fun busy => unplace_cutBack i _ (by rw [firstOwn]; exact busy)
  have quiet : NoneDraining w → _ := unplace_still (i := i) (os := s.stations[i].orders) (s := w)
  generalize unplace i s.stations[i].orders w = c at *
  obtain ⟨last, lastOthers, lastOwn⟩ := restartFaulted_emits i c
  generalize restartFaulted i c = t at *
  have unplaced : s.stations[i].state ≠ .idle → Unplaced i s.stations[i].orders s t := fun busy =>
    (cut busy).unplaced.congr first.keeps firstOthers last.keeps lastOthers (by simp) (by simp)
  refine ⟨?_, ?_, ?_, fun busy => (unplaced busy).1, fun counts bindings =>
    (unplaced (bindings_busy bindings orders)).2.1 counts, fun none => ?_⟩
  · rw [restartFrames, if_pos orders, restartClosed, if_neg fun h => orders h.2]
    exact ((first.andThen second (by simp)).andThen last (by simp)).mono (by simp [restartParts])
  · rw [lastOwn, restarted_ordered orders]
    rcases stays with same | bound
    · rw [same, firstOwn]
    · rw [bound, firstOwn]
  · exact ((OthersMayBind.of_others firstOthers (.of_keeps first.keeps (by simp))).trans mayBind).trans
      (.of_others lastOthers (.of_keeps last.keeps (by simp)))
  · obtain ⟨keeps, left, own, others⟩ := quiet fun p hp => none p (plans ▸ hp)
    have lastPlans : t.plans.plans = c.plans.plans := last.keeps.2.2 .plans (by simp)
    have lastBuilds : t.builds = c.builds := last.keeps.2.2 .builds (by simp)
    refine ⟨fun p hp => left p (lastPlans ▸ hp), (firstOthers.trans (.of_keeps keeps (by simp))).trans lastOthers,
      fun j hj => ?_, ?_⟩
    · rw [lastBuilds, others j hj, builds]
    · rw [lastBuilds, own, cutBuild, cutBuild, builds]

theorem restartStation_restarts (s : State) (i : StationNo) : Restarts i s (restartStation s i) := by
  by_cases orders : s.stations[i].orders = []
  · rw [restartStation_bared orders]
    cases hs : s.stations[i].state with
    | closing => exact restarts_calls orders hs
    | exchanging => exact restarts_of_record orders (by rw [hs]; exact nofun) (restarted_exchanges orders hs)
    | _ =>
      exact restarts_of_record orders (by rw [hs]; exact nofun)
        (restarted_rests orders (by rw [hs]; exact nofun) (by rw [hs]; exact nofun))
  · exact restarts_ordered orders

end Station

end Sys2Proof.Machine
end

section
/-!
PROOFS. RESTART at the stations in number order (R151, R162).
-/

namespace Sys2Proof.Machine

theorem lessBy_lessBy (m n : Nat → Nat) (ls : List PlanLine) :
    lessBy n (lessBy m ls) = lessBy (fun j => m j + n j) ls := by
  refine List.ext_getElem? fun j => ?_
  simp only [lessBy, List.getElem?_mapIdx, Option.map_map]
  congr 1
  funext l
  simp only [Function.comp, PlanLine.mk.injEq, true_and, and_true]
  omega

/-! ### A station that a binding attempt has reached -/

/-- The record `r` of a station, or that of an IDLE one at which a reopened plan is BUILDING (R71, R80). -/
def RecordBinds (r st : Station) : Prop := st = r ∨ r.state = .idle ∧ st = { r with state := .building }

theorem RecordBinds.trans {r st st' : Station} (h : RecordBinds r st) (k : RecordBinds st st') : RecordBinds r st' := by
  rcases h with rfl | ⟨idle, rfl⟩
  · exact k
  · rcases k with rfl | ⟨idle', -⟩
    · exact .inr ⟨idle, rfl⟩
    · cases idle'

theorem RecordBinds.orders {r st : Station} (h : RecordBinds r st) : st.orders = r.orders := by
  rcases h with rfl | ⟨-, rfl⟩ <;> rfl

theorem RecordBinds.busy {r st : Station} (h : RecordBinds r st) (busy : r.state ≠ .idle) : st = r :=
  h.resolve_right fun e => busy e.1

section Record

variable {s u : State} {i : StationNo} (bound : RecordBinds s.stations[i] u.stations[i])
variable (builds : s.stations[i].state ≠ .idle → u.builds[i] = s.builds[i])
variable (settings : Part.Same s u .settings) (time : Part.Same s u .time)

theorem restarted_idle (h : (restarted s i).state = .idle) : s.stations[i].state = .idle := by
  by_cases orders : s.stations[i].orders = []
  · by_cases closing : s.stations[i].state = .closing
    · rw [restarted_calls orders closing] at h
      cases h
    · by_cases exchanging : s.stations[i].state = .exchanging
      · rw [restarted_exchanges orders exchanging] at h
        exact h
      · rw [restarted_rests orders closing exchanging] at h
        exact h
  · rw [restarted_ordered orders] at h
    cases h

include bound settings time in
theorem restarted_binds : RecordBinds (restarted s i) (restarted u i) := by
  have settings' : u.req.settings = s.req.settings := settings
  have time' : u.link.time = s.link.time := time
  rcases bound with same | ⟨idle, bound⟩
  · left
    rw [restarted, same, time', settings', ← restarted]
  · have orders' : u.stations[i].orders = s.stations[i].orders := by rw [bound]
    have state' : u.stations[i].state = .building := by rw [bound]
    by_cases orders : s.stations[i].orders = []
    · right
      have own := restarted_rests orders (by rw [idle]; exact nofun) (by rw [idle]; exact nofun)
      have own' := restarted_rests (orders'.trans orders) (by rw [state']; exact nofun) (by rw [state']; exact nofun)
      rw [own, own', bound]
      exact ⟨idle, rfl⟩
    · left
      rw [restarted_ordered orders, restarted_ordered (by rwa [orders']), bound]
      rfl

include bound in
theorem calls_iff : u.callsOnRestart i ↔ s.callsOnRestart i := by
  rcases bound with same | ⟨idle, bound⟩
  · rw [State.callsOnRestart, same]
  · refine ⟨fun h => ?_, fun h => ?_⟩
    · have state := h.1
      rw [bound] at state
      cases state
    · exact absurd (idle.symm.trans h.1) nofun

include bound builds settings in
theorem restartFrames_same : restartFrames u i = restartFrames s i := by
  have settings' : u.req.settings = s.req.settings := settings
  unfold restartFrames
  by_cases orders : s.stations[i].orders = []
  · have orders' : u.stations[i].orders = [] := bound.orders.trans orders
    rw [if_neg (not_not_intro orders'), if_neg (not_not_intro orders)]
    by_cases calls : s.callsOnRestart i
    · rw [if_pos calls, if_pos ((calls_iff bound).mpr calls), callFrame_congr settings,
        builds (by rw [calls.1]; exact nofun)]
    · rw [if_neg calls, if_neg fun h => calls ((calls_iff bound).mp h)]
  · rw [if_pos (show u.stations[i].orders ≠ [] by rwa [bound.orders]), if_pos orders, bound.orders, withdrawFrames,
        settings', ← withdrawFrames]

include bound builds in
theorem restartClosed_same : restartClosed u i = restartClosed s i := by
  unfold restartClosed
  by_cases calls : s.callsOnRestart i
  · have busy : s.stations[i].state ≠ .idle := by rw [calls.1]; exact nofun
    rw [if_pos calls, if_pos ((calls_iff bound).mpr calls), builds busy, bound.busy busy]
  · rw [if_neg calls, if_neg fun h => calls ((calls_iff bound).mp h)]

include bound builds in
theorem leavingOn_same (busy : s.stations[i].orders ≠ [] → s.stations[i].state ≠ .idle) (id : PlanId) :
    leavingOn u i u.stations[i].orders id = leavingOn s i s.stations[i].orders id := by
  rw [bound.orders]
  by_cases orders : s.stations[i].orders = []
  · rw [orders]
    funext j
    unfold leavingOn
    split_ifs <;> rfl
  · unfold leavingOn
    rw [builds (busy orders)]

include bound builds in
theorem cutBuild_same (busy : s.stations[i].state ≠ .idle) :
    cutBuild u i u.stations[i].orders = cutBuild s i s.stations[i].orders := by
  rw [bound.orders, cutBuild, cutBuild, builds busy]

end Record

/-! ### Up to a station -/

/-- The record of station `j` when the stations `done` have been restarted. -/
def recordAfter (done : List StationNo) (s : State) (j : StationNo) : Station :=
  if j ∈ done then restarted s j else s.stations[j]

/-- Its build. -/
def buildAfter (done : List StationNo) (s : State) (j : StationNo) : Build :=
  if j ∈ done then cutBuild s j s.stations[j].orders else s.builds[j]

/-- What a RESTART of the stations `done` leaves: `u`, of a device in `s` whose stations begin their RESTART in `b`. -/
structure RestartedTo (done : List StationNo) (b s u : State) : Prop where
  same    : KeepsAllBut (.portA :: .latch :: .sup :: restartParts) s u
  emits   : Emits (done.flatMap (restartFrames s)) (done.flatMap (restartClosed s)) restartParts b u
  station : ∀ j : StationNo, RecordBinds (recordAfter done s j) u.stations[j]
  build   : ∀ j : StationNo, s.stations[j].state ≠ .idle → u.builds[j] = buildAfter done s j
  lines   : CountsOk s → BindingsOk s → CountsOk u ∧ BindingsOk u ∧ ∀ id p, s.plan id = some p → ∃ q,
              u.plan id = some q ∧ q.lines =
                lessBy (fun n => (done.map fun j => leavingOn s j s.stations[j].orders id n).sum) p.lines
  still   : NoneDraining s → NoneDraining u
              ∧ ∀ j : StationNo, u.stations[j] = recordAfter done s j ∧ u.builds[j] = buildAfter done s j

section Step

variable {done : List StationNo} {b s u v : State} {i : StationNo}

theorem recordAfter_other {j : StationNo} (h : j ≠ i) : recordAfter (done ++ [i]) s j = recordAfter done s j := by
  simp [recordAfter, h]

theorem recordAfter_own : recordAfter (done ++ [i]) s i = restarted s i := by simp [recordAfter]

theorem buildAfter_other {j : StationNo} (h : j ≠ i) : buildAfter (done ++ [i]) s j = buildAfter done s j := by
  simp [buildAfter, h]

theorem buildAfter_own : buildAfter (done ++ [i]) s i = cutBuild s i s.stations[i].orders := by simp [buildAfter]

theorem recordAfter_idle {j : StationNo} (h : (recordAfter done s j).state = .idle) : s.stations[j].state = .idle := by
  unfold recordAfter at h
  split_ifs at h
  · exact restarted_idle h
  · exact h

theorem RestartedTo.step (h : RestartedTo done b s u) (fresh : i ∉ done) (r : Restarts i u v)
    (counts : CountsOk u → CountsOk v) (bindings : BindingsOk u → BindingsOk v) : RestartedTo (done ++ [i]) b s v := by
  have bound : RecordBinds s.stations[i] u.stations[i] := by simpa [recordAfter, fresh] using h.station i
  have builds : s.stations[i].state ≠ .idle → u.builds[i] = s.builds[i] := fun busy => by
    simpa [buildAfter, fresh] using h.build i busy
  have settings : Part.Same s u .settings := h.same.2.2 .settings (by simp [restartParts])
  have time : Part.Same s u .time := h.same.2.2 .time (by simp [restartParts])
  have stillBusy : ∀ j : StationNo, s.stations[j].state ≠ .idle → u.stations[j].state ≠ .idle := fun j busy => by
    rcases h.station j with same | ⟨-, same⟩
    · rw [same]
      exact fun idle => busy (recordAfter_idle idle)
    · rw [same]
      exact nofun
  refine ⟨h.same.trans (r.emits.keeps.mono (by simp +contextual)), ?_, fun j => ?_, fun j busy => ?_,
    fun countsS bindingsS => ?_, fun none => ?_⟩
  · rw [List.flatMap_append, List.flatMap_append, List.flatMap_singleton, List.flatMap_singleton,
      ← restartFrames_same bound builds settings, ← restartClosed_same bound builds]
    exact (h.emits.trans r.emits (by simp [restartParts])).mono (by simp)
  · by_cases hj : j = i
    · subst hj
      rw [recordAfter_own, r.own]
      exact restarted_binds bound settings time
    · rw [recordAfter_other hj]
      exact (h.station j).trans ((r.others j hj).1)
  · by_cases hj : j = i
    · subst hj
      rw [buildAfter_own, r.build (stillBusy j busy), cutBuild_same bound builds busy]
    · rw [buildAfter_other hj, (r.others j hj).2 (stillBusy j busy), h.build j busy]
  · obtain ⟨countsU, bindingsU, lines⟩ := h.lines countsS bindingsS
    refine ⟨counts countsU, bindings bindingsU, fun id p hp => ?_⟩
    obtain ⟨q, hq, before⟩ := lines id p hp
    obtain ⟨q', hq', behind⟩ := r.lines countsU bindingsU id q hq
    refine ⟨q', hq', ?_⟩
    rw [behind, before, leavingOn_same bound builds (bindings_busy bindingsS), lessBy_lessBy]
    congr 1
    funext n
    simp
  · obtain ⟨noneU, fixed⟩ := h.still none
    obtain ⟨noneV, others, otherBuilds, own⟩ := r.still noneU
    obtain ⟨ownRecord, ownBuild⟩ := fixed i
    have record : u.stations[i] = s.stations[i] := by simpa [recordAfter, fresh] using ownRecord
    have build : u.builds[i] = s.builds[i] := by simpa [buildAfter, fresh] using ownBuild
    refine ⟨noneV, fun j => ?_⟩
    by_cases hj : j = i
    · subst hj
      have settings' : u.req.settings = s.req.settings := settings
      have time' : u.link.time = s.link.time := time
      rw [recordAfter_own, buildAfter_own, r.own, own, record, cutBuild, build, ← cutBuild, restarted, record, time',
        settings', ← restarted]
      exact ⟨rfl, rfl⟩
    · rw [recordAfter_other hj, buildAfter_other hj, others j hj, otherBuilds j hj]
      exact fixed j

theorem RestartedTo.foldl (l : List StationNo) (h : RestartedTo done b s u) (nodup : (done ++ l).Nodup) :
    RestartedTo (done ++ l) b s (l.foldl restartStation u) := by
  induction l generalizing done u with
  | nil => simpa using h
  | cons i l ih =>
    have fresh : i ∉ done := fun hi => (List.nodup_append.mp nodup).2.2 i hi i List.mem_cons_self rfl
    have next := h.step fresh (restartStation_restarts u i) (Works.restartStation u i).countsOk (·.restartStation i)
    have cons : done ++ i :: l = (done ++ [i]) ++ l := by simp
    rw [cons] at nodup ⊢
    exact ih next nodup

end Step

end Sys2Proof.Machine
end

section
/-!
PROOFS. RESTART (R111, R124, R151, R162, R179): O21.
-/

namespace Sys2Proof.Machine

/-! ### The report queue (R174, R179) -/

theorem foldl_take_room {f : ReportBody → Report} (bs : List ReportBody) {u : ReportUnit}
    (room : u.queue.length + bs.length ≤ 32) :
    bs.foldl (fun u b => if (f b).level = 0 then u else u.take (f b)) u =
      { u with queue := u.queue ++ (bs.map f).filter fun r => r.level != 0 } := by
  induction bs generalizing u with
  | nil => simp
  | cons b bs ih =>
    rw [List.foldl_cons, List.map_cons]
    rw [List.length_cons] at room
    by_cases silent : (f b).level = 0
    · rw [if_pos silent, ih (by omega), List.filter_cons_of_neg (by simp [silent])]
    · have taken : u.take (f b) = { u with queue := u.queue ++ [f b] } :=
        if_pos (show u.queue.length < 32 by omega)
      rw [if_neg silent, taken, ih (by simp; omega), List.filter_cons_of_pos (by simpa using silent)]
      simp

/-- The reports of an event while the queue has room for them all. -/
theorem ReportsTaken.room {bs : List ReportBody} {s t : State} (h : ReportsTaken bs s t)
    (room : s.reports.queue.length + bs.length ≤ 32) : t.reports =
      { s.reports with queue := s.reports.queue ++ (bs.map (reportNow s)).filter fun r => r.level != 0 } :=
  Eq.trans h (foldl_take_room bs room)

/-! ### The beginning: the RESPONSE, STARTED and the latch -/

/-- The state with an empty report queue (R179). -/
def State.unreported (s : State) : State := { s with reports := { s.reports with queue := [], lost := 0 } }

/-- The state with the latch cleared. -/
def State.unlatched (s : State) : State := { s with req := { s.req with latch := false } }

theorem unreported_keeps (s : State) : KeepsAllBut [.reports] s s.unreported := by
  refine ⟨rfl, rfl, fun p hp => ?_⟩
  cases p <;> simp_all [Part.Same, State.unreported]

theorem unlatched_keeps (s : State) : KeepsAllBut [.latch] s s.unlatched := by
  refine ⟨rfl, rfl, fun p hp => ?_⟩
  cases p <;> simp_all [Part.Same, State.unlatched]

/-- The state in which the blocks begin their RESTART. -/
def restartBegun (f : RxFrame) (s : State) : State := (restartReports (answerDone 0x24 f .empty s)).unlatched

/-- The RESPONSE to a RESTART. -/
def restartResponse : Response := { kind := 0x24, completion := .done, reason := .none, field := 0, result := .empty }

section Begun

variable {f : RxFrame} {s : State} (h : TakenAt 0x24 0 f s)
include h

theorem answerDone_placed (y : SupTimer) : answerDone 0x24 f .empty (s.setSup y) =
    (placeResponse (responseFrame s f restartResponse) s).setSup y := by
  have placed : ∀ fr, placeResponse fr (s.setSup y) = (placeResponse fr s).setSup y := fun fr => by
    unfold placeResponse
    cases hs : s.link.slot <;> cases hw : s.req.waiting <;> simp [State.setSup, hs, hw]
  rw [answerDone, answer, h.single]
  exact placed _

theorem restartBegun_keeps (y : SupTimer) : KeepsAllBut [.sup, .latch, .reports]
      (placeResponse (responseFrame s f restartResponse) s) (restartBegun f (s.setSup y))
    ∧ (restartBegun f (s.setSup y)).req.latch = false
    ∧ (restartBegun f (s.setSup y)).reports.queue =
        [reportNow s (.started .restart s.link.ownNode)].filter (fun r => r.level != 0)
    ∧ (restartBegun f (s.setSup y)).reports.lost = 0 := by
  rw [restartBegun, answerDone_placed h]
  have placed := placeResponse_keeps (responseFrame s f restartResponse) s
  have now : reportNow (placeResponse (responseFrame s f restartResponse) s) (.started .restart s.link.ownNode)
      = reportNow s (.started .restart s.link.ownNode) :=
    reportNow_congr (placed.2.2 .levels (by simp)) (placed.2.2 .time (by simp)) _
  have node : (placeResponse (responseFrame s f restartResponse) s).link.ownNode = s.link.ownNode :=
    placed.2.2 .ownNode (by simp)
  generalize placeResponse (responseFrame s f restartResponse) s = p at *
  have fed : KeepsAllBut [.sup, .reports] p (p.setSup y).unreported :=
    ((setSup_keeps p y).mono (by simp)).trans ((unreported_keeps _).mono (by simp))
  have started := report_keeps (.started .restart p.link.ownNode) (p.setSup y).unreported
  have told := (report_taken (.started .restart p.link.ownNode) (p.setSup y).unreported).room (by simp [State.unreported])
  have same : reportNow (p.setSup y).unreported (.started .restart p.link.ownNode)
      = reportNow s (.started .restart s.link.ownNode) := by rw [← now, node]; rfl
  refine ⟨((fed.mono (by simp)).trans (started.mono (by simp))).trans ((unlatched_keeps _).mono (by simp)), rfl, ?_, ?_⟩
  · refine (congrArg ReportUnit.queue told).trans ?_
    rw [List.map_singleton, same]
    rfl
  · exact congrArg ReportUnit.lost told

end Begun

/-! ### The end: tracker, engine, lanes and timer (R111, R124) -/

/-- The state after the blocks, before the binding attempt. -/
def restartCleared (s : State) : State := armSupervision (restartLanes (restartTracking s))

theorem restartCleared_keeps (s : State) :
    KeepsAllBut [.sup, .arrivals, .tracks, .replans, .flags, .job, .gate, .lanes] s (restartCleared s) := by
  refine ⟨rfl, rfl, fun p hp => ?_⟩
  cases p <;> simp_all [Part.Same, restartCleared, armSupervision, restartLanes, restartTracking, clearFlags]

end Sys2Proof.Machine
end

section
/-!
PROOFS. RESTART as it shows (R111, R124, R151, R162, R179): O21.
-/

namespace Sys2Proof.Machine

/-! ### A station as a RESTART leaves it (R151) -/

section Stations

variable {s : State} {i : StationNo} {st : Station}

theorem restarted_lists (s : State) (i : StationNo) : (restarted s i).orders = [] ∧ (restarted s i).spur = []
    ∧ (restarted s i).takeExpiry = none ∧ (restarted s i).placeExpiry = none := by
  unfold restarted
  dsimp only
  split_ifs <;> exact ⟨rfl, rfl, rfl, rfl⟩

theorem restarted_exchange (s : State) (i : StationNo) : (restarted s i).exchangeExpiry =
    if s.stations[i].state = .exchanging ∧ s.stations[i].orders = [] then
      some (after s.link.time s.req.settings.exchangeTimeout)
    else s.stations[i].exchangeExpiry := by
  by_cases orders : s.stations[i].orders = []
  · by_cases closing : s.stations[i].state = .closing
    · rw [restarted_calls orders closing, if_neg fun h => StationState.noConfusion (closing.symm.trans h.1)]
      rfl
    · by_cases exchanging : s.stations[i].state = .exchanging
      · rw [restarted_exchanges orders exchanging, if_pos ⟨exchanging, orders⟩]
      · rw [restarted_rests orders closing exchanging, if_neg fun h => exchanging h.1]
        rfl
  · rw [restarted_ordered orders, if_neg fun h => orders h.2]
    rfl

theorem restarted_state (orders : s.stations[i].orders = []) (other : ¬ s.callsOnRestart i) :
    (restarted s i).state = s.stations[i].state := by
  have open_ : s.stations[i].state ≠ .closing := fun closing => other ⟨closing, orders⟩
  by_cases exchanging : s.stations[i].state = .exchanging
  · rw [restarted_exchanges orders exchanging]
    rfl
  · rw [restarted_rests orders open_ exchanging]
    rfl

/-- What shows of a station's record after the binding attempt. -/
structure StationRestarted (s : State) (i : StationNo) (st : Station) : Prop where
  lists    : st.orders = [] ∧ st.spur = [] ∧ st.takeExpiry = none ∧ st.placeExpiry = none
  faulted  : s.stations[i].orders ≠ [] → st.state = .fault ∧ st.cause = .restart
               ∧ st.withdrawn = s.stations[i].orders.map (·.seq)
  calls    : s.callsOnRestart i → st.state = .awaitExchange
  exchange : st.exchangeExpiry = if s.stations[i].state = .exchanging ∧ s.stations[i].orders = [] then
               some (after s.link.time s.req.settings.exchangeTimeout) else s.stations[i].exchangeExpiry
  rests    : s.stations[i].orders = [] → ¬ s.callsOnRestart i → st.state = s.stations[i].state
               ∨ s.stations[i].state = .idle ∧ st.state = .building

theorem RecordBinds.restarted (h : RecordBinds (Machine.restarted s i) st) : StationRestarted s i st := by
  refine ⟨?_, fun orders => ?_, fun calls => ?_, ?_, fun orders other => ?_⟩
  · rcases h with rfl | ⟨-, rfl⟩ <;> exact restarted_lists s i
  · rw [h.busy (by rw [restarted_ordered orders]; exact nofun), restarted_ordered orders]
    exact ⟨rfl, rfl, rfl⟩
  · rw [h.busy (by rw [restarted_calls calls.2 calls.1]; exact nofun), restarted_calls calls.2 calls.1]
  · rcases h with rfl | ⟨-, rfl⟩ <;> exact restarted_exchange s i
  · rcases h with rfl | ⟨idle, rfl⟩
    · exact .inl (restarted_state orders other)
    · exact .inr ⟨restarted_idle idle, rfl⟩

end Stations

theorem mem_allStations (i : StationNo) : i ∈ allStations := by revert i; decide

/-! ### The lanes (R124) -/

theorem Lane.restarted_shows (l : Lane) : l.restarted.list = [] ∧ l.restarted.inFlight = none ∧ l.restarted.expiry = none
    ∧ if l.state = .ready ∧ l.list = [] ∧ l.inFlight = none then l.restarted.state = .ready
      else l.restarted.state = .fault ∧ l.restarted.cause = .restart := by
  unfold Lane.restarted
  split_ifs with h
  · exact ⟨h.2.1, h.2.2, rfl, h.1⟩
  · exact ⟨rfl, rfl, rfl, rfl, rfl⟩

theorem restartCleared_lane (s : State) (k : LaneNo) : (restartCleared s).lanes[k] = s.lanes[k].restarted := by
  simp [restartCleared, armSupervision, restartLanes, restartTracking, clearFlags]

theorem restartCleared_flag (s : State) (k : LaneNo) : (restartCleared s).flag k = false := by
  have flags : (restartCleared s).engine.flags = #v[false, false, false, false] := rfl
  rw [State.flag, flags]
  revert k
  decide

/-- No lane lists a case, so that no binding attempt raises a flag. -/
theorem cleared_flag {s x : State} (h : Offers (restartCleared s) x) (k : LaneNo) : x.flag k = false := by
  by_contra raised
  rcases h.flags k (by simpa using raised) with flag | listed
  · exact Bool.false_ne_true ((restartCleared_flag s k).symm.trans flag)
  · have empty := (Lane.restarted_shows s.lanes[k]).1
    rw [flaggable_iff, restartCleared_lane] at listed
    exact listed.2 empty

/-! ### The whole -/

theorem restartBegins {f : RxFrame} {s : State} (h : TakenAt 0x24 0 f s) (y : SupTimer) :
    RestartedTo [] (restartBegun f (s.setSup y)) s (restartBegun f (s.setSup y)) := by
  obtain ⟨begun, -⟩ := restartBegun_keeps h y
  have keeps : KeepsAllBut [.portA, .sup, .latch, .reports] s (restartBegun f (s.setSup y)) :=
    ((placeResponse_keeps _ s).mono (by simp)).trans (begun.mono (by simp))
  generalize restartBegun f (s.setSup y) = b at *
  have stations : b.stations = s.stations := keeps.2.2 .stations (by simp)
  have builds : b.builds = s.builds := keeps.2.2 .builds (by simp)
  have plans : b.plans.plans = s.plans.plans := keeps.2.2 .plans (by simp)
  have untouched : Sustains s b := .of_keeps keeps (by simp)
  refine ⟨keeps.mono (by simp [restartParts]), (emits_refl b).mono (by simp), fun j => .inl ?_, fun j _ => ?_,
    fun counts bindings => ⟨untouched.counts counts, untouched.bindings bindings, fun id p hp => ⟨p, ?_, ?_⟩⟩,
    fun none => ⟨fun p hp => none p (plans ▸ hp), fun j => ⟨?_, ?_⟩⟩⟩
  · rw [stations]; rfl
  · rw [builds]; rfl
  · rwa [State.plan, plans]
  · exact (lessBy_zero (countsOk_lines counts hp)).symm
  · rw [stations]; rfl
  · rw [builds]; rfl

/-- What a RESTART has come to before its binding attempt: the blocks have begun in `b` and end in `v`. -/
structure RestartRun (f : RxFrame) (s b v t : State) : Prop where
  run     : exec (.restart f) s = .next t
  put     : PutOnA (responseFrame s f restartResponse) s t
  keeps   : KeepsAllBut [.portA, .portB] (bindingAttempt (restartCleared v)) t
  joined  : JoinedB [] (bindingAttempt (restartCleared v)) t
  exec    : Part.Same s t .exec
  begun   : KeepsAllBut [.portA, .sup, .latch, .reports] s b
  latch   : b.req.latch = false
  queue   : b.reports.queue = [reportNow s (.started .restart s.link.ownNode)].filter (fun r => r.level != 0)
  lost    : b.reports.lost = 0
  reached : RestartedTo allStations b s v

theorem restart_runs {f : RxFrame} {s : State} (h : TakenAt 0x24 0 f s) : ∃ b v t, RestartRun f s b v t := by
  have reached := (restartBegins h (fedTimer f.src s)).foldl allStations (by decide)
  obtain ⟨begun, latch, queue, lost⟩ := restartBegun_keeps h (fedTimer f.src s)
  have act : restart f (s.setSup (fedTimer f.src s)) =
    bindingAttempt (restartCleared (allStations.foldl restartStation (restartBegun f (s.setSup (fedTimer f.src s))))) := rfl
  generalize restartBegun f (s.setSup (fedTimer f.src s)) = b at *
  generalize allStations.foldl restartStation b = v at *
  have placed := placeResponse_keeps (responseFrame s f restartResponse) s
  have fromStart : KeepsAllBut [.portA, .sup, .latch, .reports] s b := (placed.mono (by simp)).trans (begun.mono (by simp))
  have cleared := restartCleared_keeps v
  have binds := bindingAttempt_binds (restartCleared v)
  have exec : Part.Same s (bindingAttempt (restartCleared v)) .exec := by
    have first := fromStart.2.2 .exec (by simp)
    have stations := reached.emits.ready (first.1.trans h.ready)
    have last := cleared.2.2 .exec (by simp)
    exact ((first.trans stations).trans last).trans
      (binds.ready (last.1.trans (stations.1.trans (first.1.trans h.ready))))
  have portA : Part.Same (placeResponse (responseFrame s f restartResponse) s) (bindingAttempt (restartCleared v)) .portA :=
    (((begun.2.2 .portA (by simp)).trans (reached.emits.keeps.2.2 .portA (by simp [restartParts]))).trans
      (cleared.2.2 .portA (by simp))).trans (binds.keeps.2.2 .portA (by simp))
  obtain ⟨t, run, put, keeps, joined⟩ := request_answered_first (bad := noFields) h rfl act portA exec
  exact ⟨b, v, t, run, put, keeps, joined, exec.trans (keeps.2.2 .exec (by simp)), fromStart, latch, queue, lost, reached⟩

namespace RestartRun

variable {f : RxFrame} {s b v t : State} (r : RestartRun f s b v t)
include r

/-- The parts behind the stations. -/
theorem behind : KeepsAllBut [.portA, .portB, .sup, .arrivals, .tracks, .replans, .flags, .job, .gate, .lanes, .plans,
    .stations, .builds, .exec] v t :=
  (((restartCleared_keeps v).mono (by simp)).trans ((bindingAttempt_binds _).keeps.mono (by simp))).trans
    (r.keeps.mono (by simp))

/-- The parts behind the blocks. -/
theorem attempted : KeepsAllBut [.plans, .stations, .builds, .flags, .exec, .portA, .portB] (restartCleared v) t :=
  ((bindingAttempt_binds _).keeps.mono (by simp)).trans (r.keeps.mono (by simp))

theorem all : KeepsAllBut [.portA, .portB, .sup, .latch, .plans, .arrivals, .tracks, .replans, .flags, .job, .gate, .builds,
    .stations, .lanes, .reports] s t :=
  KeepsAllBut.but (p := .exec) ((r.reached.same.mono (by simp [restartParts])).trans (r.behind.mono (by simp))) r.exec

theorem sup : t.req.sup = if s.req.settings.supInterval = 0 then .stopped
    else .running (after s.link.time s.req.settings.supInterval) := by
  have settings : v.req.settings = s.req.settings := r.reached.same.2.2 .settings (by simp [restartParts])
  have time : v.link.time = s.link.time := r.reached.same.2.2 .time (by simp [restartParts])
  have armed : t.req.sup = (restartCleared v).req.sup := r.attempted.2.2 .sup (by simp)
  rw [armed, ← settings, ← time]
  rfl

theorem cleared : t.tracker.arrivals = [] ∧ t.tracker.tracks = [] ∧ t.engine.replans = [] ∧ t.engine.waiting = []
    ∧ t.engine.job = none ∧ t.engine.gate = false ∧ ∀ k : LaneNo, t.flag k = false := by
  have same := r.attempted.2.2
  obtain ⟨replans, waiting⟩ := same .replans (by simp)
  refine ⟨same .arrivals (by simp), same .tracks (by simp), replans, waiting, same .job (by simp), same .gate (by simp),
    fun k => ?_⟩
  have flags : t.engine.flags = (bindingAttempt (restartCleared v)).engine.flags := r.keeps.2.2 .flags (by simp)
  rw [State.flag, flags, ← State.flag]
  exact cleared_flag (bindingAttempt_binds _).toOffers k

theorem lanes (k : LaneNo) : t.lanes[k] = s.lanes[k].restarted := by
  have first : v.lanes = s.lanes := r.reached.same.2.2 .lanes (by simp [restartParts])
  have last : t.lanes = (restartCleared v).lanes := r.attempted.2.2 .lanes (by simp)
  rw [last, restartCleared_lane, first]

/-- The record of a station before the binding attempt. -/
theorem binds (i : StationNo) : RecordBinds (restarted s i) v.stations[i] := by
  simpa [recordAfter, mem_allStations] using r.reached.station i

theorem station (i : StationNo) : StationRestarted s i t.stations[i] := by
  have last : t.stations = (bindingAttempt (restartCleared v)).stations := r.keeps.2.2 .stations (by simp)
  have offered : RecordBinds v.stations[i] t.stations[i] := by
    rw [last]
    exact (bindingAttempt_binds (restartCleared v)).station i
  exact ((r.binds i).trans offered).restarted

theorem build {i : StationNo} (busy : s.stations[i].state ≠ .idle) :
    v.builds[i] = cutBuild s i s.stations[i].orders ∧ t.builds[i] = cutBuild s i s.stations[i].orders := by
  have before : v.builds[i] = cutBuild s i s.stations[i].orders := by
    rw [r.reached.build i busy]
    exact if_pos (mem_allStations i)
  have stays : v.stations[i].state ≠ .idle := by
    rw [(r.binds i).busy fun idle => busy (restarted_idle idle)]
    exact fun idle => busy (restarted_idle idle)
  have last : t.builds = (bindingAttempt (restartCleared v)).builds := r.keeps.2.2 .builds (by simp)
  refine ⟨before, ?_⟩
  rw [last, (bindingAttempt_binds (restartCleared v)).build i stays]
  exact before

theorem lines (counts : CountsOk s) (bindings : BindingsOk s) {id : PlanId} {p : Plan} (hp : s.plan id = some p) :
    ∃ q, t.plan id = some q ∧ q.lines =
      lessBy (fun j => (allStations.map fun i => leavingOn s i s.stations[i].orders id j).sum) p.lines := by
  obtain ⟨-, -, lines⟩ := r.reached.lines counts bindings
  obtain ⟨q, hq, before⟩ := lines id p hp
  obtain ⟨q', hq', bound⟩ := (bindingAttempt_binds (restartCleared v)).plan id q hq
  have plans : t.plans.plans = (bindingAttempt (restartCleared v)).plans.plans := r.keeps.2.2 .plans (by simp)
  generalize bindingAttempt (restartCleared v) = x at hq' plans
  refine ⟨q', by rwa [State.plan, plans], ?_⟩
  rcases bound with rfl | ⟨i, -, rfl⟩ <;> exact before

theorem joins : JoinedB (allStations.flatMap (restartFrames s)) s t := by
  have sent := r.reached.emits.joined.before (r.begun.2.2 .portB (by simp)) (r.begun.2.2 .ownNode (by simp))
  have node : Part.Same s v .ownNode := r.reached.same.2.2 .ownNode (by simp [restartParts])
  have cleared := restartCleared_keeps v
  have binds := (bindingAttempt_binds (restartCleared v)).keeps
  have joined := r.joined
  generalize bindingAttempt (restartCleared v) = x at binds joined
  generalize restartCleared v = m at cleared binds
  have portB : Part.Same v x .portB := (cleared.2.2 .portB (by simp)).trans (binds.2.2 .portB (by simp))
  have node' : Part.Same v x .ownNode := (cleared.2.2 .ownNode (by simp)).trans (binds.2.2 .ownNode (by simp))
  have all := (sent.behind portB).trans joined (node.trans node')
  rwa [List.append_nil] at all

theorem reports : t.reports.queue = ((.started .restart s.link.ownNode :: allStations.flatMap (restartClosed s)).map
      (reportNow s)).filter (fun r => r.level != 0) ∧ t.reports.lost = 0 := by
  have short : (allStations.flatMap (restartClosed s)).length ≤ 8 := by
    have one : ∀ i, (restartClosed s i).length ≤ 1 := fun i => by
      unfold restartClosed
      split_ifs <;> simp
    rw [List.length_flatMap]
    refine (List.sum_le_card_nsmul _ 1 (by simpa using fun i _ => one i)).trans ?_
    rw [List.length_map]
    exact le_refl 8
  have begun : b.reports.queue.length ≤ 1 := by
    rw [r.queue]
    exact List.length_filter_le ..
  have told := r.reached.emits.told.room (by omega)
  have now : reportNow b = reportNow s := funext fun x =>
    reportNow_congr (r.begun.2.2 .levels (by simp)) (r.begun.2.2 .time (by simp)) x
  obtain ⟨queue, lost⟩ : Part.Same v t .reports := r.behind.2.2 .reports (by simp)
  rw [queue, lost, told, now, r.queue, List.map_cons, List.filter_cons]
  refine ⟨?_, r.lost⟩
  dsimp only
  rw [List.filter_cons]
  split_ifs <;> rfl

/-- With no DRAINING plan no station is bound on the way. -/
theorem fixed (none : NoneDraining s) (i : StationNo) :
    v.stations[i] = restarted s i ∧ v.builds[i] = cutBuild s i s.stations[i].orders := by
  simpa [recordAfter, buildAfter, mem_allStations] using (r.reached.still none).2 i

end RestartRun

theorem flatMap_restartClosed (s : State) (l : List StationNo) : l.flatMap (restartClosed s) =
    (l.filter fun i => s.callsOnRestart i).map fun i => closedReport i s.builds[i] s.stations[i].close := by
  induction l with
  | nil => rfl
  | cons i l ih =>
    rw [List.flatMap_cons, ih, List.filter_cons, restartClosed]
    by_cases calls : s.callsOnRestart i
    · rw [if_pos calls, if_pos (decide_eq_true calls)]
      rfl
    · rw [if_neg calls, if_neg (by simpa using calls)]
      rfl

theorem cutBuild_unordered {s : State} {i : StationNo} (orders : s.stations[i].orders = []) :
    cutBuild s i s.stations[i].orders = s.builds[i] := by
  rw [orders]
  rfl

/-- Settles O21: the stations are restarted one by one, each by its own rule and with what it sends and queues
(`Restarts`, `RestartedTo`), behind a RESPONSE that stands as if it had been placed last; the binding attempt at the end
reaches IDLE stations alone. -/
theorem restartCompletes : Obligations.RestartCompletes := by
  unfold Obligations.RestartCompletes
  intro f s h calls
  obtain ⟨b, v, t, r⟩ := restart_runs h
  obtain ⟨arrivals, tracks, replans, waiting, job, gate, flags⟩ := r.cleared
  obtain ⟨queue, lost⟩ := r.reports
  have latch : t.req.latch = false := by
    have last : t.req.latch = v.req.latch := r.behind.2.2 .latch (by simp)
    have first : v.req.latch = b.req.latch := r.reached.emits.keeps.2.2 .latch (by simp [restartParts])
    rw [last, first, r.latch]
  refine ⟨t, r.run, r.put, r.all, fun heard => ?_, ?_, lost, latch, r.sup, arrivals, tracks, replans, waiting, job, gate,
    flags, fun i => ?_, r.joins, fun counts bindings id p => r.lines counts bindings, fun k => ?_,
    restartCleared v, r.keeps, fun i => ?_, fun none i => r.fixed none i⟩
  · have started : ((reportNow s (.started .restart s.link.ownNode)).level != 0) = true := bne_iff_ne.mpr heard
    rw [queue, List.map_cons, List.filter_cons, if_pos started]
    rfl
  · rw [queue, flatMap_restartClosed]
    rfl
  · obtain ⟨⟨orders, spur, take, place⟩, faulted, awaits, exchange, rests⟩ := r.station i
    refine ⟨orders, spur, take, place, faulted, fun _ busy => (r.build busy).2, fun closing => ⟨awaits closing, ?_, ?_⟩,
      exchange, rests⟩
    · rw [(r.build (by rw [closing.1]; exact nofun)).2, cutBuild_unordered closing.2]
    · intro heard
      rw [queue, List.mem_filter]
      refine ⟨List.mem_map_of_mem (List.mem_cons_of_mem _ (List.mem_flatMap.mpr ⟨i, mem_allStations i, ?_⟩)),
        by simpa using heard⟩
      rw [restartClosed, if_pos closing]
      exact List.mem_singleton.mpr rfl
  · rw [r.lanes]
    exact Lane.restarted_shows _
  · exact ⟨(r.binds i).imp_right fun ⟨idle, bound⟩ => ⟨restarted_idle idle, bound⟩, fun busy => (r.build busy).1⟩

end Sys2Proof.Machine
end
